-- ==== Sys2Proof/Word.lean ====
section
/-! DEFINITION. The words of the module and its unit numbers (spec 00, R7, R11, R18).

Every register is a 32-bit word (R7), a tile ID is a 13-bit value (R11), a token, a line and a command
record are 64 bytes (02 Table 2.1, 10 R227, 03 R71). `Sparse` is the one shape of sparse storage: a list of
(key, value) pairs; its canonical form and its operations are in Machine/Sparse.lean. -/

namespace Sys2Proof

abbrev Byte := BitVec 8
abbrev Word := BitVec 32

/-- 64 bytes: a token's DATA, an HBM line, a command record. Byte `i` is bits `[8i+7 : 8i]`. -/
abbrev Line := BitVec 512

/-- A 48-bit device address (00, Address map). -/
abbrev Addr := BitVec 48

/-- row × 128 + logical column (R11). -/
abbrev TileId := BitVec 13

abbrev Port := Fin 2
abbrev DroverNo := Fin 16
abbrev Stack := Fin 8
abbrev FoldPort := Fin 12
abbrev IrqGroup := Fin 16

/-- Sparse storage: strictly rising keys, no entry equal to what an unlisted key reads as. -/
abbrev Sparse (α : Type) := List (Nat × α)

/-- The two grades of Table 0.1 (R1). -/
inductive Grade where
  | st70 | st68
  deriving DecidableEq, Repr

/-- The outcome of a code check: no error, a corrected error, an uncorrectable error (R34, R82, R222). -/
inductive Ecc where
  | ok | ce | ue
  deriving DecidableEq, Repr

/-- The three engines of a tile, numbered as ENG (R71). -/
inductive Engine where
  | mxe | vxe | upe
  deriving DecidableEq, Repr

/-- Who performs a register or maintenance access (00 R15, 10 Table 10.3, 20 R427). The device loader is part
of Melvor firmware. -/
inductive Agent where
  | melvor
  | port (p : Port)
  | drover (d : DroverNo)
  | smbus
  deriving DecidableEq, Repr

end Sys2Proof
end

