-- ==== Sys2Proof/Syntax.lean ====
section
/-! DEFINITION. The commands: one constructor for each row of spec/opcode_table.json, in the table's order.

The table gives its rows no fields, so the operands are the model's reading of each row's rule: the unit the step
happens in, the data that comes from outside the module, and the physical facts a step meets (the outcome of a code
check, a temperature, a power sample). What the module itself holds is never an operand: it is read from State. -/

namespace Sys2Proof

/-- The issue of one Rolia word by a tile's core (R60-R64): which tile, whether the word is offered in the cycle in which
the word before it issued (R63), and the code check of the fetched word (R82). The word itself is the one that instruction
memory holds at CORE_PC. -/
structure Issue where
  tile  : TileId
  same  : Bool
  fetch : Ecc
  deriving DecidableEq, Repr

/-- The features of a CXL.io memory request (Table 12.1): an ordinary one, or one that uses an unsupported feature: an AtomicOp,
an address marked as translated (ATS), a PASID. -/
inductive Feature where
  | plain | atomicOp | translated | pasid
  deriving DecidableEq, Repr

/-- A CXL.io memory request to a BAR: byte offset, length in bytes, the byte enables (bit i: byte i), write data
(little-endian), requester ID, EP, the feature it uses. -/
structure Tlp where
  write : Bool
  off   : Addr
  len   : Nat
  be    : Nat
  data  : Nat
  rid   : BitVec 16
  ep    : Bool
  feature : Feature := .plain
  deriving DecidableEq, Repr

/-- The CXL.mem requests that read a line (Table 12.2): MemRd, MemRdData, and MemInv, which takes no data. -/
inductive MemOp where
  | rd | rdData | inv
  deriving DecidableEq, Repr

/-- MetaValue of a CXL.mem read (R275). -/
inductive MetaValue where
  | invalid | any | shared
  deriving DecidableEq, Repr

/-- Parties that make line accesses, in the numbering of Table 12.5. -/
inductive Requester where
  | drover (d : DroverNo)
  | foldPort (p : FoldPort)
  | host (p : Port)
  | melvor
  | snapshot
  deriving DecidableEq, Repr

/-- One access to a 64-byte line: a read, or a write of the bytes that `mask` selects (R229, R230). -/
structure LineReq where
  req   : Requester
  addr  : Addr
  write : Bool
  mask  : BitVec 64
  data  : Line
  deriving DecidableEq, Repr

/-- How a device-issued request to host memory ended (R273, R278). -/
inductive HostEnd where
  | data (d : Nat)
  | go
  | unsupported | abort | ep | timeout
  deriving DecidableEq, Repr

/-- What the write-back of a step journal meets (R376, R377, Table 17.5): nothing; a journal index entry, or a journal
page of the host tier, that reads as uncorrectable; another fault, such as a host error on a page written. -/
inductive WriteBack where
  | ok | lost | fault
  deriving DecidableEq, Repr

/-- The kinds of host snoop of a line (R274): a snoop for data and a snoop that invalidates. -/
inductive Snoop where
  | data | inv | cur
  deriving DecidableEq, Repr

/-- The facts of a 100 µs window that R332 tests: UPE work in at least 25% of the tiles for half the window; MXE array
cycles below 10% of peak; at least half of the MXE cycles paired or with a T = 1 operand. -/
structure WindowFacts where
  upeBusy  : Bool
  mxeLow   : Bool
  mxePairT : Bool
  deriving DecidableEq, Repr

/-- The SPDM transports (R393): the DOE mailbox of a port, and MCTP over SMBus. -/
inductive Transport where
  | doe (p : Port)
  | smbus
  deriving DecidableEq, Repr

/-- One received flit (R305, Table 14.1): the outcome of the FEC, its header, the four 64-byte lines of its payload, its
CRC, and the TAG of the token in each slot, to which the flit format gives no place. DESIGN CHOICE, unsafe:
notes/assumptions/11.md. -/
structure Flit where
  fecBad  : Bool
  fecSym  : Nat
  hdr     : BitVec 64
  payload : List Line
  crc     : BitVec 64
  tags    : List Byte
  deriving DecidableEq, Repr

/-- A fold link between two modules (R309, R312): rank and port of each end, and the version at which it runs. -/
structure GLink where
  a   : Nat
  ap  : Nat
  b   : Nat
  bp  : Nat
  ver : Nat
  deriving DecidableEq, Repr

/-- A cut stream of a partition set (R192): the ranks of sender and receiver, and the CUT number at each. -/
structure GCut where
  src   : Nat
  dst   : Nat
  cut   : Nat
  inCut : Nat
  deriving DecidableEq, Repr

/-- The names of a frame on an exchange stream (R314, Table 14.3): object, frame number, step, micro-batch, layer
entry, exponent, elements of the object, the frame's element codes and the scales of its blocks. -/
structure Frame where
  obj    : Nat
  frame  : Nat
  step   : Word
  micro  : Nat
  lidx   : Nat
  eg     : Int
  dfmt   : Nat
  rx     : Nat
  nelem  : Nat
  layerEnd : Bool
  elems  : List (BitVec 16)
  scales : List Byte
  deriving DecidableEq, Repr

/-- A group control message's actions (Table 14.5, type 0x16). -/
inductive Action where
  | pause | resume | stop | stopNow
  deriving DecidableEq, Repr

/-- What stage 1 finds: the BOOT_ERR of a step of Table 18.2 that fails for a reason of its own (the self-check, the PUF,
a flash read), 0 for none, and the straps SLOT and BOARD (R421). -/
structure BootFacts where
  err  : BitVec 3
  slot : BitVec 3
  board : BitVec 9
  deriving DecidableEq, Repr

/-- The commands of spec/opcode_table.json. -/
inductive Instr where
  -- 02, 08, 15, 10: routers, islands, tile windows
  | slot (t : TileId) (ret : Option (Fin 5)) (heads : List (Fin 32 × Ecc))
  | entryAdvance (t : TileId)
  | tokenArrival (t : TileId) (inp : Fin 5) (chk : Ecc)
  | noProgress (t : TileId)
  | meshWdLimit (w : Agent) (t : TileId) (v : Word)
  | clrStall (w : Agent) (t : TileId)
  | clrCe (w : Agent) (t : TileId)
  | faultTreeReport (row : Fin 64)
  | foldFreeze
  | droopDetect (t : TileId) (cycles : Nat)
  | stretchStageEnd (t : TileId) (cycles : Nat)
  | tileMaintWrite (w : Agent) (a : Addr) (v : Word)
  | registerWrite (w : Agent) (a : Addr) (bytes : Nat) (v : BitVec 64)
  -- 03: the Rolia words and their late retirements
  | alu (i : Issue)
  | addi (i : Issue)
  | andi (i : Issue)
  | ori (i : Issue)
  | xori (i : Issue)
  | slli (i : Issue)
  | srli (i : Issue)
  | srai (i : Issue)
  | lui (i : Issue)
  | cmp (i : Issue)
  | cmpi (i : Issue)
  | plog (i : Issue)
  | ld (i : Issue) (e : Ecc)
  | st (i : Issue)
  | lda (i : Issue) (e : Ecc)
  | sta (i : Issue)
  | br (i : Issue)
  | jr (i : Issue)
  | brl (i : Issue)
  | send (i : Issue) (e : Ecc)
  | sendUnblock (t : TileId) (e : Ecc)
  | recv (i : Issue) (chk : Ecc)
  | recvUnblock (t : TileId) (chk : Ecc)
  | enq (i : Issue) (e : Ecc)
  | enqUnblock (t : TileId) (e : Ecc)
  | waite (i : Issue)
  | waiteRetire (t : TileId)
  | summ (i : Issue)
  | summUnblock (t : TileId)
  | endOp (i : Issue)
  | trap (i : Issue)
  | unlistedOpWord (i : Issue)
  | tilePartComplete (t : TileId)
  | clrCnt (w : Agent) (t : TileId)
  | depWaitEnd (t : TileId) (eng : Engine) (wm am : Ecc)
  | engineComplete (t : TileId) (eng : Engine)
  -- 05, 06, 07, 09: the engines
  | matmul (t : TileId)
  | accFlush (t : TileId)
  | accDrop (t : TileId)
  | pairPartnerTake (t : TileId)
  | mxeRowBlock (t : TileId) (wm am : Ecc)
  | slotWaitEnd (t : TileId)
  | vmap (t : TileId)
  | vstep (t : TileId)
  | setvl (t : TileId)
  | tload (t : TileId)
  | vxeVector (t : TileId) (wm tab : Ecc)
  | ublk (t : TileId)
  | upart (t : TileId)
  | uapply (t : TileId)
  | urows (t : TileId)
  | upeUnit (t : TileId) (wm : Ecc)
  -- 11: drovers
  | openReq (d : DroverNo) (row : Fin 8) (lane : Fin 2) (chk store : Ecc)
  | closeReq (d : DroverNo) (row : Fin 8) (lane : Fin 2) (chk : Ecc)
  | xferReq (d : DroverNo) (row : Fin 8) (lane : Fin 2) (chk : Ecc)
  | goReq (d : DroverNo) (row : Fin 8) (lane : Fin 2) (chk : Ecc)
  | cancelReq (d : DroverNo) (row : Fin 8) (lane : Fin 2) (chk : Ecc)
  | dataTokenTake (d : DroverNo) (row : Fin 8) (lane : Fin 2) (ch : Fin 8) (chk store : Ecc)
  | baleIssue (d : DroverNo) (q : Fin 32)
  | baleDeliver (d : DroverNo) (q : Fin 32) (buf : Ecc)
  | baleWrite (d : DroverNo) (q : Fin 32) (buf : Ecc)
  | xferComplete (d : DroverNo) (q : Fin 32)
  | sideGateIssue (d : DroverNo) (q : Fin 32)
  | releaseHoldEnd (d : DroverNo) (q : Fin 32)
  | deadlineMiss (d : DroverNo) (q : Fin 32)
  | timeout (d : DroverNo) (q : Fin 32) (row : Fin 8) (lane : Fin 2)
  | droverClrCnt (w : Agent) (d : DroverNo)
  -- 10, 17: HBM controllers and scrubs
  | hbmLineAccess (k : Stack) (reach : List LineReq) (err : Nat)
  | clrErr (w : Agent) (k : Stack)
  | clrTraffic (w : Agent) (k : Stack)
  | hbmScrubRead (k : Stack) (line : Addr) (err : Nat)
  | tileScrubRead (t : TileId) (acc : Bool) (word : Nat) (chk : Ecc)
  | tileScrubRewrite (t : TileId)
  -- 12: host ports
  | bar0Access (p : Port) (r : Tlp)
  | bar2Access (p : Port) (r : Tlp)
  | bar4Access (p : Port) (r : Tlp) (chk : Ecc)
  | memRd (p : Port) (k : MemOp) (a : Addr) (m : MetaValue) (err : Nat)
  | memWr (p : Port) (a : Addr) (mask : BitVec 64) (d : Line) (poison : Bool)
  | pageFlip (p : Port) (page : Nat) (wb : List (Nat × Line))
  | hostSnoop (p : Port) (hpa : Nat) (k : Snoop)
  | portClrCnt (w : Agent) (p : Port)
  | clrFault (w : Agent) (p : Port)
  | perstAssert (p : Port)
  | dlDownTimeout (p : Port)
  | d3hotEntry (p : Port)
  | flr (p : Port)
  | perstDeassert (p : Port) (refclk : Bool)
  | dlActiveReturn (p : Port) (speed : BitVec 3) (width : BitVec 5)
  | d0Entry (p : Port)
  | flrComplete (p : Port)
  -- 13: mailboxes and MMI commands
  | enable (w : Agent) (p : Port) (cmdCoh cplCoh : Bool)
  | disable (w : Agent) (p : Port)
  | cmdDoorbell (w : Agent) (p : Port) (v : Word)
  | cplDoorbell (w : Agent) (p : Port) (v : Word)
  | entryFetch (p : Port) (e : Line) (same : Bool) (mem : Ecc)
  | refetch (p : Port) (e : Line) (same : Bool)
  | mailboxClrCnt (w : Agent) (p : Port)
  | hello (p : Port)
  | nop (p : Port)
  | claim (p : Port)
  | release (p : Port)
  | handover (p : Port)
  | handoverGrant (p : Port)
  | handoverExpiry
  | status (p : Port)
  | counters (p : Port) (hostErr : Bool)
  | faultReport (p : Port) (hostErr : Bool)
  | regionAdd (p : Port)
  | regionDel (p : Port)
  | pwinSet (p : Port)
  | imageStage (p : Port)
  | imageActivate (p : Port)
  | partitionStart (allActivated : Bool) (indicesDistinct : Bool)
  | jobStart (p : Port) (desc : List Byte) (hostErr : Bool)
  | jobPause (p : Port)
  | jobResume (p : Port) (found : List (Addr × Nat)) (w : WriteBack)
  | jobStop (p : Port)
  | place (p : Port)
  | group (p : Port)
  -- 14: fold links and the exchange
  | flitReceive (f : FoldPort) (x : Flit)
  | replayTimeout (f : FoldPort)
  | ackTimer (f : FoldPort)
  | fecLockLoss (f : FoldPort) (lane : Fin 8)
  | retrain (w : Agent) (f : FoldPort)
  | retrainEnd (f : FoldPort) (badLanes : BitVec 8) (over10ms : Bool)
  | holdDown (w : Agent) (f : FoldPort) (v : Bool)
  | linkHello (f : FoldPort) (version : BitVec 2) (rank : BitVec 12) (pport : BitVec 4) (ready : Bool)
  | credit (f : FoldPort) (stream : Byte) (n : BitVec 16)
  | join (f : FoldPort) (rank : BitVec 12) (kind : Byte) (part : BitVec 16) (key : BitVec 64) (modules : BitVec 16)
  | groupFormed (links : List GLink) (cuts : List GCut)
  | joinTimeout
  | reduceFrame (f : FoldPort) (level : Fin 2) (src : Nat) (x : Frame)
  | combine (level : Fin 2) (obj frame micro : Nat) (store : Ecc)
  | gatherFrame (f : FoldPort) (src : Nat) (x : Frame) (store : Ecc)
  | exchTimeout
  | agreeUpSend
  | agreeUp (step : Word) (gnv gsat : Bool) (covered : Nat)
  | agreeDown (step : Word) (gnv gsat : Bool)
  | doneSend
  | doneMsg (step : Word) (covered : Nat)
  | commit (step : Word) (store : Ecc)
  | freeze (down : Bool) (origin : BitVec 16) (step : Word) (cause : Byte)
  | control (down : Bool) (act : Action) (origin : BitVec 16) (step : Word)
  | foldPortClrCnt (w : Agent) (f : FoldPort)
  | groupClrCnt (w : Agent)
  -- 15: power controller
  | phaseWindow (x : WindowFacts)
  | pointChangeStart
  | slewEnd
  | relockEnd
  | droopWaitEnd
  | powerEval
  | inputSample (watts : Nat) (valid : Bool)
  | calibration
  | activityWindowEnd (t : TileId) (ties : List (Fin 16 × List (Fin 5)))
  | thermalEval (die : List (BitVec 8 × Bool)) (hbm : List (BitVec 8))
  | nightEntry
  | nightReq (w : Agent) (v : Bool)
  | nightIdleExpiry
  | powerClrCnt (w : Agent)
  -- 16: interrupt controller
  | messageSend (dest : Fin 3)
  | holdoffExpiry (g : IrqGroup)
  | eoi (w : Agent) (g : IrqGroup)
  -- `same`: the sources of `bits` that the hardware fires in the cycle of the write; that fire is a command before this one
  | setSrc (w : Agent) (g : IrqGroup) (bits same : BitVec 16)
  | pend (w : Agent) (g : IrqGroup) (bits : BitVec 16)
  | route (w : Agent) (g : IrqGroup) (r : BitVec 3) (holdoff : BitVec 16)
  | msixUnmask (p : Port) (vec : Option (Fin 16))
  | irqClrCnt (w : Agent)
  -- 13, 17: reliability and snapshots
  | lockstepMismatch
  | journalCopy (page : Nat)
  | snapshotComplete
  | snapStart (w : Agent)
  | abort (w : Agent)
  | restore (w : Agent) (hdr : List Byte) (digestOk : Bool)
  | reliabilityClrCnt (w : Agent)
  | snapshotClrCnt (w : Agent)
  -- 18: security
  | auth (p : Port) (flashErr : Bool)
  | drop (p : Port) (flashErr : Bool)
  | enroll (p : Port) (flashErr : Bool)
  | replace (p : Port) (flashErr : Bool)
  | clearKey (p : Port) (flashErr : Bool)
  | svnCommit (p : Port) (flashErr : Bool)
  | securityClrCnt (w : Agent)
  | regionTableWrite (w : Agent) (e : Fin 64) (word : Fin 3) (v : Word)
  | clearingEnd
  | tileMapWrite (w : Agent) (i : Fin 256) (v : Word)
  | getVersion (x : Transport)
  | getCapabilities (x : Transport)
  | negotiateAlgorithms (x : Transport) (mldsa shake : Bool)
  | getDigests (x : Transport)
  | getCertificate (x : Transport) (slot : Byte) (off len : Nat)
  | challenge (x : Transport) (slot : Byte) (nonce : BitVec 256)
  | getMeasurements (x : Transport) (index : Byte) (nonce : BitVec 256)
  -- 19, 20: power-up, resets, sideband
  | inputInRange
  | powerGood
  | romExit (b : BootFacts)
  | initEnd
  | fwReady
  | resetAssert
  | rstReq (w : Agent) (key : BitVec 16)
  | tripClr (w : Agent)
  | enLow
  | inputOutOfRange (below : Bool)
  | powerStageOff
  | smbSetPointer (v : Word) (pecOk : Bool)
  | smbReadRegister
  | smbWriteRegister (v : Word) (pecOk : Bool)
  | mctp (msg : List Byte)
  | alertResponse
  | bypass
  | idcode
  | samplePreload
  | extest
  | extestPulse
  | extestTrain
  | clamp
  | highz
  | erase (w : Agent) (tied : List Agent)
  | program (w : Agent)
  | verify (w : Agent)
  | flashComplete (err : Bool)
  | holderTimeout
  | configurationRequest (p : Port) (write : Bool) (reg : BitVec 12) (v : Word)
  | hostCompletion (x : Requester) (q : Fin 32) (old : Bool) (r : HostEnd)
  | resetRelease
  deriving DecidableEq, Repr

end Sys2Proof
end

