-- ==== Sys2Proof/Machine/Sparse.lean ====
section
/-! DEFINITION. Sparse storage and byte access, and the sorting and square root that other files use. One canonical form:
strictly rising keys, no entry equal to what an unlisted key reads as (`d`). Multi-byte fields are little-endian (R7,
R84). -/

namespace Sys2Proof.Machine

/-- What key `a` reads as: the listed value, or `d`. -/
def Sparse.get {α : Type} (d : α) : Sparse α → Nat → α
  | [], _ => d
  | (k, v) :: r, a => if a = k then v else Sparse.get d r a

/-- Put `v` at key `a`, which no entry has, before the first larger key. -/
def Sparse.ins {α : Type} : Sparse α → Nat → α → Sparse α
  | [], a, v => [(a, v)]
  | (k, w) :: r, a, v => if a < k then (a, v) :: (k, w) :: r else (k, w) :: Sparse.ins r a v

/-- Write `v` at key `a`, keeping the canonical form: the value an unlisted key reads as is not listed. -/
def Sparse.set {α : Type} [DecidableEq α] (d : α) (m : Sparse α) (a : Nat) (v : α) : Sparse α :=
  let m := m.filter fun x => x.1 ≠ a
  if v = d then m else Sparse.ins m a v

/-- Rewrite the value at key `a` by `f`. -/
def Sparse.mod {α : Type} [DecidableEq α] (d : α) (m : Sparse α) (a : Nat) (f : α → α) : Sparse α :=
  Sparse.set d m a (f (Sparse.get d m a))

/-- The canonical form. -/
def Sparse.wf {α : Type} [DecidableEq α] (d : α) (m : Sparse α) : Bool :=
  decide (m.Pairwise fun x y => x.1 < y.1) && m.all fun x => x.2 != d

/-- The `n` bytes from byte `a` up, as a little-endian number; unlisted bytes read 0. -/
def readBytes (m : Sparse Byte) (a : Nat) : Nat → Nat
  | 0 => 0
  | n + 1 => (Sparse.get 0 m a).toNat + 256 * readBytes m (a + 1) n

/-- Write the low `n` bytes of `v` from byte `a` up, little-endian. -/
def writeBytes (m : Sparse Byte) (a : Nat) (v : Nat) : Nat → Sparse Byte
  | 0 => m
  | n + 1 => writeBytes (Sparse.set 0 m a (BitVec.ofNat 8 v)) (a + 1) (v / 256) n

/-- Write the bytes of `v` whose mask bit is 1, from byte `a` up. -/
def writeMasked (m : Sparse Byte) (a : Nat) (mask v : Nat) : Nat → Sparse Byte
  | 0 => m
  | n + 1 =>
    writeMasked (if mask % 2 = 1 then Sparse.set 0 m a (BitVec.ofNat 8 v) else m) (a + 1) (mask / 2) (v / 256) n

/-- A list of bytes as a little-endian number. -/
def leNat : List Byte → Nat
  | [] => 0
  | b :: r => b.toNat + 256 * leNat r

/-- The low `n` bytes of a number, least significant first. -/
def toBytes (v : Nat) : Nat → List Byte
  | 0 => []
  | n + 1 => BitVec.ofNat 8 v :: toBytes (v / 256) n

/-- Bits `[hi : lo]` of a number. -/
def bits (v : Nat) (hi lo : Nat) : Nat := v / 2 ^ lo % 2 ^ (hi + 1 - lo)

/-- Bit `i` of a number. -/
def bit (v : Nat) (i : Nat) : Bool := v / 2 ^ i % 2 = 1

/-- A number of `n` bits read as two's complement. -/
def signed (n : Nat) (v : Nat) : Int := if v < 2 ^ (n - 1) then (v : Int) else (v : Int) - 2 ^ n

/-- An integer as `n` bits of two's complement. -/
def unsigned (n : Nat) (x : Int) : Nat := (x % (2 ^ n : Nat)).toNat

/-- Bytes `b … b + n − 1` of a 64-byte record, as a little-endian number. -/
def Line.bytes (r : Line) (b n : Nat) : Nat := r.toNat / 2 ^ (8 * b) % 2 ^ (8 * n)

/-- A counter that holds at its maximum value instead of wrapping (R55, R81, R194, …). -/
def satAdd {n : Nat} (x : BitVec n) (k : Nat) : BitVec n := BitVec.ofNat n (min (x.toNat + k) (2 ^ n - 1))

/-- ⌈a / b⌉. -/
def cdiv (a b : Nat) : Nat := (a + b - 1) / b

/-- A Bool as a bit. -/
def b2n (b : Bool) : Nat := if b then 1 else 0

/-- Put `x` before the first element that `le` lets it precede. -/
def insertBy {α : Type} (le : α → α → Bool) (x : α) : List α → List α
  | [] => [x]
  | y :: r => if le x y then x :: y :: r else y :: insertBy le x r

/-- A list in the order of `le`; equal elements keep their order. -/
def sortBy {α : Type} (le : α → α → Bool) (l : List α) : List α := l.foldr (insertBy le) []

/-- The largest `r + k` with `(r + k) ^ 2 ≤ n` and `k < 2 ^ i`, bit by bit from the top. -/
def rootFrom (n : Nat) : Nat → Nat → Nat
  | 0, r => r
  | i + 1, r => rootFrom n i (if (r + 2 ^ i) * (r + 2 ^ i) ≤ n then r + 2 ^ i else r)

/-- The integer square root, rounded down. -/
def floorRoot (n : Nat) : Nat := rootFrom n (Nat.log2 n / 2 + 1) 0

end Sys2Proof.Machine
end

