-- ==== Sys2Proof/Config.lean ====
section
/-! DEFINITION. What an implementation fixes, and the free values. Every constant here is opaque: nothing in
Lean can evaluate it, so a statement holds whatever its value. ML-DSA-65, which the spec names without giving (spec 18), is
uninterpreted in the same way (notes/assumptions/3.md). -/

namespace Sys2Proof

/-- ML-DSA-65 verification (FIPS 204, spec 18 Table 18.1): key, context string, message, signature.
PRESUMED, unsafe: notes/assumptions/3.md. -/
opaque Config.mldsaVerify : List Byte → String → List Byte → List Byte → Bool

/-- ML-DSA-65 key generation from a 32-byte seed, and signing: seed, context string, message (FIPS 204, spec 18 R388).
PRESUMED, unsafe: notes/assumptions/3.md. -/
opaque Config.mldsaPublic : List Byte → List Byte
opaque Config.mldsaSign : List Byte → String → List Byte → List Byte

/-- The signature of an SPDM response with the alias key of a seed (R388, R393): Table 18.1 gives it no context string.
PRESUMED, unsafe: notes/assumptions/3.md. -/
opaque Config.spdmSign : List Byte → List Byte → List Byte

/-- The free value number `n`, at any width up to 512 bits (notes/assumptions/2.md). -/
opaque Config.freeValue : Nat → Line

/-- The required E of a command whose output is binary32, of its record and of the words of each row (R96 gives it no
block). DESIGN CHOICE, safe: notes/assumptions/15.md. -/
opaque Config.exportScale : Line → List Nat → Byte

/-- The device secret S that the fuzzy extractor recovers from the part's PUF SRAM with the helper data (R387): no agent on the
module but the ROM holds it. DESIGN CHOICE, safe: notes/assumptions/93.md. -/
opaque Config.deviceSecret : List Byte → BitVec 256

/-- The fields of the signed device record (R389). `defects` and `spares`: per row, the physical columns not exposed, by
their marks; `leak`: the coefficients of P_leak(T). -/
structure DeviceRecord where
  serial    : BitVec 128 := 0
  grade     : Grade := .st70
  subsystem : Word := 0
  defects   : Sparse (List Nat) := []
  spares    : Sparse (List Nat) := []
  dawnMv    : Nat := 600
  duskMv    : Nat := 650
  leak      : List Int := []
  helper    : List Byte := []
  idCert    : List Byte := []
  issCert   : List Byte := []
  signature : List Byte := []
  deriving DecidableEq, Repr

/-- The bytes of the record that are signed and measured: the spec gives no encoding. The key of an issuing certificate, where
the certificate verifies against the root key digest held in ROM (R387, X.509). DESIGN CHOICE, safe:
notes/assumptions/93.md. -/
opaque Config.recordBytes : DeviceRecord → List Byte
opaque Config.issuingKey : List Byte → Option (List Byte)

/-- The digest of the boot ROM (Table 18.5), the Orovovan firmware key (Table 18.1). DESIGN CHOICE, safe:
notes/assumptions/63.md. -/
opaque Config.romDigest : Line
opaque Config.firmwareKey : List Byte

/-- What the pages of a firmware slot hold as an image: its SVN, its header and body, its signature (R391); the spec gives the
image no layout. DESIGN CHOICE, safe: notes/assumptions/93.md. -/
opaque Config.slotImage : Sparse (List Byte) → Option (BitVec 16 × List Byte × List Byte)

/-- What slot A holds as the part leaves manufacture. DESIGN CHOICE, unsafe: notes/assumptions/5.md. -/
opaque Config.factorySlot : Sparse (List Byte)

/-- The data of the replay-protected area in the form that its tag covers (R390): MIN_SVN, BOOT_COUNT, operator key, service
record. DESIGN CHOICE, safe: notes/assumptions/93.md. -/
opaque Config.areaBytes : BitVec 16 → Word → Option (List Byte) → List Nat → List Byte

/-- The alias certificate before its signature, of the alias public key and measurement 2 (R393, X.509).
DESIGN CHOICE, safe: notes/assumptions/93.md. -/
opaque Config.aliasCert : List Byte → Line → List Byte

/-- Orovovan's PCIe Vendor ID (Table 12.1): the spec gives no number. DESIGN CHOICE, safe: notes/assumptions/63.md. -/
opaque Config.vendorId : BitVec 16

/-- Orovovan's manufacturer code and the silicon revision of IDCODE (R429). -/
opaque Config.manufacturerCode : BitVec 11
opaque Config.siliconRevision : BitVec 4

/-- Boot ROM version, firmware version (Table 18.6, Table 13.1): the spec gives no number. -/
opaque Config.romVersion : Byte
opaque Config.firmwareVersion : Word

/-- P_leak(T) (R336), in milliwatts, from the coefficients of the signed device record (R389) and the die sensor readings:
the spec gives no formula. DESIGN CHOICE, safe: notes/assumptions/47.md. -/
opaque Config.leakPower : List Int → List Byte → Nat

/-- P_hbm from the lines counted in 10 µs, the shares of P_serdes of a fold link and of a host link that is up, P_mgmt
(R336), in milliwatts: the spec gives no figures. -/
opaque Config.hbmPower : Nat → Nat
opaque Config.foldLinkPower : Nat
opaque Config.hostLinkPower : Nat
opaque Config.mgmtPower : Nat

/-- The SPDM response bytes of the messages whose content the spec leaves to DSP0274 (R393): the request
code and the request bytes give the response. -/
opaque Config.spdmResponse : Nat → List Byte → List Byte

/-- MCTP messages other than SPDM (DSP0237, R427): the response bytes. -/
opaque Config.mctpResponse : List Byte → List Byte

/-- The digest of the world configuration (region table, tile map, SECURE bits) and the digest of MIN_SVN and the
operator key that extend measurements 6 and 3 (R392): the spec gives no encoding of what is digested. -/
opaque Config.worldDigest : List Nat → Line
opaque Config.policyDigest : Nat → List Byte → Line

/-- DW numbers of the MSI-X Message Control word and of the CXL Viral_Enable bit in configuration space, and the bits of
a configuration DW that a host may write (PCI Express and CXL specifications): the spec gives no layout. -/
opaque Config.msixControl : Nat
opaque Config.viralControl : Nat

/-- DW numbers of the HDM decoder's control, of the first word of the vendor headers of the three DVSECs (Table 12.2), and
of the first of the four registers of the DOE mailbox (Table 12.1), in configuration space: the spec gives no place.
PRESUMED, unsafe: notes/assumptions/86.md. -/
opaque Config.hdmControl : Nat
opaque Config.dvsecAt : Fin 3 → Nat
opaque Config.doeBase : Nat

/-- DW numbers of further registers of configuration space: the Device Capabilities register of the PCI Express capability, the
capability register of Advanced Error Reporting, the power-management control and status register, the first register of the CXL
RAS capability (Tables 12.1 and 12.2): the spec gives no place. PRESUMED, unsafe: notes/assumptions/98.md. -/
opaque Config.pcieCap : Nat
opaque Config.aerCap : Nat
opaque Config.pmCsr : Nat
opaque Config.cxlRas : Nat

/-- The bits of a configuration word that a host may write, of the words that Tables 12.1 and 12.2 do not fix. -/
opaque Config.configMask : Port → Nat → Word

/-- Configuration-space words beyond those Table 12.1 fixes (PCI Express Base Specification). -/
opaque Config.configWord : Port → Nat → Word

end Sys2Proof
end

