-- ==== Sys2Proof/Machine/Shake.lean ====
section
/-! DEFINITION. SHAKE256, which the spec names by its standard, FIPS 202 (spec 08, 13, 18): the Keccak permutation of 1,600
bits on 25 lanes of 64 bits, lane 5y + x at (x, y), and the sponge with a rate of 136 bytes. PRESUMED from FIPS 202
(notes/assumptions/3.md). -/

namespace Sys2Proof.Machine

/-- A lane turned left by `n`. -/
def rotLane (x n : Nat) : Nat := (x <<< n ||| x >>> (64 - n)) % 2 ^ 64

/-- The walk of rho through `n` lanes from its `t`-th step at (x, y): the turn of each lane it meets grows as the triangular
numbers. -/
def rhoWalk (x y t : Nat) : Nat → List (Nat × Nat)
  | 0 => []
  | n + 1 => (5 * y + x, (t + 1) * (t + 2) / 2 % 64) :: rhoWalk y ((2 * x + 3 * y) % 5) (t + 1) n

/-- The turn of each lane (FIPS 202, rho): lane (0, 0), which the walk does not meet, is not turned. -/
def keccakTurns : List Nat := (List.range 25).map fun j => ((rhoWalk 1 0 0 24).lookup j).getD 0

/-- The shift register of iota after `t` steps: 8 bits, with x^8 + x^6 + x^5 + x^4 + 1. -/
def iotaRegister : Nat → Nat
  | 0 => 1
  | t + 1 =>
    let r := 2 * iotaRegister t
    if r < 256 then r else r ^^^ 0x171

/-- The constant of a round (FIPS 202, iota): bit 2^j − 1 is the register's low bit after 7 × round + j steps. -/
def keccakConstant (round : Nat) : Nat :=
  ((List.range 7).map fun j => iotaRegister (7 * round + j) % 2 * 2 ^ (2 ^ j - 1)).sum

/-- Every column's parity, folded into its neighbours (theta). -/
def keccakTheta (a : List Nat) : List Nat :=
  let c := (List.range 5).map fun x =>
    a.getD x 0 ^^^ a.getD (x + 5) 0 ^^^ a.getD (x + 10) 0 ^^^ a.getD (x + 15) 0 ^^^ a.getD (x + 20) 0
  (List.range 25).map fun i => a.getD i 0 ^^^ c.getD ((i + 4) % 5) 0 ^^^ rotLane (c.getD ((i + 1) % 5) 0) 1

/-- Every lane turned and moved (rho, pi). -/
def keccakRhoPi (a : List Nat) : List Nat :=
  (List.range 25).map fun i =>
    let j := (i % 5 + 3 * (i / 5)) % 5 + 5 * (i % 5)
    rotLane (a.getD j 0) (keccakTurns.getD j 0)

/-- Every row combined (chi), and the round's constant (iota). -/
def keccakChi (a : List Nat) (rc : Nat) : List Nat :=
  (List.range 25).map fun i =>
    let at_ (k : Nat) := a.getD (i / 5 * 5 + (i + k) % 5) 0
    at_ 0 ^^^ ((2 ^ 64 - 1 - at_ 1) &&& at_ 2) ^^^ (if i = 0 then rc else 0)

/-- Keccak-f[1600]. -/
def keccakF (a : List Nat) : List Nat :=
  (List.range 24).foldl (fun a round => keccakChi (keccakRhoPi (keccakTheta a)) (keccakConstant round)) a

/-- A block of 17 lanes is taken in. -/
def keccakBlock (a : List Nat) (l : List Byte) : List Nat :=
  keccakF ((List.range 25).map fun i => a.getD i 0 ^^^ (if i < 17 then leNat ((l.drop (8 * i)).take 8) else 0))

/-- Take in a padded message, block by block. -/
def keccakTake (a : List Nat) (l : List Byte) : Nat → List Nat
  | 0 => a
  | n + 1 => keccakTake (keccakBlock a l) (l.drop 136) n

/-- The first 136 bytes of a state, and of the states that follow it. -/
def keccakGive (a : List Nat) : Nat → List Byte
  | 0 => []
  | n + 1 => ((a.take 17).flatMap fun v => toBytes v 8) ++ keccakGive (keccakF a) n

/-- The message with its suffix and padding: whole blocks of 136 bytes. -/
def shakePad (l : List Byte) : List Byte :=
  let z := 135 - l.length % 136
  if z = 0 then l ++ [0x9F] else l ++ [0x1F] ++ List.replicate (z - 1) 0 ++ [0x80]

/-- SHAKE256 of a list of bytes, with `n` bytes of output, as a little-endian number. -/
def shake256 (l : List Byte) (n : Nat) : Nat :=
  let a := keccakTake (List.replicate 25 0) (shakePad l) (l.length / 136 + 1)
  leNat ((keccakGive a (cdiv n 136)).take n)

end Sys2Proof.Machine
end

