-- ==== Sys2Proof/Machine/Keys.lean ====
section
/-! DEFINITION. The keys of Table 18.3 and the tag of the replay-protected area (spec 18, R388, R390). -/

namespace Sys2Proof.Machine

/-- The bytes of an ASCII label. -/
def ascii (l : String) : List Byte := l.toList.map fun c => BitVec.ofNat 8 c.toNat

/-- A key of Table 18.3: SHAKE256 over the label, S, and what follows it, with 32 bytes of output. -/
def deriveKey (label : String) (secret : BitVec 256) (more : List Byte) : List Byte :=
  toBytes (shake256 (ascii label ++ toBytes secret.toNat 32 ++ more) 32) 32

/-- The tag that a write of the replay-protected area stores: SHAKE256 over the replay key, the counter and the data. -/
def areaTag (key : List Byte) (counter : BitVec 64) (minSvn : BitVec 16) (boots : Word) (op : Option (List Byte))
    (service : List Nat) : BitVec 256 :=
  BitVec.ofNat 256 (shake256 (key ++ toBytes counter.toNat 8 ++ Config.areaBytes minSvn boots op service) 32)

end Sys2Proof.Machine
end

