-- ==== Sys2Proof/Machine/State.lean ====
section
/-! DEFINITION. The state of the module: every register, memory, queue, buffer, counter, mode and pin that the
spec gives it, as plain data, and the state right after reset. Each field's comment names the rule of spec/ that
gives it; the reset values stand in the field defaults (a value marked with a log entry is the model's own).

Sparse storage (`Sparse`) holds memories, register files and per-unit records; what an unlisted key reads as is
said at the field. -/

namespace Sys2Proof.Machine

/-! ## Tiles (02, 03, 05, 07, 08) -/

/-- A token: DATA and TAG (Table 2.1). -/
structure Token where
  data : Line
  tag  : Byte
  deriving DecidableEq, Repr

/-- One stream queue (R173, Table 8.8): QCFG word (DEPTH [5:0], CONS [7:6], CIDX [9:8]), the tokens held (head first),
QACCEPT and QDISCARD. -/
structure StreamQueue where
  cfg     : Word := 0
  toks    : List Token := []
  accept  : Word := 0
  discard : Word := 0
  deriving DecidableEq, Repr

/-- One crook (R176, R177, Table 8.8): CCFG0-CCFG2, CCNT, the copies a REPEAT has presented of its data token and the
count it took with the first copy, CPRES and CNULL. -/
structure Crook where
  cfg0   : Word := 0
  cfg1   : Word := 0
  cfg2   : Word := 0
  ccnt   : BitVec 16 := 0
  copies : Nat := 0
  count  : Nat := 0
  pres   : Word := 0
  nulls  : Word := 0
  deriving DecidableEq, Repr

/-- The first mesh fault (R51, Table 2.8). -/
structure MeshFault where
  code     : BitVec 4
  port     : BitVec 3
  claimant : BitVec 3
  entry    : BitVec 9
  slot     : BitVec 64
  deriving DecidableEq, Repr

/-- A tile's router (R39-R55, R173-R194). -/
structure Router where
  /-- schedule memory, entry → 128 bits; unlisted reads 0 (R39, R226) -/
  sched   : Sparse (BitVec 128) := []
  /-- slot counter (Table 2.8) -/
  slotCnt : BitVec 64 := 0
  /-- ENTRY and REMAIN (Table 2.8) -/
  entry   : BitVec 9 := 0
  remain  : BitVec 16 := 0
  /-- the entry's slots are used up and ENTRY_ADVANCE is due (R39) -/
  used    : Bool := false
  halted  : Bool := false
  frozen  : Bool := false
  /-- a core fault has stopped the tile, and the router stops when the current slot completes (R78) -/
  last    : Bool := false
  stalled : Bool := false
  held    : Bool := false
  /-- ROOM credits per output 0-4; unlisted reads 0 (R40) -/
  room    : Sparse Nat := []
  /-- CREDIT per 8 × output + queue; unlisted reads 0 (Table 8.8) -/
  credit  : Sparse Nat := []
  /-- crossing buffer of each input 0-4, head first (R37) -/
  cross   : Sparse (List Token) := []
  /-- the lanes of the tokens in the edge-facing input's two crossing buffers, in the order in which the drover presented them,
  lane 0 first in a cycle: true for lane 1 (R175) -/
  laneOrder : List Bool := []
  /-- stream queues per 8 × input + queue (R173) -/
  queues  : Sparse StreamQueue := []
  /-- crooks 0-3 (R176) -/
  crooks  : Sparse Crook := []
  wdLimit : Word := 0x00010000#32
  /-- the watchdog's count (R52) -/
  wdCount : Nat := 0
  stallOut  : Word := 0
  stallIn   : Word := 0
  stallHold : Word := 0
  stretchCnt : Word := 0
  ceN : Byte := 0
  ceE : Byte := 0
  ceS : Byte := 0
  ceW : Byte := 0
  fault   : Option MeshFault := none
  fabDisc : Word := 0
  deriving DecidableEq, Repr

/-- A message in the core send buffer (R67). -/
structure SendMsg where
  data  : Line
  out   : BitVec 3
  entry : BitVec 9
  last  : Bool
  deriving DecidableEq, Repr

/-- The first core fault (R77, Table 3.11). -/
structure CoreFault where
  code   : BitVec 4
  eng    : BitVec 2
  detail : Byte
  second : Bool
  pc     : BitVec 13
  info   : Word
  deriving DecidableEq, Repr

/-- Issue classes of Table 3.4. -/
inductive Cls where
  | A | X | M | B | W | S
  deriving DecidableEq, Repr

/-- What the pairing rule R63 needs of the instruction that issued as first in the running cycle: its class, the
registers and the predicates it writes, one bit each. -/
structure IssueRec where
  cls  : Cls
  regs : BitVec 32
  preds : Byte
  deriving DecidableEq, Repr

/-- An instruction blocked under R66: WAIT_ON, its word and its index. -/
structure Blocked where
  on     : BitVec 3
  word   : Word
  pc     : BitVec 13
  deriving DecidableEq, Repr

/-- A tile core (R56-R82, Table 3.11). -/
structure TileCore where
  /-- STATE: 0 no fold, 1 running, 2 ended, 3 stopped -/
  state   : BitVec 2 := 0
  /-- END has retired (R80) -/
  ended   : Bool := false
  pc      : BitVec 13 := 0
  /-- g1-g31; unlisted reads 0; g0 is never listed (R56) -/
  regs    : Sparse Word := []
  /-- p7…p0 (PREG); p0 reads 1 (R56) -/
  preds   : Byte := 1
  /-- instruction memory, word index → word; unlisted reads 0 (R82, R226) -/
  imem    : Sparse Word := []
  /-- results on their way: register → cycles from the running one until it can be used; unlisted 0 (R64, Table 3.6) -/
  late    : Sparse Nat := []
  /-- the running cycle issued a taken branch: the next one issues nothing (R65) -/
  gap     : Bool := false
  blocked : Option Blocked := none
  first   : Option IssueRec := none
  /-- the core send buffer, oldest first, at most 4 (R67) -/
  sendBuf : List SendMsg := []
  fault   : Option CoreFault := none
  retired : BitVec 64 := 0
  dual    : Word := 0
  wait    : Word := 0
  interlock : Word := 0
  imemCe  : BitVec 16 := 0
  deriving DecidableEq, Repr

/-- A queued engine command: record, sequence number, SUMM of its ENQ, index of its ENQ (R71, R76, R78). -/
structure Cmd where
  rcd  : Line
  seq  : Word
  summ : Bool
  pc   : BitVec 13
  deriving DecidableEq, Repr

/-- An engine's command queue (at most 8), summary queue (at most 4 records of 128 bits), DONE and the last sequence
number issued (R71, R73, R76). -/
structure EngQ where
  queue : List Cmd := []
  summs : List (BitVec 128) := []
  done  : Word := 0
  enq   : Word := 0
  deriving DecidableEq, Repr

/-- What a summary collects over a command's output (R97, R135, R166, R219). -/
structure SumAcc where
  max   : Nat := 0
  sum   : Int := 0
  nv    : Bool := false
  sat   : Bool := false
  nonzero : Bool := false
  spill : Bool := false
  skip  : Bool := false
  deriving DecidableEq, Repr

/-- The history record as read at a command's start and the largest BLOCK-mode E of its output so far (R95, R96). -/
structure HistRun where
  entries : List Int := []
  reqE    : Option Int := none
  deriving DecidableEq, Repr

/-- The held accumulator state (R128). -/
structure Held where
  m     : Nat
  n     : Nat
  eacc  : Int
  tiles : Nat
  deriving DecidableEq, Repr

/-- The MXE's taken command: the record, the partner of a pair, whether it has started, its dimensions, the mask as
read at the start, the position of its walk, the two latch buffers (R114), the completions and summaries of the pair
(R74, R124, R130, R141). -/
structure MxeRun where
  cmd     : Cmd
  partner : Option Cmd := none
  started : Bool := false
  m : Nat := 0
  n : Nat := 0
  k : Nat := 0
  mask    : List Byte := []
  pos     : Nat := 0
  finished : Bool := false
  /-- the latch tile that the array computes from, K block 0 or 1 of row j at 2 × j + block: elements and scale; in a pair,
  the view of the same tile that G takes (R114, R140) -/
  latch   : List (List (Option Int) × Int) := []
  latchG  : List (List (Option Int) × Int) := []
  /-- the other latch buffer: the next latch tile, in the same two views (R114) -/
  next    : List (List (Option Int) × Int) := []
  nextG   : List (List (Option Int) × Int) := []
  /-- G of the pair reads what D writes, so its work follows D's completion (R142) -/
  apart   : Bool := false
  dDone   : Bool := false
  accD    : SumAcc := {}
  accG    : SumAcc := {}
  histD   : HistRun := {}
  histG   : HistRun := {}
  visits  : Nat := 0
  deriving DecidableEq, Repr

/-- A tile's MXE (05, 06). -/
structure Mxe where
  q     : EngQ := {}
  run   : Option MxeRun := none
  held  : Option Held := none
  /-- slot → array cycles until its read-out ends; unlisted 0 (R125, R126) -/
  drain : Sparse Nat := []
  /-- the next group waits for a slot (R126) -/
  waiting : Bool := false
  deriving DecidableEq, Repr

/-- A VXE lane: 32-bit value (0x8000_0000 is NV) and its hidden tag (R151). -/
structure Lane where
  v   : Word := 0
  tag : Bool := false
  deriving DecidableEq, Repr

/-- The VXE's taken command (R158, R170): the record, the auxiliary record, ROWS and COLS, the vector reached, the
running reduction word, the summary. -/
structure VxeRun where
  cmd     : Cmd
  started : Bool := false
  aux     : Line := 0
  rows    : Nat := 0
  cols    : Nat := 0
  pos     : Nat := 0
  finished : Bool := false
  red     : BitVec 48 := 0
  redSeen : Bool := false
  acc     : SumAcc := {}
  hist    : HistRun := {}
  deriving DecidableEq, Repr

/-- A tile's VXE (R151, R152, R162): registers keyed 64 × register + lane, VL, table segment selection, and the two
tables keyed by segment. -/
structure Vxe where
  q     : EngQ := {}
  run   : Option VxeRun := none
  regs  : Sparse Lane := []
  vl    : BitVec 7 := 64
  xlo   : Word := 0
  ssh   : BitVec 5 := 0
  sls0  : BitVec 5 := 0
  sls1  : BitVec 5 := 0
  base0 : Sparse Word := []
  slope0 : Sparse Word := []
  base1 : Sparse Word := []
  slope1 : Sparse Word := []
  deriving DecidableEq, Repr

/-- The UPE's taken command (R200-R221): the record, the program, the auxiliary record and the group step record as
read at the start, the unit reached, the four UPART words, the summary. -/
structure UpeRun where
  cmd     : Cmd
  started : Bool := false
  prog    : List (BitVec 16) := []
  aux     : Line := 0
  gsr     : Line := 0
  pos     : Nat := 0
  finished : Bool := false
  red     : List (BitVec 48) := [0, 0, 0, 0]
  acc     : SumAcc := {}
  deriving DecidableEq, Repr

/-- A tile's UPE. -/
structure Upe where
  q   : EngQ := {}
  run : Option UpeRun := none
  deriving DecidableEq, Repr

/-- The regions a fold image declares for a tile (Table 8.6). -/
structure Decl where
  jobRec     : Word := 0xFFFFFFFF#32
  spillBase  : Word := 0
  spillBytes : Word := 0
  mxeStats   : Word := 0xFFFFFFFF#32
  deriving DecidableEq, Repr

/-- An island's clock stretch and activity (R341, R344): stage 0 locked, 1 Hold, 2 Step 1, 3 Step 2, 4 Relock; whether a
relock or stretch comes from a droop; A(n − 1); ISL_HOLD; the units that engines are charged in the running window, and
those of units that no limit holds; whether an issue has been held in it (R335, R340). -/
structure Island where
  stage  : BitVec 3 := 0
  droop  : Bool := false
  act    : Nat := 0
  hold   : Word := 0
  units  : Nat := 0
  other  : Nat := 0
  held   : Bool := false
  /-- the operating point at the start of the running window, 0 Dawn, 1 Noon, 2 Dusk, 3 Night: STEP follows it (R343) -/
  stepAt : Nat := 0
  deriving DecidableEq, Repr

/-- A tile's scrub (R371): the corrected word awaiting its rewrite, the words corrected in the pass before and in the
running pass, and the words read in it. -/
structure TileRel where
  rewrite : Option Nat := none
  lastPass : List Nat := []
  thisPass : List Nat := []
  scrubbed : Nat := 0
  deriving DecidableEq, Repr

/-- A tile: everything that belongs to one logical tile ID. -/
structure Tile where
  /-- the tile is part of the loaded fold (R183) -/
  inFold : Bool := false
  router : Router := {}
  core   : TileCore := {}
  mxe    : Mxe := {}
  vxe    : Vxe := {}
  upe    : Upe := {}
  /-- working memory, byte address → byte; unlisted reads 0 (R226) -/
  wmem   : Sparse Byte := []
  /-- accumulator memory, word index → 48-bit word; unlisted reads 0 (R226) -/
  amem   : Sparse (BitVec 48) := []
  /-- codes that do not match what is stored: 64-bit eighth of working memory a / 8, or accumulator word 131072 + w → 1 an
  error that the code corrects, 2 one it only detects; unlisted none (R222). DESIGN CHOICE, unsafe:
  notes/assumptions/78.md. -/
  flaws  : Sparse Nat := []
  decl   : Decl := {}
  /-- WORLD: 1 secure (Table 3.11, R398) -/
  world  : Bool := false
  island : Island := {}
  rel    : TileRel := {}
  /-- tie tokens of the 16 working-memory banks; unlisted names party 0 (R285). DESIGN CHOICE, unsafe:
  notes/assumptions/17.md. -/
  bankTok : Sparse Nat := []
  deriving DecidableEq, Repr

/-! ## Drovers (11) -/

/-- A request to host memory that has not completed: the port, the bale or side-gate transfer of its XFER, its first line
in the XFER and its lines, whether it ends with a GO (R238, R278), whether it is a non-posted request of PCIe (R267), and
the row, lane and TAG that its error is reported with (R259). -/
structure HostReq where
  port : Port
  unit : Nat
  line : Nat
  n    : Nat
  go   : Bool
  np   : Bool
  row  : Nat
  lane : Nat
  tag  : BitVec 16
  deriving DecidableEq, Repr

/-- A transfer of an open queue (R248-R262): the XFER's tag, object, offset, size and flags, its deadline, the bale or
side-gate transfers issued, its lines in the drover's buffers, what memory has returned or written of it, the tokens presented
or taken, and the state of its hold, its GO and its completion. -/
structure Xfer where
  /-- number of the transfer in its drover -/
  id       : Nat := 0
  tag      : BitVec 16
  obj      : Nat := 0
  off      : Nat := 0
  bytes    : Nat
  side     : Bool
  notify   : Bool := false
  wait     : BitVec 2 := 0
  lidx     : Nat := 0
  step     : Word := 0
  staged   : Bool := false
  go       : Bool := false
  held     : Bool := false
  /-- DEADLINE in units of 64 ns, and the absolute deadline in ns of `State.clockUs` (R255) -/
  deadline : Nat := 0
  due      : Nat := 0
  /-- bale or side-gate transfers that missed the deadline (R257) -/
  missed   : Nat := 0
  /-- it has one of the 16 side-gate entries (R253) -/
  gate     : Bool := false
  issued   : Nat := 0
  /-- requests to host memory outstanding, oldest first (R259, R278) -/
  host     : List HostReq := []
  /-- line of the XFER → its data, from memory or from the array -/
  buf      : Sparse Line := []
  /-- bale or side-gate transfer → its lines that are in the buffer, or written; unlisted 0 -/
  done     : Sparse Nat := []
  /-- the ones in which a line is poisoned (R259) -/
  bad      : List Nat := []
  moved    : Nat := 0
  deriving DecidableEq, Repr

/-- A run of a TX queue in progress (R314): the header token and the tokens of the frame being collected. -/
structure TxRun where
  hdr   : Line
  frame : Nat
  toks  : List Line := []
  /-- the run is discarded at the sender (R322) -/
  drop  : Bool := false
  deriving DecidableEq, Repr

/-- One drover queue (Table 11.1, Table 11.3): the OPEN record and its request channel, the transfers in request
order (at most 16), requests held behind a held XFER, and the run in progress on a TX queue. -/
structure DQueue where
  isOpen : Bool := false
  rcd    : Line := 0
  /-- row × 2 + lane of the request channel -/
  reqLane : Nat := 0
  xfers  : List Xfer := []
  behind : List Line := []
  tx     : Option TxRun := none
  /-- queue stopped after a poisoned line or a host error (R259) -/
  stopped : Bool := false
  /-- tokens waiting for delivery on an RX queue (R313, R321) -/
  rx     : List Token := []
  /-- LIDX up to which FINAL has been carried: the step of the last FINAL run, plus 1; 0 none (R323) -/
  final  : Nat := 0
  /-- requests to host memory of ended transfers, oldest first: what they bring is discarded (R261, R263) -/
  dropHost : List HostReq := []
  /-- the member record has been delivered (R313) -/
  member : Bool := false
  /-- a CLOSE has been taken, and the queue closes once its tokens are delivered (R264).
  DEDUCED, unsafe: notes/assumptions/80.md. -/
  closing : Bool := false
  deriving DecidableEq, Repr

/-- A cut queue (R192, R265): the cut table entry, the WINDOW credits left, and tokens that arrived from the peer. -/
structure CutQ where
  cut    : BitVec 16
  row    : Nat
  lane   : Nat
  inbound : Bool
  queue  : Nat
  /-- the peer partition's index -/
  peer   : Nat
  credits : Nat
  toks   : List Token := []
  deriving DecidableEq, Repr

/-- A drover's first fault (R260, Table 11.4). -/
structure DroverFault where
  code : BitVec 4
  dq   : BitVec 5
  row  : BitVec 3
  lane : Bool
  cut  : Bool
  tag  : BitVec 16
  deriving DecidableEq, Repr

/-- A drover (Table 11.3). -/
structure Drover where
  timeoutUs : BitVec 20 := 0x04E20#20
  defDl     : BitVec 16 := 0x3D09#16
  balesIn   : Word := 0
  balesOut  : Word := 0
  sideXfers : Word := 0
  dlMiss    : Word := 0
  cancelXfers : Word := 0
  cancelBales : Word := 0
  cancelLate  : Word := 0
  discBales : Word := 0
  discTokens : Word := 0
  cutDisc   : Word := 0
  relWaitUs : Word := 0
  bpUs      : Word := 0
  fault     : Option DroverFault := none
  queues    : Sparse DQueue := []
  cuts      : List CutQ := []
  /-- CUT numbers of the inbound cuts of a discarded fold: tokens in flight for them are dropped and counted (R193) -/
  oldCuts   : List (BitVec 16) := []
  /-- gateway channels, keyed (row × 2 + lane) × 8 + channel, head first, at most 32: each token with the slot of its edge
  tile in which it arrived (R244, R251) -/
  chans     : Sparse (List (Nat × Token)) := []
  /-- credits for the edge-input queues, keyed row × 8 + queue (R175, R244) -/
  credits   : Sparse Nat := []
  /-- ROOM per lane, keyed row × 2 + lane (R40, R250) -/
  room      : Sparse Nat := []
  /-- side-gate entries in use, of 16 (R253) -/
  sideUsed  : Nat := 0
  /-- LREL and GREL by index; an unlisted entry reads `rel0` (R252) -/
  lrel      : Sparse Word := []
  grel      : Sparse Word := []
  rel0      : Word := 0
  /-- transfers taken so far: the number of the last one -/
  xfers     : Nat := 0
  /-- stopped by a freeze, a fatal error or a shut-off (R260, R368, R422) -/
  stopped   : Bool := false
  deriving DecidableEq, Repr

/-- The ARB register (Table 11.3, block 0x08). -/
structure Arb where
  split   : Bool := false
  read16  : BitVec 4 := 8
  write16 : BitVec 4 := 4
  remote16 : BitVec 4 := 4
  deriving DecidableEq, Repr

/-! ## HBM (10) -/

/-- The UE record of an HBM controller (Table 10.5). -/
structure UeRec where
  addr   : Addr
  pc     : BitVec 6
  poison : Bool
  deriving DecidableEq, Repr

/-- A line access that waits at its HBM controller (R230, R255): its absolute deadline in ns, if it has one, and for an access
of a drover queue the queue, the number of its transfer (0: no transfer) and the line in it. -/
structure Access where
  req  : LineReq
  due  : Option Nat := none
  q    : Nat := 0
  xid  : Nat := 0
  line : Nat := 0
  deriving DecidableEq, Repr

/-- An HBM controller (Table 10.5, R369, R370): the retired pins of each pseudo-channel, pin error counts keyed
64 × pseudo-channel + pin within the running pass. -/
structure HbmCtl where
  ready    : Bool := false
  training : Bool := false
  degraded : Bool := false
  ceCnt : Word := 0
  ueCnt : Word := 0
  poisonCnt : Word := 0
  ue    : Option UeRec := none
  rdLines : BitVec 64 := 0
  wrLines : BitVec 64 := 0
  /-- lines read and written since the last evaluation of P_est (R336) -/
  lines10 : Nat := 0
  /-- the tie token (R285, Table 12.5) -/
  tok   : Nat := 0
  /-- accesses that have reached the controller and are not performed, in order of arrival (R230, R255, R258) -/
  pend  : List Access := []
  /-- grants made of the running frame of 16, in split mode (R256) -/
  frame : Nat := 0
  retired : Sparse (List Nat) := []
  pinErrs : Sparse Nat := []
  scrubbed : Nat := 0
  /-- whole passes of this stack, the model's own count: a pass over all stacks ends with the last stack (R369) -/
  passes : Nat := 0
  /-- when the running pass began (`State.clockUs`), and the grants since the scrub's last, at most 255 (R369) -/
  passFrom : Nat := 0
  sinceScrub : Nat := 255
  /-- throttling and double refresh, which only timing uses. DESIGN CHOICE, unsafe: notes/assumptions/67.md. -/
  throttled : Bool := false
  refresh2 : Bool := false
  deriving DecidableEq, Repr

/-! ## Host ports and mailboxes (12, 13) -/

/-- A placement entry (R276, Table 12.6). -/
structure PlaceEntry where
  basePg : BitVec 28 := 0
  pages  : BitVec 28 := 0
  valid  : Bool := false
  ridLo  : BitVec 16 := 0
  ridHi  : BitVec 16 := 0
  rdEn   : Bool := false
  deriving DecidableEq, Repr

/-- The first event of R273 (Table 12.6). -/
structure PortFault where
  addr  : Addr
  bar   : BitVec 2
  kind  : BitVec 3
  reqid : BitVec 16
  deriving DecidableEq, Repr

/-- A registered region (R237, R238). -/
structure Region where
  base  : Nat := 0
  bytes : Nat := 0
  coh   : Bool := false
  valid : Bool := false
  deriving DecidableEq, Repr

/-- A vector of a port's MSI-X table (R363): message address and data, mask. -/
structure Vector16 where
  addr : BitVec 64 := 0
  data : Word := 0
  mask : Bool := true
  deriving DecidableEq, Repr

/-- A host line in the Melvor complex's cache (R274). -/
structure CacheLine where
  modified : Bool := false
  data     : Line := 0
  deriving DecidableEq, Repr

/-- A host port (Table 12.6, R274-R288, R363, R408): `held` lists HBM pages the host may hold (R275), `cache` the host
lines in the Melvor complex's cache, by line number. -/
structure HostPort where
  linkUp   : Bool := false
  speed    : BitVec 3 := 0
  width    : BitVec 5 := 0
  cxlCache : Bool := false
  cxlMem   : Bool := false
  secure   : Bool := false
  removed  : Bool := false
  perst    : Bool := true
  half     : Bool := false
  urCnt : Word := 0
  caCnt : Word := 0
  epSent : Word := 0
  epRcvd : Word := 0
  lockedWr : Word := 0
  staleCnt : Word := 0
  refetchCnt : Word := 0
  flipCnt : Word := 0
  removalCnt : Word := 0
  droppedLines : Word := 0
  fault    : Option PortFault := none
  places   : Sparse PlaceEntry := []
  regions  : Sparse Region := []
  held     : Sparse Bool := []
  cache    : Sparse (Option CacheLine) := []
  msix     : Sparse Vector16 := []
  pba      : BitVec 16 := 0
  msixEn   : Bool := false
  funcMask : Bool := false
  srisMode : Bool := false
  /-- the function is in D3hot; a Function Level Reset is running (R286, R415) -/
  d3hot : Bool := false
  inFlr : Bool := false
  viralEn  : Bool := false
  /-- the HDM decoder: Lock On Commit as last written, Committed, locked (R268) -/
  hdmLockOn : Bool := false
  hdmCommitted : Bool := false
  hdmLocked : Bool := false
  /-- the CXL RAS capability (R268): uncorrectable and correctable error status, and their masks -/
  rasUnc   : Word := 0
  rasCor   : Word := 0
  rasUncMask : Word := 0
  rasCorMask : Word := 0
  /-- the DOE mailbox: the DWs of the request written so far, and of the response not read yet (R267) -/
  doeIn    : List Word := []
  doeOut   : List Word := []
  /-- configuration words written by the host, by DW number (PCI Express Base Specification) -/
  config   : Sparse Word := []
  deriving DecidableEq, Repr

/-- A command accepted from a mailbox and not completed (R297, R298). -/
structure Accepted where
  port    : Port
  entry   : Line
  started : Bool := false
  /-- its work has ended with OK and its completion waits for HELD pages (R279) -/
  done    : Bool := false
  /-- accepted by the old owner before the claim of a handover was taken (R284) -/
  pre     : Bool := false
  /-- the mailbox has been disabled, or its port removed, since: the completion is not written (R293) -/
  dead    : Bool := false
  deriving DecidableEq, Repr

/-- A pending event (R302): code, DETAIL (merge count). -/
structure PendEvt where
  code   : BitVec 16
  detail : Word
  deriving DecidableEq, Repr

/-- A mailbox (Table 13.2), its completion sequence number, its re-fetch state, and its pending events. -/
structure Mailbox where
  enable : Bool := false
  cmdCoh : Bool := false
  cplCoh : Bool := false
  enabled : Bool := false
  negotiated : Bool := false
  cfgErr : Bool := false
  cplStall : Bool := false
  version : BitVec 16 := 0
  cmdBaseLo : BitVec 20 := 0
  cmdBaseHi : BitVec 14 := 0
  cmdLog2n : BitVec 4 := 0
  cplBaseLo : BitVec 20 := 0
  cplBaseHi : BitVec 14 := 0
  cplLog2n : BitVec 4 := 0
  cmdProd : BitVec 12 := 0
  cmdCons : BitVec 12 := 0
  expSeq  : Word := 0
  cplCons : BitVec 12 := 0
  cplProd : BitVec 12 := 0
  qfullCnt : Word := 0
  cplDropCnt : Word := 0
  evtMergeCnt : Word := 0
  cplSeq  : Word := 0
  /-- re-fetches made of the entry at CMD_CONS since the doorbell (R281) -/
  refetches : Nat := 0
  /-- a stale entry was returned and a re-fetch is due -/
  stale   : Bool := false
  /-- STALE_DOORBELL was posted; fetching waits for the next doorbell (R282) -/
  waitBell : Bool := false
  events  : List PendEvt := []
  deriving DecidableEq, Repr

/-! ## The Melvor complex (08, 13) -/

/-- A paddock table entry (Table 8.1). -/
structure Paddock where
  row0 : Nat
  col0 : Nat
  rows : Nat
  cols : Nat
  first : Nat
  last : Nat
  deriving DecidableEq, Repr

/-- A layer table entry (Table 8.1). -/
structure Layer where
  layer : Nat
  paddock : Nat
  group : Nat
  retained : Bool
  deriving DecidableEq, Repr

/-- The loaded fold (R171-R194): header fields, tables and tiles. -/
structure Fold where
  slot      : Nat
  streaming : Bool
  partitioned : Bool
  rd        : Byte
  wdLimit   : Word
  setId     : BitVec 64
  partIndex : Nat
  partCount : Nat
  digest    : Line
  imageBytes : Nat
  paddocks  : List Paddock
  layers    : List Layer
  tiles     : List Nat
  deriving DecidableEq, Repr

/-- An object table entry (Table 10.4). -/
structure ObjEntry where
  base  : Addr := 0
  bytes : Nat := 0
  kind  : Byte := 0
  valid : Bool := false
  coh   : Bool := false
  hreg  : Nat := 0
  /-- BASE as first written, once it is not the one above: a snapshot's object table keeps it (Table 17.4) -/
  first : Option Addr := none
  deriving DecidableEq, Repr

/-- The loss-scale state (R109, R111, R300). -/
structure LossState where
  lse      : Nat := 0
  clean    : Nat := 0
  halvings : Word := 0
  skipped  : Word := 0
  deriving DecidableEq, Repr

/-- The job descriptor (Table 13.6) of the running job, its world (R399), and the first object index that Melvor
firmware filled itself (R240). -/
structure Job where
  seed     : BitVec 64
  start    : Word
  g        : Nat
  lsMode   : Bool
  lseInit  : Nat
  lsMin    : Nat
  lsMax    : Nat
  lsN      : Nat
  shares   : BitVec 16
  groupTable : Addr
  groups   : Nat
  evtEvery : Nat
  gsrArea  : Addr
  modules  : Nat
  world    : Bool
  desc     : List Byte
  deriving DecidableEq, Repr

/-- The record of the last fold fault (R54, Table 13.10). -/
structure FoldFault where
  step  : Word
  cause : Nat
  /-- tile and paddock of the first fault (R300) -/
  first : Option (Nat × Nat)
  tiles : List (Nat × Nat × Word × Word × Word)
  drovers : List Word
  deriving DecidableEq, Repr

/-- An access from outside that waits, with SECURE and TWSEL of its port as it was received (R272, R396). -/
structure Wait where
  cmd    : Instr
  secure : Bool := false
  half   : Bool := false
  deriving DecidableEq, Repr

/-- A pending activation of a partitioned image, until PARTITION_START (R191). -/
structure PendingAct where
  port : Port
  entry : Line
  fold : Fold
  /-- the verified image (R236) -/
  image : Nat
  dropped : Word
  deriving DecidableEq, Repr

/-- The Melvor complex (Tables 13.1, 13.8; R283-R303). OWNER: 0, 1, or 3 vacant. -/
structure Melvor where
  fwReady : Bool := false
  lockstepErr : Bool := false
  loaderBusy : Bool := false
  heartbeat : Word := 0
  jobState : BitVec 3 := 0
  owner : BitVec 2 := 3
  /-- the step in progress, or the next one to run -/
  step : Word := 0
  /-- STEP of Table 13.1: the running or last completed step (R291) -/
  shown : Word := 0
  /-- JOB_STATE and STEP as hosts still read them, while a page of an object that the result covers is HELD (R279) -/
  unpub : Option (BitVec 3 × Word) := none
  /-- interrupt sources of events that wait for HELD pages (R279) -/
  heldSrcs : List Nat := []
  /-- ownership tie token (R285, R411). DESIGN CHOICE, unsafe: notes/assumptions/17.md. -/
  ownerTok : Port := 0
  accepted : List Accepted := []
  fold : Option Fold := none
  pendingAct : Option PendingAct := none
  /-- an activation has passed since the last fault (Table 13.8, FAULTED) -/
  activatedSinceFault : Bool := false
  job : Option Job := none
  /-- a JOB_START that waits for its group (R310) -/
  starting : Option Job := none
  loss : LossState := {}
  objects : Sparse ObjEntry := []
  activations : Word := 0
  dropped : Word := 0
  lastFault : Option FoldFault := none
  /-- the named port of a pending handover (R284) -/
  handover : Option Port := none
  evtCount : Nat := 0
  heldEvents : List PendEvt := []
  /-- a port was removed while objects lay in its window (R239): objects to be placed again -/
  replace : List Nat := []
  /-- a stop whose step has failed waits for the pages that the undo writes (R275, R301) -/
  stopDue : Bool := false
  /-- rows whose fault bit has reached the complex (R79) -/
  rowFaults : Sparse Nat := []
  /-- the tile of the first fault that the fault tree has delivered since the fold load (R300) -/
  firstFault : Option Nat := none
  /-- a freeze of the running fold is complete -/
  foldFrozen : Bool := false
  rowMapStale : Bool := true
  /-- µs left over towards the next HEARTBEAT millisecond -/
  usAcc : Nat := 0
  deriving DecidableEq, Repr

/-! ## Fold links and the exchange (14) -/

/-- A sequenced flit kept in the replay buffer (R306). -/
structure SentFlit where
  fseq : BitVec 12
  ctrl : Bool
  sids : List Nat
  body : List Line
  /-- TAG of each slot's token (R192). DESIGN CHOICE, unsafe: notes/assumptions/11.md. -/
  tags : List Byte
  deriving DecidableEq, Repr

/-- A fold port (Table 14.6, R305-R310). -/
structure LinkPort where
  up : Bool := false
  training : Bool := false
  miswired : Bool := false
  half : Bool := false
  version : BitVec 2 := 0
  routed : Bool := false
  peerSlot : BitVec 3 := 0
  peerBoard : BitVec 9 := 0
  peerPort : BitVec 4 := 0
  peerValid : Bool := false
  /-- the partner has sent HELLO with FW_READY = 1 (R410) -/
  peerReady : Bool := false
  /-- the version of the partner's last HELLO (R308) -/
  peerVersion : BitVec 2 := 0
  holdDown : Bool := false
  rdl : BitVec 16 := 0x3D09#16
  flitsTx : BitVec 64 := 0
  flitsRx : BitVec 64 := 0
  crcErr : Word := 0
  replays : Word := 0
  retrains : Word := 0
  fecSym : Word := 0
  fecUncorr : Word := 0
  downCnt : Word := 0
  redFrames : Word := 0
  /-- FSEQ of the next flit to send; the replay buffer, oldest first, at most 512 -/
  nextFseq : BitVec 12 := 0
  replayBuf : List SentFlit := []
  /-- last FSEQ received in order, and in-order flits not yet acknowledged -/
  ackSeq : BitVec 12 := 0xFFF#12
  toAck : Nat := 0
  /-- a flit was discarded; every later one is, until ACKSEQ + 1 arrives -/
  discarding : Bool := false
  /-- consecutive replays without progress (R307) -/
  stuck : Nat := 0
  /-- tokens granted per link stream (R328) -/
  credits : Sparse Nat := []
  /-- slots (stream, token) and control messages that wait to be sent in flits, oldest first -/
  outSlots : List (Nat × Token) := []
  outMsgs  : List (BitVec 128) := []
  deriving DecidableEq, Repr

/-- An exchange fault (Tables 14.6, 14.7). -/
structure ExchFault where
  code : BitVec 4
  port : BitVec 4
  stream : Byte
  src : BitVec 12
  deriving DecidableEq, Repr

/-- A contribution held for a combine (R317, R318): level 0 or 1, the frame it belongs to, its source, its words and
its exponent. -/
structure Contrib where
  level : Nat
  step  : Word
  obj   : Nat
  frame : Nat
  micro : Nat
  src   : Nat
  eg    : Int
  nelem : Nat
  words : List (BitVec 48)
  deriving DecidableEq, Repr

/-- The group and the exchange (Table 14.6, R310-R328). -/
structure Group where
  member : BitVec 12 := 0
  modules : BitVec 13 := 0
  bellwether : Bool := false
  top : Bool := false
  grouped : Bool := false
  slot : BitVec 3 := 0
  board : BitVec 9 := 0
  b : BitVec 4 := 0
  q : BitVec 10 := 0
  nv0 : Bool := false
  sat0 : Bool := false
  nv1 : Bool := false
  sat1 : Bool := false
  joinTimeoutS : BitVec 16 := 0x003C#16
  exchTimeoutMs : BitVec 16 := 0x03E8#16
  combineWaitUs : Word := 0
  agreeLastUs : Word := 0
  freezeMerged : Word := 0
  gatherDrop : Word := 0
  fault : Option ExchFault := none
  lowVersion : BitVec 2 := 0
  /-- ranks and partition indices joined under this module's key (R310) -/
  joined : List (Nat × Nat) := []
  key : BitVec 64 := 0
  /-- JOIN messages received: rank, kind, PART_INDEX, key, MODULES -/
  heard : List (Nat × Nat × Nat × BitVec 64 × Nat) := []
  contribs : List Contrib := []
  /-- micro-batches added into the accumulator, keyed object × 2^32 + frame (R23, R319) -/
  added : Sparse Nat := []
  /-- NELEM of each REDUCE object seen in the step -/
  nelems : Sparse Nat := []
  /-- rank of each member, in member order (R311) -/
  ranks : List Nat := []
  /-- frames that this module has sent and that still fill the store they went to: destination member, class, tokens (R328) -/
  flying : List (Nat × Nat × Nat) := []
  /-- fold ports that carry a route of the group (R312) -/
  routes : BitVec 12 := 0
  /-- the links between the modules of the group, and its cut streams (R310, R312) -/
  graph : List GLink := []
  cuts : List GCut := []
  /-- layers of which a frame of the step has arrived (R327) -/
  gathering : List Nat := []
  /-- the step for which a FREEZE of the flock has gone up (R325) -/
  freezeUp : Option Word := none
  /-- gather: member × 2^16 + layer entry → LAYER_END received for the step; frames that wait (R321) -/
  layerEnds : Sparse Bool := []
  early : List (Nat × Frame) := []
  /-- agreement of the step in progress: AGREE_UP sent; covered members and flags gathered (R323) -/
  agreeSent : Bool := false
  agreed : Bool := false
  covered : Nat := 0
  gnv : Bool := false
  gsat : Bool := false
  doneSent : Bool := false
  doneCovered : Nat := 0
  /-- a bellwether whose own job has ended still has the stop or freeze of its group to pass on to its flock (R325, R326) -/
  relays : Bool := false
  /-- a stop or pause boundary named by the top bellwether (R326) -/
  boundary : Option Word := none
  resumes : Nat := 0
  frozenStep : Option Word := none
  /-- µs since AGREE_UP was sent -/
  agreeUs : Nat := 0
  deriving DecidableEq, Repr

/-! ## Power, droop and thermal (15) -/

/-- Operating points, coded as POINT (Table 15.8). -/
inductive Point where
  | dawn | noon | dusk | night
  deriving DecidableEq, Repr

/-- Where a change of operating point stands (R330, R346): waiting for droop to clear, slewing, stepping and
relocking. -/
inductive ChgStage where
  | idle | slewing | relocking | slewingDown | halted
  deriving DecidableEq, Repr

/-- The controller (Table 15.8, R330-R350). Voltages in mV; those of Dawn and Dusk come from the device record at each reset
(R6, R389). -/
structure Power where
  point  : Point := .dawn
  target : Point := .dawn
  changing : Bool := false
  chg    : ChgStage := .idle
  chgTo  : Point := .dawn
  resumeStage : ChgStage := .idle
  supply : Nat := 600
  dawnMv : Nat := 600
  duskMv : Nat := 650
  droopActive : Bool := false
  droopWait : Bool := false
  deferred : Bool := false
  /-- the change has been counted in CHG_DEFER_CNT (R346) -/
  deferSeen : Bool := false
  capLimit : Point := .noon
  thermLevel : Nat := 0
  thermLimitDawn : Bool := false
  hbmThrottle : Bool := false
  calValid : Bool := false
  sensorFault : Bool := false
  phase : BitVec 2 := 0
  lastPhase : BitVec 2 := 0
  pcap : BitVec 12 := 0x960#12
  fwd : BitVec 2 := 1
  bwd : BitVec 2 := 1
  upd : BitVec 2 := 0
  exch : BitVec 2 := 0
  nightReq : Bool := false
  nightIdleMs : BitVec 16 := 0
  /-- µs left in which NIGHT_IDLE_MS does not set NIGHT_REQ (R350) -/
  nightBlockUs : Nat := 0
  tjThrottle : Byte := 0x5F#8
  droopTh : BitVec 7 := 0x28#7
  pMeas : BitVec 16 := 0
  pEst : BitVec 16 := 0
  calGain : BitVec 16 := 0x4000#16
  tjMax : Byte := 0
  tjSensor : BitVec 6 := 0
  hbmTmax : Byte := 0
  hbmStack : BitVec 3 := 0
  actCeil : BitVec 17 := 0x10000#17
  pointChgCnt : Word := 0
  chgDeferCnt : Word := 0
  droopEvents : Word := 0
  capEvents : Word := 0
  thermEvents : Word := 0
  rampHoldCnt : Word := 0
  fillCnt : Word := 0
  pwrWrRefused : Word := 0
  energyJ : BitVec 64 := 0
  energyAcc : Nat := 0
  islSel : BitVec 13 := 0
  temps : Sparse Byte := []
  badTemps : Sparse Bool := []
  samples : List Nat := []
  sampleValid : Bool := false
  /-- units charged in the running 10 µs evaluation; for the running 1 ms calibration, the units of each window times the
  square of the voltage then, in mV², and the sum and the number of the evaluations' other terms, in mW (R336, R337) -/
  units10 : Nat := 0
  act1ms : Nat := 0
  baseSum : Nat := 0
  baseCnt : Nat := 0
  /-- evaluations at or below 0.95 × PCAP in a row (R338) -/
  lowEvals : Nat := 0
  /-- evaluations since a downward change was deferred (R346) -/
  deferEvals : Nat := 0
  clocksStopped : Bool := false
  deriving DecidableEq, Repr

/-! ## Interrupts (16) -/

/-- A source group (Table 16.2). -/
structure IrqGrp where
  pend : BitVec 16 := 0
  enable : BitVec 16 := 0
  route : BitVec 3 := 4
  holdoff : BitVec 16 := 0
  run : Bool := false
  mergeCnt : Word := 0
  msgCnt : Word := 0
  deriving DecidableEq, Repr

/-- The controller: groups, the in-service slot of each destination (0 port 0, 1 port 1, 2 Melvor firmware),
IRQ_WR_REFUSED. -/
structure Irq where
  groups : Sparse IrqGrp := []
  insvc : Sparse (Option Nat) := []
  wrRefused : Word := 0
  deriving DecidableEq, Repr

/-! ## Reliability and snapshots (17) -/

/-- What the journal's first entry keeps (R377): loss-scale state and group table entries at the start of the step. -/
structure JournalHead where
  loss : LossState := {}
  groupTable : List Byte := []
  deriving DecidableEq, Repr

/-- The reliability block (Table 17.7). -/
structure Reliability where
  jstate : BitVec 2 := 0
  lostCause : BitVec 3 := 0
  fatal : Bool := false
  viral : Bool := false
  retirePend : Bool := false
  noSpare : Bool := false
  hbmScrubEn : Bool := true
  tileScrubEn : Bool := true
  scrubPeriodH : Byte := 0x0C#8
  serviceWindowH : Byte := 0x48#8
  tileCeTh : BitVec 16 := 0x0400#16
  jstep : Word := 0
  stepsReplayed : Word := 0
  hbmScrubPasses : Word := 0
  hbmScrubCe : Word := 0
  hbmScrubUe : Word := 0
  tileScrubCe : Word := 0
  tileScrubUe : Word := 0
  tilesRetired : Word := 0
  pinsRetired : Word := 0
  tileSel : BitVec 13 := 0
  /-- pages journaled, in copy order (R374) -/
  jindex : List Nat := []
  jhead : JournalHead := {}
  /-- contents of the journal pages that lie in the host tier, page of the journal → 4,096 bytes (R243, R374) -/
  jpages : Sparse Nat := []
  /-- working-copy objects that drover IN transfers have read in the step before its first group release, and whether
  that release has been made (R376 cause 3) -/
  wcRead : List Nat := []
  grelDone : Bool := false
  /-- tiles marked while the service record was full: they name no tile from the next activation on (R373) -/
  overflow : List Nat := []
  deriving DecidableEq, Repr

/-- The snapshot engine (Table 17.8). -/
structure Snapshot where
  busy : Bool := false
  /-- a RESTORE has been written and its header not yet read (R382) -/
  restoring : Bool := false
  err : Bool := false
  held : Option (List Byte) := none
  every : BitVec 16 := 0
  tport : Bool := false
  tregion : BitVec 6 := 0
  toffLo : BitVec 20 := 0
  toffHi : BitVec 14 := 0
  snapStep : Word := 0
  snapBytes : BitVec 64 := 0
  snapshots : Word := 0
  skipped : Word := 0
  errors : Word := 0
  waitUs : Word := 0
  /-- START was written since the last snapshot (R379) -/
  request : Bool := false
  /-- the step the running snapshot holds, and the pages still to copy -/
  curStep : Word := 0
  todo : List Nat := []
  /-- the running snapshot: header bytes 4–39, its objects in index order, and the pages copied, page → contents -/
  head : List Byte := []
  objs : List (Nat × ObjEntry) := []
  copied : Sparse Nat := []
  /-- its requests to host memory whose completions are still to come, oldest first: the port, and whether it is a non-posted
  request of PCIe (R267, R278, R380); how far the end of the snapshot is: 0 data, 1 all data sent, 2 header sent -/
  host : List (Port × Bool) := []
  phase : Nat := 0
  deriving DecidableEq, Repr

/-! ## Security (18) -/

/-- A region table entry (R400): the written words, and the entry in effect. -/
structure RegionEntry where
  base : BitVec 19 := 0
  size : BitVec 19 := 0
  valid : Bool := false
  secure : Bool := false
  effBase : BitVec 19 := 0
  effSize : BitVec 19 := 0
  effValid : Bool := false
  effSecure : Bool := false
  deriving DecidableEq, Repr

/-- A port's request registers (Table 18.6): BUSY, RESULT, NONCE, request window. -/
structure SecPort where
  busy : Bool := false
  result : BitVec 3 := 0
  nonce : Line := 0
  window : Sparse Byte := []
  deriving DecidableEq, Repr

/-- SPDM state of a transport (R393): the requests answered so far, in order. -/
structure Spdm where
  version : Bool := false
  caps : Bool := false
  algs : Bool := false
  deriving DecidableEq, Repr

/-- The security block (Table 18.6). -/
structure Security where
  clearing : Bool := false
  /-- units being zeroed: (first, count) in 2 MiB units, and the table entry that takes effect after -/
  clearingUnits : List (Nat × Nat) := []
  clearingEntry : Option Nat := none
  /-- the ports whose CLEAR_KEY request waits for the overwrite of the user area, in order (R402) -/
  clearKey : List Port := []
  regionErr : Bool := false
  replayErr : Bool := false
  fwSvn : BitVec 16 := 0
  fwSlot : Bool := false
  bootErr : BitVec 3 := 0
  authFailCnt : Word := 0
  worldRefusedCnt : Word := 0
  ports : Sparse SecPort := []
  regions : Sparse RegionEntry := []
  tileMap : Sparse Bool := []
  meas : Sparse Line := []
  nonces : BitVec 64 := 0
  /-- S, while the boot ROM holds it (R387), and the key slots of Table 18.3: the identity private key, the alias key, the
  replay key, the nonce key, each as its 32 bytes (R388); the device identity and the alias certificate -/
  secret : Option (BitVec 256) := none
  identityKey : Option (List Byte) := none
  aliasKey : List Byte := []
  replayKey : List Byte := []
  nonceKey : List Byte := []
  identity : List Byte := []
  aliasCert : List Byte := []
  cryptoTok : Nat := 0
  spdm : Sparse Spdm := []
  deriving DecidableEq, Repr

/-! ## Module flash, reset, sideband (18, 19, 20) -/

/-- A trip record (R348, Table 15.8). -/
structure TripRec where
  kind : BitVec 2
  sensor : Byte
  temp : Byte
  deriving DecidableEq, Repr

/-- The counts that the service record keeps for a tile (Table 17.7, R385), as the times (`State.clockUs`) of the events
that lie in the service window: corrections, uncorrectable errors, LINK_UE, repeats. -/
structure TileCount where
  wmemCe : List Nat := []
  amemCe : List Nat := []
  ue     : List Nat := []
  link   : List Nat := []
  rep    : List Nat := []
  deriving DecidableEq, Repr

/-- Module flash (R389-R391, R372, R424): the signed device record, the effective defect map, the replay-protected area with
its tag, the two firmware slots, the service record and the trip record. It keeps its contents through every reset. -/
structure Flash where
  /-- the signed device record, which no agent on the module rewrites (R389) -/
  record : DeviceRecord := {}
  /-- the effective defect map (R372), per row: physical columns of defective tiles; unlisted reads none -/
  defective : Sparse (List Nat) := []
  /-- per row: the unexposed good tiles by physical column; an unlisted row reads the grade's eastmost columns -/
  spares : Sparse (List Nat) := []
  writeCount : BitVec 64 := 0
  minSvn : BitVec 16 := 0
  bootCount : Word := 0
  operatorKey : Option (List Byte) := none
  /-- the tag stored with the replay-protected area (R390). DESIGN CHOICE, unsafe: notes/assumptions/5.md. -/
  tag : BitVec 256 := areaTag (deriveKey "ORV replay" (Config.deviceSecret []) []) 0 0 0 none []
  /-- the pages of the firmware slots, page → content; an unlisted page is erased (R391, R430).
  DESIGN CHOICE, unsafe: notes/assumptions/5.md. -/
  slotA : Sparse (List Byte) := Config.factorySlot
  slotB : Sparse (List Byte) := []
  /-- tiles of the service record, at most 64: logical tile ID, and the ones applied -/
  service : List Nat := []
  applied : List Nat := []
  unplaced : List Nat := []
  /-- the counts of each tile; LINK_UE of a logical link, receiving tile × 8 + input → their times (R372, R385) -/
  counts : Sparse TileCount := []
  linkUes : Sparse (List Nat) := []
  trip : Option TripRec := none
  /-- the slot (true: B) whose erasing or programming a shut-off has cut: it is not valid (R424) -/
  cut : Option Bool := none
  deriving DecidableEq, Repr

/-- Clock and reset (Table 19.3) and the power stage (R422). Stage 0 is POWER. -/
structure Boot where
  stage : BitVec 3 := 1
  portsReady : Bool := false
  hbmClear : Bool := false
  resetCause : BitVec 3 := 1
  tPortsUs : Word := 0
  tReadyUs : Word := 0
  rstWrRefused : Word := 0
  /-- µs since the main reset (T_PORTS_US, T_READY_US) -/
  sinceUs : Nat := 0
  en : Bool := true
  powerOn : Bool := true
  holdUp : Bool := false
  pgood : Bool := true
  thermtrip : Bool := false
  romHalted : Bool := false
  /-- RESET# is low; a boundary-scan instruction has been in effect since it went low (R429) -/
  resetLow : Bool := false
  scanned : Bool := false
  deriving DecidableEq, Repr

/-- The flash interface (Table 20.4). HOLDER: 0 port 0, 1 port 1, 2 SMBus, 3 Melvor firmware. -/
structure FlashIf where
  busy : Bool := false
  result : BitVec 2 := 0
  held : Bool := false
  holder : BitVec 2 := 0
  page : BitVec 12 := 0
  slotSvn : BitVec 16 := 0
  refused : Word := 0
  /-- the command in progress, and the page it was given -/
  cmd : BitVec 2 := 0
  cmdPage : BitVec 12 := 0
  data : Sparse Byte := []
  tok : Nat := 0
  deriving DecidableEq, Repr

/-- Test access port instructions (R429). -/
inductive Tap where
  | bypass | idcode | samplePreload | extest | extestPulse | extestTrain | clamp | highz
  deriving DecidableEq, Repr

/-! ## Outputs -/

/-- How a port completes a request (Table 12.4). -/
inductive Cpl where
  | success | unsupported | abort | crs
  deriving DecidableEq, Repr

/-- What a request to host memory is: on CXL.io a memory read, a posted write of data with Relaxed Ordering set, a posted
write with it clear (a flag), a zero-length read; on CXL.cache RdCurr, RdShared, RdOwn, ItoMWr, DirtyEvict, CleanEvict (R238,
R274, R278). -/
inductive HostOp where
  | memRead | data | flag | zeroRead
  | rdCurr | rdShared | rdOwn | itoMWr | dirtyEvict | cleanEvict
  deriving DecidableEq, Repr

/-- What the module sends to the outside. -/
inductive Out where
  /-- completion of a CXL.io request: port, status, EP, read data (little-endian) -/
  | tlp (p : Port) (c : Cpl) (ep : Bool) (data : Nat)
  /-- a PCIe error reported through AER for a discarded write -/
  | aer (p : Port) (c : Cpl)
  /-- CXL.mem data, with Poison; CXL.mem Cmp -/
  | memData (p : Port) (poison : Bool) (d : Line)
  | memCmp (p : Port)
  /-- a line read for a requester (R229) -/
  | lineData (r : Requester) (poison : Bool) (d : Line)
  /-- a snoop of a page: RdOwnNoData for each of its lines -/
  | snoopPage (p : Port) (page : Nat)
  /-- an answer to a host snoop: hit, modified, the data of a modified line -/
  | snoopRsp (p : Port) (hit modified : Bool) (d : Line)
  /-- a completion entry written to a port's ring, at the host physical address given: a flag (R278, R295) -/
  | cplEntry (p : Port) (op : HostOp) (hpa : Nat) (e : Line)
  /-- bytes written to host memory -/
  | hostWrite (p : Port) (op : HostOp) (hpa : Nat) (bytes : Nat) (data : Nat)
  /-- a read request to host memory: bytes -/
  | hostRead (p : Port) (op : HostOp) (hpa : Nat) (bytes : Nat)
  /-- an MSI-X message: the vector, and its Message Address and Data (R363) -/
  | msix (p : Port) (vec : Nat) (addr : BitVec 64) (data : Word)
  | melvorIrq (g : Nat)
  /-- a control message that Melvor firmware sends to the group; it leaves in flits of the ports of its routes -/
  | ctrl (m : BitVec 128)
  | linkCtrl (f : FoldPort) (m : BitVec 128)
  /-- a flit: header, payload and CRC (R305), and the TAGs of its slots' tokens -/
  | flit (f : FoldPort) (hdr : BitVec 64) (payload : List Line) (crc : BitVec 64) (tags : List Byte)
  /-- a retrain begins on a port -/
  | retrain (f : FoldPort)
  | spdm (x : Transport) (rsp : List Byte)
  /-- an MCTP response other than SPDM -/
  | mctp (rsp : List Byte)
  /-- a completion of a configuration request -/
  | config (p : Port) (c : Cpl) (v : Word)
  | smbData (v : Word)
  | smbNack
  | smbAddr (a : BitVec 7)
  | tdo (v : Word)
  | viral (p : Port)
  /-- results of R7: a register access not performed; the requester reports an address fault -/
  | addressFault (w : Agent)
  /-- an address fault of a requester of line accesses that is no agent of its own (R235) -/
  | lineFault (r : Requester) (a : Addr)
  deriving DecidableEq, Repr

/-! ## The state -/

/-- The module's state. `pending` is the queue of commands, first in first out; `out` and `free` are the model's own:
what has been sent (newest first) and the number of the next free value. -/
structure State where
  pending : List Instr := []
  out     : List Out := []
  free    : Nat := 0
  /-- logical tile ID → tile; an unlisted ID reads as a tile at its reset value -/
  tiles   : Sparse Tile := []
  drovers : Sparse Drover := []
  arb     : Arb := {}
  /-- HBM, device address → byte; unlisted reads 0 (R406) -/
  hbm     : Sparse Byte := []
  /-- per line: written with the poison check pattern (R229); the symbols in error, bit i for symbol i, of pin i / 2 (R228) -/
  poison  : Sparse Bool := []
  bad     : Sparse Nat := []
  hbmCtl  : Sparse HbmCtl := []
  /-- accesses from outside that wait for a stack, a page flip or a journal copy, oldest first (R258, R275, R374) -/
  waiting : List Wait := []
  ports   : Sparse HostPort := []
  mbox    : Sparse Mailbox := []
  melvor  : Melvor := {}
  links   : Sparse LinkPort := []
  grp     : Group := {}
  power   : Power := {}
  irq     : Irq := {}
  rel     : Reliability := {}
  snap    : Snapshot := {}
  sec     : Security := {}
  flash   : Flash := {}
  boot    : Boot := {}
  flashIf : FlashIf := {}
  smbPtr  : BitVec 28 := 0
  tap     : Tap := .idcode
  /-- µs that have passed: the model's clock of the service window, which no reset clears -/
  clockUs : Nat := 0
  deriving DecidableEq, Repr

/-- The module right after reset: the main reset has just been released (stage 1 of Table 19.1), every register at its
Reset value. The values the spec does not give are DESIGN CHOICE, unsafe (notes/assumptions/4.md).
DESIGN CHOICE, unsafe: notes/assumptions/5.md. -/
def State.reset : State := {}

/-- Why the module's model stops: no rule of the spec stops the module, so there is no reason. -/
inductive Fault where
  deriving DecidableEq, Repr

/-- Why a command has no meaning. -/
inductive Refusal where
  /-- Raised by an arm of exec whose command has no meaning yet. Safe. -/
  | notModelled (mnemonic : String)
  deriving DecidableEq, Repr

end Sys2Proof.Machine
end

