-- ==== Sys2Proof/Machine/Arith.lean ====
section
/-! DEFINITION. Number formats, scaling and bit-exact arithmetic (spec 04): elements and their NV codes, rounding,
A44 words and their addition, output conversion, export and ingest, the keyed counter generator. Every intermediate
value is an exact integer. A value is `Option Int`: `none` is NV (R85). -/

namespace Sys2Proof.Machine

/-- 2^s for s ≥ 0, 1 otherwise. -/
def pow2 (s : Int) : Int := 2 ^ s.toNat

/-- Round-to-nearest-even of `x` to a multiple of 2^s, divided by 2^s; exact for s ≤ 0 (R93). -/
def roundNE (x s : Int) : Int :=
  if s ≤ 0 then x * pow2 (-s)
  else
    let p := pow2 s
    let q := x / p
    let rem := x - q * p
    if 2 * rem > p ∨ (2 * rem = p ∧ q % 2 = 1) then q + 1 else q

/-- Stochastic rounding of `x` to a multiple of 2^s with a 24-bit draw (R102). -/
def roundSR (x s : Int) (draw : Nat) : Int :=
  if s ≤ 0 then x * pow2 (-s)
  else
    let t : Int := if s ≤ 24 then ((draw : Int) / pow2 (24 - s)) else draw * pow2 (s - 24)
    (x + t) / pow2 s

/-- Clamp to ±q. -/
def clampTo (q x : Int) : Int := if x > q then q else if x < -q then -q else x

/-- Format codes of Table 4.2. -/
inductive Fmt where
  | b4 | b8 | b16 | w32 | b8x2 | a44 | f32 | f16 | bf16
  deriving DecidableEq, Repr

/-- The format a code names; `none`: reserved (R88). -/
def Fmt.ofCode : Nat → Option Fmt
  | 0 => some .b4 | 1 => some .b8 | 2 => some .b16 | 3 => some .w32 | 4 => some .b8x2 | 6 => some .a44
  | 8 => some .f32 | 9 => some .f16 | 10 => some .bf16 | _ => none

/-- The largest ordinary magnitude Q of a block format (Table 4.1). -/
def Fmt.q : Fmt → Nat
  | .b4 => 7 | .b8 => 127 | .b16 => 32767 | .w32 => 2 ^ 31 - 1 | .b8x2 => 127 | .a44 => 2 ^ 43 - 1 | _ => 0

/-- Elements per E8 scale (Table 4.1). -/
def Fmt.perBlock : Fmt → Nat
  | .w32 => 64 | _ => 32

/-- Data bytes of a block (Table 4.1); for the formats without blocks, of 32 elements. -/
def Fmt.blockBytes : Fmt → Nat
  | .b4 => 16 | .b8 => 32 | .b16 => 64 | .b8x2 => 64 | .w32 => 256 | .a44 => 256 | .f32 => 128 | .f16 => 64 | .bf16 => 64

/-- Whether elements of the format share an E8 scale. -/
def Fmt.scaled : Fmt → Bool
  | .b4 | .b8 | .b16 | .b8x2 | .w32 => true | _ => false

/-- A sign-magnitude element of `n` bits: negative zero is NV (R83, R86). -/
def signMag (n v : Nat) : Option Int :=
  let m := v % 2 ^ (n - 1)
  if v / 2 ^ (n - 1) % 2 = 1 then (if m = 0 then none else some (-(m : Int))) else some m

/-- A value as a sign-magnitude element of `n` bits; every zero is +0 (R86). -/
def toSignMag (n : Nat) : Option Int → Nat
  | none => 2 ^ (n - 1)
  | some x => if x < 0 then 2 ^ (n - 1) + x.natAbs else x.natAbs

/-- A two's-complement element of 32 bits: 0x8000_0000 is NV. -/
def ofW32 (v : Nat) : Option Int := if v = 2 ^ 31 then none else some (signed 32 v)

def toW32 : Option Int → Nat
  | none => 2 ^ 31
  | some x => unsigned 32 x

/-- Element `i` of a block whose data bytes are `blk`, a little-endian number, before scaling (R84). For B8X2 the value
is hi × 2^7 + lo, at exponent E − 7 (R100); with the NV pattern in either digit the element is NV, though Table 4.1 names the
hi digit only. DESIGN CHOICE, unsafe: notes/assumptions/92.md. -/
def Fmt.elem (f : Fmt) (blk i : Nat) : Option Int :=
  match f with
  | .b4 => signMag 4 (bits blk (4 * i + 3) (4 * i))
  | .b8 => signMag 8 (bits blk (8 * i + 7) (8 * i))
  | .b16 => signMag 16 (bits blk (16 * i + 15) (16 * i))
  | .w32 => ofW32 (bits blk (32 * i + 31) (32 * i))
  | .b8x2 =>
    match signMag 8 (bits blk (8 * i + 7) (8 * i)), signMag 8 (bits blk (256 + 8 * i + 7) (256 + 8 * i)) with
    | some h, some l => some (h * 128 + l)
    | _, _ => none
  | _ => none

/-! ## A44 words (R89-R91) -/

/-- An A44 word as read: value, NV, SAT. The pattern 0x800_0000_0000 reads as −(2^43 − 1) with SAT set (R89). -/
structure A44 where
  v   : Int := 0
  nv  : Bool := false
  sat : Bool := false
  deriving DecidableEq, Repr

/-- The largest A44 magnitude. -/
def a44Max : Int := 2 ^ 43 - 1

def A44.ofBits (w : BitVec 48) : A44 :=
  let raw := w.toNat % 2 ^ 44
  if raw = 2 ^ 43 then ⟨-a44Max, w.getLsbD 44, true⟩
  else ⟨signed 44 raw, w.getLsbD 44, w.getLsbD 45⟩

/-- The word an engine writes: reserved bits zero (Table 4.3). -/
def A44.toBits (x : A44) : BitVec 48 :=
  BitVec.ofNat 48 (unsigned 44 x.v + 2 ^ 44 * b2n x.nv + 2 ^ 45 * b2n x.sat)

/-- Adding `x` into `w` (R91): exact sum clamped to ±(2^43 − 1), NV and SAT sticky. -/
def A44.add (w x : A44) : A44 :=
  let sum := w.v + x.v
  ⟨clampTo a44Max sum, w.nv || x.nv, w.sat || x.sat || decide (sum ≠ clampTo a44Max sum)⟩

/-- A contribution of value `p` at exponent `ein` aligned to `eacc` and clamped (R90 steps 3 and 4). -/
def A44.align (p : Int) (nv : Bool) (d : Int) : A44 :=
  let x := roundNE p (-d)
  ⟨clampTo a44Max x, nv, decide (x ≠ clampTo a44Max x)⟩

/-- The block partial product of two lists of elements (R90 steps 1 and 2): an NV product counts 0 and marks NV. -/
def dotBlock : List (Option Int) → List (Option Int) → Int × Bool
  | a :: as, b :: bs =>
    let r := dotBlock as bs
    match a, b with
    | some x, some y => (x * y + r.1, r.2)
    | _, _ => (r.1, true)
  | _, _ => (0, false)

/-! ## Output conversion (R94-R100) -/

/-- A source value of a conversion: the value (none: NV) and whether it carries a saturation mark. -/
structure SrcVal where
  v   : Option Int
  sat : Bool := false
  deriving DecidableEq, Repr

/-- The largest magnitude among ordinary values. -/
def maxMag : List SrcVal → Nat
  | [] => 0
  | x :: r => max (match x.v with | some y => y.natAbs | none => 0) (maxMag r)

/-- The smallest s, of either sign, with m ≤ q × 2^s, for m > 0 and q > 0. -/
def minShift (m q : Nat) : Int :=
  let s : Int := (Nat.log2 m : Int) - (Nat.log2 q : Int)
  let fits : Bool := if s ≥ 0 then decide (m ≤ q * 2 ^ s.toNat) else decide (m * 2 ^ (-s).toNat ≤ q)
  if fits then s else s + 1

def clampE8 (e : Int) : Int := max (-128) (min 127 e)

/-- The BLOCK-mode E of a block (R95): −128 when every ordinary value is 0 or none is ordinary. -/
def blockE (q : Nat) (ein : Int) (vals : List SrcVal) : Int :=
  let m := maxMag vals
  if m = 0 then -128 else clampE8 (ein + minShift m q)

/-- The conversion control word's fields (Table 4.4). -/
structure Conv where
  dfmt  : Nat
  smode : Nat
  rmode : Nat
  efix  : Nat
  hrec  : Bool
  push  : Bool
  deriving DecidableEq, Repr

def Conv.ofNat (w : Nat) : Conv :=
  ⟨bits w 3 0, bits w 5 4, bits w 7 6, bits w 15 8, bit w 16, bit w 17⟩

/-- Table 4.4's own rules: no reserved mode or bit, EFIX as SMODE allows, HIST and PUSH only with HREC. -/
def Conv.tableOk (w : Nat) : Bool :=
  let c := Conv.ofNat w
  decide (bits w 31 18 = 0) && decide (c.smode ≠ 3) && decide (c.rmode < 2) &&
  (if c.smode = 2 then true else if c.smode = 1 then decide (bits w 15 11 = 0) else decide (c.efix = 0)) &&
  (decide (c.smode ≠ 1) || c.hrec) && (!c.push || c.hrec)

/-- The E a block takes (R95): by BLOCK, by the history entries read at the start, or EFIX. -/
def Conv.scale (c : Conv) (hist : List Int) (q : Nat) (ein : Int) (vals : List SrcVal) : Int :=
  match c.smode with
  | 0 => blockE q ein vals
  | 1 =>
    match hist with
    | [] => blockE q ein vals
    | e :: r => min (r.foldl max e + (bits c.efix 2 0 : Int)) 127
  | _ => signed 8 c.efix

/-- One element (R94): rounding at s = E − Ein, clamp to ±Q, NV and zero rules; the flag is `saturated`. -/
def convElem (q : Nat) (s : Int) (draw : Option Nat) (x : SrcVal) : Option Int × Bool :=
  match x.v with
  | none => (none, x.sat)
  | some v =>
    let r := match draw with | none => roundNE v s | some d => roundSR v s d
    (some (clampTo q r), x.sat || decide (r ≠ clampTo q r))

/-- A converted block: E, the data bytes as a little-endian number, and per element its value (the hi digit for B8X2,
none: NV) and its saturation mark. -/
structure Block where
  e     : Int
  data  : Nat
  elems : List (Option Int × Bool)
  deriving DecidableEq, Repr

/-- Pack elements of `n` bits, first element lowest. -/
def pack (n : Nat) : List Nat → Nat
  | [] => 0
  | x :: r => x % 2 ^ n + 2 ^ n * pack n r

/-- Pair draws with values; no draw for a missing one. -/
def zipDraw : List SrcVal → List Nat → List (SrcVal × Option Nat)
  | [], _ => []
  | x :: r, [] => (x, none) :: zipDraw r []
  | x :: r, d :: ds => (x, some d) :: zipDraw r ds

/-- Convert one block of values at exponent `ein` to the block format `f` at scale `e` (R94, R100). -/
def convBlock (f : Fmt) (e ein : Int) (draws : List Nat) (vals : List SrcVal) : Block :=
  let hi := (zipDraw vals draws).map fun x => convElem f.q (e - ein) x.2 x.1
  match f with
  | .b4 => ⟨e, pack 4 (hi.map fun x => toSignMag 4 x.1), hi⟩
  | .b8 => ⟨e, pack 8 (hi.map fun x => toSignMag 8 x.1), hi⟩
  | .b16 => ⟨e, pack 16 (hi.map fun x => toSignMag 16 x.1), hi⟩
  | .w32 => ⟨e, pack 32 (hi.map fun x => toW32 x.1), hi⟩
  | .b8x2 =>
    -- the residual r = v − hi × 2^(E − Ein), brought to the finer of the two exponents (R100)
    let d := e - ein
    let lo := (List.zip (zipDraw vals draws) hi).map fun x =>
      match x.1.1.v, x.2.1 with
      | some v, some h =>
        let y : Int := if d ≥ 0 then v - h * pow2 d else v * pow2 (-d) - h
        let sh : Int := if d ≥ 0 then d - 7 else -7
        some (clampTo 127 (match x.1.2 with | none => roundNE y sh | some r => roundSR y sh r))
      | _, _ => none
    ⟨e, pack 8 (hi.map fun x => toSignMag 8 x.1) + 2 ^ 256 * pack 8 (lo.map (toSignMag 8)), hi⟩
  | _ => ⟨e, 0, hi⟩

/-- Whether a marked element is in a block; whether an NV is; whether some element is not +0. -/
def Block.sat (b : Block) : Bool := b.elems.any fun x => x.2
def Block.nv (b : Block) : Bool := b.elems.any fun x => x.1.isNone
def Block.nonzero (b : Block) : Bool := b.data != 0

/-! ## Export and ingest (R98, R99) -/

/-- The magnitude `mag` × 2^e lies beyond the largest finite binary32 value, (2^24 − 1) × 2^104. -/
def beyondF32 (mag : Nat) (e : Int) : Bool :=
  decide ((mag : Int) * pow2 (e - 104) > (2 ^ 24 - 1) * pow2 (104 - e))

/-- Export of m × 2^e to binary32 with roundTiesToEven and gradual underflow (R99): bits and saturation. A value that
rounds to zero is +0 (R86). -/
def exportF32 (x : SrcVal) (e : Int) : Nat × Bool :=
  match x.v with
  | none => (0x7FC00000, x.sat)
  | some m =>
    if m = 0 then (0, x.sat)
    else
      let sgn := if m < 0 then 2 ^ 31 else 0
      let mag := m.natAbs
      -- exponent of the leading bit, and the unit in the last place
      let top : Int := (Nat.log2 mag : Int) + e
      let ulp : Int := max (top - 23) (-149)
      let r := (roundNE mag (ulp - e)).toNat
      -- the rounding may carry into the next binade
      let bitsR := if ulp = -149 then r else (ulp + 149).toNat * 2 ^ 23 + r
      if beyondF32 mag e then (sgn + 0x7F7FFFFF, true) else if bitsR = 0 then (0, x.sat) else (sgn + bitsR, x.sat)

/-- Ingest of a floating-point element with `eb` exponent bits and `mb` mantissa bits (R98): NaN and infinity give NV;
a finite value is mantissa × 2^exponent, exactly. -/
def ingestFloat (eb mb : Nat) (w : Nat) : Option (Int × Int) :=
  let man := w % 2 ^ mb
  let ex := w / 2 ^ mb % 2 ^ eb
  let neg := w / 2 ^ (mb + eb) % 2 = 1
  let bias : Int := 2 ^ (eb - 1) - 1
  if ex = 2 ^ eb - 1 then none
  else
    let m : Int := if ex = 0 then man else man + 2 ^ mb
    let e : Int := (if ex = 0 then 1 else ex : Int) - bias - mb
    some (if neg then -m else m, e)

/-! ## The history record (R96) -/

/-- The history record passes (R96). -/
def histOk (r : Nat) : Bool :=
  decide (bits r 135 128 ≤ 15) && decide (bits r 143 136 ≤ 16) && decide (bits r 151 144 ≤ 1) &&
  decide (bits r 255 160 = 0)

/-- The valid entries of a history record. -/
def histEntries (r : Nat) : List Int :=
  (List.range (bits r 143 136)).map fun i => signed 8 (bits r (8 * i + 7) (8 * i))

/-- The record after a command whose required E is `e` (R96). -/
def histUpdate (r : Nat) (e : Int) (push : Bool) : Nat :=
  let head := bits r 135 128
  let cnt := bits r 143 136
  let pv := bits r 151 144
  let p := signed 8 (bits r 159 152)
  let p' := if pv = 0 then e else max p e
  let ent := bits r 127 0
  if push then
    let ent' := ent - bits ent (8 * head + 7) (8 * head) * 2 ^ (8 * head) + unsigned 8 p' * 2 ^ (8 * head)
    ent' + ((head + 1) % 16) * 2 ^ 128 + min (cnt + 1) 16 * 2 ^ 136 + 0 * 2 ^ 144 + unsigned 8 p' * 2 ^ 152
  else ent + head * 2 ^ 128 + cnt * 2 ^ 136 + 1 * 2 ^ 144 + unsigned 8 p' * 2 ^ 152

/-! ## The keyed counter generator (R103, R104) -/

/-- One round of the generator on (c0, c1, c2, c3) with key (k0, k1). -/
def philoxRound (c : Nat × Nat × Nat × Nat) (k0 k1 : Nat) : Nat × Nat × Nat × Nat :=
  let p0 := 0xD2511F53 * c.1
  let p1 := 0xCD9E8D57 * c.2.2.1
  (p1 / 2 ^ 32 ^^^ c.2.1 ^^^ k0, p1 % 2 ^ 32, p0 / 2 ^ 32 ^^^ c.2.2.2 ^^^ k1, p0 % 2 ^ 32)

/-- `n` rounds, the key bumped between rounds. -/
def philox (c : Nat × Nat × Nat × Nat) (k0 k1 : Nat) : Nat → Nat × Nat × Nat × Nat
  | 0 => c
  | n + 1 => philox (philoxRound c k0 k1) ((k0 + 0x9E3779B9) % 2 ^ 32) ((k1 + 0xBB67AE85) % 2 ^ 32) n

/-- x0 of a draw: seed, element, layer, step, micro-batch, stream, purpose (R103). -/
def draw (seed element layer step micro stream purpose : Nat) : Nat :=
  (philox (element % 2 ^ 32, element / 2 ^ 32 % 2 ^ 16 + layer * 2 ^ 16, step,
    micro + purpose * 0x1000 + stream * 0x10000) (seed % 2 ^ 32) (seed / 2 ^ 32) 10).1

end Sys2Proof.Machine
end

