-- ==== Sys2Proof/Machine/Ops.lean ====
section
/-! DEFINITION. The named operations over the state that every family of commands shares: the records of the units by
number, the geometry of the grid, what is sent to the outside, the free values, the firing of an interrupt source. -/

namespace Sys2Proof.Machine

/-- The outcome of a command. -/
abbrev Result := Host.Outcome State Fault Refusal

/-! ## Units by number -/

def State.tile (s : State) (t : Nat) : Tile := Sparse.get {} s.tiles t
def State.setTile (s : State) (t : Nat) (x : Tile) : State := { s with tiles := Sparse.set {} s.tiles t x }
def State.modTile (s : State) (t : Nat) (f : Tile → Tile) : State := s.setTile t (f (s.tile t))

def State.drover (s : State) (d : Nat) : Drover := Sparse.get {} s.drovers d
def State.setDrover (s : State) (d : Nat) (x : Drover) : State := { s with drovers := Sparse.set {} s.drovers d x }
def State.modDrover (s : State) (d : Nat) (f : Drover → Drover) : State := s.setDrover d (f (s.drover d))

def State.ctl (s : State) (k : Nat) : HbmCtl := Sparse.get {} s.hbmCtl k
def State.setCtl (s : State) (k : Nat) (x : HbmCtl) : State := { s with hbmCtl := Sparse.set {} s.hbmCtl k x }
def State.modCtl (s : State) (k : Nat) (f : HbmCtl → HbmCtl) : State := s.setCtl k (f (s.ctl k))

def State.port (s : State) (p : Nat) : HostPort := Sparse.get {} s.ports p
def State.setPort (s : State) (p : Nat) (x : HostPort) : State := { s with ports := Sparse.set {} s.ports p x }
def State.modPort (s : State) (p : Nat) (f : HostPort → HostPort) : State := s.setPort p (f (s.port p))

def State.box (s : State) (p : Nat) : Mailbox := Sparse.get {} s.mbox p
def State.setBox (s : State) (p : Nat) (x : Mailbox) : State := { s with mbox := Sparse.set {} s.mbox p x }
def State.modBox (s : State) (p : Nat) (f : Mailbox → Mailbox) : State := s.setBox p (f (s.box p))

def State.link (s : State) (f : Nat) : LinkPort := Sparse.get {} s.links f
def State.setLink (s : State) (f : Nat) (x : LinkPort) : State := { s with links := Sparse.set {} s.links f x }
def State.modLink (s : State) (f : Nat) (g : LinkPort → LinkPort) : State := s.setLink f (g (s.link f))

def State.irqGrp (s : State) (g : Nat) : IrqGrp := Sparse.get {} s.irq.groups g
def State.setIrqGrp (s : State) (g : Nat) (x : IrqGrp) : State :=
  { s with irq := { s.irq with groups := Sparse.set {} s.irq.groups g x } }
def State.modIrqGrp (s : State) (g : Nat) (f : IrqGrp → IrqGrp) : State := s.setIrqGrp g (f (s.irqGrp g))

def State.secPort (s : State) (p : Nat) : SecPort := Sparse.get {} s.sec.ports p
def State.setSecPort (s : State) (p : Nat) (x : SecPort) : State :=
  { s with sec := { s.sec with ports := Sparse.set {} s.sec.ports p x } }
def State.modSecPort (s : State) (p : Nat) (f : SecPort → SecPort) : State := s.setSecPort p (f (s.secPort p))

def State.withMelvor (s : State) (f : Melvor → Melvor) : State := { s with melvor := f s.melvor }
def State.withPower (s : State) (f : Power → Power) : State := { s with power := f s.power }
def State.withRel (s : State) (f : Reliability → Reliability) : State := { s with rel := f s.rel }
def State.withSnap (s : State) (f : Snapshot → Snapshot) : State := { s with snap := f s.snap }
def State.withSec (s : State) (f : Security → Security) : State := { s with sec := f s.sec }
def State.withGrp (s : State) (f : Group → Group) : State := { s with grp := f s.grp }
def State.withBoot (s : State) (f : Boot → Boot) : State := { s with boot := f s.boot }
def State.withFlash (s : State) (f : Flash → Flash) : State := { s with flash := f s.flash }
def State.withFlashIf (s : State) (f : FlashIf → FlashIf) : State := { s with flashIf := f s.flashIf }

def Tile.withRouter (x : Tile) (f : Router → Router) : Tile := { x with router := f x.router }
def Tile.withCore (x : Tile) (f : TileCore → TileCore) : Tile := { x with core := f x.core }
def Tile.withRel (x : Tile) (f : TileRel → TileRel) : Tile := { x with rel := f x.rel }

/-! ## Outputs, free values -/

/-- Something leaves the module. DESIGN CHOICE, unsafe: notes/assumptions/66.md. -/
def State.emit (s : State) (o : Out) : State := { s with out := o :: s.out }

/-- The next free value, at 512 bits, and the state that will use another one next time.
DESIGN CHOICE, safe: notes/assumptions/2.md. -/
def State.fresh (s : State) : Line × State := (Config.freeValue s.free, { s with free := s.free + 1 })

/-- `n` lines of free values. -/
def State.freshLines (s : State) : Nat → Nat × State
  | 0 => (0, s)
  | n + 1 =>
    let r := s.fresh
    let q := r.2.freshLines n
    (r.1.toNat + q.1 * 2 ^ 512, q.2)

/-! ## Folding a function over numbers -/

/-- Apply `f` for every element of a list, first to last. -/
def forAll {α β : Type} (l : List α) (s : β) (f : β → α → β) : β := l.foldl f s

/-! ## The grid (R11, R18, R30, R32) -/

def Grade.cols : Grade → Nat
  | .st70 => 70
  | .st68 => 68

/-- Logical columns per row (Table 0.1). -/
def State.cols (s : State) : Nat := Grade.cols s.flash.record.grade

def rowOf (t : Nat) : Nat := t / 128
def colOf (t : Nat) : Nat := t % 128
def idOf (row col : Nat) : Nat := row * 128 + col

/-- The ID names a tile (R11): its column is below the grade's column count. A location that the service record
could not place names no tile (R373). -/
def State.tileOk (s : State) (t : Nat) : Bool :=
  decide (t < 8192) && decide (colOf t < s.cols) && !s.flash.unplaced.contains t

/-- Every ID that names a tile of the grade. -/
def State.allTiles (s : State) : List Nat :=
  (List.range 64).flatMap fun r => (List.range s.cols).map fun c => idOf r c

/-- What lies beyond an output of a tile: a neighbour tile and the input it arrives at, a gateway lane, nothing. -/
inductive Peer where
  | tile (t : Nat) (inp : Nat)
  | gateway (d row lane : Nat)
  | none
  deriving DecidableEq, Repr

/-- The drover that serves a gateway, and the gateway's row within it (Table 1.2). -/
def gatewayDrover (east : Bool) (row : Nat) : Nat × Nat := ((if east then 8 else 0) + row / 8, row % 8)

/-- The tile and the side of row `r` of drover `d` (Table 1.2): row number and whether the gateway is east. -/
def droverRow (d r : Nat) : Nat × Bool := (d % 8 * 8 + r, decide (d ≥ 8))

/-- The edge tile that gateway row `r` of drover `d` attaches to, and the input (R18). -/
def State.gatewayTile (s : State) (d r : Nat) : Nat × Nat :=
  let x := droverRow d r
  if x.2 then (idOf x.1 (s.cols - 1), 1) else (idOf x.1 0, 3)

/-- Beyond output `o` (0 north, 1 east, 2 south, 3 west, 4 lane 1 of the edge-facing output) of tile `t` (R30, R32,
R35). -/
def State.beyond (s : State) (t o : Nat) : Peer :=
  let r := rowOf t
  let c := colOf t
  let gw (east : Bool) (lane : Nat) : Peer := let g := gatewayDrover east r; .gateway g.1 g.2 lane
  match o with
  | 0 => if r = 0 then .none else .tile (t - 128) 2
  | 1 => if c + 1 = s.cols then gw true 0 else .tile (t + 1) 3
  | 2 => if r = 63 then .none else .tile (t + 128) 0
  | 3 => if c = 0 then gw false 0 else .tile (t - 1) 1
  | 4 => if c = 0 then gw false 1 else if c + 1 = s.cols then gw true 1 else .none
  | _ => .none

/-- The edge-facing direction of an edge tile (R18). -/
def State.edgeDir (s : State) (t : Nat) : Option Nat :=
  if colOf t = 0 then some 3 else if colOf t + 1 = s.cols then some 1 else none

/-! ## Commands that name a tile -/

/-- A step of a tile's own logic: an ID that names no tile (R11) has none, and nothing happens.
DESIGN CHOICE, unsafe: notes/assumptions/69.md. -/
def atTile (t : TileId) (s : State) (f : State → State) : Result :=
  .next (if s.tileOk t.toNat then f s else s)

/-- The islands are clocked: no trip or shut-off has stopped them, and the module is not at Night (R348, R349, R422). -/
def State.islandsOn (s : State) : Bool := !s.power.clocksStopped && decide (s.power.point ≠ .night)

/-- A step in a tile's island: none happens while the islands are not clocked. -/
def atIsland (t : TileId) (s : State) (f : State → State) : Result :=
  atTile t s fun s => if s.islandsOn then f s else s

/-! ## Activity (R335, R340, R341) -/

/-- A point as POINT codes it (Table 15.8). -/
def Point.code : Point → Nat
  | .dawn => 0 | .noon => 1 | .dusk => 2 | .night => 3

/-- STEP of Table 15.3, of a point by its code. DESIGN CHOICE, unsafe: notes/assumptions/50.md. -/
def rampStep : Nat → Nat
  | 0 => 104 | 1 => 67 | 2 => 83 | _ => 0

/-- The units that an island may spend in the running window: the ceiling, within a step of the window before; the ramp wins
(R340, R341, R343). DESIGN CHOICE, unsafe: notes/assumptions/50.md. -/
def Island.limit (i : Island) (p : Power) : Nat :=
  let step := rampStep i.stepAt
  min (i.act + step) (max p.actCeil.toNat (i.act - step))

/-- The island of tile `t` may issue a row block, a vector or a unit-instruction in the running window. -/
def State.mayIssue (s : State) (t : Nat) : Bool :=
  let i := (s.tile t).island
  decide (i.units + i.other < i.limit s.power)

/-- An issue is delayed to a later window. -/
def holdIssue (s : State) (t : Nat) : State := s.modTile t fun x => { x with island := { x.island with held := true } }

/-- The island is charged `n` units of an engine, or of a unit that no limit holds (Table 15.2, R340). -/
def Tile.chargeFree (x : Tile) (n : Nat) : Tile := { x with island := { x.island with other := x.island.other + n } }
def Tile.charge (x : Tile) (n : Nat) : Tile := { x with island := { x.island with units := x.island.units + n } }

/-- A unit of the tile other than the MXE reads or writes `n` words of working memory. -/
def useWm (s : State) (t n : Nat) : State := s.modTile t fun x => x.chargeFree (8 * n)

/-! ## Interrupt sources (R354) -/

/-- Source `n` fires: its bit in PEND is set; an event that meets a set bit is counted in MERGE_CNT. -/
def fire (s : State) (n : Nat) : State :=
  s.modIrqGrp (n / 16) fun g =>
    if g.pend.getLsbD (n % 16) then { g with mergeCnt := satAdd g.mergeCnt 1 }
    else { g with pend := g.pend ||| BitVec.ofNat 16 (2 ^ (n % 16)) }

/-- Source `n` fires when `c` holds. -/
def fireIf (c : Bool) (s : State) (n : Nat) : State := if c then fire s n else s

/-- A counter is stepped by `upd`, and source `n` fires if it rose: one that holds at its maximum does not (R386). -/
def stepFire (s : State) (read : State → Word) (upd : State → State) (n : Nat) : State :=
  fireIf (decide (read (upd s) ≠ read s)) (upd s) n

/-- The tie token of parties 0 to `n - 1` after claims of the parties `l` in one cycle, and the claimant served first: the
first in cyclic order from the holder (R285). -/
def tiePass (n tok : Nat) (l : List Nat) : Option Nat × Nat :=
  match ((List.range n).map fun i => (tok + i) % n).find? fun p => l.contains p with
  | some p => (some p, if l.length > 1 then (p + 1) % n else tok)
  | none => (none, tok)

end Sys2Proof.Machine
end

