-- ==== Sys2Proof/Machine/Access.lean ====
section
/-! DEFINITION. Accesses from outside a unit: the events that a host port records (R273), tile memories and the
maintenance path (R7, R14, R81, R82, R224, R225), the exit from Night (R350), and the marking of a tile for retirement
(R372). -/

namespace Sys2Proof

/-- Errors as the numbers of `Tile.flaws`. -/
def Ecc.level : Ecc → Nat
  | .ok => 0 | .ce => 1 | .ue => 2
def Ecc.ofLevel : Nat → Ecc
  | 0 => .ok | 1 => .ce | _ => .ue

/-- The worse of two checks. -/
def Ecc.worse (a b : Ecc) : Ecc := Ecc.ofLevel (max a.level b.level)

end Sys2Proof

namespace Sys2Proof.Machine

/-! ## What a port records (R273, Table 12.4) -/

/-- Port `p` records an event: kind 1 address fault, 2 refused, 3 poisoned data sent, 4 poisoned write received; `bar` 0
BAR0, 1 BAR2 or HDM, 2 BAR4. The first event is kept, and fires source 4 of the port. -/
def portEvent (s : State) (p kind bar : Nat) (addr : Addr) (rid : BitVec 16) : State :=
  let h := s.port p
  let h1 : HostPort := match kind with
    | 1 => { h with urCnt := satAdd h.urCnt 1 }
    | 2 => { h with caCnt := satAdd h.caCnt 1 }
    | 3 => { h with epSent := satAdd h.epSent 1 }
    | _ => { h with epRcvd := satAdd h.epRcvd 1 }
  match h.fault with
  | some _ => s.setPort p h1
  | none =>
    fire (s.setPort p { h1 with fault := some ⟨addr, BitVec.ofNat 2 bar, BitVec.ofNat 3 kind, rid⟩ }) (16 * p + 4)

/-- An access that the world rules refuse (R397). -/
def worldRefused (s : State) : State := s.withSec fun x => { x with worldRefusedCnt := satAdd x.worldRefusedCnt 1 }

/-! ## Tile memories -/

/-- A write to scrub word `w` (working words 0–16,383, accumulator words from 16,384) cancels its rewrite (R371). -/
def TileRel.touch (r : TileRel) (lo hi : Nat) : TileRel :=
  match r.rewrite with
  | some w => if lo ≤ w ∧ w ≤ hi then { r with rewrite := none } else r
  | none => r

/-- The keys of the codes over bytes `[a, a + n)` of working memory, and over accumulator word `w` (R222). -/
def wmCodes (a n : Nat) : Nat × Nat := (a / 8, (a + n - 1) / 8)
def amCode (w : Nat) : Nat × Nat := (131072 + w, 131072 + w)

/-- The worst stored error among the codes that `sel` selects. -/
def Tile.flawWhere (x : Tile) (sel : Nat → Bool) : Ecc :=
  Ecc.ofLevel (x.flaws.foldl (fun m f => if sel f.1 then max m f.2 else m) 0)

/-- The worst stored error among the codes `c.1` to `c.2`. -/
def Tile.flaw (x : Tile) (c : Nat × Nat) : Ecc := x.flawWhere fun k => decide (c.1 ≤ k) && decide (k ≤ c.2)

/-- The codes `c.1` to `c.2` are written afresh: their errors end. -/
def Tile.recode (x : Tile) (c : Nat × Nat) : Tile :=
  { x with flaws := x.flaws.filter fun f => decide (f.1 < c.1) || decide (c.2 < f.1) }

/-- A read finds the error `e` in code `k`: it stays until the word is written (R223). -/
def Tile.withFlaw (x : Tile) (k : Nat) (e : Ecc) : Tile :=
  if e = .ok then x else { x with flaws := Sparse.set 0 x.flaws k (max e.level (Sparse.get 0 x.flaws k)) }

/-- Write `n` bytes of working memory. -/
def Tile.writeW (x : Tile) (a n v : Nat) : Tile :=
  { x.recode (wmCodes a n) with wmem := writeBytes x.wmem a v n, rel := x.rel.touch (a / 64) ((a + n - 1) / 64) }

/-- Read `n` bytes of working memory. -/
def Tile.readW (x : Tile) (a n : Nat) : Nat := readBytes x.wmem a n

/-- Write accumulator word `w`. -/
def Tile.writeA (x : Tile) (w : Nat) (v : BitVec 48) : Tile :=
  { x.recode (amCode w) with amem := Sparse.set 0 x.amem w v, rel := x.rel.touch (16384 + w) (16384 + w) }

def Tile.readA (x : Tile) (w : Nat) : BitVec 48 := Sparse.get 0 x.amem w

/-- Write byte `a` of the accumulator range: word a / 6, a read-modify-write (R225). -/
def Tile.writeAByte (x : Tile) (a : Nat) (v : Byte) : Tile :=
  let w := x.readA (a / 6)
  let sh := 8 * (a % 6)
  x.writeA (a / 6) (w &&& ~~~(BitVec.ofNat 48 (255 * 2 ^ sh)) ||| BitVec.ofNat 48 (v.toNat * 2 ^ sh))

def Tile.readAByte (x : Tile) (a : Nat) : Byte := BitVec.ofNat 8 ((x.readA (a / 6)).toNat / 2 ^ (8 * (a % 6)))

/-- Clear the four cycle counters (bit 0) and the four error counters (bit 1) of Table 2.8 (R55). -/
def Router.clear (r : Router) (v : Nat) : Router :=
  let r := if bit v 0 then { r with stallOut := 0, stallIn := 0, stallHold := 0, stretchCnt := 0 } else r
  if bit v 1 then { r with ceN := 0, ceE := 0, ceS := 0, ceW := 0 } else r

/-- CLR_CNT of Table 3.11 (R81). -/
def TileCore.clear (c : TileCore) (v : Nat) : TileCore :=
  if bit v 0 then { c with retired := 0, dual := 0, wait := 0, interlock := 0, imemCe := 0 } else c

/-- Write 32-bit word `i` of the schedule memory (R39). -/
def Router.writeSched (r : Router) (i v : Nat) : Router :=
  let e := (Sparse.get 0 r.sched (i / 4)).toNat
  let lo := 32 * (i % 4)
  { r with sched := Sparse.set 0 r.sched (i / 4) (BitVec.ofNat 128 (e - bits e (lo + 31) lo * 2 ^ lo + v * 2 ^ lo)) }

/-- A 32-bit write to a tile register, offset `r` of the region (Tables 2.8, 3.11, 8.8); `none`: not performed (R39). -/
def Tile.writeReg (x : Tile) (r v : Nat) : Option Tile :=
  if r = 0x0104 then some (x.withRouter fun y => { y with wdLimit := BitVec.ofNat 32 v, wdCount := 0 })
  else if r = 0x0134 then some (x.withRouter fun y => y.clear v)
  else if r = 0x0048 then some (x.withCore fun y => y.clear v)
  else if 0x1000 ≤ r ∧ r ≤ 0x2FFF then
    if x.core.state = 1 then none else some (x.withRouter fun y => y.writeSched ((r - 0x1000) / 4) v)
  else some x

/-- A 32-bit write at offset `off` of a tile window (R14, R81, R82, R224, R225); `none`: an address fault. -/
def Tile.write32 (x : Tile) (off v : Nat) : Option Tile :=
  if off % 4 ≠ 0 then none
  else if off < 0x100000 then if x.core.state = 1 then none else some (x.writeW off 4 v)
  else if 0x100000 ≤ off ∧ off < 0x124000 then
    if x.core.state = 1 then none
    else some (forAll (List.range 4) x fun x i =>
      x.writeAByte (off - 0x100000 + i) (BitVec.ofNat 8 (v / 256 ^ i)))
  else if 0x140000 ≤ off ∧ off < 0x148000 then
    if x.core.state = 1 then none
    else some (x.withCore fun c =>
      { c with imem := Sparse.set 0 c.imem ((off - 0x140000) / 4) (BitVec.ofNat 32 v) })
  else if 0x180000 ≤ off ∧ off < 0x190000 then x.writeReg (off - 0x180000) v
  else none

/-! ## Operating points, Night (R334, R350) -/

/-- Clock order: Night, Dawn, Dusk, Noon (Table 0.6). -/
def Point.rank : Point → Nat
  | .night => 0 | .dawn => 1 | .dusk => 2 | .noon => 3

/-- The lower-clocked of two points. -/
def Point.lower (a b : Point) : Point := if a.rank ≤ b.rank then a else b

/-- A preference code (Table 15.1). -/
def prefPoint (c : BitVec 2) : Point :=
  match c.toNat with
  | 0 => .dawn | 2 => .dusk | _ => .noon

/-- The preference of the phase in effect. -/
def Power.pref (p : Power) : Point :=
  match p.phase.toNat with
  | 0 => prefPoint p.fwd | 1 => prefPoint p.bwd | 2 => prefPoint p.upd | _ => prefPoint p.exch

/-- The thermal limit (R347). -/
def Power.thermLimit (p : Power) : Point :=
  if p.thermLimitDawn || decide (p.thermLevel ≥ 2) then .dawn else if p.thermLevel = 1 then .dusk else .noon

/-- The target point: the lowest-clocked of the preference and the limits (R334). -/
def Power.aim (p : Power) : Power := { p with target := (p.pref.lower p.capLimit).lower p.thermLimit }

/-- A trigger of R350: NIGHT_REQ clears, and a module at Night is brought to Dawn. The 250 µs that this takes hold the
triggering action; they are time only. DEDUCED, unsafe: notes/assumptions/45.md. -/
def nightExit (s : State) : State :=
  s.withPower fun p =>
    if p.point = .night then
      Power.aim { p with nightReq := false, point := .dawn, chg := .idle, changing := false, supply := p.dawnMv,
                         nightBlockUs := 100000, pointChgCnt := satAdd p.pointChgCnt 1 }
    else { p with nightReq := false }

/-! ## The maintenance path -/

/-- Agent `w` reaches the tile window of tile `t`: Melvor firmware and the loader, and a port that is secure, not removed,
through the half of BAR4 that TWSEL selects (R81, R272); a drover in the job's world (R235, R397). -/
def maintReach (s : State) (w : Agent) (t : Nat) : Bool :=
  match w with
  | .melvor => decide (s.boot.stage ≥ 2) && !s.melvor.lockstepErr
  | .port p => decide (s.boot.stage ≥ 3) && (s.port p).secure && ((s.port p).half == decide (t ≥ 4096))
  | .drover _ => !(s.tile t).world || (match s.melvor.job with | some j => j.world | none => false)
  | .smbus => false

/-- The agent is a host port. -/
def agentPort : Agent → Bool
  | .port _ => true
  | _ => false

/-- A register or window access of agent `w` that is not performed: an address fault of the requester (R7, R273). -/
def addressFault (s : State) (w : Agent) (bar : Nat) (off : Addr) : State :=
  match w with
  | .port p => (portEvent s p 1 bar off 0).emit (.aer p .unsupported)
  | w => s.emit (.addressFault w)

/-- A 32-bit write by agent `w` at offset `off` of tile `t`'s window. -/
def maintWrite (s : State) (w : Agent) (t off v : Nat) : State :=
  let barOff : Addr := BitVec.ofNat 48 (t % 4096 * 0x200000 + off)
  let worldBad : Bool := match w with | .drover _ => !maintReach s w t | _ => false
  if !maintReach s w t then addressFault (if worldBad then worldRefused s else s) w 2 barOff
  else
    let s := nightExit s
    match (s.tile t).write32 off v with
    | some x => s.setTile t x
    | none => addressFault s w 2 barOff

/-- The same for any tile ID: the window of one that names no tile lies outside every region (R14). -/
def tileWrite (s : State) (w : Agent) (t off v : Nat) : State :=
  if s.tileOk t then maintWrite s w t off v
  else addressFault s w 2 (BitVec.ofNat 48 (t % 4096 * 0x200000 + off))

/-! ## Retirement triggers (R372, Table 17.3) -/

/-- The window of Table 17.3 in µs; an hour field of 0 acts as 1. -/
def State.window (s : State) : Nat := max 1 s.rel.serviceWindowH.toNat * 3600000000

/-- The times that lie within the window. DESIGN CHOICE, unsafe: notes/assumptions/41.md. -/
def State.recent (s : State) (l : List Nat) : List Nat := l.filter fun x => decide (s.clockUs < x + s.window)

/-- Melvor firmware sets NO_SPARE. -/
def setNoSpare (s : State) : State :=
  fireIf (!s.rel.noSpare) (s.withRel fun r => { r with noSpare := true }) 148

/-- The counts of tile `t`. -/
def State.count (s : State) (t : Nat) : TileCount := Sparse.get {} s.flash.counts t
def State.setCount (s : State) (t : Nat) (x : TileCount) : State :=
  s.withFlash fun f => { f with counts := Sparse.set {} f.counts t x }

/-- A mark of tile `t` awaits activation. -/
def State.retirePending (s : State) (t : Nat) : Bool :=
  decide (s.flash.service.count t > s.flash.applied.count t)

/-- A write of the replay-protected area: the counter, and the tag under the replay key (R390).
DEDUCED, unsafe: notes/assumptions/54.md. -/
def flashWrite (s : State) (f : Flash → Flash) : State :=
  s.withFlash fun x =>
    let y := { f x with writeCount := x.writeCount + 1 }
    { y with tag := areaTag s.sec.replayKey y.writeCount y.minSvn y.bootCount y.operatorKey y.service }

/-- Melvor firmware marks tile `t` for retirement: RETIRE_PEND, and the service record of at most 64 tiles; with the record
full, NO_SPARE, and the tile names none from the next activation on (R373). DESIGN CHOICE, unsafe: notes/assumptions/41.md. -/
def markRetire (s : State) (t : Nat) : State :=
  if s.sec.replayErr || !s.melvor.fwReady || s.melvor.lockstepErr then s
  else if s.retirePending t || s.rel.overflow.contains t then s
  else if s.flash.service.length ≥ 64 then setNoSpare (s.withRel fun r => { r with overflow := r.overflow ++ [t] })
  else
    let s1 := flashWrite s fun f => { f with service := f.service ++ [t] }
    fireIf (!s.rel.retirePend) (s1.withRel fun r => { r with retirePend := true }) 147

/-- A trigger of Table 17.3 that is charged to tile `t` holds. -/
def State.retireDue (s : State) (t : Nat) : Bool :=
  let c := s.count t
  decide ((s.recent c.ue).length ≥ 2) || decide ((s.recent c.rep).length ≥ 4) ||
    decide ((s.recent c.wmemCe).length + (s.recent c.amemCe).length ≥ s.rel.tileCeTh.toNat)

def checkTile (s : State) (t : Nat) : State := if s.retireDue t then markRetire s t else s

/-- The trigger of the logical link that enters tile `t` at input `i`: two LINK_UE within the window mark the receiving
tile, and once that tile has been replaced, the sending tile. DESIGN CHOICE, unsafe: notes/assumptions/41.md. -/
def checkLink (s : State) (t i : Nat) : State :=
  if (s.recent (Sparse.get [] s.flash.linkUes (t * 8 + i))).length ≥ 2 then
    if s.flash.applied.contains t && !s.flash.unplaced.contains t then
      match s.beyond t i with
      | .tile u _ => markRetire s u
      | _ => s
    else markRetire s t
  else s

/-- Every trigger is looked at: the firmware has started, or a threshold or the window has been written. -/
def checkTriggers (s : State) : State :=
  let s := forAll (s.flash.counts.map Prod.fst) s checkTile
  forAll (s.flash.linkUes.map Prod.fst) s fun s k => checkLink s (k / 8) (k % 8)

/-- An uncorrectable error charged to tile `t`. -/
def chargeUe (s : State) (t : Nat) : State :=
  let c := s.count t
  checkTile (s.setCount t { c with ue := s.clockUs :: s.recent c.ue }) t

/-- A LINK_UE charged to the logical link that enters tile `t` at input `i`. -/
def chargeLinkUe (s : State) (t i : Nat) : State :=
  let key := t * 8 + i
  let c := s.count t
  let s := s.setCount t { c with link := s.clockUs :: s.recent c.link }
  checkLink (s.withFlash fun f => { f with linkUes := Sparse.set [] f.linkUes key (s.clockUs :: s.recent (Sparse.get [] f.linkUes key)) })
    t i

/-- A corrected error of tile `t`'s working (or accumulator) memory, counted in Table 17.7 and in the trigger of
TILE_CE_TH. -/
def chargeCe (s : State) (t : Nat) (acc : Bool) : State :=
  let c := s.count t
  checkTile (s.setCount t (if acc then { c with amemCe := s.clockUs :: s.recent c.amemCe }
    else { c with wmemCe := s.clockUs :: s.recent c.wmemCe })) t

end Sys2Proof.Machine
end

