-- ==== Sys2Proof/Machine/Fabric.lean ====
section
/-! DEFINITION. The router's parts: tile faults (R51, R77, R78), links with their ROOM and credits (R37, R40, R42,
R175, R244), stream queues (R173, R174), crooks (R176-R179), the sources and the conditions of a slot (R40, R46, R49,
R50). -/

namespace Sys2Proof.Machine

/-! ## Tile faults -/

/-- STATE of a tile that stops (Table 3.11); a tile without a fold keeps 0. A tile whose part was complete (2) becomes 3 too:
Table 3.11 does not rank the two. DESIGN CHOICE, unsafe: notes/assumptions/71.md. -/
def stopState (st : BitVec 2) : BitVec 2 := if st = 0 then 0 else 3

/-- The first mesh fault is kept, with the entry and the slot current at the fault (R51). -/
def Router.record (r : Router) (code port claimant : Nat) : Router :=
  let f : MeshFault := ⟨BitVec.ofNat 4 code, BitVec.ofNat 3 port, BitVec.ofNat 3 claimant, r.entry, r.slotCnt⟩
  { r with fault := some (r.fault.getD f) }

/-- The router stops where it stands. STALLED and HELD of a tile that a fault or a freeze stops inside a stalled slot read 0:
the slot never completes, and Table 2.8 does not say whether the bits stay. DESIGN CHOICE, unsafe:
notes/assumptions/71.md. -/
def Router.halt (r : Router) : Router := { r with stalled := false, held := false, last := false }

/-- Tile `t` raises a mesh fault and stops at once (R51, R34, R52). -/
def meshFault (s : State) (t code port claimant : Nat) : State :=
  s.modTile t fun x =>
    { x with
      router := (x.router.record code port claimant).halt
      core := { x.core with state := stopState x.core.state } }

/-- Tile fault LINK_UE at tile `t`, on the link that enters it at input `port` (R34). -/
def linkUe (s : State) (t port : Nat) : State := chargeLinkUe (meshFault s t 3 port 0) t port

/-- Tile fault LINK_UE at the sender `t`, on the return path of its output `o` (R34): the error is charged to the
link's receiving tile. -/
def returnUe (s : State) (t o : Nat) : State :=
  let s1 := meshFault s t 3 o 0
  match s.beyond t o with
  | .tile u i => chargeLinkUe s1 u i
  | _ => s1

/-- Tile `t` raises a core fault: the first one is kept, core and engines stop, and the router stops when its current slot
completes, its next slot boundary (R77, R78). Uncorrectable errors of its memories and engines are charged to it
(Table 17.3). -/
def coreFault (s : State) (t : Nat) (f : CoreFault) : State :=
  let s := s.modTile t fun x =>
    { x with
      core := { x.core with fault := some (x.core.fault.getD f), state := stopState x.core.state }
      router := { x.router with
        last := x.router.last || (decide (x.core.state = 1) && !x.router.used && !x.router.halted && !x.router.frozen) } }
  if f.code = 4 ∨ f.code = 5 ∨ f.code = 6 ∨ (f.code = 8 ∧ (f.detail = 0x40 ∨ f.detail = 0x41)) then chargeUe s t else s

/-! ## Links -/

/-- One credit for queue `q` of input `d` of tile `t` returns to whoever holds them (R42, R175). -/
def returnCredit (s : State) (t d q : Nat) : State :=
  match s.beyond t d with
  | .tile u o => s.modTile u fun x => x.withRouter fun r => { r with credit := Sparse.mod 0 r.credit (8 * o + q) (· + 1) }
  | .gateway dr row _ => s.modDrover dr fun x => { x with credits := Sparse.mod 0 x.credits (row * 8 + q) (· + 1) }
  | .none => s

/-- One crossing-buffer entry of input `inp` of tile `t` has been freed: ROOM returns to the sender (Table 2.1). -/
def returnRoom (s : State) (t inp : Nat) : State :=
  match s.beyond t inp with
  | .tile u o => s.modTile u fun x => x.withRouter fun r => { r with room := Sparse.mod 0 r.room o (· + 1) }
  | .gateway dr row lane => s.modDrover dr fun x => { x with room := Sparse.mod 0 x.room (row * 2 + lane) (· + 1) }
  | .none => s

/-- A token leaves tile `t` on output `o`: into the receiver's crossing buffer, or into the gateway channel TAG[6:4]
(R244). -/
def sendToken (s : State) (t o : Nat) (k : Token) : State :=
  match s.beyond t o with
  | .tile u i => s.modTile u fun x => x.withRouter fun r => { r with cross := Sparse.mod [] r.cross i (· ++ [k]) }
  | .gateway dr row lane =>
    s.modDrover dr fun x =>
      { x with chans := Sparse.mod [] x.chans ((row * 2 + lane) * 8 + bits k.tag.toNat 6 4)
                 (· ++ [((s.tile t).router.slotCnt.toNat, k)]) }
  | .none => s

/-- The head of the crossing buffer of input `inp` leaves it; on an edge-facing input, as the next of its lane. -/
def popCross (s : State) (t inp : Nat) : State :=
  returnRoom (s.modTile t fun x => x.withRouter fun r =>
    { r with cross := Sparse.mod [] r.cross inp (·.drop 1)
             laneOrder := if inp = 4 ∨ s.edgeDir t = some inp then r.laneOrder.erase (decide (inp = 4)) else r.laneOrder })
    t inp

/-! ## Stream queues -/

def Router.queue (r : Router) (k : Nat) : StreamQueue := Sparse.get {} r.queues k
/-- DESIGN CHOICE, unsafe: notes/assumptions/10.md. -/
def StreamQueue.depth (q : StreamQueue) : Nat := bits q.cfg.toNat 5 0
def StreamQueue.cons (q : StreamQueue) : Nat := bits q.cfg.toNat 7 6
def StreamQueue.cidx (q : StreamQueue) : Nat := bits q.cfg.toNat 9 8

/-- The head of queue `k` = 8 × input + queue, seen by consumer `cons` (0 router, 1 tile core, 2 crook `cidx`); no other
unit reads it (R174). -/
def Router.head (r : Router) (k cons cidx : Nat) : Option Token :=
  let q := r.queue k
  if q.cons = cons ∧ (cons = 2 → q.cidx = cidx) then q.toks.head? else none

/-- The head of queue `k` leaves; its credit returns (R42). -/
def popQueue (s : State) (t k : Nat) : State :=
  returnCredit
    (s.modTile t fun x => x.withRouter fun r =>
      { r with queues := Sparse.mod {} r.queues k fun q => { q with toks := q.toks.drop 1 } })
    t (k / 8) (k % 8)

/-- A corrected error on input `inp` (Table 2.8; lane 1 counts with its edge input `edge`). -/
def Router.countCe (r : Router) (inp edge : Nat) : Router :=
  match (if inp = 4 then edge else inp) with
  | 0 => { r with ceN := satAdd r.ceN 1 }
  | 1 => { r with ceE := satAdd r.ceE 1 }
  | 2 => { r with ceS := satAdd r.ceS 1 }
  | _ => { r with ceW := satAdd r.ceW 1 }

def countCe (s : State) (t inp : Nat) : State :=
  s.modTile t fun x => x.withRouter fun r => r.countCe inp ((s.edgeDir t).getD 3)

/-! ## Schedule entries (Tables 2.3-2.5) -/

def Router.entryWord (r : Router) (e : Nat) : Nat := (Sparse.get 0 r.sched e).toNat

/-- The field of output `o` in the current entry. -/
def Router.field (r : Router) (o : Nat) : Nat := bits (r.entryWord r.entry.toNat) (13 * o + 12) (13 * o)

def fieldDirect (f : Nat) : Bool := bit f 12
def fieldQueue (f : Nat) : Nat := bits f 11 9
def fieldKind (f : Nat) : Nat := bits f 8 6
def fieldIndex (f : Nat) : Nat := bits f 5 0

/-- REPEAT, WRAP and HALT of an entry. -/
def entryRepeat (e : Nat) : Nat := bits e 80 65
def entryWrap (e : Nat) : Bool := bit e 81
def entryHalt (e : Nat) : Bool := bit e 82

/-! ## Crooks (R176-R179) -/

def Router.crook (r : Router) (k : Nat) : Crook := Sparse.get {} r.crooks k
def Crook.mode (c : Crook) : Nat := bits c.cfg0.toNat 2 0
def Crook.csrc (c : Crook) : Nat := bits c.cfg0.toNat 4 3
def Crook.in0 (c : Crook) : Nat := bits c.cfg0.toNat 12 8
def Crook.in1 (c : Crook) : Nat := bits c.cfg0.toNat 17 13
def Crook.cq (c : Crook) : Nat := bits c.cfg0.toNat 22 18
def Crook.outA (c : Crook) : Nat := bits c.cfg0.toNat 25 23
def Crook.outB (c : Crook) : Nat := bits c.cfg0.toNat 28 26
def Crook.cb (c : Crook) : Nat := bits c.cfg1.toNat 5 0
def Crook.period (c : Crook) : Nat := if bits c.cfg2.toNat 15 0 = 0 then 65536 else bits c.cfg2.toNat 15 0

/-- The condition c of R177, INV applied. -/
def Crook.cond (c : Crook) (tok ctrl : Option Token) : Bool :=
  let v : Bool := match c.csrc with
    | 0 => true
    | 1 => match tok with
      | some k => bit (Line.bytes k.data c.cb 1) (bits c.cfg1.toNat 8 6)
      | none => false
    | 2 => match ctrl with
      | some k => decide (Line.bytes k.data 0 4 ≠ 0)
      | none => false
    | _ => decide (c.ccnt.toNat < bits c.cfg2.toNat 31 16)
  v != bit c.cfg0.toNat 5

/-- The repeat count n of R177. -/
def Crook.num (c : Crook) (tok ctrl : Option Token) : Nat :=
  match c.csrc with
  | 0 => bits c.cfg1.toNat 31 16
  | 1 => match tok with
    | some k => Line.bytes k.data c.cb 2
    | none => 0
  | _ => match ctrl with
    | some k => Line.bytes k.data 0 2
    | none => 0

/-- What a crook does in a slot it owns an output of: it waits (for the queue of an input), or it presents tokens and
nulls, takes heads, and moves on. -/
inductive CrookStep where
  | wait (inp : Option Nat)
  | go (outs : List (Nat × Option (Line × Bool))) (pops : List Nat) (next : Crook)
  deriving DecidableEq, Repr

def Token.last (k : Token) : Bool := bit k.tag.toNat 3

/-- CCNT after a decision whose data token is `k` (R177). -/
def Crook.counted (c : Crook) (k : Token) : Crook :=
  if c.csrc = 3 then
    if bit c.cfg0.toNat 6 && k.last then { c with ccnt := 0 }
    else { c with ccnt := BitVec.ofNat 16 ((c.ccnt.toNat + 1) % c.period) }
  else c

/-- Table 8.2 and R177 allow the configuration. -/
def Crook.allowed (c : Crook) : Bool :=
  decide (1 ≤ c.mode) && decide (c.mode ≤ 4) && !(c.mode == 2 && c.csrc == 1) && !(c.mode == 4 && c.csrc == 3)

/-- Crook `k`'s step (R176-R179). -/
def Router.crookStep (r : Router) (k : Nat) : CrookStep :=
  let c := r.crook k
  if !c.allowed then .wait none
  else
    let needCtrl := decide (c.csrc = 2) && !(c.mode == 4 && decide (c.copies > 0))
    let ctrl := if needCtrl then r.head c.cq 2 k else none
    if needCtrl && ctrl.isNone then .wait (some (c.cq / 8))
    else
      let cpop := if needCtrl then [c.cq] else []
      let inq := if c.mode = 2 ∧ c.cond none ctrl then c.in1 else c.in0
      match r.head inq 2 k with
      | none => .wait (some (inq / 8))
      | some tok =>
        let item := some (tok.data, tok.last)
        match c.mode with
        | 1 =>
          let b := c.cond (some tok) ctrl
          .go [(c.outA, if b then item else none), (c.outB, if b then none else item)] (inq :: cpop) (c.counted tok)
        | 2 => .go [(c.outA, item)] (inq :: cpop) (c.counted tok)
        | 3 => .go [(c.outA, if c.cond (some tok) ctrl then item else none)] (inq :: cpop) (c.counted tok)
        | _ =>
          let n := if c.copies > 0 then c.count else c.num (some tok) ctrl
          if n = 0 then .go [(c.outA, none)] (inq :: cpop) c
          else if c.copies + 1 ≥ n then
            .go [(c.outA, item)] (inq :: cpop) { c with copies := 0, count := 0 }
          else .go [(c.outA, some (tok.data, false))] cpop { c with copies := c.copies + 1, count := n }

/-! ## Sources of a slot (Table 2.5) -/

/-- What a source presents on an output. -/
inductive Pres where
  | absent
  | null
  | tok (data : Line) (last : Bool)
  deriving DecidableEq, Repr

/-- The input that a direct source's INDEX names. -/
def directInput (idx : Nat) : Nat := if bit idx 2 then 4 else idx % 4

/-- What the owner of output `o`, given by the field `f`, presents (R40, R68, R174, R178). -/
def Tile.present (x : Tile) (f o : Nat) : Pres :=
  let r := x.router
  let idx := fieldIndex f
  match fieldKind f with
  | 1 =>
    match (Sparse.get [] r.cross (directInput idx)).head? with
    | some k => if bit k.tag.toNat 7 then .tok k.data k.last else .absent
    | none => .absent
  | 2 =>
    match r.head (idx % 32) 0 0 with
    | some k => .tok k.data k.last
    | none => .absent
  | 3 =>
    match x.core.sendBuf.head? with
    | some m => if m.out.toNat = o ∧ m.entry = r.entry then .tok m.data m.last else .absent
    | none => .absent
  | 4 =>
    match r.crookStep (idx % 4) with
    | .wait _ => .absent
    | .go outs _ _ =>
      match outs.lookup o with
      | some (some v) => .tok v.1 v.2
      | _ => .null
  | _ => .absent

/-- The outputs that the current entry gives an owner. -/
def Router.owned (r : Router) : List Nat := (List.range 5).filter fun o => decide (fieldKind (r.field o) ≠ 0)

/-- The crooks that own an output of the current entry, each once. -/
def Router.owningCrooks (r : Router) : List Nat :=
  (List.range 4).filter fun k => r.owned.any fun o => fieldKind (r.field o) == 4 && fieldIndex (r.field o) % 4 == k

/-- The output can take a token (R40, R244). An edge-facing output needs the credit of the gateway's channel only: R40
also lists ROOM for every output, and R244 gives the gateway no crossing buffer. DEDUCED, unsafe: notes/assumptions/72.md.
-/
def canTake (s : State) (t o : Nat) : Bool :=
  let r := (s.tile t).router
  let f := r.field o
  let credit := decide (Sparse.get 0 r.credit (8 * o + fieldQueue f) > 0)
  match s.beyond t o with
  | .tile _ _ => decide (Sparse.get 0 r.room o > 0) && (fieldDirect f || credit)
  | .gateway _ _ _ => credit
  | .none => false

/-! ## Held tiles (R49) -/

/-- The incoming link of input `inp` carries HOLD, or is an edge gateway lane. The model counts a gateway lane as without a
token for a source that finds its queue empty, also while a token of the lane is in its crossing buffer or for another queue,
and counts a RECV that waits on a queue of such an input with the causes of R49. DESIGN CHOICE, unsafe:
notes/assumptions/91.md. -/
def linkHeld (s : State) (t inp : Nat) : Bool :=
  match s.beyond t inp with
  | .tile u _ => (s.tile u).router.held
  | .gateway _ _ _ => true
  | .none => false

/-- The input that the core's blocked RECV waits on. -/
def TileCore.recvInput (c : TileCore) : Option Nat :=
  match c.blocked with
  | some b => if b.on = 1 then some (bits b.word.toNat 16 15) else none
  | none => none

/-- Whether the source of output `o`, which presents nothing, is itself kept waiting by a held link. -/
def sourceHeld (s : State) (t o : Nat) : Bool :=
  let x := s.tile t
  let f := x.router.field o
  let idx := fieldIndex f
  let via (i : Option Nat) : Bool := match i with | some i => linkHeld s t i | none => false
  match fieldKind f with
  | 1 => linkHeld s t (directInput idx)
  | 2 => linkHeld s t (idx % 32 / 8)
  | 3 => via x.core.recvInput
  | 4 => match x.router.crookStep (idx % 4) with | .wait i => via i | .go _ _ _ => false
  | _ => false

/-! ## Claims (R50) -/

/-- The first output, in ascending order, that a source claims without owning it, with the source's KIND. Where the core send
and a crook both claim one output that neither owns, the core send is recorded: R50 does not say which. DESIGN CHOICE,
unsafe: notes/assumptions/73.md. -/
def Tile.violation (x : Tile) : Option (Nat × Nat) :=
  let r := x.router
  let claimed (o : Nat) : Option (Nat × Nat) :=
    let f := r.field o
    let bySend := match x.core.sendBuf.head? with
      | some m => decide (m.out.toNat = o) && decide (m.entry = r.entry) && decide (fieldKind f ≠ 3)
      | none => false
    let byCrook := r.owningCrooks.any fun k =>
      match r.crookStep k with
      | .go outs _ _ => (match outs.lookup o with | some (some _) => true | _ => false) &&
          !(fieldKind f == 4 && fieldIndex f % 4 == k)
      | .wait _ => false
    if bySend then some (o, 3) else if byCrook then some (o, 4) else none
  (List.range 5).findSome? claimed

end Sys2Proof.Machine
end

