-- ==== Sys2Proof/Machine/Operands.lean ====
section
/-! DEFINITION. The operand forms of a Rolia word (Tables 3.2-3.4): its fields, its class, which words are illegal
(R59, R61, R67, R69, R71, R75, R76), what a word reads and writes (R63), and the registers of the tile core (R56). -/

namespace Sys2Proof.Machine

/-! ## Registers and predicates (R56) -/

/-- g[n]; g0 reads 0. -/
def TileCore.g (c : TileCore) (n : Nat) : Word := if n = 0 then 0 else Sparse.get 0 c.regs n

/-- Write g[n]; a write to g0 is discarded. -/
def TileCore.setG (c : TileCore) (n : Nat) (v : Word) : TileCore :=
  if n = 0 then c else { c with regs := Sparse.set 0 c.regs n v }

/-- p[n]; p0 reads 1. -/
def TileCore.p (c : TileCore) (n : Nat) : Bool := if n = 0 then true else c.preds.getLsbD n

/-- Write p[n]; a write to p0 is discarded. -/
def TileCore.setP (c : TileCore) (n : Nat) (v : Bool) : TileCore :=
  if n = 0 then c
  else
    let m : Byte := BitVec.ofNat 8 (2 ^ n)
    { c with preds := if v then c.preds ||| m else c.preds &&& ~~~m }

/-- The instruction word at index `i` (R82). -/
def TileCore.word (c : TileCore) (i : Nat) : Nat := (Sparse.get 0 c.imem i).toNat

/-! ## Fields (Tables 3.2, 3.3) -/

def wPG (w : Nat) : Nat := bits w 31 29
def wPN (w : Nat) : Bool := bit w 28
def wOP (w : Nat) : Nat := bits w 27 22
def wRD (w : Nat) : Nat := bits w 21 17
def wRA (w : Nat) : Nat := bits w 16 12
def wRB (w : Nat) : Nat := bits w 11 7
def wFN (w : Nat) : Nat := bits w 6 0
def wImm12 (w : Nat) : Word := BitVec.ofInt 32 (signed 12 (bits w 11 0))
def wImm16 (w : Nat) : Nat := bits w 15 0
/-- Format C: PD, COND, RA, RB, IMM11. -/
def wPD (w : Nat) : Nat := bits w 21 19
def wCond (w : Nat) : Nat := bits w 18 16
def wCRA (w : Nat) : Nat := bits w 15 11
def wCRB (w : Nat) : Nat := bits w 10 6
def wImm11 (w : Nat) : Word := BitVec.ofInt 32 (signed 11 (bits w 10 0))
/-- Format P: PA, PB, FN. -/
def wPA (w : Nat) : Nat := bits w 18 16
def wPB (w : Nat) : Nat := bits w 15 13
def wPFN (w : Nat) : Nat := bits w 12 10
/-- Format B. -/
def wOff22 (w : Nat) : Int := signed 22 (bits w 21 0)
/-- Format S: RA, OUT, LAST, ENTRY. Format V: RA, DIR, QUEUE, NB, PD. -/
def wSRA (w : Nat) : Nat := bits w 21 17
def wOut (w : Nat) : Nat := bits w 16 14
def wLast (w : Nat) : Bool := bit w 13
def wEntry (w : Nat) : Nat := bits w 12 4
def wDir (w : Nat) : Nat := bits w 16 15
def wQueue (w : Nat) : Nat := bits w 14 12
def wNB (w : Nat) : Bool := bit w 11
def wVPD (w : Nat) : Nat := bits w 10 8
/-- Format E. -/
def wEng (w : Nat) : Nat := bits w 11 10
def wSumm (w : Nat) : Bool := bit w 9

/-! ## Listed operations, illegal words, classes -/

/-- The OP codes of Table 3.4. -/
def opListed (op : Nat) : Bool :=
  decide (op ≤ 0x0B) || (decide (0x10 ≤ op) && decide (op ≤ 0x13)) || (decide (0x18 ≤ op) && decide (op ≤ 0x1A)) ||
  op == 0x20 || op == 0x21 || (decide (0x28 ≤ op) && decide (op ≤ 0x2A)) || op == 0x3E || op == 0x3F

/-- The word raises ILLEGAL, whatever its guard (R60, R61). So does the reserved COND 7 of CMP and CMPI, which no rule names:
R61 names unlisted codes. DEDUCED, unsafe: notes/assumptions/89.md. -/
def wIllegal (w : Nat) : Bool :=
  match wOP w with
  | 0x00 => decide (wFN w > 0x0E)
  | 0x01 | 0x02 | 0x03 | 0x04 | 0x10 | 0x11 => false
  | 0x05 | 0x06 | 0x07 => decide (bits w 11 5 ≠ 0)
  | 0x08 => bit w 16
  | 0x09 => decide (bits w 5 0 ≠ 0) || decide (wCond w = 7)
  | 0x0A => decide (wCond w = 7)
  | 0x0B => decide (bits w 9 0 ≠ 0) || decide (wPFN w > 3)
  | 0x12 | 0x13 => decide (wRD w = 0) || decide (wRD w = 31)
  | 0x18 | 0x1A => false
  | 0x19 => decide (wRD w ≠ 0) || decide (bits w 11 0 ≠ 0)
  | 0x20 => decide (bits w 3 0 ≠ 0) || decide (wOut w > 4)
  | 0x21 => decide (bits w 7 0 ≠ 0) || (!wNB w && decide (wVPD w ≠ 0))
  | 0x28 | 0x29 => decide (bits w 8 0 ≠ 0) || decide (wEng w = 3)
  | 0x2A => decide (bits w 8 0 ≠ 0) || decide (wEng w = 3) || decide (wRD w = 0) || decide (wRD w > 28)
  | 0x3E => decide (bits w 21 16 ≠ 0) || decide (wImm16 w ≠ 0)
  | 0x3F => decide (bits w 21 16 ≠ 0)
  | _ => true

/-- The class of a word: that of its OP; an ALU word with an unlisted FN counts as class A; an unlisted OP has none
(R63). -/
def wClass (w : Nat) : Option Cls :=
  match wOP w with
  | 0x00 => if 0x0C ≤ wFN w ∧ wFN w ≤ 0x0E then some .X else some .A
  | 0x10 | 0x11 | 0x12 | 0x13 | 0x20 | 0x21 | 0x28 | 0x2A => some .M
  | 0x18 | 0x19 | 0x1A => some .B
  | 0x29 => some .W
  | 0x3E | 0x3F => some .S
  | op => if opListed op then some .A else none

/-- A set of general registers; g0 is never in it. -/
def regSet (l : List Nat) : BitVec 32 :=
  (l.filter fun n => n ≠ 0).foldl (fun m n => m ||| BitVec.ofNat 32 (2 ^ n)) 0

/-- A set of predicates; p0 is never in it. -/
def predSet (l : List Nat) : Byte :=
  (l.filter fun n => n ≠ 0).foldl (fun m n => m ||| BitVec.ofNat 8 (2 ^ n)) 0

/-- The general registers a word reads. -/
def wReads (w : Nat) : BitVec 32 :=
  match wOP w with
  | 0x00 => regSet [wRA w, wRB w]
  | 0x08 | 0x0B | 0x18 | 0x1A | 0x2A | 0x3E | 0x3F => 0
  | 0x09 => regSet [wCRA w, wCRB w]
  | 0x0A => regSet [wCRA w]
  | 0x11 => regSet [wRA w, wRD w]
  | 0x13 => regSet [wRA w, wRD w, wRD w + 1]
  | 0x20 | 0x21 => regSet [wSRA w]
  | _ => regSet [wRA w]

/-- The predicates a word reads, its guard among them. -/
def wReadsP (w : Nat) : Byte :=
  match wOP w with
  | 0x0B => predSet [wPG w, wPA w, wPB w]
  | _ => predSet [wPG w]

/-- The general registers a word writes. -/
def wWrites (w : Nat) : BitVec 32 :=
  match wOP w with
  | 0x09 | 0x0A | 0x0B | 0x11 | 0x13 | 0x18 | 0x19 | 0x20 | 0x21 | 0x29 | 0x3E | 0x3F => 0
  | 0x12 => regSet [wRD w, wRD w + 1]
  | 0x1A => regSet [31]
  | 0x2A => regSet [wRD w, wRD w + 1, wRD w + 2, wRD w + 3]
  | _ => regSet [wRD w]

/-- The predicates a word writes. -/
def wWritesP (w : Nat) : Byte :=
  match wOP w with
  | 0x09 | 0x0A | 0x0B => predSet [wPD w]
  | 0x21 => if wNB w then predSet [wVPD w] else 0
  | _ => 0

/-- A word may issue as the second of a pair beside the first that `r` describes (R63).
DESIGN CHOICE, unsafe: notes/assumptions/8.md. -/
def pairs (r : IssueRec) (w : Nat) : Bool :=
  match wClass w with
  | none => false
  | some c =>
    !(r.cls == .M && c == .M) && !(r.cls == .X && c == .X) && r.cls != .B &&
    r.cls != .W && r.cls != .S && c != .W && c != .S &&
    (wReads w &&& r.regs) == 0 && (wReadsP w &&& r.preds) == 0 &&
    (wWrites w &&& r.regs) == 0 && (wWritesP w &&& r.preds) == 0

/-- The guard of a word (R60). -/
def TileCore.guard (c : TileCore) (w : Nat) : Bool := c.p (wPG w) != wPN w

end Sys2Proof.Machine
end

