-- ==== Sys2Proof/Machine/Flags.lean ====
section
/-! DEFINITION. The tests and functions of the tile core: Table 3.5, COND, PLOG's functions, the signed comparison of
sequence numbers (R61, R74, R75). The core has no flags register. -/

namespace Sys2Proof.Machine

/-- Table 3.5. -/
def aluFn (fn : Nat) (a b : Word) : Word :=
  let sh := b.toNat % 32
  match fn with
  | 0x00 => a + b
  | 0x01 => a - b
  | 0x02 => a &&& b
  | 0x03 => a ||| b
  | 0x04 => a ^^^ b
  | 0x05 => a <<< sh
  | 0x06 => a >>> sh
  | 0x07 => a.sshiftRight sh
  | 0x08 => if a.toInt ≤ b.toInt then a else b
  | 0x09 => if a.toInt ≤ b.toInt then b else a
  | 0x0A => if a.toNat ≤ b.toNat then a else b
  | 0x0B => if a.toNat ≤ b.toNat then b else a
  | 0x0C => a * b
  | 0x0D => BitVec.ofInt 32 (a.toInt * b.toInt / 2 ^ 32)
  | _ => BitVec.ofNat 32 (a.toNat * b.toNat / 2 ^ 32)

/-- The COND tests of CMP and CMPI. -/
def condFn (cond : Nat) (a b : Word) : Bool :=
  match cond with
  | 0 => a == b
  | 1 => a != b
  | 2 => decide (a.toInt < b.toInt)
  | 3 => decide (b.toInt ≤ a.toInt)
  | 4 => decide (a.toNat < b.toNat)
  | 5 => decide (b.toNat ≤ a.toNat)
  | _ => (a &&& b) != 0

/-- The functions of PLOG. -/
def plogFn (fn : Nat) (a b : Bool) : Bool :=
  match fn with
  | 0 => a && b
  | 1 => a || b
  | 2 => a != b
  | _ => a && !b

/-- (a − b), taken as a signed 32-bit value, is zero or more (R74, R75). -/
def seqGe (a b : Word) : Bool := decide ((a - b).toNat < 2 ^ 31)

end Sys2Proof.Machine
end

