-- ==== Sys2Proof/Machine/Rolia.lean ====
section
/-! DEFINITION. The commands of the tile core: the issue of each Rolia word, the late retirement of the blocking ones,
the completion of the tile's part (spec 03). -/

namespace Sys2Proof.Machine

/-! ## Engine queues -/

/-- The command queue of engine `e` (0 MXE, 1 VXE, 2 UPE). -/
def Tile.eng (x : Tile) (e : Nat) : EngQ :=
  match e with | 0 => x.mxe.q | 1 => x.vxe.q | _ => x.upe.q

def Tile.setEng (x : Tile) (e : Nat) (q : EngQ) : Tile :=
  match e with
  | 0 => { x with mxe := { x.mxe with q := q } }
  | 1 => { x with vxe := { x.vxe with q := q } }
  | _ => { x with upe := { x.upe with q := q } }

/-- The engine holds a command that it has taken and not completed. -/
def Tile.engBusy (x : Tile) (e : Nat) : Bool :=
  match e with | 0 => x.mxe.run.isSome | 1 => x.vxe.run.isSome | _ => x.upe.run.isSome

/-! ## Issue (R60-R66) -/

/-- What the operation of a word does: it retires and issue goes on at word `next`; it raises a core fault; it blocks;
it ends issue; the tile has already raised a mesh fault. -/
inductive OpEnd where
  | retire (s : State) (next : Nat)
  | fault (s : State) (code info : Nat)
  | block (on : Nat)
  | stop (s : State)
  | meshStop (s : State)

/-- The core may issue: the fold runs on the tile, END has not retired, nothing is blocked, the tile is not frozen. -/
def Tile.canIssue (x : Tile) : Bool :=
  decide (x.core.state = 1) && !x.core.ended && x.core.blocked.isNone && !x.router.frozen

def State.modCore (s : State) (t : Nat) (f : TileCore → TileCore) : State := s.modTile t fun x => x.withCore f

/-! ## The cycles of issue (R64, R65, Table 3.6) -/

/-- Cycles after its issue from which a word's result can be used, where that is more than one (Table 3.6). -/
def wLatency (w : Nat) : Nat :=
  match wOP w with
  | 0x00 => if 0x0C ≤ wFN w ∧ wFN w ≤ 0x0E then 3 else 1
  | 0x10 => 3
  | 0x12 => 4
  | _ => 1

/-- `n` cycles pass. -/
def TileCore.tick (c : TileCore) (n : Nat) : TileCore :=
  { c with late := (c.late.map fun x => (x.1, x.2 - n)).filter fun x => x.2 ≠ 0, gap := false }

/-- Cycles until every register in the set can be used. -/
def TileCore.pendingFor (c : TileCore) (regs : BitVec 32) : Nat :=
  c.late.foldl (fun m x => if regs.getLsbD x.1 then max m x.2 else m) 0

/-- Word `w` issues as the first of a pair, one cycle after the last issue or two after a taken branch; it is held longer
while a source register is not ready, and each such cycle counts. -/
def TileCore.hold (c : TileCore) (w : Nat) : TileCore :=
  let base := if c.gap then 2 else 1
  let h := c.pendingFor (wReads w) - base
  { c.tick (base + h) with interlock := satAdd c.interlock h }

/-- An executed word's results are on their way, in place of older ones of the registers it writes: results are written in
program order, so a result that the next cycle can use leaves nothing to wait for. A branch leaves the next cycle empty
(R65). -/
def TileCore.launch (c : TileCore) (w : Nat) : TileCore :=
  let dst := (List.range 32).filter fun n => (wWrites w).getLsbD n
  let cycles := if wLatency w ≤ 1 then 0 else wLatency w
  { c with late := dst.foldl (fun m n => Sparse.set 0 m n cycles) c.late
           gap := decide (wClass w = some .B) }

/-- An executed word that retires launches its results (Table 3.6). -/
def OpEnd.launch (t w : Nat) : OpEnd → OpEnd
  | .retire s next => .retire (s.modTile t fun x => x.withCore fun c => c.launch w) next
  | e => e

/-- A retired instruction counts, progress is made (R52), and issue goes on at `next`. -/
def retire (s : State) (t next : Nat) : State :=
  s.modTile t fun x =>
    { x with
      core := { x.core with retired := satAdd x.core.retired 1, pc := BitVec.ofNat 13 next, blocked := none }
      router := { x.router with wdCount := 0 } }

/-- END retires: CORE_PC keeps its index (R80). -/
def retireEnd (s : State) (t pc : Nat) : State :=
  (retire s t pc).modCore t fun c => { c with ended := true }

/-- What the pairing rule keeps of a word that issued as the first of a pair: its static write set, whatever its guard. R63
does not say whether a first with a false guard still writes. DESIGN CHOICE, unsafe: notes/assumptions/75.md. -/
def issueRec (w : Nat) : Option IssueRec :=
  match wClass w with
  | some c => some ⟨c, wWrites w, wWritesP w⟩
  | none => none

/-- The end of an issued or unblocked word `w` at index `pc`; the island is charged its cycle (R335). Where the word blocks,
faults, or has faulted, CORE_PC stays at it; DUAL_CNT does not count the cycle in which the second of a pair is presented and
blocks; a blocked word that faults when it is tried again keeps its WAITING and WAIT_ON. DEDUCED, unsafe:
notes/assumptions/13.md. DESIGN CHOICE, unsafe: notes/assumptions/75.md. -/
def finish (t pc w : Nat) (same : Bool) (e : OpEnd) (s0 : State) : State :=
  let dual (s : State) :=
    if same then s.modCore t fun c => { c with dual := satAdd c.dual 1 } else s.modTile t fun x => x.chargeFree 6
  let mark (s : State) := s.modCore t fun c => { c with first := if same then none else issueRec w }
  match e with
  | .retire s next => mark (dual (retire s t next))
  | .stop s => mark (dual (retireEnd s t pc))
  | .fault s code info =>
    coreFault (dual s) t ⟨BitVec.ofNat 4 code, 0, 0, same, BitVec.ofNat 13 pc, BitVec.ofNat 32 info⟩
  | .meshStop s => dual s
  | .block on =>
    s0.modCore t fun c => { c with
      first := none
      wait := satAdd c.wait 1
      blocked := some ⟨BitVec.ofNat 3 on, BitVec.ofNat 32 w, BitVec.ofNat 13 pc⟩ }

/-- A word falls through unless it branches, ends or traps with a true guard (R62). -/
def fallsThrough (w : Nat) (guard : Bool) : Bool :=
  !(guard && (wOP w == 0x18 || wOP w == 0x19 || wOP w == 0x1A || wOP w == 0x3E || wOP w == 0x3F))

/-- The issue of the word at CORE_PC, when its OP is one that `mine` accepts: the cycles held for operands (R64; the
second of a pair issues only with its operands ready), the fetch check (R82), the encoding check (R60, R61), the
fall-through (R62), the guard (R60), then the operation. The cycle in which a first issues alone, while a second that R63
allows waits for an operand, is no held cycle of INTERLOCK_CNT; the next ones are. DESIGN CHOICE, unsafe:
notes/assumptions/8.md. DESIGN CHOICE, unsafe: notes/assumptions/75.md. -/
def issue (i : Issue) (mine : Nat → Bool) (op : Nat → State → OpEnd) (s : State) : State :=
  let t := i.tile.toNat
  let x := s.tile t
  let pc := x.core.pc.toNat
  let w := x.core.word pc
  let second := i.same && (match x.core.first with | some r => pairs r w | none => false)
  if !x.canIssue || !mine (wOP w) || (i.same && !(second && x.core.pendingFor (wReads w) == 0)) then s
  else
    let s := if second then s else s.modCore t fun c => c.hold (if i.fetch = .ue then 0 else w)
    if i.fetch = .ue then finish t pc w second (.fault s 4 pc) s
    else
      let s := if i.fetch = .ce then s.modCore t fun c => { c with imemCe := satAdd c.imemCe 1 } else s
      let guard := x.core.guard w
      if wIllegal w then finish t pc w second (.fault s 1 w) s
      else if pc = 8191 ∧ fallsThrough w guard then finish t pc w second (.fault s 3 8192) s
      else if guard then finish t pc w second ((op w s).launch t w) s
      else finish t pc w second (.retire s (pc + 1)) s

/-- A blocked word tries again, a cycle later; while its condition is not met, the cycle counts in WAIT_CNT (R66). A word
that blocked as the second of its pair and faults when it is tried again has SECOND = 0: Table 3.11 does not say.
DESIGN CHOICE, unsafe: notes/assumptions/75.md. -/
def unblock (t : TileId) (on : Nat) (op : Nat → State → OpEnd) (s : State) : State :=
  let x := s.tile t.toNat
  match x.core.blocked with
  | none => s
  | some b =>
    if b.on.toNat ≠ on ∨ x.core.state ≠ 1 ∨ x.router.frozen then s
    else
      let s := s.modTile t.toNat fun x => x.withCore fun c => c.tick 1
      finish t.toNat b.pc.toNat b.word.toNat false ((op b.word.toNat s).launch t.toNat b.word.toNat) s

/-- The row of a word of operation `code`. DEDUCED, unsafe: notes/assumptions/13.md. -/
def row (code : Nat) (i : Issue) (op : Nat → Nat → State → OpEnd) (s : State) : Result :=
  atIsland i.tile s (issue i (fun o => o == code) (op i.tile.toNat))

/-! ## Operations without memory (Tables 3.4, 3.5) -/

/-- The operation of a class A or X word that writes one register: retire at the next word. -/
def opReg (t rd : Nat) (v : TileCore → Word) (s : State) : OpEnd :=
  let c := (s.tile t).core
  .retire (s.setTile t ((s.tile t).withCore fun c => c.setG rd (v c))) (c.pc.toNat + 1)

/-- The operation of a word that writes one predicate. -/
def opPred (t pd : Nat) (v : TileCore → Bool) (s : State) : OpEnd :=
  let c := (s.tile t).core
  .retire (s.setTile t ((s.tile t).withCore fun c => c.setP pd (v c))) (c.pc.toNat + 1)

def opAlu (t w : Nat) (s : State) : OpEnd :=
  opReg t (wRD w) (fun c => aluFn (wFN w) (c.g (wRA w)) (c.g (wRB w))) s

/-- An operation with IMM12, as function `fn` of Table 3.5. -/
def opImm (fn : Nat) (t w : Nat) (s : State) : OpEnd :=
  opReg t (wRD w) (fun c => aluFn fn (c.g (wRA w)) (wImm12 w)) s

def opLui (t w : Nat) (s : State) : OpEnd := opReg t (wRD w) (fun _ => BitVec.ofNat 32 (wImm16 w * 0x10000)) s
def opCmp (t w : Nat) (s : State) : OpEnd :=
  opPred t (wPD w) (fun c => condFn (wCond w) (c.g (wCRA w)) (c.g (wCRB w))) s
def opCmpi (t w : Nat) (s : State) : OpEnd := opPred t (wPD w) (fun c => condFn (wCond w) (c.g (wCRA w)) (wImm11 w)) s
def opPlog (t w : Nat) (s : State) : OpEnd := opPred t (wPD w) (fun c => plogFn (wPFN w) (c.p (wPA w)) (c.p (wPB w))) s

def execAlu (i : Issue) (s : State) : Result := row 0x00 i opAlu s
def execAddi (i : Issue) (s : State) : Result := row 0x01 i (opImm 0x00) s
def execAndi (i : Issue) (s : State) : Result := row 0x02 i (opImm 0x02) s
def execOri (i : Issue) (s : State) : Result := row 0x03 i (opImm 0x03) s
def execXori (i : Issue) (s : State) : Result := row 0x04 i (opImm 0x04) s
def execSlli (i : Issue) (s : State) : Result := row 0x05 i (opImm 0x05) s
def execSrli (i : Issue) (s : State) : Result := row 0x06 i (opImm 0x06) s
def execSrai (i : Issue) (s : State) : Result := row 0x07 i (opImm 0x07) s
def execLui (i : Issue) (s : State) : Result := row 0x08 i opLui s
def execCmp (i : Issue) (s : State) : Result := row 0x09 i opCmp s
def execCmpi (i : Issue) (s : State) : Result := row 0x0A i opCmpi s
def execPlog (i : Issue) (s : State) : Result := row 0x0B i opPlog s

/-! ## Loads and stores (R57, R58) -/

/-- The address of a load or store: g[RA] + IMM12, modulo 2^32. -/
def eaOf (c : TileCore) (w : Nat) : Nat := (c.g (wRA w) + wImm12 w).toNat

/-- The word index of the running instruction plus 1. -/
def nextPc (s : State) (t : Nat) : Nat := (s.tile t).core.pc.toNat + 1

/-- A read by the core of the codes `c`, finding the error `e` beside what is stored (R222, R223): the corrected read
counts; an uncorrectable one raises WMEM_UE or AMEM_UE. -/
def readChecked (s : State) (t : Nat) (acc : Bool) (c : Nat × Nat) (e : Ecc) (info : Nat) (k : State → OpEnd) : OpEnd :=
  let s := s.modTile t fun x => x.withFlaw c.1 e
  match (s.tile t).flaw c with
  | .ok => k s
  | .ce => k (chargeCe s t acc)
  | .ue => .fault s (if acc then 6 else 5) info

/-- DEDUCED, unsafe: notes/assumptions/9.md. -/
def opLd (e : Ecc) (t w : Nat) (s : State) : OpEnd :=
  let ea := eaOf (s.tile t).core w
  if ea % 4 ≠ 0 ∨ ea ≥ 0x100000 then .fault s 2 ea
  else readChecked (useWm s t 1) t false (wmCodes ea 4) e ea fun s =>
    opReg t (wRD w) (fun _ => BitVec.ofNat 32 ((s.tile t).readW ea 4)) s

def opSt (t w : Nat) (s : State) : OpEnd :=
  let c := (s.tile t).core
  let ea := eaOf c w
  if ea % 4 ≠ 0 ∨ ea ≥ 0x100000 then .fault s 2 ea
  else .retire ((useWm s t 1).modTile t fun x => x.writeW ea 4 (c.g (wRD w)).toNat) (nextPc s t)

/-- DEDUCED, unsafe: notes/assumptions/9.md. -/
def opLda (e : Ecc) (t w : Nat) (s : State) : OpEnd :=
  let ea := eaOf (s.tile t).core w
  if ea ≥ 24576 then .fault s 2 ea
  else readChecked s t true (amCode ea) e ea fun s =>
    let v := ((s.tile t).readA ea).toNat
    .retire (s.modCore t fun c =>
      (c.setG (wRD w) (BitVec.ofNat 32 v)).setG (wRD w + 1) (BitVec.ofNat 32 (v / 2 ^ 32))) (nextPc s t)

def opSta (t w : Nat) (s : State) : OpEnd :=
  let c := (s.tile t).core
  let ea := eaOf c w
  if ea ≥ 24576 then .fault s 2 ea
  else
    let v := (c.g (wRD w)).toNat + (c.g (wRD w + 1)).toNat % 0x10000 * 2 ^ 32
    .retire (s.modTile t fun x => x.writeA ea (BitVec.ofNat 48 v)) (nextPc s t)

def execLd (i : Issue) (e : Ecc) (s : State) : Result := row 0x10 i (opLd e) s
def execSt (i : Issue) (s : State) : Result := row 0x11 i opSt s
def execLda (i : Issue) (e : Ecc) (s : State) : Result := row 0x12 i (opLda e) s
def execSta (i : Issue) (s : State) : Result := row 0x13 i opSta s

/-! ## Branches (R62, R65) -/

/-- A branch to word index `target`, with the register written before. FAULT_INFO shows a target below word 0 as its 32-bit
two's complement: Table 3.10 gives no form. DESIGN CHOICE, unsafe: notes/assumptions/75.md. -/
def opBranch (target : Int) (s s1 : State) : OpEnd :=
  if target < 0 ∨ target > 8191 then .fault s 3 (unsigned 32 target) else .retire s1 target.toNat

def opBr (t w : Nat) (s : State) : OpEnd := opBranch ((s.tile t).core.pc.toNat + wOff22 w) s s

def opJr (t w : Nat) (s : State) : OpEnd :=
  let a := ((s.tile t).core.g (wRA w)).toNat
  if a ≥ 2 ^ 13 then .fault s 3 a else .retire s a

def opBrl (t w : Nat) (s : State) : OpEnd :=
  let pc := (s.tile t).core.pc.toNat
  opBranch (pc + wOff22 w) s (s.modCore t fun c => c.setG 31 (BitVec.ofNat 32 (pc + 1)))

def execBr (i : Issue) (s : State) : Result := row 0x18 i opBr s
def execJr (i : Issue) (s : State) : Result := row 0x19 i opJr s
def execBrl (i : Issue) (s : State) : Result := row 0x1A i opBrl s

/-! ## Messages (R67, R69) -/

/-- A 64-byte working-memory address is aligned and inside (Table 3.1). -/
def lineAddr (a : Nat) : Bool := decide (a % 64 = 0) && decide (a < 0x100000)

def opSend (e : Ecc) (t w : Nat) (s : State) : OpEnd :=
  let x := s.tile t
  let a := (x.core.g (wSRA w)).toNat
  if !lineAddr a then .fault s 2 a
  else if x.core.sendBuf.length ≥ 4 then .block 2
  else readChecked (useWm s t 1) t false (wmCodes a 64) e a fun s =>
    let m : SendMsg := ⟨BitVec.ofNat 512 (x.readW a 64), BitVec.ofNat 3 (wOut w), BitVec.ofNat 9 (wEntry w), wLast w⟩
    .retire (s.modCore t fun c => { c with sendBuf := c.sendBuf ++ [m] }) (nextPc s t)

def opRecv (chk : Ecc) (t w : Nat) (s : State) : OpEnd :=
  let x := s.tile t
  let a := (x.core.g (wSRA w)).toNat
  let k := wDir w * 8 + wQueue w
  if !lineAddr a then .fault s 2 a
  else match x.router.head k 1 0 with
  | none =>
    if wNB w then .retire (s.modCore t fun c => c.setP (wVPD w) false) (nextPc s t) else .block 1
  | some tok =>
    let s1 := popQueue s t k
    match chk with
    | .ue => .meshStop (linkUe s1 t (wDir w))
    | _ =>
      let s2 := if chk = .ce then countCe s1 t (wDir w) else s1
      let s3 := (useWm s2 t 1).modTile t fun x => x.writeW a 64 tok.data.toNat
      .retire (if wNB w then s3.modCore t fun c => c.setP (wVPD w) true else s3) (nextPc s t)

def execSend (i : Issue) (e : Ecc) (s : State) : Result := row 0x20 i (opSend e) s
def execSendUnblock (t : TileId) (e : Ecc) (s : State) : Result := atIsland t s (unblock t 2 (opSend e t.toNat))
def execRecv (i : Issue) (chk : Ecc) (s : State) : Result := row 0x21 i (opRecv chk) s
def execRecvUnblock (t : TileId) (chk : Ecc) (s : State) : Result := atIsland t s (unblock t 1 (opRecv chk t.toNat))

/-! ## Engine command queues (R71, R75, R76) -/

def opEnq (e : Ecc) (t w : Nat) (s : State) : OpEnd :=
  let x := s.tile t
  let a := (x.core.g (wRA w)).toNat
  let q := x.eng (wEng w)
  if !lineAddr a then .fault s 2 a
  else if q.queue.length ≥ 8 then .block 3
  else readChecked (useWm s t 1) t false (wmCodes a 64) e a fun s =>
    let seq := q.enq + 1
    let c : Cmd := ⟨BitVec.ofNat 512 (x.readW a 64), seq, wSumm w, x.core.pc⟩
    .retire (s.modTile t fun x =>
      (x.setEng (wEng w) { q with queue := q.queue ++ [c], enq := seq }).withCore fun c => c.setG (wRD w) seq)
      (nextPc s t)

def opWaite (t w : Nat) (s : State) : OpEnd :=
  let x := s.tile t
  if seqGe (x.eng (wEng w)).done (x.core.g (wRA w)) then .retire s (nextPc s t) else .block 5

def opSumm (t w : Nat) (s : State) : OpEnd :=
  let x := s.tile t
  let q := x.eng (wEng w)
  match q.summs with
  | [] => .block 4
  | r :: rest =>
    let g (i : Nat) : Word := BitVec.ofNat 32 (r.toNat / 2 ^ (32 * i))
    let rd := wRD w
    .retire (s.modTile t fun x => (x.setEng (wEng w) { q with summs := rest }).withCore fun c =>
      (((c.setG rd (g 0)).setG (rd + 1) (g 1)).setG (rd + 2) (g 2)).setG (rd + 3) (g 3)) (nextPc s t)

def execEnq (i : Issue) (e : Ecc) (s : State) : Result := row 0x28 i (opEnq e) s
def execEnqUnblock (t : TileId) (e : Ecc) (s : State) : Result := atIsland t s (unblock t 3 (opEnq e t.toNat))
def execWaite (i : Issue) (s : State) : Result := row 0x29 i opWaite s
def execWaiteRetire (t : TileId) (s : State) : Result := atIsland t s (unblock t 5 (opWaite t.toNat))
def execSumm (i : Issue) (s : State) : Result := row 0x2A i opSumm s
def execSummUnblock (t : TileId) (s : State) : Result := atIsland t s (unblock t 4 (opSumm t.toNat))

/-! ## End, trap, unlisted words -/

def opEnd (_t _w : Nat) (s : State) : OpEnd := .stop s
def opTrap (_t w : Nat) (s : State) : OpEnd := .fault s 9 (wImm16 w)

def execEndOp (i : Issue) (s : State) : Result := row 0x3E i opEnd s
def execTrap (i : Issue) (s : State) : Result := row 0x3F i opTrap s

/-- A word whose OP is unlisted: `issue` raises ILLEGAL; it never pairs (R61, R63). -/
def execUnlistedOpWord (i : Issue) (s : State) : Result :=
  atIsland i.tile s (issue i (fun o => !opListed o) fun w s => .fault s 1 w)

/-- The conditions of R80. -/
def Tile.partDone (x : Tile) : Bool :=
  x.core.ended && x.router.halted && x.core.sendBuf.isEmpty &&
  (List.range 3).all fun e => (x.eng e).queue.isEmpty && !x.engBusy e

/-- TILE_PART_COMPLETE (R80): STATE becomes 2. -/
def execTilePartComplete (t : TileId) (s : State) : Result :=
  atIsland t s fun s =>
    let x := s.tile t.toNat
    if x.core.state = 1 ∧ x.partDone then s.modCore t.toNat fun c => { c with state := 2 } else s

end Sys2Proof.Machine
end

