-- ==== Sys2Proof/Machine/Engines.lean ====
section
/-! DEFINITION. What the three engines of a tile share: the command record's header and its checks (R74, Table 3.7),
taking a command, DEP waits, faults (R78), summaries (R76, R97, Table 3.8), strided regions of working memory, history
records (R96), the output of a converted block. -/

namespace Sys2Proof.Machine

/-! ## The record -/

def rOpcode (r : Line) : Nat := bits r.toNat 7 0
def rDepEn (r : Line) : Bool := bit r.toNat 8
def rDepEng (r : Line) : Nat := bits r.toNat 10 9
def rDepSeq (r : Line) : Word := BitVec.ofNat 32 (Line.bytes r 4 4)

/-- Field `[hi:lo]` of the 32-bit word at byte `b`. -/
def rField (r : Line) (b hi lo : Nat) : Nat := bits (Line.bytes r b 4) hi lo

/-- The header check of R74 for engine `e`; a record with no sequence number (a static one) has no self-wait check. -/
def headerBad (e : Nat) (r : Line) (seq : Option Word) : Bool :=
  decide (bits (Line.bytes r 0 4) 31 11 ≠ 0) || decide (rDepEng r = 3) ||
  (rDepEn r && decide (rDepEng r = e) && match seq with | some q => seqGe (rDepSeq r) q | none => false)

/-- The DEP condition of a record (R74). -/
def Tile.depOk (x : Tile) (r : Line) : Bool := !rDepEn r || seqGe (x.eng (rDepEng r)).done (rDepSeq r)

/-- The engines work: the fold runs on the tile and the tile is not frozen (R54, R78). -/
def Tile.engOn (x : Tile) : Bool := decide (x.core.state = 1) && !x.router.frozen

/-! ## Faults -/

/-- ENG_CMD of command `c` of engine `e` (R74, R78): FAULT_PC holds its ENQ. -/
def engCmd (s : State) (t e detail : Nat) (c : Cmd) : State :=
  coreFault s t ⟨7, BitVec.ofNat 2 e, BitVec.ofNat 8 detail, false, c.pc, c.seq⟩

/-- ENG_FAULT of command `c` of engine `e`. -/
def engFault (s : State) (t e detail : Nat) (c : Cmd) : State :=
  coreFault s t ⟨8, BitVec.ofNat 2 e, BitVec.ofNat 8 detail, false, c.pc, c.seq⟩

/-- What engine `e` reads for command `c` passes its checks (R223): an uncorrectable error of working or accumulator memory
is DETAIL 0x40 or 0x41, a corrected one counts. -/
def engReads (s : State) (t e : Nat) (c : Cmd) (wm am : Ecc) (k : State → State) : State :=
  if wm = .ue then engFault s t e 0x40 c
  else
    let s := if wm = .ce then chargeCe s t false else s
    if am = .ue then engFault s t e 0x41 c else k (if am = .ce then chargeCe s t true else s)

/-! ## Summaries -/

/-- The summary record of command number `seq` (Table 3.8). -/
def SumAcc.record (a : SumAcc) (maxv : Nat) (seq : Word) : BitVec 128 :=
  let flags := b2n a.nv + 2 * b2n a.sat + 4 * b2n a.spill + 8 * b2n (!a.nonzero) + 16 * b2n a.skip
  BitVec.ofNat 128 (maxv % 2 ^ 32 + unsigned 64 a.sum * 2 ^ 32 + flags * 2 ^ 96 + seq.toNat % 65536 * 2 ^ 112)

/-- A command completes: DONE, its summary, progress (R52, R73, R76). -/
def Tile.completeCmd (x : Tile) (e : Nat) (c : Cmd) (rcd : BitVec 128) : Tile :=
  let q := x.eng e
  let x := x.setEng e { q with done := c.seq, summs := if c.summ then q.summs ++ [rcd] else q.summs }
  x.withRouter fun r => { r with wdCount := 0 }

/-- The summary queue has room for the completing command's record, or it asks for none (R76). -/
def Tile.canPush (x : Tile) (e : Nat) (c : Cmd) : Bool := !c.summ || decide ((x.eng e).summs.length < 4)

/-- Ordinary elements of a written block added to a summary: magnitudes and sum of the stored values (the hi digit for
B8X2); `n` elements of the block belong to the output. -/
def SumAcc.addBlock (a : SumAcc) (b : Block) (n : Nat) : SumAcc :=
  let es := b.elems.take n
  { a with
    max := es.foldl (fun m x => match x.1 with | some v => Nat.max m v.natAbs | none => m) a.max
    sum := es.foldl (fun m x => match x.1 with | some v => m + v | none => m) a.sum
    nv := a.nv || es.any fun x => x.1.isNone
    sat := a.sat || es.any fun x => x.2
    nonzero := a.nonzero || b.nonzero }

/-- An A44 word added to a summary (R135): MAX, SUM over words with NV = 0. -/
def SumAcc.addWord (a : SumAcc) (w : A44) : SumAcc :=
  { a with
    max := if w.nv then a.max else Nat.max a.max w.v.natAbs
    sum := if w.nv then a.sum else a.sum + w.v
    nv := a.nv || w.nv
    sat := a.sat || w.sat
    nonzero := a.nonzero || w.nv || decide (w.v ≠ 0) }

/-! ## Regions of working memory -/

/-- `cnt` rows of `len` bytes, `stride` bytes apart. -/
structure Rows where
  base   : Nat
  stride : Nat
  len    : Nat
  cnt    : Nat
  deriving DecidableEq, Repr

/-- Some byte of the rows lies at or above `top`. -/
def Rows.beyond (r : Rows) (top : Nat) : Bool :=
  decide (r.cnt ≠ 0) && decide (r.len ≠ 0) && decide (r.base + (r.cnt - 1) * r.stride + r.len > top)

/-- A row shares a byte with `[a, b)`. -/
def Rows.hits (r : Rows) (a b : Nat) : Bool :=
  if r.cnt = 0 ∨ r.len = 0 ∨ b ≤ a then false
  else if r.stride = 0 then decide (r.base < b) && decide (a < r.base + r.len)
  else
    let i := if a < r.base + r.len then 0 else (a - r.base - r.len) / r.stride + 1
    decide (i < r.cnt) && decide (r.base + i * r.stride < b)

/-- Two sets of rows share a byte. -/
def Rows.overlap (r q : Rows) : Bool :=
  (List.range r.cnt).any fun i => q.hits (r.base + i * r.stride) (r.base + i * r.stride + r.len)

/-- The top of working memory. -/
def wmTop : Nat := 0x100000

/-- One plain region. -/
def region (a n : Nat) : Rows := ⟨a, 0, n, 1⟩

/-- The 64-byte words of working memory that the rows touch. -/
def Rows.words (r : Rows) : Nat :=
  if r.len = 0 then 0 else ((List.range r.cnt).map fun i => cdiv ((r.base + i * r.stride) % 64 + r.len) 64).sum
def rowWords (l : List Rows) : Nat := (l.map Rows.words).sum

/-- The most 64-byte words that one bank holds of those the rows touch (R112). -/
def Rows.bankWords (r : Rows) : Nat :=
  let ws := ((List.range r.cnt).flatMap fun i =>
    (List.range (cdiv ((r.base + i * r.stride) % 64 + r.len) 64)).map fun j => (r.base + i * r.stride) / 64 + j).eraseDups
  ((List.range 16).map fun b => (ws.filter fun w => decide (w % 16 = b)).length).foldl max 0

/-- The declared spill area and statistics record of a tile (R130, R184). -/
def Decl.spill (d : Decl) : Rows := ⟨d.spillBase.toNat, 0, d.spillBytes.toNat, if d.spillBytes = 0 then 0 else 1⟩
def Decl.stats (d : Decl) : Rows := ⟨d.mxeStats.toNat, 0, 32, if d.mxeStats = 0xFFFFFFFF#32 then 0 else 1⟩

/-- The worst stored error in what the rows `l` hold of working memory (R222). -/
def Tile.flawIn (x : Tile) (l : List Rows) : Ecc :=
  x.flawWhere fun k => decide (k < 131072) && l.any fun r => r.hits (8 * k) (8 * k + 8)

/-! ## Reading and writing elements -/

/-- Element `i` of the tensor row at byte `a` in format `f`; the value before scaling (R84). -/
def Tile.elemAt (x : Tile) (f : Fmt) (a i : Nat) : Option Int :=
  let per := f.perBlock
  f.elem (x.readW (a + i / per * f.blockBytes) f.blockBytes) (i % per)

/-- The E8 scale byte at `a`. -/
def Tile.scaleAt (x : Tile) (a : Nat) : Int := signed 8 (x.readW a 1)

/-- The history record at `a`, as a number of 32 bytes. -/
def Tile.histAt (x : Tile) (a : Nat) : Nat := x.readW a 32

/-- At completion with HREC = 1: the record's update (R96). -/
def Tile.histWrite (x : Tile) (a : Nat) (req : Int) (push : Bool) : Tile :=
  x.writeW a 32 (histUpdate (x.histAt a) req push)

/-- The largest BLOCK-mode E so far. -/
def HistRun.add (h : HistRun) (e : Int) : HistRun :=
  { h with reqE := some (match h.reqE with | some m => max m e | none => e) }

end Sys2Proof.Machine
end

