-- ==== Sys2Proof/Machine/MxeRecord.lean ====
section
/-! DEFINITION. The MXE's command record: its fields (Tables 5.3, 5.4), the record checks of Table 5.7, the pair check
(R124, R140), and the reading of its operands (R118, R120, R137, R138). -/

namespace Sys2Proof.Machine

/-- An operand descriptor (Table 5.4). -/
structure Desc where
  dbase   : Nat
  fmt     : Nat
  smode   : Bool
  t       : Bool
  dstride : Nat
  sstride : Nat
  sbase   : Nat
  deriving DecidableEq, Repr

/-- The descriptor at byte `b` of a record. -/
def descAt (r : Line) (b : Nat) : Desc :=
  ⟨rField r b 19 0, rField r b 23 20, bit (Line.bytes r b 4) 24, bit (Line.bytes r b 4) 25,
   rField r (b + 4) 13 0, rField r (b + 4) 27 14, rField r (b + 8) 19 0⟩

def mA (r : Line) : Desc := descAt r 16
def mB (r : Line) : Desc := descAt r 28
def mC (r : Line) : Desc := descAt r 40
def mM (r : Line) : Nat := rField r 8 15 0
def mN (r : Line) : Nat := rField r 8 31 16
def mShape (r : Line) : Nat := rField r 8 19 0
def mK (r : Line) : Nat := rField r 12 15 0
def mPasses (r : Line) : Nat := rField r 12 17 16
def mOrder (r : Line) : Nat := rField r 12 18 18
def mGM (r : Line) : Nat := rField r 12 21 19
def mOut (r : Line) : Nat := rField r 12 23 22
def mAccin (r : Line) : Bool := bit (Line.bytes r 12 4) 24
def mPair (r : Line) : Bool := bit (Line.bytes r 12 4) 25
def mRt (r : Line) : Bool := bit (Line.bytes r 12 4) 26
def mMask (r : Line) : Nat := rField r 12 28 27
def mConv (r : Line) : Nat := Line.bytes r 52 4
def mEacc (r : Line) : Int := signed 10 (rField r 56 9 0)
def mHist (r : Line) : Nat := rField r 56 24 10 * 32
def mMaskBase (r : Line) : Nat := rField r 60 19 0
def isMatmul (r : Line) : Bool := decide (rOpcode r = 1)

/-- The format a descriptor names, B8 for a code that names none (such a record fails the formats check). -/
def Desc.f (d : Desc) : Fmt := (Fmt.ofCode d.fmt).getD .b8

/-- The destination format of a conversion word. -/
def convFmt (w : Nat) : Fmt := (Fmt.ofCode (bits w 3 0)).getD .b8

/-! ## Record checks (Table 5.7) -/

/-- Table 5.7, Reserved: reserved values and must-be-0 fields. PASSES 0, OUTMODE 3 and MASK 3 are values that Table 5.3
reserves, and the model counts them here. DESIGN CHOICE, unsafe: notes/assumptions/92.md. -/
def mxeReserved (r : Line) : Bool :=
  let descBad (b : Nat) := decide (rField r b 31 26 ≠ 0) || decide (rField r (b + 4) 31 28 ≠ 0) ||
    decide (rField r (b + 8) 31 20 ≠ 0) || (bit (Line.bytes r b 4) 24 && decide (rField r (b + 8) 19 8 ≠ 0))
  let om := mOut r
  let cBad := decide (rField r 40 31 20 ≠ 0) || decide (rField r 44 31 28 ≠ 0) || decide (rField r 48 31 20 ≠ 0) ||
    (decide (om = 1) && (decide ((mC r).sbase ≠ 0) || decide ((mC r).sstride ≠ 0)))
  let common := cBad || decide (rField r 56 31 25 ≠ 0) ||
    ((decide (om = 1) || decide (om = 2)) && decide (mConv r ≠ 0)) ||
    (decide (mHist r ≠ 0) && !bit (mConv r) 16)
  match rOpcode r with
  | 1 =>
    common || descBad 16 || descBad 28 || decide (rField r 12 31 29 ≠ 0) || decide (mPasses r = 0) ||
    decide (om = 3) || decide (mMask r = 3) || decide (rField r 60 31 20 ≠ 0) ||
    (decide (mMask r = 0) && decide (mMaskBase r ≠ 0)) || (decide (mOrder r = 1) && decide (mGM r ≠ 0)) ||
    (mRt r && decide (rField r 8 31 20 ≠ 0))
  | 2 => common
  | _ =>
    decide (Line.bytes r 12 44 ≠ 0) || decide (rField r 56 31 10 ≠ 0) || decide (Line.bytes r 60 4 ≠ 0)

/-- R121, R137 hold for A and B. -/
def mxeFormatsOk (r : Line) : Bool :=
  let a := (mA r).fmt
  let b := (mB r).fmt
  let native (f : Nat) := decide (f ≤ 2)
  (!(mA r).t || native a) && (!(mB r).t || native b) &&
  match mPasses r with
  | 1 => a == b && native a
  | 2 => a == 4 && b == 1
  | 3 => a == 4 && b == 4
  | _ => false

/-- CONV keeps Table 4.4, R121 and R102. -/
def mxeConvOk (w : Nat) : Bool :=
  Conv.tableOk w && decide (bits w 7 6 = 0) && (bits w 3 0 == 0 || bits w 3 0 == 1 || bits w 3 0 == 2 || bits w 3 0 == 4)

/-- Mask bytes for M × N (R144, R145). -/
def mxeMaskBytes (r : Line) (m n : Nat) : Nat :=
  match mMask r with
  | 0 => 0
  | 1 => cdiv m 8
  | _ => cdiv (cdiv m 64 * cdiv n 64) 8

/-- The rows of an operand's data and scales, `i` rows by `k` columns (R118, R137). -/
def Desc.data (d : Desc) (i k : Nat) : Rows :=
  if d.t then ⟨d.dbase, d.dstride * 64, cdiv i 32 * d.f.blockBytes, k⟩
  else ⟨d.dbase, d.dstride * 64, cdiv k 32 * d.f.blockBytes, i⟩

def Desc.scales (d : Desc) (i k : Nat) : Rows :=
  if d.smode then ⟨0, 0, 0, 0⟩
  else if d.t then ⟨d.sbase, d.sstride, cdiv i 32, k⟩
  else ⟨d.sbase, d.sstride, cdiv k 32, i⟩

/-- Bytes of one row of C (R119). -/
def mxeCRow (r : Line) (n : Nat) : Nat :=
  match mOut r with
  | 0 => cdiv n 32 * (convFmt (mConv r)).blockBytes
  | 1 => n * 8
  | _ => 0

/-- The data and the scales of C of an m × n result (R119). -/
def mxeDest (r : Line) (m n : Nat) : List Rows :=
  let c := mC r
  let om := mOut r
  [⟨c.dbase, c.dstride * 64, mxeCRow r n, if om < 2 then m else 0⟩,
   ⟨c.sbase, c.sstride, cdiv n 32, if om = 0 then m else 0⟩]

/-- The mask and the history record that a command reads at its start (R96, R144). -/
def mxeStartReads (r : Line) (m n : Nat) : List Rows :=
  [region (mMaskBase r) (if isMatmul r then mxeMaskBytes r m n else 0),
   region (mHist r) (if bit (mConv r) 16 then 32 else 0)]

/-- Table 5.7, Extent, for dimensions m × n × k: extents of R118 and R119, C's stride, C's overlaps (R130). -/
def mxeExtentBad (d : Decl) (r : Line) (m n k : Nat) : Bool :=
  let c := mC r
  let om := mOut r
  let mat := isMatmul r
  let ab := if mat then [(mA r).data m k, (mA r).scales m k, (mB r).data n k, (mB r).scales n k] else []
  let dest := mxeDest r m n
  let others := ab ++ mxeStartReads r m n ++ [region (mShape r) (if mat && mRt r then 8 else 0), d.spill, d.stats]
  ab.any (fun x => x.beyond wmTop) || dest.any (fun x => x.beyond wmTop) ||
  (decide (om < 2) && decide (c.dstride * 64 < mxeCRow r n)) ||
  (match dest with | [cd, cs] => cd.overlap cs | _ => false) ||
  dest.any fun x => others.any fun y => x.overlap y

/-- Table 5.7, Combination (R116, R123). -/
def mxeComboBad (r : Line) : Bool :=
  let om := mOut r
  match rOpcode r with
  | 2 => decide (om ≥ 2)
  | 1 =>
    (decide (mOrder r = 0) && (decide (om = 2) || mAccin r || decide (mGM r = 0) || decide (mGM r = 7))) ||
    (mPair r && (decide (mOrder r = 1) || decide (om = 2))) ||
    (decide (mOrder r = 1) && !mRt r && decide (cdiv (mM r) 64 * cdiv (mN r) 64 > 6))
  | _ => false

/-- R145 fails for the mask of M × N. -/
def mxeMaskBad (r : Line) (m n : Nat) : Bool :=
  decide (mMask r ≠ 0) && decide (mMaskBase r + mxeMaskBytes r m n > wmTop)

/-- What the first record of a pair can fail on its own (R140, R145). -/
def mxeSelfPairBad (r : Line) : Bool := decide (mPasses r ≠ 1) || mRt r || decide (mMask r ≠ 0)

/-- The held-state rule R128 for a record with the dimensions m × n. -/
def mxeHeldBad (h : Option Held) (r : Line) (m n : Nat) : Bool :=
  match h with
  | none => decide (rOpcode r = 2) || (isMatmul r && mAccin r)
  | some x => decide (x.m ≠ m) || decide (x.n ≠ n) || decide (x.eacc ≠ mEacc r) || (isMatmul r && !mAccin r)

/-- The first failing check of Table 5.7 among Operation to Combination; 0: none. With RTSHAPE = 1 the extents wait for
the start (R133), and a K that is not 0 fails the Shape row, which names it. DESIGN CHOICE, unsafe:
notes/assumptions/92.md. -/
def mxeStaticCheck (d : Decl) (r : Line) : Nat :=
  let op := rOpcode r
  let mat := isMatmul r
  if op = 0 ∨ op > 3 then 0x02
  else if mxeReserved r then 0x03
  else if mat && !mxeFormatsOk r then 0x04
  else if decide (op ≠ 3) && decide (mOut r = 0) && !mxeConvOk (mConv r) then 0x05
  else if (if mat && mRt r then decide (mK r ≠ 0)
      else decide (mM r = 0) || decide (mN r = 0) || (mat && decide (mK r = 0))) then 0x06
  else if op ≠ 3 ∧ ((mC r).dbase % 64 ≠ 0 ∨ (mat ∧ ((mA r).dbase % 64 ≠ 0 ∨ (mB r).dbase % 64 ≠ 0 ∨
      mMaskBase r % 64 ≠ 0 ∨ (mRt r ∧ mShape r % 8 ≠ 0)))) then 0x07
  else if decide (op ≠ 3) && !(mat && mRt r) && mxeExtentBad d r (mM r) (mN r) (mK r) then 0x08
  else if mxeComboBad r then 0x09
  else 0

/-- Every check that a record can fail when it is taken (R133); 0: none. DEDUCED, unsafe: notes/assumptions/12.md. -/
def mxeCheck (d : Decl) (h : Option Held) (r : Line) (seq : Word) : Nat :=
  let rt := isMatmul r && mRt r
  let st := mxeStaticCheck d r
  if headerBad 0 r (some seq) then 0x01
  else if st ≠ 0 then st
  else if !rt && mxeHeldBad h r (mM r) (mN r) then 0x0A
  else if isMatmul r && mPair r && mxeSelfPairBad r then 0x0B
  else if isMatmul r && !mRt r && mxeMaskBad r (mM r) (mN r) then 0x0C
  else 0

/-- What R124 and R140 ask of the records D and G beside G's own checks. -/
def mxePairFits (rd rg : Line) : Bool :=
  isMatmul rg && !mPair rg && !mxeSelfPairBad rd &&
  decide (mPasses rg = 1) && !mRt rg && decide (mGM rg = mGM rd) && decide (2 * mGM rd ≤ 6) &&
  decide ({ mB rg with t := false } = { mB rd with t := false }) && (mB rg).t != (mB rd).t &&
  decide (mM rd = mM rg) && decide (mN rd = mK rg) && decide (mK rd = mN rg) && decide (mK rd ≤ 64)

/-- The pair check of R124 and R140 on D and its partner G. -/
def mxePairOk (d : Decl) (h : Option Held) (rd rg : Line) (gseq : Word) : Bool :=
  decide (mxeCheck d h rg gseq = 0) && mxePairFits rd rg

/-- The order of D and G decides a result (R142): G reads or writes what D writes up to its completion, or writes what D
reads while it runs. -/
def mxePairApart (d : Decl) (rd rg : Line) (m n kd : Nat) : Bool :=
  let operands (c : Line) (n k : Nat) := [(mA c).data m k, (mA c).scales m k, (mB c).data n k, (mB c).scales n k]
  let meets (a b : List Rows) := a.any fun x => b.any fun y => x.overlap y
  meets (mxeDest rd m n ++ [region (mHist rd) (if bit (mConv rd) 16 then 32 else 0), d.stats])
    (operands rg kd n ++ mxeStartReads rg m kd ++ mxeDest rg m kd) ||
  meets (mxeDest rg m kd) (operands rd n kd)

/-! ## Operands -/

/-- The elements of K block `kb` of operand row `i`, digit `dig` of a B8X2 operand, and the block's scale (R118, R120,
R137, R138). A B8X2 element whose hi digit is ordinary and whose lo digit is the NV pattern is NV in the pass that takes lo.
DESIGN CHOICE, unsafe: notes/assumptions/92.md. -/
def Tile.operand (x : Tile) (d : Desc) (i kb k dig : Nat) : List (Option Int) × Int :=
  let f := d.f
  let lim := k - 32 * kb
  if d.t then
    -- storage rows 32 kb … below K, position i; the square's largest scale (R138)
    let rows := List.range (min 32 lim)
    let es := rows.map fun j =>
      let kk := 32 * kb + j
      if d.smode then signed 8 (d.sbase % 256) else x.scaleAt (d.sbase + kk * d.sstride + i / 32)
    let e := es.foldl max (es.headD 0)
    let vals := (List.zip rows es).map fun y =>
      match x.elemAt f (d.dbase + (32 * kb + y.1) * d.dstride * 64) i with
      | some v => some (roundNE v (e - y.2))
      | none => none
    (vals ++ List.replicate (32 - vals.length) (some 0), e)
  else
    let blk := x.readW (d.dbase + i * d.dstride * 64 + kb * f.blockBytes) f.blockBytes
    let el (j : Nat) : Option Int :=
      if f = .b8x2 then
        -- an NV element is NV in both of its digits (Table 4.1, R100)
        match signMag 8 (bits blk (8 * j + 7) (8 * j)), signMag 8 (bits blk (256 + 8 * j + 7) (256 + 8 * j)) with
        | some h, some l => some (if dig = 0 then h else l)
        | some h, none => if dig = 0 then some h else none
        | none, _ => none
      else f.elem blk j
    ((List.range 32).map fun j => if j < lim then el j else some 0,
     if d.smode then signed 8 (d.sbase % 256) else x.scaleAt (d.sbase + i * d.sstride + kb))

/-- What `ni` operand rows from `i` on and `nk` K blocks from `kb` on hold of an operand, data and scales (R118, R137). -/
def Desc.blocks (d : Desc) (i ni kb nk k : Nat) : List Rows :=
  let b := d.f.blockBytes
  let st := d.dstride * 64
  let rows := min (32 * nk) (k - 32 * kb)
  let sc (r : Rows) := if d.smode then [] else [r]
  if d.t then
    [⟨d.dbase + 32 * kb * st + i / 32 * b, st, cdiv ni 32 * b, rows⟩] ++
      sc ⟨d.sbase + 32 * kb * d.sstride + i / 32, d.sstride, cdiv ni 32, rows⟩
  else
    [⟨d.dbase + i * st + kb * b, st, cdiv rows 32 * b, ni⟩] ++
      sc ⟨d.sbase + i * d.sstride + kb, d.sstride, cdiv rows 32, ni⟩

/-- The digits of A and B and the shift of pass `p` (Table 4.5a). -/
def passDigits (passes p : Nat) : Nat × Nat × Int :=
  match passes, p with
  | 2, 1 => (1, 0, -7)
  | 3, 1 => (0, 1, -7)
  | 3, 2 => (1, 0, -7)
  | _, _ => (0, 0, 0)

end Sys2Proof.Machine
end

