-- ==== Sys2Proof/Machine/Mxe.lean ====
section
/-! DEFINITION. The commands of the MXE: taking a record, its start, one row block, the slots' read-out, completion
(spec 05, 06). A row masked under R144 and the end of a group are steps of the same walk. -/

namespace Sys2Proof.Machine

/-! ## The walk (05, Loop orders; R126, R141) -/

/-- An output tile and where it lives: a slot, or place `spill - 1` of the spill area. -/
structure OutTile where
  ofG   : Bool := false
  mt    : Nat
  nt    : Nat
  slot  : Nat
  spill : Nat := 0
  deriving DecidableEq, Repr

/-- One position of the walk: the product it belongs to (G of a pair), row, N tile, K block, pass, the tile it adds into,
whether it is the first to use its latch tile and how many positions that tile then serves, whether it begins and ends a
visit of a spilled tile, the slots that must be free before it, the tiles written out after it. -/
structure RowBlk where
  ofG  : Bool := false
  m    : Nat
  nt   : Nat
  k    : Nat
  p    : Nat := 0
  slot : Nat
  spill : Nat := 0
  latch : Bool := false
  span  : Nat := 0
  enter : Bool := false
  leave : Bool := false
  need : List Nat := []
  out  : List OutTile := []
  deriving DecidableEq, Repr

/-- Order 0, position `pos`. -/
def walk0 (m n kb passes gm pos : Nat) : RowBlk :=
  let mtiles := cdiv m 64
  let ng := cdiv mtiles gm
  let perNt := passes * kb * m
  let nt := pos / perNt
  let q := pos % perNt
  let g := q / (passes * kb * 64 * gm)
  let rows := min (64 * gm) (m - 64 * gm * g)
  let q2 := q - g * (passes * kb * 64 * gm)
  let p := q2 / (kb * rows)
  let q3 := q2 % (kb * rows)
  let kp := q3 / (2 * rows)
  let q4 := q3 - kp * 2 * rows
  let w := min 2 (kb - 2 * kp)
  let row := 64 * gm * g + q4 / w
  let slotOf (mt : Nat) := ((nt * ng + g) * gm + (mt - g * gm)) % 6
  let tiles := (List.range (cdiv rows 64)).map (g * gm + ·)
  { m := row, nt := nt, k := 2 * kp + q4 % w, p := p, slot := slotOf (row / 64)
    latch := decide (q4 = 0), span := rows * w
    need := if q2 = 0 then tiles.map slotOf else []
    out := if q2 + 1 = passes * kb * rows then
        (tiles.filter fun _ => decide (nt < cdiv n 64)).map fun mt => { mt := mt, nt := nt, slot := slotOf mt }
      else [] }

/-- Where tile `t` of `nt` live tiles lives under order 1 (R126, R127): slot, and the spill place plus 1. -/
def home1 (tiles t : Nat) : Nat × Nat := if tiles > 6 ∧ t ≥ 5 then (5, t - 5 + 1) else (t, 0)

/-- Every output tile of an m × n result under order 1, ascending t (R129). -/
def tiles1 (m n : Nat) : List OutTile :=
  let mtiles := cdiv m 64
  let nt := mtiles * cdiv n 64
  (List.range nt).map fun t =>
    { mt := t % mtiles, nt := t / mtiles, slot := (home1 nt t).1, spill := (home1 nt t).2 }

/-- Order 1, position `pos`; the whole result is written out after the last one when `wr`. -/
def walk1 (m n kb passes : Nat) (wr : Bool) (pos : Nat) : RowBlk :=
  let mtiles := cdiv m 64
  let ntiles := cdiv n 64
  let perPass := kb * m * ntiles
  let p := pos / perPass
  let r := pos % perPass
  let kp := r / (2 * m * ntiles)
  let r2 := r - kp * (2 * m * ntiles)
  let w := min 2 (kb - 2 * kp)
  let nt := r2 / (w * m)
  let r3 := r2 % (w * m)
  let row := r3 / w
  let mt := row / 64
  let rows := min 64 (m - 64 * mt)
  let h := home1 (mtiles * ntiles) (nt * mtiles + mt)
  { m := row, nt := nt, k := 2 * kp + r3 % w, p := p, slot := h.1, spill := h.2
    latch := decide (r3 = 0), span := m * w
    enter := decide (h.2 ≠ 0) && decide (r3 = 64 * mt * w)
    leave := decide (h.2 ≠ 0) && decide (r3 + 1 = (64 * mt + rows) * w)
    out := if wr && decide (pos + 1 = passes * perPass) then tiles1 m n else [] }

/-- The walk of a pair (R141): `m` inputs, `n` tokens, `kd` K blocks of D. -/
def walkPair (m n kd gm pos : Nat) : RowBlk :=
  let ntt := cdiv n 64
  let kg := cdiv n 32
  let per := kd * ntt + kg
  let g := pos / (64 * gm * per)
  let rows := min (64 * gm) (m - 64 * gm * g)
  let q := pos - g * (64 * gm * per)
  let tt := q / (rows * (kd + 2))
  let r := q - tt * rows * (kd + 2)
  let tiles := (List.range (cdiv rows 64)).map (g * gm + ·)
  if r < rows * kd then
    let row := 64 * gm * g + r / kd
    { m := row, nt := tt, k := r % kd, slot := row / 64 - g * gm
      latch := decide (r = 0), span := rows * (kd + min 2 (kg - 2 * tt))
      need := if r = 0 then List.range gm else []
      out := if r + 1 = rows * kd then tiles.map fun mt => { mt := mt, nt := tt, slot := mt - g * gm } else [] }
  else
    let r2 := r - rows * kd
    let w := min 2 (kg - 2 * tt)
    let row := 64 * gm * g + r2 / w
    { ofG := true, m := row, nt := 0, k := 2 * tt + r2 % w, slot := gm + (row / 64 - g * gm)
      need := if r2 = 0 ∧ tt = 0 then (List.range gm).map (gm + ·) else []
      out := if r2 + 1 = rows * w ∧ tt + 1 = ntt then
          tiles.map fun mt => { ofG := true, mt := mt, nt := 0, slot := gm + (mt - g * gm) }
        else [] }

/-- The walk of a pair whose G follows D's completion (R142): D's blocks of the pair's walk, then G's, which load their
latch tiles again. -/
def walkApart (m n kd gm pos : Nat) : RowBlk :=
  let ntt := cdiv n 64
  let kg := cdiv n 32
  let per := kd * ntt + kg
  let dBlocks := m * kd * ntt
  if pos < dBlocks then
    let g := pos / (64 * gm * kd * ntt)
    let rows := min (64 * gm) (m - 64 * gm * g)
    let q := pos - g * (64 * gm * kd * ntt)
    let b := walkPair m n kd gm (g * (64 * gm * per) + q / (rows * kd) * (rows * (kd + 2)) + q % (rows * kd))
    { b with span := rows * kd }
  else
    let pos := pos - dBlocks
    let g := pos / (64 * gm * kg)
    let rows := min (64 * gm) (m - 64 * gm * g)
    let q := pos - g * (64 * gm * kg)
    let b := walkPair m n kd gm (g * (64 * gm * per) + q / (rows * 2) * (rows * (kd + 2)) + rows * kd + q % (rows * 2))
    { b with latch := decide (q % (rows * 2) = 0), span := rows * min 2 (kg - 2 * (q / (rows * 2))) }

def MxeRun.kb (r : MxeRun) : Nat := cdiv r.k 32

/-- Position `pos` of the run's walk. -/
def MxeRun.blockAt (r : MxeRun) (pos : Nat) : RowBlk :=
  let c := r.cmd.rcd
  match r.partner with
  | some _ => if r.apart then walkApart r.m r.n r.kb (mGM c) pos else walkPair r.m r.n r.kb (mGM c) pos
  | none =>
    if mOrder c = 0 then walk0 r.m r.n r.kb (mPasses c) (mGM c) pos
    else walk1 r.m r.n r.kb (mPasses c) (decide (mOut c < 2)) pos

/-- The current position. -/
def MxeRun.block (r : MxeRun) : RowBlk := r.blockAt r.pos

/-- Positions of the whole walk. -/
def MxeRun.total (r : MxeRun) : Nat :=
  match r.partner with
  | some _ => r.m * (r.kb * cdiv r.n 64 + cdiv r.n 32)
  | none => mPasses r.cmd.rcd * r.kb * r.m * cdiv r.n 64

/-- The position after D's last (R141, R142). -/
def MxeRun.dEnd (r : MxeRun) : Nat :=
  if r.apart then r.m * r.kb * cdiv r.n 64
  else r.total - (r.m - (cdiv (cdiv r.m 64) (mGM r.cmd.rcd) - 1) *
  (64 * mGM r.cmd.rcd)) * min 2 (cdiv r.n 32 - 2 * (cdiv r.n 64 - 1))

/-- Row `m` of tile (mt, nt) receives no contribution (R144). -/
def maskedOut (kind : Nat) (mask : List Byte) (mtiles m nt : Nat) : Bool :=
  let t := if kind = 1 then m else nt * mtiles + m / 64
  decide (kind ≠ 0) && !(mask.getD (t / 8) 0).getLsbD (t % 8)

/-- Array cycles of a row block (Table 5.1). -/
def fCycles (fmt : Nat) : Nat := match fmt with | 0 => 1 | 2 => 16 | _ => 4

/-! ## Words and spill places (R125, R127) -/

def Tile.writeWords (x : Tile) (slot : Nat) (f : Nat → BitVec 48) : Tile :=
  forAll (List.range 4096) x fun x i => x.writeA (slot * 4096 + i) (f i)

/-- Slot words to zero. -/
def Tile.zeroSlot (x : Tile) (slot : Nat) : Tile := x.writeWords slot fun _ => 0

def Decl.place (d : Decl) (k : Nat) : Nat := d.spillBase.toNat + (k - 1) * 0x8000

/-- Copy spill place `k` into slot 5. -/
def Tile.spillIn (x : Tile) (k : Nat) : Tile :=
  x.writeWords 5 fun i => (A44.ofBits (BitVec.ofNat 48 (x.readW (x.decl.place k + 8 * i) 8))).toBits

/-- Copy slot 5 back to spill place `k`, writing the slot to zero. -/
def Tile.spillOut (x : Tile) (k : Nat) : Tile :=
  (forAll (List.range 4096) x fun y i =>
    y.writeW (x.decl.place k + 8 * i) 8 (A44.ofBits (x.readA (5 * 4096 + i))).toBits.toNat).zeroSlot 5

/-- The word of row `i`, column `c` of an output tile, wherever it lives. -/
def Tile.outWord (x : Tile) (o : OutTile) (i c : Nat) : A44 :=
  if o.spill = 0 then A44.ofBits (x.readA (o.slot * 4096 + i * 64 + c))
  else A44.ofBits (BitVec.ofNat 48 (x.readW (x.decl.place o.spill + 8 * (i * 64 + c)) 8))

/-- What the writeout of rows changes: the tile, the summary, the history. -/
structure WOut where
  x    : Tile
  acc  : SumAcc
  hist : HistRun

/-- Write out row `m` of tile `o` under record `c`, with `n` columns (R119, R120, R94-R96). -/
def writeRow (c : Line) (n : Nat) (o : OutTile) (w : WOut) (m : Nat) : WOut :=
  let d := mC c
  let cols := min 64 (n - 64 * o.nt)
  let i := m % 64
  if mOut c = 1 then
    forAll (List.range cols) w fun w j =>
      let v := w.x.outWord o i j
      { w with x := w.x.writeW (d.dbase + m * d.dstride * 64 + (64 * o.nt + j) * 8) 8 v.toBits.toNat
               acc := w.acc.addWord v }
  else
    let f := convFmt (mConv c)
    let cv := Conv.ofNat (mConv c)
    forAll (List.range (cdiv cols 32)) w fun w b =>
      let cnt := min 32 (cols - 32 * b)
      let vals : List SrcVal := (List.range cnt).map fun j =>
        let v := w.x.outWord o i (32 * b + j)
        ⟨if v.nv then none else some v.v, v.sat⟩
      let e := cv.scale w.hist.entries f.q (mEacc c) vals
      let blk := convBlock f e (mEacc c) [] (vals ++ List.replicate (32 - cnt) ⟨some 0, false⟩)
      let nb := 2 * o.nt + b
      let x := w.x.writeW (d.dbase + m * d.dstride * 64 + nb * f.blockBytes) f.blockBytes blk.data
      { x := x.writeW (d.sbase + m * d.sstride + nb) 1 (unsigned 8 blk.e)
        acc := w.acc.addBlock blk cnt
        hist := w.hist.add (blockE f.q (mEacc c) vals) }

/-- Write the words of tile `o` of an m × n result to zero (R125): those at rows of M or more, or columns of N or more,
keep what they hold. -/
def Tile.zeroRead (x : Tile) (m n : Nat) (o : OutTile) : Tile :=
  forAll (List.range (min 64 (m - 64 * o.mt))) x fun x i =>
    forAll (List.range (min 64 (n - 64 * o.nt))) x fun x j => x.writeA (o.slot * 4096 + i * 64 + j) 0

/-- Write out tile `o` of an m × n result under record `c`, and write the words read to zero (R125); spill places keep
their values (R129). -/
def writeTile (c : Line) (m n : Nat) (w : WOut) (o : OutTile) : WOut :=
  let w := forAll (List.range (min 64 (m - 64 * o.mt))) w fun w i => writeRow c n o w (64 * o.mt + i)
  if o.spill = 0 then { w with x := w.x.zeroRead m n o } else w

/-! ## Taking a record (R74, R116, R124, R133) -/

def Tile.withMxe (x : Tile) (f : Mxe → Mxe) : Tile := { x with mxe := f x.mxe }

/-- The head of the MXE's queue leaves it. -/
def Tile.popMxe (x : Tile) : Tile := x.withMxe fun y => { y with q := { y.q with queue := y.q.queue.drop 1 } }

/-- The MXE takes the record at the head of its queue, when its OPCODE is one that `mine` accepts. -/
def mxeTake (t : Nat) (mine : Nat → Bool) (s : State) : State :=
  let x := s.tile t
  match x.mxe.q.queue with
  | [] => s
  | c :: _ =>
    if !x.engOn || x.mxe.run.isSome || !mine (rOpcode c.rcd) then s
    else
      let s1 := s.setTile t x.popMxe
      let k := mxeCheck x.decl x.mxe.held c.rcd c.seq
      if k ≠ 0 then engCmd s1 t 0 k c
      else s1.modTile t fun x => x.withMxe fun y => { y with run := some { cmd := c } }

/-- MATMUL: a record with OPCODE 0x01, and one whose OPCODE is outside Table 5.2, which fails its check. -/
def execMatmul (t : TileId) (s : State) : Result := atIsland t s (mxeTake t.toNat fun o => o != 2 && o != 3)
def execAccFlush (t : TileId) (s : State) : Result := atIsland t s (mxeTake t.toNat fun o => o == 2)
def execAccDrop (t : TileId) (s : State) : Result := atIsland t s (mxeTake t.toNat fun o => o == 3)

/-- PAIR_PARTNER_TAKE (R124, R140): the partner of a taken first command is taken, and the two are checked together. -/
def execPairPartnerTake (t : TileId) (s : State) : Result :=
  atIsland t s fun s =>
    let x := s.tile t.toNat
    match x.mxe.run, x.mxe.q.queue with
    | some r, g :: _ =>
      if !x.engOn || !mPair r.cmd.rcd || !isMatmul r.cmd.rcd || r.partner.isSome || r.started then s
      else
        let s1 := s.setTile t.toNat x.popMxe
        if mxePairOk x.decl x.mxe.held r.cmd.rcd g.rcd g.seq then
          s1.modTile t.toNat fun x => x.withMxe fun y => { y with run := some { r with partner := some g } }
        else engCmd (s1.modTile t.toNat fun x => x.withMxe fun y => { y with run := none }) t.toNat 0 0x0B r.cmd
    | _, _ => s

/-! ## Start (R74, R122, R127, R128, R133, R145) -/

/-- The dimensions of a record at its start: of the shape record with RTSHAPE = 1. -/
def Tile.mxeDims (x : Tile) (c : Line) : Nat × Nat × Nat :=
  if isMatmul c && mRt c then
    let v := x.readW (mShape c) 8
    (bits v 15 0, bits v 31 16, bits v 47 32)
  else (mM c, mN c, mK c)

/-- The record reads working memory at its start: a shape record, a mask, a history record, or, flushing a spilled state,
its spill places. -/
def mxeReads (c : Line) : Bool :=
  (isMatmul c && mRt c) || (isMatmul c && decide (mMask c ≠ 0)) || bit (mConv c) 16 ||
  (decide (rOpcode c = 2) && decide (cdiv (mM c) 64 * cdiv (mN c) 64 > 6))

/-- The history record that a record names fails R96. -/
def Tile.mxeHistBad (x : Tile) (c : Line) : Bool := bit (mConv c) 16 && !histOk (x.histAt (mHist c))

/-- The data checks of a start, in the order of Table 5.8, for the dimensions m × n × k; 0: none fails; 0x0A is the
ENG_CMD of R128. -/
def Tile.mxeStartCheck (x : Tile) (c : Line) (m n k : Nat) (partner : Option Cmd) : Nat :=
  let rt := isMatmul c && mRt c
  let nt := cdiv m 64 * cdiv n 64
  if rt && (decide (m = 0) || decide (n = 0) || decide (k = 0) || decide (bits (x.readW (mShape c) 8) 63 48 ≠ 0) ||
      mxeExtentBad x.decl c m n k) then 0x42
  else if rt && mxeHeldBad x.mxe.held c m n then 0x0A
  else if rt && decide (mOrder c = 1) && decide (nt > 6) &&
      decide (x.decl.spillBytes.toNat < (nt - 5) * 0x8000) then 0x43
  else if rt && mxeMaskBad c m n then 0x44
  else if x.mxeHistBad c || (match partner with
      | some g => !mxePairApart x.decl c g.rcd m n k && x.mxeHistBad g.rcd
      | none => false) then 0x45
  else 0

/-- The output tiles a command uses from its start on. -/
def MxeRun.used (r : MxeRun) : List OutTile :=
  let c := r.cmd.rcd
  let mk (i : Nat) : OutTile := { mt := 0, nt := 0, slot := i }
  match r.partner with
  | some _ =>
    let w := min (mGM c) (cdiv r.m 64)
    (List.range w ++ (List.range w).map (mGM c + ·)).map mk
  | none =>
    if mOrder c = 1 then tiles1 r.m r.n
    else
      let mt := cdiv r.m 64
      let ng := cdiv mt (mGM c)
      let groups := List.range (min 36 (ng * cdiv r.n 64))
      ((List.range 6).filter fun i => groups.any fun g =>
        decide ((i + 6 - (g * mGM c) % 6) % 6 < min (mGM c) (mt - g % ng * mGM c))).map mk

/-- Write zero words into the places a command with ACCIN = 0 uses (R125); a spilling command's slot 5 too. -/
def Tile.zeroOut (x : Tile) (o : OutTile) : Tile :=
  if o.spill = 0 then x.zeroSlot o.slot
  else
    let a := x.decl.place o.spill
    (forAll (List.range 4096) x fun x i => x.writeW (a + 8 * i) 8 0).zeroSlot 5

/-- The writeout path after reading out `rows` rows of each of these slots, behind what it still reads. -/
def drainAfter (d : Sparse Nat) (l : List (Nat × Nat)) : Sparse Nat :=
  (l.foldl (fun (x : Sparse Nat × Nat) y => (Sparse.set 0 x.1 y.1 (x.2 + y.2), x.2 + y.2))
    (d, d.foldl (fun m x => max m x.2) 0)).1

/-- Array cycles pass. -/
def drainBy (d : Sparse Nat) (n : Nat) : Sparse Nat := d.foldl (fun m x => Sparse.set 0 m x.1 (x.2 - n)) d

/-- ACC_FLUSH and ACC_DROP: everything they do beyond completing. ACC_DROP zeroes the slots of the held state, if one is
held (R128). -/
def Tile.mxeFlush (x : Tile) (r : MxeRun) : Tile :=
  let c := r.cmd.rcd
  let tiles := tiles1 r.m r.n
  let r := { r with started := true, finished := true }
  if rOpcode c = 2 then
    let w := forAll tiles ⟨x, { spill := false }, r.histD⟩ (writeTile c r.m r.n)
    w.x.withMxe fun y => { y with run := some { r with accD := w.acc, histD := w.hist } }
  else
    (forAll (if x.mxe.held.isSome then tiles.filter fun o => o.spill = 0 else []) x fun x o =>
      x.zeroSlot o.slot).withMxe fun y => { y with run := some r }

/-- The history entries that record `c` reads at its start (R95). -/
def Tile.mxeEntries (x : Tile) (c : Line) : List Int :=
  if bit (mConv c) 16 then histEntries (x.histAt (mHist c)) else []

/-- The mask of record `c` for an m × n result, as read (R144). -/
def Tile.mxeMask (x : Tile) (c : Line) (m n : Nat) : List Byte :=
  if isMatmul c then toBytes (x.readW (mMaskBase c) (mxeMaskBytes c m n)) (mxeMaskBytes c m n) else []

/-- The command or pair starts with the data it has read, with every slot free (R126). -/
def Tile.mxeBegin (x : Tile) (r : MxeRun) (m n k : Nat) : Tile :=
  let c := r.cmd.rcd
  let x := x.withMxe fun y => { y with drain := [], waiting := false }
  let spills := decide (cdiv m 64 * cdiv n 64 > 6) && decide (mOrder c = 1)
  let r : MxeRun := { r with m := m, n := n, k := k, histD := { entries := x.mxeEntries c }, accD := { spill := spills } }
  let r := match r.partner with
    | some g => { r with mask := x.mxeMask g.rcd m k, histG := { entries := x.mxeEntries g.rcd }
                         apart := mxePairApart x.decl c g.rcd m n k }
    | none => { r with mask := x.mxeMask c m n }
  if !isMatmul c then x.mxeFlush r
  else
    let x1 := if mAccin c then x else forAll r.used x Tile.zeroOut
    x1.withMxe fun y => { y with run := some { r with started := true } }

/-- What a command reads of working memory at its start: its shape record, mask and history record, and the spill places of a
state that ACC_FLUSH writes out. -/
def mxeStartRows (d : Decl) (c : Line) (m n : Nat) : List Rows :=
  mxeStartReads c m n ++ [region (mShape c) (if isMatmul c && mRt c then 8 else 0)] ++
  (if rOpcode c = 2 then ((tiles1 m n).filter fun o => o.spill ≠ 0).map fun o => region (d.place o.spill) 0x8000 else [])

/-- The cycles of ACC_FLUSH and ACC_DROP (R131). -/
def Tile.flushCycles (x : Tile) (c : Line) (m n : Nat) : Nat :=
  let tiles := tiles1 m n
  match rOpcode c with
  | 2 => 6 + (tiles.map fun o => min 64 (m - 64 * o.mt)).sum
  | 3 => 2 + if x.mxe.held.isSome then 64 * (tiles.filter fun o => o.spill = 0).length else 0
  | _ => 0

/-- DEP_WAIT_END on the MXE: the start of the taken command (and its partner). -/
def mxeStart (t : Nat) (wm am : Ecc) (s : State) : State :=
  let x := s.tile t
  match x.mxe.run with
  | none => s
  | some r =>
    let c := r.cmd.rcd
    let both := (match r.partner with | some g => x.depOk g.rcd | none => true) && x.depOk c
    if !x.engOn || r.started || (isMatmul c && mPair c && r.partner.isNone) || !both then s
    else
      let d := x.mxeDims c
      let reads := mxeReads c || (match r.partner with | some g => mxeReads g.rcd | none => false)
      let accs := decide (rOpcode c = 2)
      let k := x.mxeStartCheck c d.1 d.2.1 d.2.2 r.partner
      let wm := wm.worse (x.flawIn (mxeStartRows x.decl c d.1 d.2.1 ++
        match r.partner with | some g => mxeStartRows x.decl g.rcd d.1 d.2.2 | none => []))
      let am := am.worse (x.flawWhere fun k => decide (k ≥ 131072) && (tiles1 d.1 d.2.1).any fun o =>
        decide (o.spill = 0) && decide ((k - 131072) / 4096 = o.slot))
      if reads && wm == .ue then engFault s t 0 0x40 r.cmd
      else
        let s := if reads && wm == .ce then chargeCe s t false else s
        if k = 0x0A then engCmd (s.modTile t fun x => x.withMxe fun y => { y with run := none }) t 0 k r.cmd
        else if k ≠ 0 then engFault s t 0 k r.cmd
        else if accs && am == .ue then engFault s t 0 0x41 r.cmd
        else
          let s := if accs && am == .ce then chargeCe s t true else s
          s.modTile t fun x => (x.mxeBegin r d.1 d.2.1 d.2.2).charge (120 * x.flushCycles c d.1 d.2.1)

/-! ## One row block (R89-R93, R113, R120, R125-R129, R138, R141, R144) -/

/-- The record, the N of its output and the K of its product for the block's side of the run. -/
def MxeRun.side (r : MxeRun) (ofG : Bool) : Line × Nat × Nat :=
  match r.partner with
  | some g => if ofG then (g.rcd, r.k, r.n) else (r.cmd.rcd, r.n, r.k)
  | none => (r.cmd.rcd, r.n, r.k)

/-- The latch tile of N tile `nt` and the K blocks of pair `kp`, in the digit that pass `p` takes (R114): 64 rows of B
that lie below N. -/
def Tile.latchTile (x : Tile) (c : Line) (n k nt kp p : Nat) : List (List (Option Int) × Int) :=
  (List.range (min 64 (n - 64 * nt))).flatMap fun j =>
    [2 * kp, 2 * kp + 1].map fun kb => x.operand (mB c) (64 * nt + j) kb k (passDigits (mPasses c) p).2.1

/-- The latch tile of block `b`; in a pair, both views of the one tile (R140, R141). -/
def MxeRun.readLatch (r : MxeRun) (x : Tile) (b : RowBlk) : List (List (Option Int) × Int) × List (List (Option Int) × Int) :=
  match r.partner with
  | some g =>
    let tt := if b.ofG then b.k / 2 else b.nt
    (x.latchTile r.cmd.rcd r.n r.k tt 0 0, x.latchTile g.rcd r.k r.n 0 tt 0)
  | none => (x.latchTile r.cmd.rcd r.n r.k b.nt (b.k / 2) b.p, [])

/-- The current position begins a command: its latch tile is not in the other buffer yet. -/
def MxeRun.begins (r : MxeRun) : Bool := decide (r.pos = 0) || (r.apart && decide (r.pos = r.dEnd))

/-- The first block that uses the latch tile after that of block `b`, within the same command. -/
def MxeRun.nextLatch (r : MxeRun) (b : RowBlk) : Option RowBlk :=
  let p := r.pos + b.span
  if p ≥ r.total ∨ (r.apart ∧ p = r.dEnd) then none else some (r.blockAt p)

/-- The first block that uses a latch tile (R114): the array turns to the buffer that holds it, and the sequencer loads the
next one into the other (Table 6.2); the first tile of a command is loaded before its first block. The model reads the next
tile whole at that block. DESIGN CHOICE, unsafe: notes/assumptions/76.md. -/
def MxeRun.load (r : MxeRun) (x : Tile) (b : RowBlk) : MxeRun :=
  let now := if r.begins then r.readLatch x b else (r.next, r.nextG)
  let next := match r.nextLatch b with | some y => r.readLatch x y | none => ([], [])
  { r with latch := now.1, latchG := now.2, next := next.1, nextG := next.2 }

/-- The contributions of one row block: row m of A against the columns of the latch tile. -/
def Tile.addRowBlock (x : Tile) (c : Line) (n k : Nat) (latch : List (List (Option Int) × Int)) (b : RowBlk) : Tile :=
  let dig := passDigits (mPasses c) b.p
  let a := x.operand (mA c) b.m b.k k dig.1
  forAll (List.range (min 64 (n - 64 * b.nt))) x fun y j =>
    let w := latch.getD (2 * j + b.k % 2) ([], 0)
    let p := dotBlock a.1 w.1
    let i := b.slot * 4096 + b.m % 64 * 64 + j
    y.writeA i ((A44.ofBits (y.readA i)).add (A44.align p.1 p.2 (a.2 + w.2 + dig.2.2 - mEacc c))).toBits

/-- The block is masked: only G of a pair has a mask. -/
def MxeRun.masked (r : MxeRun) (b : RowBlk) : Bool :=
  let kind := mMask (r.side b.ofG).1
  if r.partner.isSome && !b.ofG then false else maskedOut kind r.mask (cdiv r.m 64) b.m b.nt

/-- Everything one position of the walk does. DEDUCED, unsafe: notes/assumptions/16.md. -/
def Tile.mxeStep (x : Tile) (r : MxeRun) : Tile :=
  let b := r.block
  let sd := r.side b.ofG
  let masked := r.masked b
  let r := if b.latch then r.load x b else r
  let x := if b.enter then x.spillIn b.spill else x
  let x := if masked then x else x.addRowBlock sd.1 sd.2.1 sd.2.2 (if b.ofG then r.latchG else r.latch) b
  let x := if b.leave then x.spillOut b.spill else x
  let w0 : WOut := if b.ofG then ⟨x, r.accG, r.histG⟩ else ⟨x, r.accD, r.histD⟩
  let w := forAll b.out w0 (writeTile sd.1 r.m sd.2.1)
  let r1 : MxeRun := { r with pos := r.pos + 1, finished := decide (r.pos + 1 ≥ r.total)
                              visits := if b.enter then r.visits + 1 else r.visits }
  let r2 := if b.ofG then { r1 with accG := w.acc, histG := w.hist } else { r1 with accD := w.acc, histD := w.hist }
  let f := if masked then 0 else fCycles (mA sd.1).fmt
  w.x.withMxe fun y =>
    let drain := drainAfter (drainBy y.drain f)
      ((b.out.filter fun o => o.spill = 0).map fun o => (o.slot, min 64 (r.m - 64 * o.mt)))
    let need := if r2.finished then [] else r2.block.need
    { y with run := some r2, drain := drain, waiting := need.any fun i => decide (Sparse.get 0 drain i > 0) }

/-- The data and the scales of the latch tile of block `b`. -/
def MxeRun.latchRows (r : MxeRun) (b : RowBlk) : List Rows :=
  let sd := r.side b.ofG
  (mB sd.1).blocks (64 * b.nt) (min 64 (sd.2.1 - 64 * b.nt)) (b.k / 2 * 2) 2 sd.2.2

/-- The load time L of block `b`'s latch tile (R115). -/
def MxeRun.loadCycles (r : MxeRun) (b : RowBlk) : Nat :=
  let d := mB (r.side b.ofG).1
  if d.dstride % 2 = 1 then (if d.f.blockBytes = 64 then 8 else 4)
  else match r.latchRows b with | x :: _ => x.bankWords | [] => 0

/-- The cycles before the first row block, beside L and Lm (R131, R139, R143, R145). -/
def MxeRun.leadCycles (r : MxeRun) : Nat :=
  (match r.partner with | some _ => 14 | none => 12) + cdiv r.mask.length 64 +
    64 * b2n ((mA r.cmd.rcd).t || match r.partner with | some g => (mA g.rcd).t | none => false)

/-- The units of the current position (Table 15.2): those of a row block for each of its array cycles, and those of the
cycles with no row block that R131 and R143 count: the decode and the first latch tile, spill copies, the writeout behind the
last block. DESIGN CHOICE, unsafe: notes/assumptions/50.md. -/
def MxeRun.units (r : MxeRun) : Nat :=
  let b := r.block
  let fmt := (mA (r.side b.ofG).1).fmt
  let cyc := if r.masked b then 0 else fCycles fmt
  let first := if r.pos = 0 then r.leadCycles + r.loadCycles b else 0
  let last := if r.pos + 1 ≥ r.total ∧ mOut (r.side b.ofG).1 < 2 then
    4 + (b.out.map fun o => min 64 (r.m - 64 * o.mt)).sum else 0
  cyc * (match fmt with | 0 => 880 | 2 => 760 | _ => 820) + 120 * (first + 64 * (b2n b.enter + b2n b.leave) + last)

/-- The command that a fault during the run is reported against (R140). -/
def MxeRun.faulty (r : MxeRun) : Cmd :=
  match r.partner with | some g => if r.dDone then g else r.cmd | none => r.cmd

/-- G of a pair that follows D reads its mask and its history record where its own work begins (R142). -/
def MxeRun.beginG (r : MxeRun) (x : Tile) : MxeRun :=
  match r.partner with
  | some g =>
    if r.apart && decide (r.pos = r.dEnd) then
      { r with mask := x.mxeMask g.rcd r.m r.k, histG := { entries := x.mxeEntries g.rcd } }
    else r
  | none => r

/-- G's work of such a pair stands until D has completed (R142). -/
def MxeRun.waitsD (r : MxeRun) : Bool := r.apart && !r.dDone && decide (r.pos ≥ r.dEnd)

/-- What the position `b` reads of working memory: the row block, the latch tiles to load, spill places, and the mask and
history record of a G that begins here. -/
def MxeRun.wmReads (r : MxeRun) (d : Decl) (b : RowBlk) : List Rows :=
  let sd := r.side b.ofG
  let place (k : Nat) := region (d.place k) 0x8000
  (if r.masked b then [] else (mA sd.1).blocks b.m 1 b.k 1 sd.2.2) ++
  (if b.latch then (if r.begins then r.latchRows b else []) ++
    (match r.nextLatch b with | some y => r.latchRows y | none => []) else []) ++
  (match r.partner with
   | some g => if r.apart ∧ r.pos = r.dEnd then mxeStartReads g.rcd r.m r.k else []
   | none => []) ++
  (if b.enter then [place b.spill] else []) ++ (b.out.filter fun o => o.spill ≠ 0).map fun o => place o.spill

/-- The worst stored error among the accumulator words that the position `b` reads: its row, the whole of slot 5 where a visit
ends, the tiles written out. A visit that begins here has just filled slot 5. -/
def MxeRun.amFlaw (r : MxeRun) (x : Tile) (b : RowBlk) : Ecc :=
  let row := b.slot * 4096 + b.m % 64 * 64
  x.flawWhere fun k => decide (k ≥ 131072) &&
    ((!b.enter && ((!r.masked b && decide ((k - 131072) / 64 = row / 64)) || (b.leave && decide ((k - 131072) / 4096 = 5)))) ||
      b.out.any fun o => decide (o.spill = 0) && decide ((k - 131072) / 4096 = o.slot))

/-- MXE_ROW_BLOCK. -/
def mxeRowBlock (t : Nat) (wm am : Ecc) (s : State) : State :=
  let x := s.tile t
  match x.mxe.run with
  | none => s
  | some r =>
    let histBad := match r.partner with
      | some g => r.apart && decide (r.pos = r.dEnd) && x.mxeHistBad g.rcd
      | none => false
    let wm := wm.worse (x.flawIn (r.wmReads x.decl r.block))
    let am := am.worse (r.amFlaw x r.block)
    if !x.engOn || !r.started || r.finished || x.mxe.waiting || r.waitsD then s
    else if !r.masked r.block && !s.mayIssue t then holdIssue s t
    else engReads s t 0 r.faulty wm am fun s =>
      if histBad then engFault s t 0 0x45 r.faulty
      else s.modTile t fun x => (x.mxeStep (r.beginG x)).charge (r.beginG x).units

def execMxeRowBlock (t : TileId) (wm am : Ecc) (s : State) : Result := atIsland t s (mxeRowBlock t.toNat wm am)

/-- SLOT_WAIT_END (R126, R141): the slots of the next group are free. DEDUCED, unsafe: notes/assumptions/16.md. -/
def execSlotWaitEnd (t : TileId) (s : State) : Result :=
  atIsland t s fun s =>
    let x := s.tile t.toNat
    match x.mxe.run with
    | some r =>
      if x.engOn && x.mxe.waiting then
        let w := (r.block.need.map fun i => Sparse.get 0 x.mxe.drain i).foldl max 0
        s.setTile t.toNat ((x.withMxe fun y => { y with drain := drainBy y.drain w, waiting := false }).charge (120 * w))
      else s
    | none => s

/-! ## Completion (R73, R76, R96, R128, R135, R136) -/

/-- The statistics record of the tile (Table 5.9). -/
def Tile.mxeStats (x : Tile) (spilled : Bool) (visits : Nat) (paired : Bool) : Tile :=
  if x.decl.mxeStats = 0xFFFFFFFF#32 then x
  else
    let a := x.decl.mxeStats.toNat
    let add (x : Tile) (o n : Nat) := x.writeW (a + o) 4 (min (x.readW (a + o) 4 + n) 0xFFFFFFFF)
    add (add (add (add x 0 1) 4 (b2n spilled)) 8 visits) 12 (b2n paired)

/-- The summary over the held words (R135). -/
def Tile.heldAcc (x : Tile) (m n : Nat) (a : SumAcc) : SumAcc :=
  forAll (tiles1 m n) a fun a o =>
    forAll (List.range (min 64 (m - 64 * o.mt))) a fun a i =>
      forAll (List.range (min 64 (n - 64 * o.nt))) a fun a j => a.addWord (x.outWord o i j)

/-- One command of the run completes. -/
def Tile.mxeFinish (x : Tile) (c : Cmd) (acc : SumAcc) (hist : HistRun) (visits : Nat) (paired : Bool) : Tile :=
  let maxv := min acc.max 0xFFFFFFFF
  let cv := Conv.ofNat (mConv c.rcd)
  let x := match hist.reqE with
    | some e => if rOpcode c.rcd ≠ 3 ∧ cv.hrec then x.histWrite (mHist c.rcd) e cv.push else x
    | none => x
  (x.mxeStats acc.spill visits paired).completeCmd 0 c (acc.record maxv c.seq)

/-- The held state after a command (R128). -/
def heldAfter (r : MxeRun) : Option Held :=
  if isMatmul r.cmd.rcd && decide (mOut r.cmd.rcd = 2) then
    some ⟨r.m, r.n, mEacc r.cmd.rcd, cdiv r.m 64 * cdiv r.n 64⟩
  else none

/-- The worst stored errors, of working and of accumulator memory, in what the completion of record `c` reads (R223): its
history record, the statistics record, and the words that it leaves held, whose summary it forms. -/
def Tile.mxeEndFlaws (x : Tile) (c : Line) (held : List OutTile) : Ecc × Ecc :=
  (x.flawIn ([region (mHist c) (if rOpcode c ≠ 3 ∧ (Conv.ofNat (mConv c)).hrec then 32 else 0), x.decl.stats] ++
      (held.filter fun o => o.spill ≠ 0).map fun o => region (x.decl.place o.spill) 0x8000),
   x.flawWhere fun k => decide (k ≥ 131072) && held.any fun o => decide (o.spill = 0) && decide ((k - 131072) / 4096 = o.slot))

/-- ENGINE_COMPLETE on the MXE: D of a pair once its last tile is written, then the whole run. -/
def mxeComplete (t : Nat) (s : State) : State :=
  let x := s.tile t
  match x.mxe.run with
  | none => s
  | some r =>
    if !x.engOn || !r.started then s
    else
      let complete (c : Cmd) (held : List OutTile) (f : Tile → Tile) : State :=
        if x.canPush 0 c then
          let e := x.mxeEndFlaws c.rcd held
          engReads s t 0 c e.1 e.2 fun s => s.modTile t f
        else s
      let done (y : Mxe) : Mxe := { y with run := none, drain := [], waiting := false }
      match r.partner with
      | some g =>
        if !r.dDone then
          if r.pos ≥ r.dEnd then
            complete r.cmd [] fun x => (x.mxeFinish r.cmd r.accD r.histD 0 true).withMxe fun y =>
              { y with run := some { r with dDone := true } }
          else s
        else if r.finished then complete g [] fun x => (x.mxeFinish g r.accG r.histG 0 true).withMxe done
        else s
      | none =>
        if r.finished then
          let held := if (heldAfter r).isSome then tiles1 r.m r.n else []
          let acc := if (heldAfter r).isSome then x.heldAcc r.m r.n r.accD else r.accD
          complete r.cmd held fun x =>
            (x.mxeFinish r.cmd acc r.histD r.visits false).withMxe fun y => { done y with held := heldAfter r }
        else s

end Sys2Proof.Machine
end

