-- ==== Sys2Proof/Machine/VxeRecord.lean ====
section
/-! DEFINITION. The VXE's command record (Tables 7.1-7.3), the record checks of Table 7.7, the data checks of its start,
the reading of its sources (R155, R156). -/

namespace Sys2Proof.Machine

def vX (r : Line) : Desc := descAt r 12
def vY (r : Line) : Desc := descAt r 24
def vZ (r : Line) : Desc := descAt r 36
def vRows (r : Line) : Nat := rField r 8 15 0
def vCols (r : Line) : Nat := rField r 8 31 16
def vConv (r : Line) : Nat := Line.bytes r 48 4
def vEr (r : Line) : Int := signed 10 (rField r 52 9 0)
def vNops (r : Line) : Nat := rField r 52 13 10
def vOreg (r : Line) : Nat := rField r 52 17 14
def vXen (r : Line) : Bool := bit (Line.bytes r 52 4) 18
def vYen (r : Line) : Bool := bit (Line.bytes r 52 4) 19
def vZen (r : Line) : Bool := bit (Line.bytes r 52 4) 20
def vWen (r : Line) : Bool := bit (Line.bytes r 52 4) 21
def vYb (r : Line) : Nat := rField r 52 23 22
def vRed (r : Line) : Nat := rField r 52 25 24
def vAuxen (r : Line) : Bool := bit (Line.bytes r 52 4) 26
def vRbase (r : Line) : Nat := rField r 56 19 0
def vAux (r : Line) : Nat := rField r 60 13 0 * 64
def vHist (r : Line) : Nat := rField r 60 28 14 * 32

/-- TLOAD's fields (R162). -/
def tAddr (r : Line) : Nat := rField r 8 19 0
def tSel (r : Line) : Bool := bit (Line.bytes r 8 4) 20
/-- SETVL's length (Table 7.1). -/
def setVl (r : Line) : Nat := rField r 8 6 0

/-- The auxiliary record (Table 7.3). -/
def aOp (a : Line) (i : Nat) : Nat := Line.bytes a (2 * i) 2
def aW (a : Line) : Desc := descAt a 16
def aSeed (a : Line) : Nat := Line.bytes a 28 8
def aLayer (a : Line) : Nat := Line.bytes a 36 2
def aStream (a : Line) : Nat := Line.bytes a 38 2
def aStep (a : Line) : Nat := Line.bytes a 40 4
def aMicro (a : Line) : Nat := Line.bytes a 44 2
def aP16 (a : Line) : Nat := Line.bytes a 46 2
def aKm (a : Line) : Nat := Line.bytes a 48 2
def aKs (a : Line) : Nat := Line.bytes a 50 1
def aTrans (a : Line) : Nat := Line.bytes a 51 1
def aBase (a : Line) : Nat := Line.bytes a 52 6
def aPitch (a : Line) : Nat := Line.bytes a 58 4

/-- Reserved bits of the descriptor at byte `b`; ECONST's upper bits where a block format has SMODE = 1 (Table 5.4). -/
def srcReserved (r : Line) (b : Nat) : Bool :=
  let d := descAt r b
  decide (rField r b 31 26 ≠ 0) || decide (rField r (b + 4) 31 28 ≠ 0) || decide (rField r (b + 8) 31 20 ≠ 0) ||
  (d.smode && d.f.scaled && decide (d.sbase / 256 ≠ 0))

/-- A source descriptor breaks R155. -/
def Desc.srcBad (d : Desc) : Bool :=
  d.t ||
  match Fmt.ofCode d.fmt with
  | none => true
  | some .a44 => !d.smode || decide (d.sbase / 1024 ≠ 0)
  | some .f32 | some .f16 | some .bf16 => !d.smode || decide (d.sbase ≠ 0)
  | some _ => false

/-- Bytes of one row of `n` elements. -/
def Fmt.rowBytes (f : Fmt) (n : Nat) : Nat :=
  match f with
  | .a44 => 8 * n
  | .f32 => 4 * n
  | .f16 | .bf16 => 2 * n
  | f => cdiv n f.perBlock * f.blockBytes

/-- Data and scales of a source or destination of `i` rows by `k` columns in format `f`. -/
def Desc.vData (d : Desc) (f : Fmt) (i k : Nat) : Rows := ⟨d.dbase, d.dstride * 64, f.rowBytes k, i⟩
def Desc.vScales (d : Desc) (f : Fmt) (i k : Nat) : Rows :=
  if d.smode || !f.scaled then ⟨0, 0, 0, 0⟩ else ⟨d.sbase, d.sstride, cdiv k f.perBlock, i⟩

/-- Rows and columns of Y (R158). -/
def yDims (r : Line) (rows cols : Nat) : Nat × Nat :=
  match vYb r with | 1 => (1, cols) | 2 => (1, rows) | _ => (rows, cols)

/-- The regions of X and Y. -/
def vSources (r : Line) (rows cols : Nat) : List Rows :=
  let y := yDims r rows cols
  (if vXen r then [(vX r).vData (vX r).f rows cols, (vX r).vScales (vX r).f rows cols] else []) ++
  (if vYen r then [(vY r).vData (vY r).f y.1 y.2, (vY r).vScales (vY r).f y.1 y.2] else [])

/-- Z's data and scales. -/
def vDest (r : Line) (rows cols : Nat) : List Rows :=
  let f := convFmt (vConv r)
  if vZen r then [(vZ r).vData f rows cols, (vZ r).vScales f rows cols] else []

/-- Exact in-place use of X (R168). -/
def vInPlace (r : Line) : Bool :=
  let x := vX r
  let z := vZ r
  vXen r && decide (x.dbase = z.dbase) && decide (x.dstride = z.dstride) && !x.smode && decide (x.sbase = z.sbase) &&
  decide (x.sstride = z.sstride) && decide (x.fmt = bits (vConv r) 3 0)

/-- The reduction words. -/
def vRedRows (r : Line) (rows : Nat) : Rows := ⟨vRbase r, 8, 8, if vRed r = 0 then 0 else rows⟩

/-- Extents and R168 fail, for everything but W. -/
def vExtentBad (r : Line) (rows cols : Nat) : Bool :=
  let src := vSources r rows cols
  let z := vDest r rows cols
  let red := vRedRows r rows
  let aux := region (vAux r) (if vAuxen r then 64 else 0)
  let hist := region (vHist r) (if bit (vConv r) 16 then 32 else 0)
  let srcZ := if vInPlace r then src.drop 2 else src
  let zz := match z with | [d, e] => d.overlap e | _ => false
  (src ++ z ++ [red]).any (fun x => x.beyond wmTop) || zz ||
  z.any (fun x => (srcZ ++ [aux, red, hist]).any fun y => x.overlap y) ||
  (src ++ [aux, hist]).any (fun y => y.overlap red)

/-- CONV keeps Table 4.4 and R165. -/
def vConvOk (r : Line) : Bool :=
  let w := vConv r
  let f := bits w 3 0
  Conv.tableOk w && decide (bits w 7 6 = 0) && (decide (f ≤ 4) || f == 8) &&
  (f != 8 || (decide ((vZ r).sbase = 0) && decide ((vZ r).sstride = 0)))

/-- Table 7.7, 0x03, for VMAP and VSTEP. -/
def vReserved (r : Line) : Bool :=
  srcReserved r 12 || srcReserved r 24 ||
  decide (rField r 36 31 20 ≠ 0) || decide (rField r 40 31 28 ≠ 0) || decide (rField r 44 31 20 ≠ 0) ||
  decide (rField r 52 31 27 ≠ 0) || decide (vNops r > 8) || decide (rField r 56 31 20 ≠ 0) ||
  (decide (vRed r = 0) && decide (vRbase r ≠ 0)) || decide (rField r 60 31 29 ≠ 0) ||
  (!vAuxen r && decide (vAux r ≠ 0)) || (!bit (vConv r) 16 && decide (vHist r ≠ 0))

/-- The first failing check of Table 7.7 for a record taken with the length register at `vl` (0: a static record, whose
VSTEP fails on its own where it fails for one element); 0: none. A source that XEN or YEN leaves out names no format. DEDUCED,
unsafe: notes/assumptions/12.md. DESIGN CHOICE, unsafe: notes/assumptions/92.md. -/
def vxeCheck (r : Line) (seq : Option Word) (vl : Nat) : Nat :=
  let op := rOpcode r
  let run := op = 1 ∨ op = 2
  let rows := if op = 1 then vRows r else 1
  let cols := if op = 1 then vCols r else max vl 1
  if headerBad 1 r seq then 0x01
  else if op = 0 ∨ op > 4 then 0x02
  else if (run ∧ vReserved r) ∨ (op = 3 ∧ Line.bytes r 8 56 / 128 ≠ 0) ∨
      (op = 4 ∧ (rField r 8 31 21 ≠ 0 ∨ Line.bytes r 12 52 ≠ 0)) then 0x03
  else if run ∧ ((vXen r ∧ (vX r).srcBad) ∨ (vYen r ∧ (vY r).srcBad)) then 0x04
  else if run ∧ ¬vConvOk r then 0x05
  else if (op = 1 ∧ (vRows r = 0 ∨ vCols r = 0)) ∨ (op = 2 ∧ (vRows r ≠ 0 ∨ vCols r ≠ 0)) ∨
      (op = 3 ∧ (setVl r = 0 ∨ setVl r > 64)) then 0x06
  else if (run ∧ ((vXen r ∧ (vX r).dbase % 64 ≠ 0) ∨ (vYen r ∧ (vY r).dbase % 64 ≠ 0) ∨
      (vZen r ∧ (vZ r).dbase % 64 ≠ 0) ∨ vRbase r % 8 ≠ 0)) ∨ (op = 4 ∧ tAddr r % 64 ≠ 0) then 0x07
  else if (run ∧ vExtentBad r rows cols) ∨ (op = 4 ∧ tAddr r + 2112 > wmTop) then 0x08
  else if run ∧ (((vNops r > 0 ∨ vWen r) ∧ ¬vAuxen r) ∨ vYb r = 3 ∨ vRed r = 3 ∨ (¬vZen r ∧ vConv r ≠ 0)) then 0x09
  else 0

/-- What `n` elements from column `c` on of row `i` of a source hold, data and scales. -/
def Desc.vPart (d : Desc) (i c n : Nat) : List Rows :=
  let row := d.dbase + i * d.dstride * 64
  match d.f with
  | .a44 => [region (row + 8 * c) (8 * n)]
  | .f32 => [region (row + 4 * c) (4 * n)]
  | .f16 | .bf16 => [region (row + 2 * c) (2 * n)]
  | f =>
    let b := c / f.perBlock
    [region (row + b * f.blockBytes) (cdiv n f.perBlock * f.blockBytes)] ++
      if d.smode then [] else [region (d.sbase + i * d.sstride + b) (cdiv n f.perBlock)]

/-- The auxiliary record's contents are refused at the start (R157, R169). -/
def vAuxBad (r a : Line) (rows cols : Nat) : Bool :=
  let n := vNops r
  let w := aW a
  let wr := [w.vData w.f rows cols, w.vScales w.f rows cols]
  (List.range 8).any (fun i => if i < n then decide (aOp a i / 4096 ≥ 14) else decide (aOp a i ≠ 0)) ||
  decide (aMicro a / 4096 ≠ 0) || decide (aKs a / 32 ≠ 0) || decide (aTrans a / 2 ≠ 0) ||
  decide (Line.bytes a 62 2 ≠ 0) ||
  (if vWen r then
    srcReserved a 16 || w.srcBad || decide (w.dbase % 64 ≠ 0) || wr.any (fun x => x.beyond wmTop) ||
    (vDest r rows cols).any (fun z => wr.any fun x => z.overlap x) ||
    wr.any (fun x => x.overlap (vRedRows r rows))
  else decide (Line.bytes a 16 12 ≠ 0))

/-- A table image has a reserved bit set (R162); the image of table 1 is read from byte 5 on. -/
def Tile.tableBad (x : Tile) (a : Nat) (sel : Bool) : Bool :=
  (!sel && decide (x.readW (a + 4) 1 / 32 ≠ 0)) || decide (x.readW (a + 5) 1 / 32 ≠ 0) ||
  decide (x.readW (a + 6) 58 ≠ 0)

/-- Element (i, c) of a source: value (none: NV), its exponent, its saturation mark (R155, R156, R98, R100). -/
def Tile.srcElem (x : Tile) (d : Desc) (i c : Nat) : Option Int × Int × Bool :=
  let f := d.f
  let row := d.dbase + i * d.dstride * 64
  match f with
  | .a44 =>
    let w := A44.ofBits (BitVec.ofNat 48 (x.readW (row + 8 * c) 8))
    (if w.nv then none else some w.v, signed 10 (d.sbase % 1024), w.sat)
  | .f32 | .f16 | .bf16 =>
    let r := match f with
      | .f32 => ingestFloat 8 23 (x.readW (row + 4 * c) 4)
      | .f16 => ingestFloat 5 10 (x.readW (row + 2 * c) 2)
      | _ => ingestFloat 8 7 (x.readW (row + 2 * c) 2)
    match r with
    | some (m, e) => (some m, e, false)
    | none => (none, 0, false)
  | f =>
    let e := if d.smode then signed 8 (d.sbase % 256) else x.scaleAt (d.sbase + i * d.sstride + c / f.perBlock)
    (x.elemAt f row c, if f = .b8x2 then e - 7 else e, false)

end Sys2Proof.Machine
end

