-- ==== Sys2Proof/Machine/Vxe.lean ====
section
/-! DEFINITION. The commands of the VXE: taking a record, its start, one vector, completion (spec 07). -/

namespace Sys2Proof.Machine

/-! ## Lanes (R151, R160) -/

/-- A lane's value (none: NV) and tag. -/
structure LaneVal where
  v   : Option Int
  tag : Bool
  deriving DecidableEq, Repr

def laneMax : Int := 2 ^ 31 - 1

def Lane.val (l : Lane) : LaneVal := ⟨ofW32 l.v.toNat, l.tag⟩
def LaneVal.lane (l : LaneVal) : Lane := ⟨BitVec.ofNat 32 (toW32 l.v), l.tag⟩

/-- An exact result with the OR of its operands' tags: the final clamp sets the tag. -/
def laneOf (x : Int) (tag : Bool) : LaneVal :=
  ⟨some (clampTo laneMax x), tag || decide (x ≠ clampTo laneMax x)⟩

def lane1 (a : LaneVal) (f : Int → Int) : LaneVal :=
  match a.v with | some x => laneOf (f x) a.tag | none => ⟨none, a.tag⟩

def lane2 (a b : LaneVal) (f : Int → Int → Int) : LaneVal :=
  match a.v, b.v with
  | some x, some y => laneOf (f x y) (a.tag || b.tag)
  | _, _ => ⟨none, a.tag || b.tag⟩

/-- scale(p) of R160. -/
def scaleEr (er p : Int) : Int := roundNE p (-er)

def Vxe.reg (v : Vxe) (r l : Nat) : LaneVal := (Sparse.get {} v.regs (64 * r + l)).val
def Vxe.setReg (v : Vxe) (r l : Nat) (x : LaneVal) : Vxe :=
  { v with regs := Sparse.set {} v.regs (64 * r + l) x.lane }

/-- A table lookup (R162), `one` for table 1. -/
def Vxe.table (v : Vxe) (one : Bool) (a : LaneVal) : LaneVal :=
  match a.v with
  | none => ⟨none, a.tag⟩
  | some x =>
    let xlo := v.xlo.toInt
    let p := pow2 v.ssh.toNat
    let idx : Int := min (max ((x - xlo) / p) 0) 255
    let off := x - xlo - idx * p
    let i := idx.toNat
    let base := if one then Sparse.get 0 v.base1 i else Sparse.get 0 v.base0 i
    let slope := if one then Sparse.get 0 v.slope1 i else Sparse.get 0 v.slope0 i
    let sls := if one then v.sls1 else v.sls0
    if base = 0x80000000#32 then ⟨none, a.tag⟩
    else laneOf (base.toInt + roundNE (slope.toInt * off) sls.toNat) a.tag

/-- x0 of the draw of R163 for element (i, c). -/
def auxDraw (a : Line) (purpose i c : Nat) : Nat :=
  let e := if aTrans a % 2 = 1 then aBase a + c * aPitch a + i else aBase a + i * aPitch a + c
  draw (aSeed a) (e % 2 ^ 48) (aLayer a) (aStep a) (aMicro a % 4096) (aStream a) purpose

/-- The micro-op `w` on lane `l` (row i, column c of the tensor), Table 7.4. Tags of SEL: DEDUCED, unsafe:
notes/assumptions/77.md. -/
def Vxe.microOp (v : Vxe) (er : Int) (aux : Line) (w i c l : Nat) : Vxe :=
  let d := bits w 11 8
  let a := v.reg (bits w 7 4) l
  let b := v.reg (bits w 3 0) l
  let old := v.reg d l
  let r : LaneVal := match bits w 15 12 with
    | 0x0 => lane2 a b fun x y => x + y
    | 0x1 => lane2 a b fun x y => x - y
    | 0x2 => lane2 a b fun x y => scaleEr er (x * y)
    | 0x3 =>
      match old.v, a.v, b.v with
      | some z, some x, some y => laneOf (z + scaleEr er (x * y)) (old.tag || a.tag || b.tag)
      | _, _, _ => ⟨none, old.tag || a.tag || b.tag⟩
    | 0x4 => lane2 a b max
    | 0x5 => lane2 a b min
    | 0x6 => lane1 a fun x => x.natAbs
    | 0x7 =>
      match a.v with
      | none => ⟨none, a.tag || b.tag⟩
      | some x => if x > 0 then ⟨b.v, a.tag || b.tag⟩ else ⟨old.v, a.tag || old.tag⟩
    | 0x8 => lane1 a fun x => roundNE x (8 - (bits w 3 0 : Int))
    | 0x9 => a
    | 0xA => v.table false a
    | 0xB => v.table true a
    | 0xC =>
      lane1 a fun x =>
        if auxDraw aux 0 i c / 2 ^ 16 < aP16 aux then 0 else roundNE (x * aKm aux) (aKs aux % 32 : Nat)
    | _ => ⟨some (auxDraw aux 2 i c / 2 : Nat), false⟩
  v.setReg d l r

/-! ## Taking a record -/

def Tile.withVxe (x : Tile) (f : Vxe → Vxe) : Tile := { x with vxe := f x.vxe }

/-- The VXE takes the record at the head of its queue, when its OPCODE is one that `mine` accepts (R74, R169). -/
def vxeTake (t : Nat) (mine : Nat → Bool) (s : State) : State :=
  let x := s.tile t
  match x.vxe.q.queue with
  | [] => s
  | c :: rest =>
    if !x.engOn || x.vxe.run.isSome || !mine (rOpcode c.rcd) then s
    else
      let s1 := s.setTile t (x.withVxe fun v => { v with q := { v.q with queue := rest } })
      let k := vxeCheck c.rcd (some c.seq) x.vxe.vl.toNat
      if k ≠ 0 then engCmd s1 t 1 k c
      else s1.modTile t fun x => x.withVxe fun v => { v with run := some { cmd := c } }

/-- VMAP: a record with OPCODE 0x01, and one whose OPCODE is outside Table 7.1, which fails its check. -/
def execVmap (t : TileId) (s : State) : Result := atIsland t s (vxeTake t.toNat fun o => o != 2 && o != 3 && o != 4)
def execVstep (t : TileId) (s : State) : Result := atIsland t s (vxeTake t.toNat fun o => o == 2)
def execSetvl (t : TileId) (s : State) : Result := atIsland t s (vxeTake t.toNat fun o => o == 3)
def execTload (t : TileId) (s : State) : Result := atIsland t s (vxeTake t.toNat fun o => o == 4)

/-! ## Start -/

/-- TLOAD of the image at `a` (R162). -/
def Tile.loadTable (x : Tile) (a : Nat) (sel : Bool) : Vxe :=
  let w (o n : Nat) := x.readW (a + o) n
  let v := x.vxe
  let fill (k : Nat) := forAll (List.range 256) ([] : Sparse Word) fun m i =>
    Sparse.set 0 m i (BitVec.ofNat 32 (w (64 + 8 * i + k) 4))
  if sel then { v with sls1 := BitVec.ofNat 5 (w 5 1), base1 := fill 0, slope1 := fill 4 }
  else { v with xlo := BitVec.ofNat 32 (w 0 4), ssh := BitVec.ofNat 5 (w 4 1), sls0 := BitVec.ofNat 5 (w 5 1)
                base0 := fill 0, slope0 := fill 4 }

/-- DEP_WAIT_END on the VXE: the taken command starts, applying its data checks (R74, R169). -/
def vxeStart (t : Nat) (wm : Ecc) (s : State) : State :=
  let x := s.tile t
  match x.vxe.run with
  | none => s
  | some r =>
    let c := r.cmd.rcd
    let op := rOpcode c
    let go := op = 1 ∨ op = 2
    if !x.engOn || r.started || !x.depOk c then s
    else
      let rows := if op = 1 then vRows c else 1
      let cols := if op = 1 then vCols c else x.vxe.vl.toNat
      let aux : Line := if go ∧ vAuxen c then BitVec.ofNat 512 (x.readW (vAux c) 64) else 0
      let hrec := go ∧ bit (vConv c) 16
      let reads := op = 4 ∨ (go ∧ vAuxen c) ∨ hrec
      let rows_ := [region (tAddr c) (if op = 4 then 2112 else 0), region (vAux c) (if go ∧ vAuxen c then 64 else 0),
        region (vHist c) (if hrec then 32 else 0)]
      let wm := wm.worse (x.flawIn rows_)
      let s := useWm s t (rowWords rows_)
      let bad := (op = 4 ∧ x.tableBad (tAddr c) (tSel c)) ∨ (go ∧ vAuxen c ∧ vAuxBad c aux rows cols) ∨
        (hrec ∧ ¬histOk (x.histAt (vHist c)))
      if reads ∧ wm = .ue then engFault s t 1 0x40 r.cmd
      else
        let s := if reads ∧ wm = .ce then chargeCe s t false else s
        if bad then engFault s t 1 0x42 r.cmd
        else
          s.modTile t fun x => x.withVxe fun v =>
            let v := if op = 4 then x.loadTable (tAddr c) (tSel c) else v
            let v := if op = 3 then { v with vl := BitVec.ofNat 7 (setVl c) } else v
            { v with run := some { r with
                started := true, aux := aux, rows := rows, cols := cols, finished := decide (¬go)
                hist := { entries := if hrec then histEntries (x.histAt (vHist c)) else [] } } }

/-! ## One vector (R156-R166) -/

/-- Load register `reg` lane by lane from elements of a source. -/
def vLoad (x : Tile) (er : Int) (d : Desc) (reg n : Nat) (at_ : Nat → Nat × Nat) (v : Vxe) : Vxe :=
  forAll (List.range n) v fun v l =>
    let e := x.srcElem d (at_ l).1 (at_ l).2
    v.setReg reg l (match e.1 with
      | none => ⟨none, e.2.2⟩
      | some m => laneOf (roundNE m (er - e.2.1)) e.2.2)

/-- The row's reduction word after a vector whose active lanes of OREG are `ls` (R164). -/
def vReduce (mode : Nat) (first : Bool) (seen : Bool) (old : A44) (ls : List LaneVal) : A44 × Bool :=
  let ords := ls.filterMap LaneVal.v
  let nv := ls.any fun l => l.v.isNone
  let tag := ls.any fun l => l.tag
  let old := if first then {} else old
  let seen := !first && seen
  if mode = 1 then (old.add ⟨ords.foldl (· + ·) 0, nv, tag⟩, false)
  else
    match ords with
    | [] => ({ old with nv := old.nv || nv, sat := old.sat || tag }, seen)
    | o :: os =>
      let m := os.foldl max o
      (⟨if seen then max old.v m else m, old.nv || nv, old.sat || tag⟩, true)

/-- The active lanes of OREG in the summary (R166). -/
def SumAcc.addLane (a : SumAcc) (l : LaneVal) : SumAcc :=
  match l.v with
  | some x => { a with max := Nat.max a.max x.natAbs, sum := a.sum + x, sat := a.sat || l.tag
                       nonzero := a.nonzero || decide (x ≠ 0) }
  | none => { a with nv := true, sat := a.sat || l.tag, nonzero := true }

/-- Store the lanes `ls` of vector `j` of row `i` to Z (R165). -/
def vStore (c : Line) (i j : Nat) (ls : List LaneVal) (w : Tile × SumAcc × HistRun) : Tile × SumAcc × HistRun :=
  let d := vZ c
  let f := convFmt (vConv c)
  let cv := Conv.ofNat (vConv c)
  let er := vEr c
  let row := d.dbase + i * d.dstride * 64
  let vals : List SrcVal := ls.map fun l => ⟨l.v, l.tag⟩
  if f = .f32 then
    forAll (List.range vals.length) w fun w k =>
      let o := exportF32 (vals.getD k ⟨none, false⟩) er
      (w.1.writeW (row + 4 * (64 * j + k)) 4 o.1, { w.2.1 with sat := w.2.1.sat || o.2 }, w.2.2)
  else
    let per := f.perBlock
    forAll (List.range (cdiv vals.length per)) w fun w b =>
      let vs := (vals.drop (b * per)).take per
      let e := cv.scale w.2.2.entries f.q er vs
      let blk := convBlock f e er [] (vs ++ List.replicate (per - vs.length) ⟨some 0, false⟩)
      let nb := 64 / per * j + b
      let x := w.1.writeW (row + nb * f.blockBytes) f.blockBytes blk.data
      (x.writeW (d.sbase + i * d.sstride + nb) 1 (unsigned 8 blk.e),
       { w.2.1 with sat := w.2.1.sat || blk.sat, nv := w.2.1.nv || blk.nv }, w.2.2.add (blockE f.q er vs))

/-- Everything one vector does. -/
def Tile.vxeStep (x : Tile) (r : VxeRun) : Tile :=
  let c := r.cmd.rcd
  let er := vEr c
  let vpr := cdiv r.cols 64
  let i := r.pos / vpr
  let j := r.pos % vpr
  let n := min 64 (r.cols - 64 * j)
  let lanes := List.range n
  let v := x.vxe
  let v := if vXen c then vLoad x er (vX c) 0 n (fun l => (i, 64 * j + l)) v else v
  let v := if vYen c then
      vLoad x er (vY c) 1 n (fun l => match vYb c with | 1 => (0, 64 * j + l) | 2 => (0, i) | _ => (i, 64 * j + l)) v
    else v
  let v := if vWen c then vLoad x er (aW r.aux) 2 n (fun l => (i, 64 * j + l)) v else v
  let v := forAll (List.range (vNops c)) v fun v o =>
    forAll lanes v fun v l => v.microOp er r.aux (aOp r.aux o) i (64 * j + l) l
  let ls := lanes.map fun l => v.reg (vOreg c) l
  let acc := ls.foldl SumAcc.addLane r.acc
  let x := { x with vxe := v }
  let w := if vZen c then vStore c i j ls (x, acc, r.hist) else (x, acc, r.hist)
  let red := if vRed c = 0 then ((A44.ofBits r.red), r.redSeen)
    else vReduce (vRed c) (decide (j = 0)) r.redSeen (A44.ofBits r.red) ls
  let x := if vRed c = 0 then w.1 else w.1.writeW (vRbase c + 8 * i) 8 red.1.toBits.toNat
  let acc := if vRed c = 0 then w.2.1 else { w.2.1 with nv := w.2.1.nv || red.1.nv, sat := w.2.1.sat || red.1.sat }
  x.withVxe fun v => { v with run := some { r with
    pos := r.pos + 1, finished := decide (r.pos + 1 ≥ r.rows * vpr), red := red.1.toBits, redSeen := red.2
    acc := acc, hist := w.2.2 } }

/-- What the current vector reads of working memory. -/
def VxeRun.wmReads (r : VxeRun) : List Rows :=
  let c := r.cmd.rcd
  let vpr := cdiv r.cols 64
  let i := r.pos / vpr
  let j := r.pos % vpr
  let n := min 64 (r.cols - 64 * j)
  (if vXen c then (vX c).vPart i (64 * j) n else []) ++ (if vWen c then (aW r.aux).vPart i (64 * j) n else []) ++
  (if vYen c then
    match vYb c with
    | 1 => (vY c).vPart 0 (64 * j) n
    | 2 => (vY c).vPart 0 i 1
    | _ => (vY c).vPart i (64 * j) n
  else [])

/-- The words that the vector reads and writes: its reads, Z, its reduction word. -/
def VxeRun.words (r : VxeRun) : Nat :=
  let c := r.cmd.rcd
  let vpr := cdiv r.cols 64
  let j := r.pos % vpr
  rowWords r.wmReads + (if vZen c then
    rowWords ({ vZ c with fmt := bits (vConv c) 3 0 }.vPart (r.pos / vpr) (64 * j) (min 64 (r.cols - 64 * j))) else 0) +
    b2n (decide (vRed c ≠ 0))

/-- The chain of the run uses a function table. -/
def VxeRun.usesTable (r : VxeRun) : Bool :=
  (List.range (vNops r.cmd.rcd)).any fun o => aOp r.aux o / 4096 == 0xA || aOp r.aux o / 4096 == 0xB

/-- VXE_VECTOR: one vector, with the checks of its working-memory reads and of its table entries. -/
def execVxeVector (t : TileId) (wm tab : Ecc) (s : State) : Result :=
  atIsland t s fun s =>
    let t := t.toNat
    let x := s.tile t
    match x.vxe.run with
    | none => s
    | some r =>
      let c := r.cmd.rcd
      let reads := vXen c || vYen c || vWen c
      let wm := wm.worse (x.flawIn r.wmReads)
      if !x.engOn || !r.started || r.finished then s
      else if !s.mayIssue t then holdIssue s t
      else if reads && wm == .ue then engFault s t 1 0x40 r.cmd
      else
        let s := if reads && wm == .ce then chargeCe s t false else s
        if r.usesTable && tab == .ue then engFault s t 1 0x41 r.cmd
        else s.modTile t fun x => (x.vxeStep r).charge (150 + 8 * r.words)

/-- The required E of a completing command (R96). A binary32 output has no block: its required E is a free value of the
record and the words written. DESIGN CHOICE, safe: notes/assumptions/15.md. -/
def Tile.vxeRequired (x : Tile) (r : VxeRun) : Int :=
  let c := r.cmd.rcd
  let words := (List.range r.rows).map fun i => x.readW ((vZ c).dbase + i * (vZ c).dstride * 64) (4 * r.cols)
  match r.hist.reqE with
  | some e => e
  | none => signed 8 (Config.exportScale c words).toNat

/-- ENGINE_COMPLETE on the VXE: the history record is read, with its check (R223), and written. -/
def vxeComplete (t : Nat) (s : State) : State :=
  let x := s.tile t
  match x.vxe.run with
  | none => s
  | some r =>
    if !x.engOn || !r.finished || !x.canPush 1 r.cmd then s
    else
      let c := r.cmd.rcd
      let cv := Conv.ofNat (vConv c)
      let hrec := (rOpcode c = 1 ∨ rOpcode c = 2) ∧ cv.hrec
      engReads s t 1 r.cmd (x.flawIn [region (vHist c) (if hrec then 32 else 0)]) .ok fun s => s.modTile t fun x =>
        let x := if hrec then (x.histWrite (vHist c) (x.vxeRequired r) cv.push).charge 16 else x
        (x.completeCmd 1 r.cmd (r.acc.record r.acc.max r.cmd.seq)).withVxe fun v => { v with run := none }

end Sys2Proof.Machine
end

