-- ==== Sys2Proof/Machine/UpeRecord.lean ====
section
/-! DEFINITION. The UPE's command record (Tables 9.3-9.5), its checks (Table 9.7), the group step record (R210), the
update registers and operations (R195-R199). -/

namespace Sys2Proof.Machine

/-- A tensor descriptor (Table 9.4). -/
structure TDesc where
  dbase : Nat
  fmt   : Nat
  en    : Bool
  sbase : Nat
  deriving DecidableEq, Repr

def tdescAt (r : Line) (b : Nat) : TDesc :=
  ⟨rField r b 19 0, rField r b 23 20, bit (Line.bytes r b 4) 24, rField r (b + 4) 19 0⟩

def TDesc.f (d : TDesc) : Fmt := (Fmt.ofCode d.fmt).getD .w32

def uCount (r : Line) : Nat := rField r 8 23 0
def uProg (r : Line) : Nat := rField r 12 19 0
def uNins (r : Line) : Nat := rField r 12 24 20 + 1
def uW (r : Line) : TDesc := tdescAt r 16
def uG (r : Line) : TDesc := tdescAt r 24
def uS0 (r : Line) : TDesc := tdescAt r 32
def uS1 (r : Line) : TDesc := tdescAt r 40
def uGsr (r : Line) : Nat := rField r 48 19 0
def uConv (r : Line) : Nat := Line.bytes r 52 4
def uAux (r : Line) : Nat := rField r 56 19 0

/-- Table 9.5. -/
def xBase (a : Line) : Nat := Line.bytes a 0 6
def xLayer (a : Line) : Nat := Line.bytes a 6 2
def xStream (a : Line) : Nat := Line.bytes a 8 2
def xPitch (a : Line) : Nat := Line.bytes a 12 4
def xRed (a : Line) : Nat := rField a 16 19 0
def xEred (a : Line) : Int := signed 10 (rField a 16 29 20)
def xRowlist (a : Line) : Nat := rField a 20 19 0
def xRowstep (a : Line) : Nat := rField a 24 19 0
def xDecay (a : Line) : Nat := rField a 28 19 0
def xWc (a : Line) : TDesc := tdescAt a 32

/-- The group step record (R210). -/
def gFrozen (g : Line) : Bool := bit g.toNat 16
def gNoupd (g : Line) : Bool := bit g.toNat 17
def gStep (g : Line) : Nat := Line.bytes g 4 4
def gLr (g : Line) : Int := signed 32 (Line.bytes g 8 4)
def gElr (g : Line) : Int := signed 16 (Line.bytes g 12 2)
def gLse (g : Line) : Nat := Line.bytes g 14 1
def gK (g : Line) (i : Nat) : Int := signed 32 (Line.bytes g (16 + 4 * i) 4)
def gKe (g : Line) (i : Nat) : Int := signed 8 (Line.bytes g (40 + i) 1)
/-- A reserved bit of a GSR is set. -/
def gsrBad (g : Line) : Bool :=
  decide (Line.bytes g 2 1 / 4 ≠ 0) || decide (Line.bytes g 3 1 ≠ 0) || decide (Line.bytes g 15 1 ≠ 0) ||
  decide (Line.bytes g 46 18 ≠ 0)

/-! ## Regions (R203) -/

/-- Bytes and scales of a unit. -/
def TDesc.unitBytes (d : TDesc) : Nat := 64 / d.f.perBlock * d.f.blockBytes
def TDesc.unitScales (d : TDesc) : Nat := if d.f.scaled then 64 / d.f.perBlock else 0

/-- Data and scales of `units` units of a used tensor. -/
def TDesc.regions (d : TDesc) (units : Nat) : List Rows :=
  if d.en then [region d.dbase (units * d.unitBytes), region d.sbase (units * d.unitScales)] else []

/-- Units of a command whose rows are `pitch` elements long (UROWS) or whose element count is COUNT. -/
def uUnits (r : Line) (pitch : Nat) : Nat :=
  if rOpcode r = 4 then uCount r * cdiv pitch 64 else cdiv (uCount r) 64

def anyOverlap (a b : List Rows) : Bool := a.any fun x => b.any fun y => x.overlap y

/-- An extent leaves working memory, or a stored region overlaps a read region that is not its own tensor (Table 9.7,
0x08), for `units` units and the regions of the auxiliary record: stored `st` and read `rd`. -/
def uExtentBad (r : Line) (units : Nat) (st rd : List Rows) : Bool :=
  let w := (uW r).regions units
  let g := (uG r).regions units
  let a := (uS0 r).regions units
  let b := (uS1 r).regions units
  let fixed := [region (uProg r) (2 * uNins r), region (uAux r) 64, region (uGsr r) 64] ++ rd
  let stores := decide (rOpcode r ≠ 2)
  (w ++ g ++ a ++ b ++ fixed ++ st).any (fun x => x.beyond wmTop) ||
  (stores && (anyOverlap w (g ++ a ++ b ++ fixed) || anyOverlap a (w ++ g ++ b ++ fixed) ||
    anyOverlap b (w ++ g ++ a ++ fixed))) ||
  anyOverlap st (w ++ g ++ a ++ b ++ fixed)

/-! ## Record checks (Table 9.7) -/

def uReserved (r : Line) : Bool :=
  let d (b : Nat) := decide (rField r b 31 25 ≠ 0) || decide (rField r (b + 4) 31 20 ≠ 0)
  decide (rField r 8 31 24 ≠ 0) || decide (rField r 12 31 25 ≠ 0) || d 16 || d 24 || d 32 || d 40 ||
  decide (rField r 48 31 20 ≠ 0) || decide (rField r 56 31 20 ≠ 0) || decide (Line.bytes r 60 4 ≠ 0) ||
  (decide ((uG r).fmt = 6) && decide ((uG r).sbase / 1024 ≠ 0))

/-- The format and EN rules of R203. A tensor with EN = 0 names no format. DESIGN CHOICE, unsafe: notes/assumptions/92.md. -/
def uFormatsBad (r : Line) : Bool :=
  let w := uW r
  let g := uG r
  let s (d : TDesc) := d.en && !(d.fmt == 1 || d.fmt == 2 || d.fmt == 3)
  (decide (rOpcode r ≠ 2) && !w.en) || (w.en && w.fmt != 3) || (g.en && !(g.fmt == 2 || g.fmt == 3 || g.fmt == 6)) ||
  s (uS0 r) || s (uS1 r)

/-- The first failing check of Table 9.7 when a record is taken; 0: none. The extents of UROWS are checked here for
one unit a row; what the auxiliary record decides is checked at the start, where it is read.
DEDUCED, unsafe: notes/assumptions/12.md. -/
def upeCheck (r : Line) (seq : Option Word) : Nat :=
  let op := rOpcode r
  if headerBad 2 r seq then 0x01
  else if op = 0 ∨ op > 4 then 0x02
  else if uReserved r then 0x03
  else if uFormatsBad r then 0x04
  else if uConv r ≠ 0x03 ∧ uConv r ≠ 0x43 then 0x05
  else if uCount r = 0 ∨ (op = 4 ∧ uCount r > 65535) then 0x06
  else if uProg r % 64 ≠ 0 ∨ uGsr r % 64 ≠ 0 ∨ uAux r % 64 ≠ 0 ∨
      ([uW r, uG r, uS0 r, uS1 r].any fun d => d.en && d.dbase % 64 != 0) then 0x07
  else if uExtentBad r (uUnits r 1) [] [] then 0x08
  else 0

/-- The program fails R200; every register is preloaded (R205), so no read precedes a write. -/
def progBad (p : List (BitVec 16)) : Bool :=
  p.any fun w =>
    let op := bits w.toNat 15 13
    (decide (op ≠ 7) && decide (bits w.toNat 1 0 ≠ 0)) || (decide (op = 3) && decide (bits w.toNat 5 2 ≠ 15))

/-- An address of the auxiliary record breaks the alignment of Table 9.5 (Table 9.7, 0x07). -/
def uAuxAlign (r a : Line) : Bool :=
  let op := rOpcode r
  let wc := xWc a
  (decide (op = 2 ∨ op = 3) && decide (xRed a % 32 ≠ 0)) || (decide (op = 4) && decide (xDecay a % 64 ≠ 0)) ||
  (decide (op ≠ 2) && wc.en && decide (wc.dbase % 64 ≠ 0))

/-- The extent check of Table 9.7 (0x08) for everything that the record and its auxiliary record name. -/
def uAuxExtent (r a : Line) : Bool :=
  let op := rOpcode r
  let rows := decide (op = 4)
  let units := uUnits r (xPitch a)
  let wc := if op = 2 then [] else (xWc a).regions units
  let step := if rows then [region (xRowstep a) (4 * uCount r)] else []
  let st := (if op = 2 then [region (xRed a) 32] else []) ++ wc ++ step
  let rd := (if op = 3 then [region (xRed a) 32] else []) ++
    (if rows then [region (xRowlist a) (4 * uCount r), region (xDecay a) 512] else [])
  uExtentBad r units st rd || anyOverlap wc step

/-- The auxiliary record breaks Table 9.5; a field that the operation does not use must be 0 (R204): UPART, which stores no
element, uses no input of a draw. -/
def uAuxBad (r a : Line) : Bool :=
  let op := rOpcode r
  let rows := decide (op = 4)
  let wc := xWc a
  decide (Line.bytes a 10 2 ≠ 0) || decide (Line.bytes a 40 24 ≠ 0) ||
  (decide (op = 2) && decide (Line.bytes a 0 10 ≠ 0)) ||
  (if rows then decide (xPitch a = 0) || decide (xPitch a > 65535) else decide (xPitch a ≠ 0)) ||
  (if op = 2 ∨ op = 3 then decide (rField a 16 31 30 ≠ 0) else decide (Line.bytes a 16 4 ≠ 0)) ||
  (if rows then decide (rField a 20 31 20 ≠ 0) || decide (rField a 24 31 20 ≠ 0) || decide (rField a 28 31 20 ≠ 0)
    else decide (Line.bytes a 20 12 ≠ 0)) ||
  (if op = 2 then decide (Line.bytes a 32 8 ≠ 0)
    else decide (rField a 32 31 25 ≠ 0) || decide (rField a 36 31 20 ≠ 0) || (wc.en && decide (wc.fmt > 2)))

/-- Row list and decay table of UROWS (R216). -/
def Tile.rowsBad (x : Tile) (r a : Line) : Bool :=
  let idx (i : Nat) := x.readW (xRowlist a + 4 * i) 4
  (List.range (uCount r - 1)).any (fun i => decide (idx i ≥ idx (i + 1))) ||
  (List.range 64).any fun j => decide (x.readW (xDecay a + 8 * j + 6) 2 ≠ 0)

/-! ## Update registers (R195, R196) -/

/-- A register: exponent and active lanes. -/
structure UReg where
  e : Int
  l : List SrcVal
  deriving DecidableEq, Repr

/-- Normalisation of exact lane results at exponent `ex` (R196). -/
def normalise (ex : Int) (xs : List SrcVal) : UReg :=
  let m := maxMag xs
  let e : Int := if m = 0 then -512 else max (-512) (min 511 (ex + minShift m (2 ^ 43 - 1)))
  ⟨e, xs.map fun x => match x.v with
    | none => x
    | some v =>
      let r := roundNE v (e - ex)
      ⟨some (clampTo a44Max r), x.sat || decide (r ≠ clampTo a44Max r)⟩⟩

/-- The same value in `n` lanes. -/
def bcast (n : Nat) (e : Int) (v : SrcVal) : UReg := ⟨e, List.replicate n v⟩

/-- Lane-wise operation of two registers brought to the exponent `ex`. -/
def zip2 (ex : Int) (a b : UReg) (f : Int → Int → Int) : List SrcVal :=
  (List.zip a.l b.l).map fun y => match y.1.v, y.2.v with
    | some p, some q => ⟨some (f (p * pow2 (a.e - ex)) (q * pow2 (b.e - ex))), y.1.sat || y.2.sat⟩
    | _, _ => ⟨none, y.1.sat || y.2.sat⟩

/-- r_l and Er of R199 for a value m × 2^e, m > 0. -/
def rsqrtLane (m : Nat) (e : Int) : Nat × Int :=
  let m' := if e % 2 = 0 then m else 2 * m
  let e' := if e % 2 = 0 then e else e - 1
  let h0 := 42 + Nat.log2 m' / 2
  let r (h : Nat) := floorRoot (2 ^ (2 * h) / m')
  let h := if r h0 ≥ 2 ^ 42 then h0 else h0 + 1
  (r h, -(e' / 2) - h)

/-- RSQRT (R199): the lanes that are zero or negative give 2^43 − 1 at the final exponent, tagged. -/
def rsqrtReg (a : UReg) : UReg :=
  let rs := a.l.map fun x => match x.v with
    | some m => if m > 0 then some (rsqrtLane m.toNat a.e) else none
    | none => none
  let ers := rs.filterMap fun x => x.map fun y => y.2
  let ex := ers.foldl min (ers.headD 0)
  let xs : List SrcVal := (List.zip a.l rs).map fun y => match y.1.v, y.2 with
    | some _, some r => ⟨some ((r.1 : Int) * pow2 (r.2 - ex)), y.1.sat⟩
    | some _, none => ⟨some 0, y.1.sat⟩
    | none, _ => ⟨none, y.1.sat⟩
  let n := normalise ex xs
  ⟨n.e, (List.zip n.l (List.zip a.l rs)).map fun y => match y.2.1.v, y.2.2 with
    | some _, none => ⟨some a44Max, true⟩
    | _, _ => y.1⟩

/-- Operand code `c` (R197). -/
def uOperand (regs : List UReg) (g : Line) (n c : Nat) : UReg :=
  if c < 8 then regs.getD c ⟨0, []⟩
  else if c < 14 then bcast n (gKe g (c - 8)) ⟨some (gK g (c - 8)), false⟩
  else if c = 14 then bcast n (gElr g) ⟨some (gLr g), false⟩
  else bcast n 0 ⟨some 0, false⟩

/-- One instruction (Table 9.2). Tags of SELECT: DEDUCED, unsafe: notes/assumptions/77.md. -/
def uInstr (g : Line) (n : Nat) (regs : List UReg) (w : BitVec 16) : List UReg :=
  let w := w.toNat
  let op := bits w 15 13
  let di := bits w 12 10
  let a := uOperand regs g n (bits w 9 6)
  let b := uOperand regs g n (bits w 5 2)
  let d := regs.getD di ⟨0, []⟩
  let lo := min a.e b.e
  let r : UReg := match op with
    | 0 => normalise (a.e + b.e) (zip2 0 ⟨0, a.l⟩ ⟨0, b.l⟩ fun x y => x * y)
    | 1 => normalise lo (zip2 lo a b fun x y => x + y)
    | 2 =>
      let p : UReg := ⟨a.e + b.e, zip2 0 ⟨0, a.l⟩ ⟨0, b.l⟩ fun x y => x * y⟩
      let ex := min d.e p.e
      normalise ex (zip2 ex d p fun x y => x + y)
    | 3 => rsqrtReg a
    | 4 =>
      normalise b.e ((List.zip a.l b.l).map fun y => match y.1.v, y.2.v with
        | some 0, _ => ⟨some 0, y.1.sat⟩
        | some p, some q => ⟨some (if p > 0 then q else -q), y.1.sat || y.2.sat⟩
        | _, _ => ⟨none, y.1.sat || y.2.sat⟩)
    | 5 => normalise lo (zip2 lo a b fun x y => min (max x (-(y.natAbs : Int))) y.natAbs)
    | 6 =>
      let ex := min d.e b.e
      normalise ex ((List.zip a.l (List.zip b.l d.l)).map fun y => match y.1.v with
        | none => ⟨none, y.1.sat || y.2.1.sat⟩
        | some p =>
          let z := if p > 0 then (y.2.1, b.e) else (y.2.2, d.e)
          ⟨match z.1.v with | some q => some (q * pow2 (z.2 - ex)) | none => none, y.1.sat || z.1.sat⟩)
    | _ => normalise (a.e + signed 6 (bits w 5 0)) a.l
  regs.set di r

end Sys2Proof.Machine
end

