-- ==== Sys2Proof/Machine/Upe.lean ====
section
/-! DEFINITION. The commands of the UPE, taking, start, one unit, completion (spec 09), and the two rows that all
three engines share: DEP_WAIT_END and ENGINE_COMPLETE (R73, R74). -/

namespace Sys2Proof.Machine

def Tile.withUpe (x : Tile) (f : Upe → Upe) : Tile := { x with upe := f x.upe }

/-! ## Taking a record -/

/-- The UPE takes the record at the head of its queue, when its OPCODE is one that `mine` accepts (R74, R220). -/
def upeTake (t : Nat) (mine : Nat → Bool) (s : State) : State :=
  let x := s.tile t
  match x.upe.q.queue with
  | [] => s
  | c :: rest =>
    if !x.engOn || x.upe.run.isSome || !mine (rOpcode c.rcd) then s
    else
      let s1 := s.setTile t (x.withUpe fun u => { u with q := { u.q with queue := rest } })
      let k := upeCheck c.rcd (some c.seq)
      if k ≠ 0 then engCmd s1 t 2 k c
      else s1.modTile t fun x => x.withUpe fun u => { u with run := some { cmd := c } }

/-- UBLK: a record with OPCODE 0x01, and one whose OPCODE is outside Table 9.1, which fails its check. -/
def execUblk (t : TileId) (s : State) : Result := atIsland t s (upeTake t.toNat fun o => o != 2 && o != 3 && o != 4)
def execUpart (t : TileId) (s : State) : Result := atIsland t s (upeTake t.toNat fun o => o == 2)
def execUapply (t : TileId) (s : State) : Result := atIsland t s (upeTake t.toNat fun o => o == 3)
def execUrows (t : TileId) (s : State) : Result := atIsland t s (upeTake t.toNat fun o => o == 4)

/-! ## Start -/

/-- DEP_WAIT_END on the UPE (R74, R200, R204, R213, R220): a frozen group's command writes nothing and raises no fault;
one with NOUPD writes nothing. -/
def upeStart (t : Nat) (wm : Ecc) (s : State) : State :=
  let x := s.tile t
  match x.upe.run with
  | none => s
  | some r =>
    let c := r.cmd.rcd
    let a : Line := BitVec.ofNat 512 (x.readW (uAux c) 64)
    let rows := [region (uProg c) (2 * uNins c), region (uAux c) 64, region (uGsr c) 64] ++
      if rOpcode c = 4 then [region (xRowlist a) (4 * uCount c), region (xDecay a) 512] else []
    let wm := wm.worse (x.flawIn rows)
    if !x.engOn || r.started || !x.depOk c then s
    else if wm = .ue then engFault s t 2 0x40 r.cmd
    else
      let s := useWm (if wm = .ce then chargeCe s t false else s) t (rowWords rows)
      let prog := (List.range (uNins c)).map fun i => BitVec.ofNat 16 (x.readW (uProg c + 2 * i) 2)
      let aux : Line := BitVec.ofNat 512 (x.readW (uAux c) 64)
      let g : Line := BitVec.ofNat 512 (x.readW (uGsr c) 64)
      let bad := progBad prog || uAuxBad c aux || gsrBad g || (decide (rOpcode c = 4) && x.rowsBad c aux)
      let drop := s.modTile t fun x => x.withUpe fun u => { u with run := none }
      if !gFrozen g && uAuxAlign c aux then engCmd drop t 2 0x07 r.cmd
      else if !gFrozen g && uAuxExtent c aux then engCmd drop t 2 0x08 r.cmd
      else if !gFrozen g && bad then engFault s t 2 0x42 r.cmd
      else
        s.modTile t fun x => x.withUpe fun u => { u with run := some { r with
          started := true, prog := prog, aux := aux, gsr := g, finished := gFrozen g || gNoupd g
          acc := { skip := gFrozen g } } }

/-! ## One unit (R205-R207, R214-R217) -/

/-- Address of unit `u`, and the E8 of lane `j`'s block. -/
def TDesc.at (d : TDesc) (u : Nat) : Nat := d.dbase + u * d.unitBytes
def Tile.unitScale (x : Tile) (d : TDesc) (u j : Nat) : Int := x.scaleAt (d.sbase + u * d.unitScales + j / d.f.perBlock)

/-- The exact load of `n` lanes of unit `u`, with exponents lowered by `lse`, normalised (R205). -/
def Tile.loadUnit (x : Tile) (d : TDesc) (u n : Nat) (lse : Int) : UReg :=
  if !d.en then bcast n (-512) ⟨some 0, false⟩
  else if d.fmt = 6 then
    normalise (signed 10 (d.sbase % 1024) - lse) ((List.range n).map fun j =>
      let w := A44.ofBits (BitVec.ofNat 48 (x.readW (d.at u + 8 * j) 8))
      ⟨if w.nv then none else some w.v, w.sat⟩)
  else
    let es := (List.range n).map fun j => x.unitScale d u j
    let ex := es.foldl min (es.headD 0)
    normalise (ex - lse) ((List.range n).map fun j =>
      ⟨match x.elemAt d.f (d.at u) j with
        | some v => some (v * pow2 (x.unitScale d u j - ex))
        | none => none, false⟩)

/-- Bits of one element of a format. -/
def Fmt.elemBits : Fmt → Nat
  | .b4 => 4 | .b8 => 8 | .b16 => 16 | _ => 32

/-- Store `vals` at exponent `ein` to unit `u` of `d`, with the loaded values of the kept lanes (R207); `x0` is the tile
as loaded. The blocks written come back with their active lanes. -/
def storeUnit (x0 : Tile) (d : TDesc) (u : Nat) (ein : Int) (vals : List SrcVal) (draws : List Nat)
    (kept : Nat → Bool) (w : Tile × List (Block × Nat)) : Tile × List (Block × Nat) :=
  let per := d.f.perBlock
  let eb := d.f.elemBits
  forAll (List.range (cdiv vals.length per)) w fun w b =>
    let vs := (vals.drop (b * per)).take per
    let cnt := vs.length
    let ks := (List.range cnt).filter fun j => kept (b * per + j)
    let e := if ks.isEmpty then blockE d.f.q ein vs else x0.unitScale d u (b * per)
    let blk := convBlock d.f e ein ((draws.drop (b * per)).take per)
      (vs ++ List.replicate (per - cnt) ⟨some 0, false⟩)
    let old := x0.readW (d.at u + b * d.f.blockBytes) d.f.blockBytes
    let blk := ks.foldl (fun (k : Block) j =>
      { k with data := k.data - bits k.data (eb * j + eb - 1) (eb * j) * 2 ^ (eb * j) +
                 bits old (eb * j + eb - 1) (eb * j) * 2 ^ (eb * j)
               elems := k.elems.set j (d.f.elem old j, false) }) blk
    let x := w.1.writeW (d.at u + b * d.f.blockBytes) d.f.blockBytes blk.data
    (x.writeW (d.sbase + u * d.unitScales + b) 1 (unsigned 8 blk.e), w.2 ++ [(blk, cnt)])

/-- Catch-up factor F_c(k) (R216), one lane. -/
def Tile.catchUp (x : Tile) (a : Line) (c k : Nat) : UReg :=
  (List.range 32).foldl (fun f j =>
    if bit k j then
      let p := xDecay a + c * 256 + j * 8
      let v : Int := x.readW p 4
      normalise (f.e + signed 16 (x.readW (p + 4) 2)) (f.l.map fun y => { y with v := y.v.map fun z => z * v })
    else f) ⟨-42, [⟨some (2 ^ 42), false⟩]⟩

/-- The missed count of row `i` for step `s` (R216). -/
def missed (s last : Nat) : Nat := if last = 0xFFFFFFFF then 0 else (s + 2 ^ 32 - last - 1) % 2 ^ 32

/-- A one-lane register in `n` lanes. -/
def UReg.spread (r : UReg) (n : Nat) : UReg := bcast n r.e (r.l.headD ⟨some 0, false⟩)

/-- Total `i` of RED (R214, R215). -/
def Tile.redTotal (x : Tile) (a : Line) (i : Nat) : A44 := A44.ofBits (BitVec.ofNat 48 (x.readW (xRed a + 8 * i) 8))

/-- Where unit `pos` of a command lies: list entry, unit within the row, active lanes, and the element index of its
lane 0 before ELEM_BASE. -/
def uPlace (x : Tile) (c a : Line) (pos : Nat) : Nat × Nat × Nat :=
  if rOpcode c = 4 then
    let per := cdiv (xPitch a) 64
    let i := pos / per
    let k := pos % per
    (i, min 64 (xPitch a - 64 * k), x.readW (xRowlist a + 4 * i) 4 * xPitch a + 64 * k)
  else (0, min 64 (uCount c - 64 * pos), 64 * pos)

/-- NV and SAT of further stored blocks (R219). -/
def SumAcc.addFlags (a : SumAcc) (bs : List (Block × Nat)) : SumAcc :=
  bs.foldl (fun a b =>
    { a with nv := a.nv || (b.1.elems.take b.2).any fun x => x.1.isNone
             sat := a.sat || (b.1.elems.take b.2).any fun x => x.2 }) a

/-- The registers of unit `pos` after preload (R205). -/
def Tile.preload (x : Tile) (r : UpeRun) (pos i n : Nat) : List UReg :=
  let c := r.cmd.rcd
  let op := rOpcode c
  let zero := bcast n (-512) ⟨some 0, false⟩
  let total (k : Nat) := (let t := x.redTotal r.aux k
    normalise (xEred r.aux) (List.replicate n ⟨if t.nv then none else some t.v, t.sat⟩))
  let k := missed (gStep r.gsr) (x.readW (xRowstep r.aux + 4 * i) 4)
  let tail :=
    if op = 3 then [total 0, total 1, total 2, total 3]
    else if op = 4 then [zero, zero, (x.catchUp r.aux 0 k).spread n, (x.catchUp r.aux 1 k).spread n]
    else [zero, zero, zero, zero]
  [x.loadUnit (uW c) pos n 0, x.loadUnit (uG c) pos n (gLse r.gsr), x.loadUnit (uS0 c) pos n 0,
   x.loadUnit (uS1 c) pos n 0] ++ tail

/-- Sum of a register's lanes into a partial word at ERED (R214). -/
def addPartial (w : A44) (r : UReg) (ered : Int) : A44 :=
  r.l.foldl (fun w x =>
    match x.v with
    | some v => w.add (let a := A44.align v false (r.e - ered); { a with sat := a.sat || x.sat })
    | none => { w with nv := true, sat := w.sat || x.sat }) w

/-- Everything one unit does; `seed` is the job seed (R206). -/
def Tile.upeStep (x : Tile) (r : UpeRun) (seed : Nat) : Tile :=
  let c := r.cmd.rcd
  let op := rOpcode c
  let units := uUnits c (xPitch r.aux)
  let pl := uPlace x c r.aux r.pos
  let n := pl.2.1
  let regs := r.prog.foldl (uInstr r.gsr n) (x.preload r r.pos pl.1 n)
  let u (i : Nat) := regs.getD i ⟨0, []⟩
  let fin := decide (r.pos + 1 ≥ units)
  if op = 2 then
    let red := (List.range 4).map fun i =>
      (addPartial (A44.ofBits (r.red.getD i 0)) (u (4 + i)) (xEred r.aux)).toBits
    let x := if fin then forAll (List.range 4) x fun x i => x.writeW (xRed r.aux + 8 * i) 8 (red.getD i 0).toNat else x
    let acc := if fin then red.foldl (fun a w => a.addWord (A44.ofBits w)) r.acc else r.acc
    x.withUpe fun y => { y with run := some { r with pos := r.pos + 1, finished := fin, red := red, acc := acc } }
  else
    let allKept := decide (op = 3) && (List.range 4).any fun i => (x.redTotal r.aux i).nv
    let g := x.loadUnit (uG c) r.pos n 0
    let kept (j : Nat) : Bool := allKept || (g.l.getD j ⟨some 0, false⟩).v.isNone
    let draws := if bits (uConv c) 7 6 = 1 then (List.range n).map fun j =>
        draw seed ((xBase r.aux + pl.2.2 + j) % 2 ^ 48) (xLayer r.aux) (gStep r.gsr) 0 (xStream r.aux) 1 / 256
      else []
    let w := storeUnit x (uW c) r.pos (u 0).e (u 0).l draws kept (x, [])
    let a := if (uS0 c).en then storeUnit x (uS0 c) r.pos (u 2).e (u 2).l [] kept (w.1, []) else (w.1, [])
    let b := if (uS1 c).en then storeUnit x (uS1 c) r.pos (u 3).e (u 3).l [] kept (a.1, []) else (a.1, [])
    -- WC is written from the stored W values (R207)
    let wcv : List SrcVal := w.2.flatMap fun y => (y.1.elems.take y.2).map fun z => ⟨z.1, z.2⟩
    let ex := match w.2 with | y :: _ => y.1.e | [] => 0
    let d := if (xWc r.aux).en then storeUnit x (xWc r.aux) r.pos ex wcv [] (fun _ => false) (b.1, []) else (b.1, [])
    let acc := w.2.foldl (fun s y => s.addBlock y.1 y.2) r.acc
    let acc := acc.addFlags (a.2 ++ b.2 ++ d.2)
    let rowEnd := decide (op = 4) && decide ((r.pos + 1) % cdiv (xPitch r.aux) 64 = 0)
    let x := if rowEnd then d.1.writeW (xRowstep r.aux + 4 * pl.1) 4 (gStep r.gsr) else d.1
    x.withUpe fun y => { y with run := some { r with pos := r.pos + 1, finished := fin, acc := acc } }

/-- The job seed that tile `t` sees (R103, R206): of its job record, else of the running job; with neither, a free
value. -/
def jobSeed (s : State) (t : Nat) : Nat × State :=
  let x := s.tile t
  if x.decl.jobRec ≠ 0xFFFFFFFF#32 then (x.readW x.decl.jobRec.toNat 8, s)
  else match s.melvor.job with
    | some j => (j.seed.toNat, s)
    | none => let f := s.fresh; (f.1.toNat % 2 ^ 64, f.2)

/-- What the current unit reads of working memory. -/
def UpeRun.wmReads (r : UpeRun) : List Rows :=
  let c := r.cmd.rcd
  let unit (d : TDesc) : List Rows :=
    if d.en then [region (d.at r.pos) d.unitBytes, region (d.sbase + r.pos * d.unitScales) d.unitScales] else []
  unit (uW c) ++ unit (uG c) ++ unit (uS0 c) ++ unit (uS1 c) ++
  (if rOpcode c = 3 then [region (xRed r.aux) 32] else []) ++
  (if rOpcode c = 4 then [region (xRowstep r.aux + 4 * (r.pos / cdiv (xPitch r.aux) 64)) 4] else [])

/-- The units that a unit charges (Table 15.2): its instruction cycles, RSQRT being 4 (R218), and the words read and written. -/
def UpeRun.units (r : UpeRun) : Nat :=
  let c := r.cmd.rcd
  let put (d : TDesc) : Nat :=
    if d.en then rowWords [region (d.at r.pos) d.unitBytes, region (d.sbase + r.pos * d.unitScales) d.unitScales] else 0
  let out :=
    if rOpcode c = 2 then (if r.pos + 1 ≥ uUnits c (xPitch r.aux) then rowWords [region (xRed r.aux) 32] else 0)
    else put (uW c) + put (uS0 c) + put (uS1 c) + put (xWc r.aux) +
      b2n (decide (rOpcode c = 4) && decide ((r.pos + 1) % cdiv (xPitch r.aux) 64 = 0))
  110 * (r.prog.length + 3 * (r.prog.filter fun w => bits w.toNat 15 13 = 3).length) + 8 * (rowWords r.wmReads + out)

/-- UPE_UNIT: one unit, with the check of its working-memory reads. -/
def execUpeUnit (t : TileId) (wm : Ecc) (s : State) : Result :=
  atIsland t s fun s =>
    let t := t.toNat
    let x := s.tile t
    match x.upe.run with
    | none => s
    | some r =>
      let wm := wm.worse (x.flawIn r.wmReads)
      if !x.engOn || !r.started || r.finished then s
      else if !s.mayIssue t then holdIssue s t
      else if wm = .ue then engFault s t 2 0x40 r.cmd
      else
        let s := if wm = .ce then chargeCe s t false else s
        let j := jobSeed s t
        j.2.modTile t fun x => (x.upeStep r j.1).charge r.units

/-- ENGINE_COMPLETE on the UPE (R73, R219). -/
def upeComplete (t : Nat) (s : State) : State :=
  let x := s.tile t
  match x.upe.run with
  | none => s
  | some r =>
    if !x.engOn || !r.finished || !x.canPush 2 r.cmd then s
    else
      let maxv := min r.acc.max 0xFFFFFFFF
      s.setTile t ((x.completeCmd 2 r.cmd (r.acc.record maxv r.cmd.seq)).withUpe fun u => { u with run := none })

/-! ## The rows shared by the engines -/

/-- DEP_WAIT_END (R74): the taken command of the engine starts, with the checks of what it reads at its start. -/
def execDepWaitEnd (t : TileId) (eng : Engine) (wm am : Ecc) (s : State) : Result :=
  atIsland t s fun s =>
    match eng with
    | .mxe => mxeStart t.toNat wm am s
    | .vxe => vxeStart t.toNat wm s
    | .upe => upeStart t.toNat wm s

/-- ENGINE_COMPLETE (R73). -/
def execEngineComplete (t : TileId) (eng : Engine) (s : State) : Result :=
  atIsland t s fun s =>
    match eng with
    | .mxe => mxeComplete t.toNat s
    | .vxe => vxeComplete t.toNat s
    | .upe => upeComplete t.toNat s

end Sys2Proof.Machine
end

