-- ==== Sys2Proof/Machine/Routes.lean ====
section
/-! DEFINITION. Routes and link streams (spec 14, R309-R312, R323, R328): the graph of fold links, the routes through it, the
streams that each link carries and their numbers, and the control messages that go up and down the tree. -/

namespace Sys2Proof.Machine

/-! ## Control messages (Table 14.5) -/

/-- A 16-byte control message: type, byte 1, bytes 2-3, bytes 4-7, bytes 8-15.
DESIGN CHOICE, unsafe: notes/assumptions/42.md. -/
def ctlMsg (ty b1 h2 w4 : Nat) (d8 : Nat := 0) : BitVec 128 :=
  BitVec.ofNat 128 (ty + b1 % 256 * 2 ^ 8 + h2 % 65536 * 2 ^ 16 + w4 % 2 ^ 32 * 2 ^ 32 + d8 % 2 ^ 64 * 2 ^ 64)

/-! ## The graph of the links -/

/-- This module's rank (R309). -/
def State.rank (s : State) : Nat := s.grp.board.toNat * 8 + s.grp.slot.toNat

/-- The port through which a partner on the same board is reached from slot `a` to slot `b` (R309). -/
def boardPort (a b : Nat) : Nat := (b + 8 - a) % 8 - 1

/-- This module's own links that can carry exchange traffic: up, and not MISWIRED (R309). -/
def State.ownLinks (s : State) : List GLink :=
  (List.range 12).filterMap fun f =>
    let l := s.link f
    if l.up && !l.miswired && l.peerValid then
      some ⟨s.rank, f, l.peerBoard.toNat * 8 + l.peerSlot.toNat, l.peerPort.toNat, l.version.toNat⟩
    else none

/-- A graph as this module knows it: of its own links what its ports show, of the others what the group has reported. -/
def State.graphOf (s : State) (links : List GLink) : List GLink :=
  s.ownLinks ++ links.filter fun l => decide (l.a ≠ s.rank) && decide (l.b ≠ s.rank)

/-- The links of module `x`: its port, the module beyond and that module's port, the version. -/
def hopsOf (g : List GLink) (x : Nat) : List (Nat × Nat × Nat × Nat) :=
  g.flatMap fun l =>
    (if l.a = x then [(l.ap, l.b, l.bp, l.ver)] else []) ++ (if l.b = x then [(l.bp, l.a, l.ap, l.ver)] else [])

/-! ## Routes (R312) -/

/-- The modules at each distance from a set of modules, nearest first. -/
def ringsFrom (g : List GLink) : Nat → List Nat → List Nat → List (List Nat)
  | 0, _, _ => []
  | _, _, [] => []
  | n + 1, seen, fr =>
    let next := ((fr.flatMap fun x => (hopsOf g x).map fun h => h.2.1).filter fun y => !seen.contains y).eraseDups
    fr :: ringsFrom g n (seen ++ next) next

/-- The hops from `x` to `dst`. -/
def hopCount (g : List GLink) (dst x : Nat) : Option Nat := (ringsFrom g (g.length + 1) [dst] [dst]).findIdx? (·.contains x)

/-- The next hop from `x` to `dst`: on a route of fewest hops, through the lowest port. -/
def nextHop (g : List GLink) (dst x : Nat) : Option (Nat × Nat × Nat × Nat) :=
  match hopCount g dst x with
  | some (n + 1) =>
    let l := (hopsOf g x).filter fun h => hopCount g dst h.2.1 == some n
    l.find? fun h => l.all fun k => decide (h.1 ≤ k.1)
  | _ => none

/-- The hops of the route from `x` to `dst`, each with the module that it leaves. -/
def routeOf (g : List GLink) (dst : Nat) : Nat → Nat → List (Nat × Nat × Nat × Nat × Nat)
  | 0, _ => []
  | n + 1, x =>
    match nextHop g dst x with
    | some h => (x, h) :: routeOf g dst n h.2.1
    | none => []

def route (g : List GLink) (src dst : Nat) : List (Nat × Nat × Nat × Nat × Nat) := routeOf g dst g.length src

/-! ## Link streams (R310, R312) -/

/-- What a link stream carries: the frames of one member for another, or a cut stream, named by its sender's CUT. -/
structure Stream where
  src : Nat
  dst : Nat
  cut : Option Nat
  deriving DecidableEq, Repr

/-- The streams of a group: one for each ordered pair of members, and one for each cut. DESIGN CHOICE, unsafe:
notes/assumptions/26.md. -/
def streamsOf (ranks : List Nat) (cuts : List GCut) : List Stream :=
  (ranks.flatMap fun a => (ranks.filter fun b => decide (b ≠ a)).map fun b => ⟨a, b, none⟩) ++
    cuts.map fun c => ⟨c.src, c.dst, some c.cut⟩

/-- The streams that the link from port `p` of module `x` carries, in the order of their numbers. -/
def streamsOn (g : List GLink) (all : List Stream) (x p : Nat) : List Stream :=
  all.filter fun st => (route g st.src st.dst).any fun h => decide (h.1 = x) && decide (h.2.1 = p)

/-- A group cannot form on these links: a route is missing, a route of more than one hop needs a link below version 2, or a link
carries more than 255 streams in one direction (R310). -/
def badRoutes (g : List GLink) (ranks : List Nat) (cuts : List GCut) : Bool :=
  let all := streamsOf ranks cuts
  (all.any fun st =>
    let r := route g st.src st.dst
    r.isEmpty || (decide (r.length > 1) && r.any fun h => decide (h.2.2.2.2 < 2))) ||
  g.any fun l => decide ((streamsOn g all l.a l.ap).length > 255) || decide ((streamsOn g all l.b l.bp).length > 255)

/-- The streams on this module's side of port `f`: those it sends, and those that arrive. -/
def State.streamsOut (s : State) (f : Nat) : List Stream := streamsOn s.grp.graph (streamsOf s.grp.ranks s.grp.cuts) s.rank f
def State.streamsIn (s : State) (f : Nat) : List Stream :=
  match (hopsOf s.grp.graph s.rank).find? fun h => decide (h.1 = f) with
  | some h => streamsOn s.grp.graph (streamsOf s.grp.ranks s.grp.cuts) h.2.1 h.2.2.1
  | none => []

/-- The port and the number of a stream where it leaves this module. -/
def State.streamOut (s : State) (st : Stream) : Option (Nat × Nat) :=
  match nextHop s.grp.graph st.dst s.rank with
  | some h => ((s.streamsOut h.1).findIdx? (· == st)).map fun k => (h.1, k)
  | none => none

/-- The port and the number of a stream where it arrives at this module. -/
def State.streamIn (s : State) (st : Stream) : Option (Nat × Nat) :=
  match (route s.grp.graph st.src st.dst).find? fun h => decide (h.2.2.1 = s.rank) with
  | some h => ((s.streamsIn h.2.2.2.1).findIdx? (· == st)).map fun k => (h.2.2.2.1, k)
  | none => none

/-- The ports of this module that carry a route. -/
def State.routedPorts (s : State) : BitVec 12 :=
  (List.range 12).foldl (fun m f =>
    if (s.streamsOut f).isEmpty && (s.streamsIn f).isEmpty then m else m ||| BitVec.ofNat 12 (2 ^ f)) 0

/-- The lowest version on the routes between this module and the other members; 0 where there is none. -/
def State.routeVersion (s : State) : Nat :=
  let me := s.rank
  let vs := (s.grp.ranks.filter fun r => decide (r ≠ me)).flatMap fun r =>
    (route s.grp.graph me r ++ route s.grp.graph r me).map fun h => h.2.2.2.2
  vs.foldl min (vs.headD 0)

/-- The fold port of the route to member `m`. -/
def State.portTo (s : State) (m : Nat) : Option Nat :=
  match s.grp.ranks[m]? with
  | none => none
  | some r =>
    match nextHop s.grp.graph r s.rank with
    | some h => if (s.link h.1).up && !(s.link h.1).miswired then some h.1 else none
    | none => none

/-! ## Messages and credits on the routes -/

/-- A control message waits on port `f` for its flit. -/
def queueOn (s : State) (f : Nat) (x : BitVec 128) : State := s.modLink f fun l => { l with outMsgs := l.outMsgs ++ [x] }

/-- A control message leaves towards member `m`, on the port of the route. How a module on the way passes it on is not
shown: the message names no destination. DESIGN CHOICE, unsafe: notes/assumptions/42.md. -/
def queueMsg (s : State) (x : BitVec 128) (m : Nat) : State :=
  match s.portTo m with
  | some f => queueOn s f x
  | none => s

/-- A control message goes up the tree: to the flock's bellwether, or from a bellwether to the top (R311, R323). -/
def sendUp (s : State) (x : BitVec 128) : State :=
  let i := s.grp.member.toNat
  if !(s.grp.grouped || s.grp.relays) || s.grp.top then s else queueMsg (s.emit (.ctrl x)) x (if i % 64 = 0 then 0 else i / 64 * 64)

/-- A control message goes down the tree: to the flock's members, and from the top to the other bellwethers. -/
def sendDown (s : State) (x : BitVec 128) : State :=
  let i := s.grp.member.toNat
  let n := s.grp.modules.toNat
  if !(s.grp.grouped || s.grp.relays) || !s.grp.bellwether || n ≤ 1 then s
  else
    let flock := ((List.range 64).map fun k => i + k).filter fun k => decide (k ≠ i) && decide (k < n)
    let others := if s.grp.top then ((List.range 64).map fun k => 64 * k).filter fun k => decide (k ≠ 0) && decide (k < n) else []
    forAll (flock ++ others) (s.emit (.ctrl x)) fun s k => queueMsg s x k

/-- A control message towards the group: up from a member, down from the top. -/
def sendCtl (s : State) (x : BitVec 128) : State := if s.grp.top then sendDown s x else sendUp s x

/-- A control message goes to every module beyond a link of this one that is up and not MISWIRED. -/
def broadcast (s : State) (x : BitVec 128) : State := forAll s.ownLinks (s.emit (.ctrl x)) fun s l => queueOn s l.ap x

/-- CREDIT for `n` tokens of a stream that arrives at this module (R328): messages of at most 65,535 tokens. -/
def creditStream (s : State) (st : Stream) (n : Nat) : State :=
  match s.streamIn st with
  | some (f, k) => forAll (List.range (cdiv n 65535)) s fun s i => queueOn s f (ctlMsg 0x02 k (min 65535 (n - 65535 * i)) 0)
  | none => s

/-- Members per board and boards, at least 1. -/
def Group.bb (g : Group) : Nat := max 1 g.b.toNat
def Group.qq (g : Group) : Nat := max 1 g.q.toNat

/-- The frames of 4,160 bytes in the window of one source of one combine: ⌊8 MiB / S⌋ bytes (R328). -/
def Group.frames (g : Group) : Nat := 0x800000 / (g.bb + (if g.qq > 1 then g.qq else 0)) / 4160

/-- The credits, in tokens, that member `dst` gives member `src` for its exchange store (R328): for each combine that
takes frames of `src` there, its window, and a like part of the other 8 MiB for gather frames of 2,112 bytes. A frame travels
with its run header. DESIGN CHOICE, unsafe: notes/assumptions/83.md. -/
def Group.window (g : Group) (src dst : Nat) : Nat :=
  let w := g.frames * 66
  (if src / g.bb = dst / g.bb then w else 0) + (if g.qq > 1 ∧ src % g.bb = dst % g.bb then w else 0) +
    max 1 (0x800000 / max 1 (g.modules.toNat - 1) / 2112) * 34

/-- The credits of every stream that this module sends, as the group forms (R192, R328). -/
def initCredits (s : State) : State :=
  forAll (List.range 12) s fun s f =>
    let l := s.streamsOut f
    s.modLink f fun x => { x with
      outSlots := []
      credits := (List.zip (List.range l.length) l).foldl (fun m y =>
        if y.2.src ≠ s.rank then m
        else match y.2.cut with
          | none => Sparse.set 0 m y.1 (s.grp.window s.grp.member.toNat (s.grp.ranks.findIdx fun r => r = y.2.dst))
          | some k =>
            let c := (List.range 16).findSome? fun d => (s.drover d).cuts.find? fun c => !c.inbound && decide (c.cut.toNat = k)
            Sparse.set 0 m y.1 (match c with | some c => c.credits | none => 0)) [] }

/-- The routes of the group are fixed on the links as they now stand (R312, R326). -/
def fixRoutes (s : State) (links : List GLink) : State :=
  let s := s.withGrp fun g => { g with graph := s.graphOf links, flying := [] }
  let s := s.withGrp fun g => { g with routes := s.routedPorts, lowVersion := BitVec.ofNat 2 s.routeVersion }
  initCredits s

/-- Tokens join a stream where it leaves this module. -/
def streamSend (s : State) (st : Stream) (l : List Token) : State :=
  match s.streamOut st with
  | some (f, k) => s.modLink f fun x => { x with outSlots := x.outSlots ++ l.map fun t => (k, t) }
  | none => s

/-- Tokens of a stream wait on its port. -/
def State.streamBusy (s : State) (st : Stream) : Bool :=
  match s.streamOut st with
  | some (f, k) => (s.link f).outSlots.any fun x => decide (x.1 = k)
  | none => false

end Sys2Proof.Machine
end

