-- ==== Sys2Proof/Machine/Freeze.lean ====
section
/-! DEFINITION. What stops work: the freeze of a fold (R54, R260), a lost step journal (R376), the end of a snapshot
(R381), a fatal error (R368); the objects of a job (R240). -/

namespace Sys2Proof.Machine

/-! ## Objects (R240) -/

/-- Entry `i` of the object table. -/
def State.obj (s : State) (i : Nat) : ObjEntry := Sparse.get {} s.melvor.objects i

/-- The valid objects, with their indices, ascending. -/
def State.objs (s : State) : List (Nat × ObjEntry) := s.melvor.objects.filter fun x => x.2.valid

/-- Some valid object whose KIND is in `kinds` holds address `a`. -/
def State.inKinds (s : State) (kinds : List Nat) (a : Nat) : Bool :=
  s.objs.any fun x => kinds.contains x.2.kind.toNat && decide (x.2.base.toNat ≤ a) &&
    decide (a < x.2.base.toNat + x.2.bytes)

/-- COH of the object that holds address `a`. -/
def State.cohAt (s : State) (a : Nat) : Bool :=
  match s.objs.find? fun x => decide (x.2.base.toNat ≤ a) && decide (a < x.2.base.toNat + x.2.bytes) with
  | some x => x.2.coh
  | none => false

/-- The kinds whose writes the journal covers (R374). -/
def journaledKinds : List Nat := [1, 2, 5, 7]

/-- The step journal: the object of KIND 0x0C with the lowest index. -/
def State.journal (s : State) : Option ObjEntry := (s.objs.find? fun x => x.2.kind = 0x0C).map Prod.snd

/-- Capacity of the journal in pages. -/
def State.jcap (s : State) : Nat :=
  match s.journal with
  | some o => min (o.bytes / 4096) 16777216
  | none => 0

/-! ## Stops -/

/-- JSTATE becomes LOST with a cause; a lost journal keeps its cause (R376). -/
def setLost (s : State) (cause : Nat) : State :=
  if s.rel.jstate = 2 then s
  else fire (s.withRel fun r => { r with jstate := 2, lostCause := BitVec.ofNat 3 cause }) 146

/-- Every tile of the fold is frozen (R54): routers, cores and engines stop, memories keep their contents; STALLED and HELD
read 0, and STATE is 3 also where the tile's part was complete. DESIGN CHOICE, unsafe: notes/assumptions/71.md. -/
def freezeTiles (s : State) : State :=
  { s with tiles := s.tiles.map fun x =>
      if x.2.inFold then
        (x.1, { x.2 with
          router := { x.2.router.halt with frozen := true }
          core := { x.2.core with state := stopState x.2.core.state } })
      else x }

/-- Every drover stops issuing and presenting (R260). -/
def stopDrovers (s : State) : State :=
  forAll (List.range 16) s fun s d => s.modDrover d fun x => { x with stopped := true }

/-- The freeze of the loaded fold, once: source 49 fires when it is complete. -/
def freezeFold (s : State) : State :=
  if s.melvor.foldFrozen || s.melvor.fold.isNone then s
  else fire ((stopDrovers (freezeTiles s)).withMelvor fun m => { m with foldFrozen := true }) 49

/-- A running snapshot or restore ends without a header (R381): ERR, SNAP_ERRORS, source 161. -/
def snapEnd (s : State) : State :=
  if s.snap.busy then
    fireIf (!s.snap.err)
      (s.withSnap fun x => { x with
        busy := false, restoring := false, err := true, todo := [], host := [], errors := satAdd x.errors 1 }) 161
  else s

/-- A fatal error (R368): source `src` is 144 for a lockstep mismatch, 145 for any other. One that follows another fires
its source and finds the rest done. -/
def fatalError (s : State) (src : Nat) : State :=
  if s.rel.fatal then fire s src
  else
    let s := fire (s.withRel fun r => { r with fatal := true }) src
    let s := stopDrovers (freezeFold s)
    let s := sendCtl s (ctlMsg 0x15 0 s.grp.member.toNat s.melvor.step.toNat 1)
    let s := forAll [0, 1] s fun s p =>
      if (s.port p).viralEn then (s.withRel fun r => { r with viral := true }).emit (.viral (Fin.ofNat 2 p)) else s
    snapEnd (setLost s 5)

end Sys2Proof.Machine
end

