-- ==== Sys2Proof/Machine/Hbm.lean ====
section
/-! DEFINITION. HBM: the striping map (R231), the symbol code (R228, R370), line reads and writes with poison (R229,
R230), who reaches what (R235, R397, R401), what a write waits for (R275, R374), and the rows of the HBM controllers
and of the scrubs (spec 10, 17). -/

namespace Sys2Proof.Machine

/-! ## Addresses -/

/-- The end of HBM (Table 0.8) and the regions of Table 10.2. -/
def hbmTop : Nat := 0xA000000000
def userTop : Nat := 0x9FC0000000
def fwTop : Nat := 0x9FE0000000
/-- First byte of image-store slot `k`. -/
def slotBase (k : Nat) : Nat := 0x9FE0000000 + k * 0x10000000

/-- Stack, pseudo-channel of the stack, and offset in it of an HBM address (R231). -/
def hbmMap (a : Nat) : Nat × Nat × Nat :=
  let g := a / 256
  let h := bits g 17 9 ^^^ bits g 26 18 ^^^ bits g 31 27
  let p := bits g 8 0 ^^^ h
  (bits p 2 0, bits p 8 3, g / 512 * 256 + a % 256)

/-- A device address in a host window: port and host physical address (R237). -/
def hostWindow (a : Nat) : Option (Nat × Nat) :=
  if 0x800000000000 ≤ a ∧ a < 0xC00000000000 then some (0, a - 0x800000000000)
  else if 0xC00000000000 ≤ a ∧ a < 0x1000000000000 then some (1, a - 0xC00000000000)
  else none

/-! ## The host tier (R237, R238, R274, R278) -/

/-- The two rings of a mailbox: first byte and end (Table 13.2). -/
def Mailbox.rings (b : Mailbox) : List (Nat × Nat) :=
  let c := b.cmdBaseLo.toNat * 4096 + b.cmdBaseHi.toNat * 2 ^ 32
  let d := b.cplBaseLo.toNat * 4096 + b.cplBaseHi.toNat * 2 ^ 32
  [(c, c + 64 * 2 ^ b.cmdLog2n.toNat), (d, d + 64 * 2 ^ b.cplLog2n.toNat)]

/-- Host memory `[hpa, hpa + n)` of port `p` lies in a registered region; while the mailbox is enabled its rings count
(R237, R293). -/
def State.regionHolds (s : State) (p hpa n : Nat) : Bool :=
  !(s.port p).removed &&
    (((s.port p).regions.any fun x => x.2.valid && decide (x.2.base ≤ hpa) && decide (hpa + n ≤ x.2.base + x.2.bytes)) ||
      (s.box p).rings.any fun r => (s.box p).enabled && decide (r.1 ≤ hpa) && decide (hpa + n ≤ r.2))

/-- The lines that `[a, a + n)` touches, each with the first byte and the number of bytes of the range in it. -/
def linePieces (a n : Nat) : List (Nat × Nat × Nat) :=
  (List.range (cdiv (a % 64 + n) 64)).map fun i =>
    let line := a / 64 * 64 + 64 * i
    let lo := max a line
    (line, lo, min (a + n) (line + 64) - lo)

/-- A read of `n` bytes of host memory for a drover or the snapshot engine: RdCurr for each line with COH = 1, one CXL.io
read with COH = 0. -/
def hostFetch (s : State) (p : Port) (coh : Bool) (hpa n : Nat) : State :=
  if coh then forAll (linePieces hpa n) s fun s x => s.emit (.hostRead p .rdCurr x.1 64)
  else s.emit (.hostRead p .memRead hpa n)

/-- A 64-byte line `old` with the low `n` bytes of `v` at byte `b`. -/
def mergeLine (old b n v : Nat) : Nat :=
  old % 256 ^ b + v % 256 ^ n * 256 ^ b + old / 256 ^ (b + n) * 256 ^ (b + n)

/-- A write of `n` bytes `v` of data to host memory: with COH = 1 ItoMWr for each whole line, and for a part of one RdOwn and
DirtyEvict of the line with the new bytes in it, the others being the host's, a free value; with COH = 0 a posted write with
Relaxed Ordering set. How a posted write is cut into packets is not shown. DESIGN CHOICE, unsafe: notes/assumptions/79.md. -/
def hostStore (s : State) (p : Port) (coh : Bool) (hpa n v : Nat) : State :=
  if coh then forAll (linePieces hpa n) s fun s x =>
    let d := v / 256 ^ (x.2.1 - hpa) % 256 ^ x.2.2
    if x.2.2 = 64 then s.emit (.hostWrite p .itoMWr x.1 64 d)
    else
      let f := (s.emit (.hostRead p .rdOwn x.1 64)).fresh
      f.2.emit (.hostWrite p .dirtyEvict x.1 64 (mergeLine f.1.toNat (x.2.1 - x.1) x.2.2 d))
  else s.emit (.hostWrite p .data hpa n v)

/-- The completions that show a write of `n` bytes to be complete: a GO for each line, or the data of the zero-length read that
follows a posted write (R278). -/
def hostAnswers (coh : Bool) (n : Nat) : Nat := if coh then cdiv n 64 else 1

/-- A zero-length read behind the posted writes of a region with COH = 0 (R278). -/
def hostFlush (s : State) (p : Port) (coh : Bool) (hpa : Nat) : State :=
  if coh then s else s.emit (.hostRead p .zeroRead hpa 0)

/-! ## Worlds and regions (R235, R397, R398, R401) -/

/-- The world of a requester: true for secure. -/
def State.worldOf (s : State) : Requester → Bool
  | .melvor => true
  | .host p => (s.port p).secure
  | _ => match s.melvor.job with | some j => j.world | none => false

/-- The window of port `p` is of a world that the requester reaches (R397, R398). -/
def State.windowOpen (s : State) (r : Requester) (p : Nat) : Bool := !(s.port p).secure || s.worldOf r

/-- The 2 MiB units of an entry in effect hold address `a`. -/
def RegionEntry.holds (e : RegionEntry) (a : Nat) : Bool :=
  e.effValid && decide (e.effBase.toNat * 0x200000 ≤ a) &&
  decide (a < (e.effBase.toNat + e.effSize.toNat) * 0x200000)

/-- Address `a` of the user area is in the secure world. -/
def State.secureAt (s : State) (a : Nat) : Bool := s.sec.regions.any fun x => x.2.effSecure && x.2.holds a

/-- Address `a` is being overwritten by zeros. -/
def State.clearingAt (s : State) (a : Nat) : Bool :=
  s.sec.clearingUnits.any fun u => decide (u.1 * 0x200000 ≤ a) && decide (a < (u.1 + u.2) * 0x200000)

/-- The image-store slot the loader holds locked (R236), during an activation that waits for its partition. -/
def State.lockedSlot (s : State) : Option Nat := s.melvor.pendingAct.map fun p => p.fold.slot

/-- Address `a` lies in the locked slot. -/
def State.lockedAt (s : State) (a : Nat) : Bool :=
  decide (fwTop ≤ a) && decide (a < hbmTop) && decide (s.lockedSlot = some ((a - fwTop) / 0x10000000))

/-- How Table 10.3 and the world rules answer a line access. -/
inductive Reach where
  | ok | refused | world | locked | fault
  deriving DecidableEq, Repr

def State.reach (s : State) (r : Requester) (write : Bool) (a : Nat) : Reach :=
  let host : Bool := match r with | .host _ => true | _ => false
  if a ≥ hbmTop then .fault
  else if a < userTop then
    if s.clearingAt a then .world else if s.secureAt a && !s.worldOf r then .world else .ok
  else if a < fwTop then (if r = .melvor then .ok else .refused)
  else if r = .melvor then (if write then .refused else .ok)
  else if host then
    if write && s.lockedAt a then .locked else .ok
  else .refused

/-! ## What an access waits for -/

/-- Page `a / 4096` is held by a port other than the requester (R275). -/
def State.heldByOther (s : State) (r : Requester) (a : Nat) : Bool :=
  ([0, 1] : List (Fin 2)).any fun p => Sparse.get false (s.port p).held (a / 4096) && decide (r ≠ .host p)

/-- A write to the page waits for its copy into the journal (R374). -/
def State.needsCopy (s : State) (a : Nat) : Bool :=
  decide (s.rel.jstate ≠ 2) && decide (s.melvor.job ≠ none) && s.inKinds journaledKinds a &&
  !s.rel.jindex.contains (a / 4096) && decide (s.rel.jindex.length < s.jcap)

/-- The running snapshot copies the page before a write to it (R379), and that read waits for a port that holds the page
(R275). -/
def State.snapWaits (s : State) (a : Nat) : Bool :=
  s.snap.busy && s.snap.todo.contains (a / 4096) && s.heldByOther .snapshot a

/-- The access waits: its stack is not READY or HBM is being overwritten (R406), another port holds the page, or the page
is not journaled yet. -/
def State.pageBlocked (s : State) (r : Requester) (write : Bool) (a : Nat) : Bool :=
  !(s.ctl (hbmMap a).1).ready || s.boot.hbmClear || s.heldByOther r a || (write && (s.needsCopy a || s.snapWaits a))

/-- Some page that `[a, a + n)` of a host window touches has not been journaled, or waits for its snapshot copy from a
page that a port holds: a write there waits too (R374, R379). -/
def State.hostPageWaits (s : State) (a n : Nat) : Bool :=
  (List.range (cdiv (a % 4096 + n) 4096)).any fun i => s.needsCopy (a + 4096 * i) || s.snapWaits (a + 4096 * i)

/-- An access to the line of `a` has reached its controller and is not performed. -/
def State.linePending (s : State) (a : Nat) : Bool :=
  (s.ctl (hbmMap a).1).pend.any fun x => decide (x.req.addr.toNat / 64 = a / 64)

/-- An access made now waits: for its stack or its page, or behind an access to the same line that the controller has not
performed (R230). -/
def State.blocked (s : State) (r : Requester) (write : Bool) (a : Nat) : Bool :=
  s.pageBlocked r write a || s.linePending a

/-! ## Lines -/

/-- Further symbols the code corrects beside the known erasures of a pseudo-channel (R228, R370). -/
def HbmCtl.reachOf (c : HbmCtl) (pc : Nat) : Nat := if (Sparse.get [] c.retired pc).length ≥ 2 then 2 else 3

/-- The pins with a symbol in error, of the symbols `m`; a pin carries two (R228). -/
def errPins (m : Nat) : List Nat := (List.range 36).filter fun p => bit m (2 * p) || bit m (2 * p + 1)

/-- The symbols in error, of the symbols `m`, beside those of retired pins, which are decoded as erasures (R370). -/
def HbmCtl.errors (c : HbmCtl) (pc m : Nat) : Nat :=
  ((List.range 72).filter fun i => bit m i && !(Sparse.get [] c.retired pc).contains (i / 2)).length

/-- A poisoned line has been found at `a` by a reader or by the scrub (R229, R367, R376). -/
def foundPoison (s : State) (a : Nat) : State :=
  let s := if s.inKinds (journaledKinds ++ [4, 6, 0x0C]) a then setLost s 4 else s
  if userTop ≤ a ∧ a < fwTop then fatalError s 145 else s

/-- An uncorrectable or poisoned read of the line at `a` is counted, and the first one recorded (R229). -/
def countUe (s : State) (a : Nat) (poison : Bool) : State :=
  let k := (hbmMap a).1
  let c := s.ctl k
  let c := { c with ueCnt := satAdd c.ueCnt 1 }
  let s := match c.ue with
    | some _ => s.setCtl k c
    | none =>
      fire (s.setCtl k { c with ue := some ⟨BitVec.ofNat 48 (a / 64 * 64), BitVec.ofNat 6 (hbmMap a).2.1, poison⟩ })
        (112 + k)
  foundPoison s a

/-- Lines read or written, and lines corrected. -/
def countRead (s : State) (a : Nat) : State := s.modCtl (hbmMap a).1 fun c =>
  { c with rdLines := satAdd c.rdLines 1, lines10 := c.lines10 + 1 }
def countWrite (s : State) (a : Nat) : State := s.modCtl (hbmMap a).1 fun c =>
  { c with wrLines := satAdd c.wrLines 1, lines10 := c.lines10 + 1 }
def countHbmCe (s : State) (a : Nat) : State := s.modCtl (hbmMap a).1 fun c => { c with ceCnt := satAdd c.ceCnt 1 }

/-- How the code reads a line. -/
inductive Decode where
  | good | corrected | bad
  deriving DecidableEq, Repr

/-- The line at `a` decoded, with the symbols `err` found in error (they stay until the line is rewritten): the state, how it
decodes, and its data. With 6 or more the outcome, and the data of a miscorrection, are free (R228).
DESIGN CHOICE, safe: notes/assumptions/14.md. -/
def decodeLine (s : State) (a err : Nat) : State × Decode × Line :=
  let k := a / 64
  let m := err ||| Sparse.get 0 s.bad k
  let n := (s.ctl (hbmMap a).1).errors (hbmMap a).2.1 m
  let s := { s with bad := Sparse.set 0 s.bad k m }
  let d : Line := BitVec.ofNat 512 (readBytes s.hbm (k * 64) 64)
  if Sparse.get false s.poison k then (s, .bad, d)
  else if n = 0 then (s, .good, d)
  else if n ≤ (s.ctl (hbmMap a).1).reachOf (hbmMap a).2.1 then (s, .corrected, d)
  else if n < 6 then (s, .bad, d)
  else
    let f := s.fresh
    let g := f.2.fresh
    (g.2, if f.1.toNat % 3 = 0 then .bad else if f.1.toNat % 3 = 1 then .good else .corrected, g.1)

/-- A demand read of the line at `a`: the state, whether it is delivered poisoned, its data. -/
def readLine (s : State) (a err : Nat) : State × Bool × Line :=
  let p := Sparse.get false s.poison (a / 64)
  let r := decodeLine (countRead s a) a err
  match r.2.1 with
  | .good => (r.1, false, r.2.2)
  | .corrected => (countHbmCe r.1 a, false, r.2.2)
  | .bad => (countUe r.1 a p, true, r.2.2)

/-- Read `n` bytes from address `a`: the state, whether a line is poisoned, the bytes. -/
def bytesRead (s : State) (a n : Nat) : State × Bool × Nat :=
  let lines := cdiv (a % 64 + n) 64
  let r := forAll (List.range lines) (s, false, 0) fun x i =>
    let y := readLine x.1 (a / 64 * 64 + 64 * i) 0
    (y.1, x.2.1 || y.2.1, x.2.2 + y.2.2.toNat * 2 ^ (512 * i))
  (r.1, r.2.1, r.2.2 / 2 ^ (8 * (a % 64)) % 256 ^ n)

/-- Melvor firmware has read `n` bytes of a table at `a`: the lines are counted and checked (R228, R229). What it takes from a
line that reads as uncorrectable is what the line stores. DESIGN CHOICE, unsafe: notes/assumptions/82.md. -/
def tableRead (s : State) (a n : Nat) : State := (bytesRead s a n).1

/-- The offset of each object of a snapshot (Table 17.4): 4,096 bytes of header, the object-table entries, then every
object from a 4 KiB boundary. -/
def snapOffsets : List (Nat × ObjEntry) → Nat → List (ObjEntry × Nat)
  | [], _ => []
  | x :: r, o => (x.2, o) :: snapOffsets r (o + cdiv x.2.bytes 4096 * 4096)

def Snapshot.offsets (x : Snapshot) : List (ObjEntry × Nat) := snapOffsets x.objs (4096 + cdiv (32 * x.objs.length) 4096 * 4096)

/-- The target region of the snapshot engine, and the address of offset `o` in it (R380). -/
def State.snapRegion (s : State) : Region := Sparse.get {} (s.port (b2n s.snap.tport)).regions s.snap.tregion.toNat
def State.snapTarget (s : State) (o : Nat) : Nat :=
  s.snapRegion.base + s.snap.toffLo.toNat * 4096 + s.snap.toffHi.toNat * 2 ^ 32 + o

/-- The snapshot engine reaches `n` bytes at offset `o` of the target: inside the registered region, and in a world of the job
(R237, R397); otherwise the address fault ends the snapshot (R381). -/
def snapAt (s : State) (o n : Nat) (k : State → Port → Nat → State) : State :=
  let p : Port := Fin.ofNat 2 (b2n s.snap.tport)
  let r := s.snapRegion
  let a := s.snapTarget o
  let fault (s : State) : State :=
    snapEnd (s.emit (.lineFault .snapshot (BitVec.ofNat 48 (if p = 0 then 0x800000000000 + a else 0xC00000000000 + a))))
  if !r.valid || (s.port p).removed || decide (a + n > r.base + r.bytes) then fault s
  else if !s.windowOpen .snapshot p then fault (worldRefused s)
  else k s p a

/-- The snapshot engine writes `n` bytes `v` at offset `o` of the target. -/
def snapStore (s : State) (o n v : Nat) : State :=
  snapAt s o n fun s p a =>
    (hostStore s p s.snapRegion.coh a n v).withSnap fun x =>
      { x with host := x.host ++ List.replicate (if s.snapRegion.coh then hostAnswers true n else 0) (p, false) }

/-- Copy page `page` of the running snapshot to the target (R379, R380). A page of the host tier is read from the host:
its contents are free values. -/
def snapCopy (s : State) (page : Nat) : State :=
  let a := page * 4096
  let s := s.withSnap fun x => { x with todo := x.todo.filter fun q => q ≠ page }
  match s.snap.offsets.find? fun x => decide (x.1.base.toNat ≤ a) && decide (a < x.1.base.toNat + x.1.bytes) with
  | none => s
  | some x =>
    let n := min 4096 (x.1.base.toNat + x.1.bytes - a)
    let r : Nat × State := match hostWindow a with
      | some (p, hpa) =>
        if s.regionHolds p hpa n && s.windowOpen .snapshot p then
          let f := s.freshLines (cdiv n 64)
          (f.1, (hostFetch f.2 (Fin.ofNat 2 p) x.1.coh hpa n).withSnap fun y =>
            { y with host := y.host ++ List.replicate (hostAnswers x.1.coh n) (Fin.ofNat 2 p, !x.1.coh) })
        else
          (0, snapEnd ((if s.regionHolds p hpa n then worldRefused s else s).emit (.lineFault .snapshot (BitVec.ofNat 48 a))))
      | none => let y := bytesRead s a n; (y.2.2, y.1)
    if r.2.snap.busy then
      snapStore (r.2.withSnap fun y => { y with copied := Sparse.set 0 y.copied page r.1 }) (x.2 + a - x.1.base.toNat) n r.1
    else r.2

/-- What precedes a write by requester `r` to address `a`: the snapshot copies the page first (R379); a full journal is
lost (R376 cause 1); a fold port's write to a working copy that the step has read loses it too (cause 3). -/
def beforeWrite (s : State) (r : Requester) (a : Nat) : State :=
  let page := a / 4096
  let s := if s.snap.busy && s.snap.todo.contains page then snapCopy s page else s
  let s := if decide (s.melvor.job ≠ none) && s.inKinds journaledKinds a && !s.rel.jindex.contains page &&
      decide (s.rel.jindex.length ≥ s.jcap) then setLost s 1 else s
  match r with
  | .foldPort _ =>
    if s.objs.any fun x => s.rel.wcRead.contains x.1 && decide (x.2.base.toNat ≤ a) &&
        decide (a < x.2.base.toNat + x.2.bytes) then setLost s 3 else s
  | _ => s

/-- The bytes of `d` that `mask` selects go into the line at `a` (R229, R230): a partial write reads first, and keeps the poison
pattern on a line that reads as uncorrectable. -/
def storeLine (s : State) (a : Nat) (mask : BitVec 64) (d : Line) (err : Nat) : State :=
  let k := a / 64
  if mask = BitVec.allOnes 64 then
    let s := countWrite s a
    { s with hbm := writeBytes s.hbm (k * 64) d.toNat 64, poison := Sparse.set false s.poison k false
             bad := Sparse.set 0 s.bad k 0 }
  else
    let x := readLine s a err
    let s := countWrite x.1 a
    let s := { s with hbm := writeMasked (writeBytes s.hbm (k * 64) x.2.2.toNat 64) (k * 64) mask.toNat d.toNat 64
                      bad := Sparse.set 0 s.bad k 0, poison := Sparse.set false s.poison k x.2.1 }
    if x.2.1 then s.modCtl (hbmMap a).1 fun c => { c with poisonCnt := satAdd c.poisonCnt 1 } else s

/-- A write to the line at `a` by requester `r`. -/
def writeLine (s : State) (r : Requester) (a : Nat) (mask : BitVec 64) (d : Line) (err : Nat) : State :=
  storeLine (beforeWrite s r a) a mask d err

/-- A write received with poison: the line is written with the poison check pattern (Table 12.4). A partial one reads first
and counts in POISON_CNT (R229). -/
def writePoisoned (s : State) (r : Requester) (a : Nat) (mask : BitVec 64) (d : Line) : State :=
  let k := a / 64
  let s := beforeWrite s r a
  let s := if mask = BitVec.allOnes 64 then s
    else (readLine s a 0).1.modCtl (hbmMap a).1 fun c => { c with poisonCnt := satAdd c.poisonCnt 1 }
  let s := countWrite s a
  { s with hbm := writeMasked s.hbm (k * 64) mask.toNat d.toNat 64, poison := Sparse.set false s.poison k true
           bad := Sparse.set 0 s.bad k 0 }

/-- Write `n` bytes of `v` from address `a` for requester `r`, one access per line. -/
def bytesWrite (r : Requester) (s : State) (a n v : Nat) : State :=
  forAll (List.range (cdiv (a % 64 + n) 64)) s fun s i =>
    let line := a / 64 + i
    let lo := max a (line * 64)
    let hi := min (a + n) (line * 64 + 64)
    writeLine s r (line * 64) (BitVec.ofNat 64 ((2 ^ (hi - lo) - 1) * 2 ^ (lo - line * 64)))
      (BitVec.ofNat 512 (v / 256 ^ (lo - a) % 256 ^ (hi - lo) * 2 ^ (8 * (lo - line * 64)))) 0

/-- Tables and records that Melvor firmware writes. -/
def melvorWrite (s : State) (a n v : Nat) : State := bytesWrite .melvor s a n v

/-- Some line of `[a, a + n)` waits (R275, R374). -/
def State.bytesBlocked (s : State) (r : Requester) (write : Bool) (a n : Nat) : Bool :=
  (List.range (cdiv (a % 64 + n) 64)).any fun i => s.blocked r write (a / 64 * 64 + 64 * i)

/-- CLR_ERR and CLR_TRAFFIC of Table 10.5, as bits 0 and 1 of a value. -/
def HbmCtl.clear (c : HbmCtl) (v : Nat) : HbmCtl :=
  let c := if bit v 0 then { c with ceCnt := 0, ueCnt := 0, poisonCnt := 0, ue := none } else c
  if bit v 1 then { c with rdLines := 0, wrLines := 0 } else c

/-! ## HBM scrub (R369, R370) -/

/-- The scrub finds a corrected line with an error on pin `pin` of its pseudo-channel (R370): the 16th of a pass retires
the pin; a third pin of a pseudo-channel is counted only. -/
def pinError (s : State) (k pc pin : Nat) : State :=
  let key := 64 * pc + pin
  let c := s.ctl k
  let had := Sparse.get [] c.retired pc
  let n := Sparse.get 0 c.pinErrs key + 1
  let c := { c with pinErrs := Sparse.set 0 c.pinErrs key n }
  if had.contains pin then s
  else if n = 16 then
    let s := fireIf (!c.degraded) s (120 + k)
    let s := stepFire s (fun s => s.rel.pinsRetired) (fun s => s.withRel fun r => { r with pinsRetired := satAdd r.pinsRetired 1 }) 151
    s.setCtl k { c with degraded := true, retired := if had.length ≥ 2 then c.retired else Sparse.set [] c.retired pc (had ++ [pin]) }
  else s.setCtl k c

/-- Lines of a stack: 64 pseudo-channels of 1.25 GiB (R227). -/
def stackLines : Nat := 64 * 1342177280 / 64

/-- One more line of the pass. A whole pass over all stacks counts in HBM_SCRUB_PASSES: it ends with the last stack's. -/
def scrubAdvance (s : State) (k : Nat) : State :=
  let ends := decide ((s.ctl k).scrubbed + 1 = stackLines)
  let s := s.modCtl k fun c =>
    if ends then { c with scrubbed := 0, pinErrs := [], passes := c.passes + 1, passFrom := s.clockUs, sinceScrub := 0 }
    else { c with scrubbed := c.scrubbed + 1, sinceScrub := 0 }
  if ends && (List.range 8).all fun j => decide ((s.ctl k).passes ≤ (s.ctl j).passes) then
    s.withRel fun r => { r with hbmScrubPasses := satAdd r.hbmScrubPasses 1 }
  else s

/-- The pass of stack `k` has fallen behind SCRUB_PERIOD_H. -/
def State.scrubBehind (s : State) (k : Nat) : Bool :=
  decide ((s.clockUs - (s.ctl k).passFrom) * stackLines > (s.ctl k).scrubbed * (s.rel.scrubPeriodH.toNat * 3600000000))

/-- The scrub of stack `k` may take a grant for the line at `a` (R369): no other access is pending, or the pass is behind its
period and 255 grants have gone by since the scrub's last; never before an access to its own line (R230). -/
def State.scrubMay (s : State) (k a : Nat) : Bool :=
  (s.ctl k).pend.isEmpty || (s.scrubBehind k && decide ((s.ctl k).sinceScrub ≥ 255) && !s.linePending a)

/-- HBM_SCRUB_READ: the patrol scrub of stack `k` reads the line at `line`, with the symbols `err` found in error, and writes a
corrected line back. -/
def execHbmScrubRead (k : Stack) (line : Addr) (err : Nat) (s : State) : Result :=
  .next <|
    let a := line.toNat / 64 * 64
    let m := hbmMap a
    if !s.rel.hbmScrubEn || decide (a ≥ hbmTop) || decide (m.1 ≠ k.val) || !(s.ctl k).ready || !s.scrubMay k a then s
    else
      let p := Sparse.get false s.poison (a / 64)
      let pins := errPins (err ||| Sparse.get 0 s.bad (a / 64))
      let x := decodeLine (countRead s a) a err
      let s := match x.2.1 with
        | .good => x.1
        | .corrected =>
          let s := countWrite { x.1 with hbm := writeBytes x.1.hbm a x.2.2.toNat 64, bad := Sparse.set 0 x.1.bad (a / 64) 0 } a
          let s := (countHbmCe s a).withRel fun r => { r with hbmScrubCe := satAdd r.hbmScrubCe 1 }
          forAll pins s fun s i => pinError s k m.2.1 i
        | .bad =>
          stepFire (countUe x.1 a p) (fun s => s.rel.hbmScrubUe)
            (fun s => s.withRel fun r => { r with hbmScrubUe := satAdd r.hbmScrubUe 1 }) 149
      scrubAdvance s k

/-! ## Tile scrub (R371) -/

/-- The scrub may run on the tile: enabled, and the module not at Night. -/
def scrubOn (s : State) : Bool := s.rel.tileScrubEn && s.islandsOn

/-- Words of one pass. -/
def scrubWords : Nat := 16384 + 24576

/-- TILE_SCRUB_READ: word `word` of working memory, or of accumulator memory, is read and checked. -/
def tileScrub (t : Nat) (acc : Bool) (word : Nat) (chk : Ecc) (s : State) : State :=
  let key := if acc then 16384 + word else word
  let codes := if acc then amCode word else wmCodes (64 * word) 64
  if !scrubOn s || decide (word ≥ (if acc then 24576 else 16384)) then s
  else
    let s := s.modTile t fun x => (x.withFlaw codes.1 chk).chargeFree (if acc then 0 else 8)
    let s := match (s.tile t).flaw codes with
      | .ok => s
      | .ce =>
        let s := chargeCe s t acc
        let r := (s.tile t).rel
        let again := r.lastPass.contains key && !r.thisPass.contains key
        let s := s.modTile t fun x => x.withRel fun r =>
          { r with rewrite := some key, thisPass := if r.thisPass.contains key then r.thisPass else r.thisPass ++ [key] }
        if again then
          let c := s.count t
          checkTile (s.setCount t { c with rep := s.clockUs :: s.recent c.rep }) t
        else s
      | .ue =>
        chargeUe (stepFire s (fun s => s.rel.tileScrubUe)
          (fun s => s.withRel fun r => { r with tileScrubUe := satAdd r.tileScrubUe 1 }) 150) t
    s.modTile t fun x => x.withRel fun r =>
      if r.scrubbed + 1 = scrubWords then { r with scrubbed := 0, lastPass := r.thisPass, thisPass := [] }
      else { r with scrubbed := r.scrubbed + 1 }

def execTileScrubRead (t : TileId) (acc : Bool) (word : Nat) (chk : Ecc) (s : State) : Result :=
  atTile t s (tileScrub t.toNat acc word chk)

/-- TILE_SCRUB_REWRITE: the corrected word is rewritten, unless some party has written it in between. -/
def execTileScrubRewrite (t : TileId) (s : State) : Result :=
  atIsland t s fun s =>
    match (s.tile t.toNat).rel.rewrite with
    | none => s
    | some k =>
      let codes := if k ≥ 16384 then amCode (k - 16384) else wmCodes (64 * k) 64
      (s.modTile t.toNat fun x => (x.recode codes).withRel fun r => { r with rewrite := none }).withRel fun r =>
        { r with tileScrubCe := satAdd r.tileScrubCe 1 }

end Sys2Proof.Machine
end

