-- ==== Sys2Proof/Machine/Drover.lean ====
section
/-! DEFINITION. The drovers: faults, gateway channels, request records and their checks, holds, bale and side-gate
transfers in both directions, staged fetches, misses, timeouts (spec 11). -/

namespace Sys2Proof.Machine

/-! ## Faults (R260, Table 11.4) -/

/-- Drover `d` raises a fault: the first one is kept, and source 64 + d fires. -/
def droverFault (s : State) (d : Nat) (f : DroverFault) : State :=
  match (s.drover d).fault with
  | some _ => s
  | none => fire (s.modDrover d fun x => { x with fault := some f }) (64 + d)

/-- A fault of queue `q` with tag `tag`, on the row and lane given. -/
def queueFault (s : State) (d code q row lane tag : Nat) : State :=
  droverFault s d ⟨BitVec.ofNat 4 code, BitVec.ofNat 5 q, BitVec.ofNat 3 row, decide (lane = 1), false,
    BitVec.ofNat 16 tag⟩

/-! ## Queues -/

def Drover.queue (x : Drover) (q : Nat) : DQueue := Sparse.get {} x.queues q
def Drover.setQueue (x : Drover) (q : Nat) (y : DQueue) : Drover := { x with queues := Sparse.set {} x.queues q y }
def State.modQueue (s : State) (d q : Nat) (f : DQueue → DQueue) : State :=
  s.modDrover d fun x => x.setQueue q (f (x.queue q))

/-- Fields of the OPEN record of a queue (Table 11.1). -/
def oKind (r : Line) : Nat := bits (Line.bytes r 4 1) 1 0
def oOut (r : Line) : Nat := Line.bytes r 5 1
def oRow (r : Line) : Nat := bits (Line.bytes r 6 1) 2 0
def oLanes (r : Line) : Nat := bits (Line.bytes r 7 1) 1 0
def oQueue (r : Line) : Nat := bits (Line.bytes r 7 1) 4 2
def oReplyQ (r : Line) : Nat := bits (Line.bytes r 8 1) 2 0
def oReplyEn (r : Line) : Bool := bit (Line.bytes r 8 1) 3
def oReplyLane (r : Line) : Nat := bits (Line.bytes r 8 1) 4 4
def oClass (r : Line) : Nat := bits (Line.bytes r 12 4) 3 0
def oStream (r : Line) : Nat := bits (Line.bytes r 12 4) 11 4

/-- Fields of every request, and of an XFER. -/
def qOp (r : Line) : Nat := Line.bytes r 0 1
def qDq (r : Line) : Nat := bits (Line.bytes r 1 1) 4 0
def qTag (r : Line) : Nat := Line.bytes r 2 2
def xObj (r : Line) : Nat := Line.bytes r 4 2
def xFlags (r : Line) : Nat := Line.bytes r 6 2
def xNotify (r : Line) : Bool := bit (xFlags r) 0
def xWait (r : Line) : Nat := bits (xFlags r) 2 1
def xStaged (r : Line) : Bool := bit (xFlags r) 3
def xOffset (r : Line) : Nat := Line.bytes r 8 6
def xBytes (r : Line) : Nat := Line.bytes r 16 4
def xDeadline (r : Line) : Nat := Line.bytes r 20 2
def xLidx (r : Line) : Nat := Line.bytes r 22 2
def xStep (r : Line) : Nat := Line.bytes r 24 4

/-- Bale transfers of a transfer; 1 for the side gate. -/
def Xfer.count (x : Xfer) : Nat := if x.side then 1 else x.bytes / 4096
/-- Tokens of a transfer, and of one of its bale or side-gate transfers. -/
def Xfer.tokens (x : Xfer) : Nat := x.bytes / 64
def Xfer.unit (x : Xfer) : Nat := if x.side then x.bytes / 64 else 64

/-- All the lines of bale or side-gate transfer `u` are in the buffer, or written. -/
def Xfer.unitDone (x : Xfer) (u : Nat) : Bool := decide (Sparse.get 0 x.done u = x.unit)

/-- Bale or side-gate transfers that memory has returned or written whole. -/
def Xfer.finished (x : Xfer) : Nat := ((List.range x.issued).filter x.unitDone).length

/-- The sum of a number over the bale-path transfers of a queue. -/
def DQueue.sumBales (q : DQueue) (f : Xfer → Nat) : Nat := ((q.xfers.filter fun x => !x.side).map f).sum

/-- Bale transfers of a queue in flight (R249): issued to memory and not wholly presented (IN), or not wholly written. -/
def DQueue.inflight (q : DQueue) : Nat :=
  q.sumBales fun x => if oKind q.rcd = 0 then x.issued - x.moved / 64 else x.issued - x.finished

/-- Bale buffers that an OUT queue uses: those begun and not wholly written. -/
def DQueue.filled (q : DQueue) : Nat := q.sumBales fun x => cdiv x.moved 64 - x.finished

/-- The lane that a queue uses alone, 1, or else 0. -/
def DQueue.lane (q : DQueue) : Nat := if oLanes q.rcd = 2 then 1 else 0

/-- Change the first transfer of a queue that `p` accepts. -/
def modFirst (p : Xfer → Bool) (f : Xfer → Xfer) : List Xfer → List Xfer
  | [] => []
  | x :: r => if p x then f x :: r else x :: modFirst p f r

/-! ## Gateways (R244, R264) -/

/-- The edge tile's output that lane `lane` of row `row` of drover `d` hangs on. -/
def State.gatewayOut (s : State) (d row lane : Nat) : Nat × Nat :=
  let g := s.gatewayTile d row
  (g.1, if lane = 0 then g.2 else 4)

/-- The drover takes the head of a channel, and its credit returns to the edge tile. -/
def takeChan (s : State) (d row lane ch : Nat) : State :=
  let s := s.modDrover d fun x => { x with chans := Sparse.mod [] x.chans ((row * 2 + lane) * 8 + ch) (·.drop 1) }
  let g := s.gatewayOut d row lane
  s.modTile g.1 fun x => x.withRouter fun r => { r with credit := Sparse.mod 0 r.credit (8 * g.2 + ch) (· + 1) }

/-- The head of a channel, and the slot in which it arrived. -/
def Drover.head (x : Drover) (row lane ch : Nat) : Option (Nat × Token) := (Sparse.get [] x.chans ((row * 2 + lane) * 8 + ch)).head?
def State.chanHead (s : State) (d row lane ch : Nat) : Option Token := ((s.drover d).head row lane ch).map Prod.snd

/-- The head of channel `ch` of lane `lane` comes next for a queue on both lanes: no head of the other lane arrived before it,
nor with it on lane 0 (R251). -/
def Drover.inOrder (x : Drover) (row lane ch : Nat) : Bool :=
  match x.head row lane ch, x.head row (1 - lane) ch with
  | some a, some b => decide (a.1 < b.1) || (decide (a.1 = b.1) && decide (lane = 0))
  | _, _ => true

/-- The drover may present a token on a lane for edge-input queue `q` of its row: a credit and ROOM (R250). -/
def State.canPresent (s : State) (d row lane q : Nat) : Bool :=
  decide (Sparse.get 0 (s.drover d).credits (row * 8 + q) > 0) &&
  decide (Sparse.get 0 (s.drover d).room (row * 2 + lane) > 0)

/-- Present a token on a lane: it enters the edge tile's crossing buffer (R37). -/
def present (s : State) (d row lane : Nat) (k : Token) : State :=
  let q := bits k.tag.toNat 6 4
  let s := s.modDrover d fun x => { x with
    credits := Sparse.mod 0 x.credits (row * 8 + q) (· - 1), room := Sparse.mod 0 x.room (row * 2 + lane) (· - 1) }
  let g := s.gatewayTile d row
  let inp := if lane = 0 then g.2 else 4
  s.modTile g.1 fun x => x.withRouter fun r =>
    { r with cross := Sparse.mod [] r.cross inp (· ++ [k]), laneOrder := r.laneOrder ++ [decide (lane ≠ 0)] }

/-- Present tokens in order on the lanes of LANES, as far as credits and ROOM allow, at most `fuel` cycles: the state
and the tokens left. -/
def presentAll (d row lanes q : Nat) : Nat → State → List Token → State × List Token
  | 0, s, l => (s, l)
  | _, s, [] => (s, [])
  | n + 1, s, k :: r =>
    let l0 := if lanes = 2 then 1 else 0
    if !s.canPresent d row l0 q then (s, k :: r)
    else
      let s := present s d row l0 k
      match r with
      | k2 :: r2 =>
        if lanes = 3 && s.canPresent d row 1 q then presentAll d row lanes q n (present s d row 1 k2) r2
        else presentAll d row lanes q n s (k2 :: r2)
      | [] => (s, [])

/-- A token for edge-input queue `q`. -/
def gwToken (d : Line) (q : Nat) (last : Bool) : Token := ⟨d, BitVec.ofNat 8 (16 * q + 8 * b2n last)⟩

/-! ## Holds for release (R252) -/

/-- The states in which a WAIT condition is evaluated: RUNNING, PAUSING, STOPPING. -/
def State.jobActive (s : State) : Bool :=
  decide (s.melvor.jobState = 1) || decide (s.melvor.jobState = 2) || decide (s.melvor.jobState = 5)

def Drover.lrelAt (x : Drover) (i : Nat) : Word := Sparse.get x.rel0 x.lrel i
def Drover.grelAt (x : Drover) (i : Nat) : Word := Sparse.get x.rel0 x.grel i

/-- The layer count of the loaded image and the group count of the job. -/
def State.layerCount (s : State) : Nat := match s.melvor.fold with | some f => f.layers.length | none => 0
def State.groupCount (s : State) : Nat := match s.melvor.job with | some j => j.groups | none => 0

/-- The release that a transfer waits for has been made. -/
def State.released (s : State) (d wait lidx : Nat) (step : Word) : Bool :=
  match wait with
  | 0 => true
  | 1 => s.jobActive && seqGe ((s.drover d).lrelAt lidx) (step - 1)
  | _ => s.jobActive && seqGe ((s.drover d).grelAt lidx) step

/-! ## Memory of an XFER (R235, R237, R248) -/

/-- How `[a, a + n)` answers a drover acting for the job. DEDUCED, unsafe: notes/assumptions/65.md. -/
def State.droverReach (s : State) (d : DroverNo) (write : Bool) (a n : Nat) : Reach :=
  match hostWindow a with
  | some (p, hpa) => if !s.regionHolds p hpa n then .fault else if s.windowOpen (.drover d) p then .ok else .world
  | none =>
    if n = 0 then .fault
    else
      ((((List.range (n / 0x200000 + 1)).map (fun i => a + i * 0x200000) ++ [a + n - 1]).map fun x =>
        s.reach (.drover d) write (min x (a + n - 1))).find? (· != .ok)).getD .ok

/-- Some line of `[a, a + n)` waits. -/
def State.blockedRange (s : State) (r : Requester) (write : Bool) (a n : Nat) : Bool :=
  (List.range (cdiv n 256)).any fun i => s.blocked r write (a + 256 * i)

/-! ## Request records (R245-R248, R261) -/

/-- The bytes from `b` up are 0. -/
def zeroFrom (r : Line) (b : Nat) : Bool := decide (r.toNat / 2 ^ (8 * b) = 0)

/-- An OPEN breaks Table 11.1 or Table 14.2. -/
def openBad (r : Line) : Bool :=
  let k := oKind r
  let strm := decide (k ≥ 2)
  let cls := oClass r
  decide (Line.bytes r 1 1 ≥ 32) || decide (Line.bytes r 2 2 ≠ 0) || decide (Line.bytes r 4 1 ≥ 4) ||
  (if strm then decide (oOut r ≠ 0) else decide (oOut r = 0) || decide (oOut r > 64)) ||
  decide (Line.bytes r 6 1 ≥ 8) || decide (Line.bytes r 7 1 ≥ 32) || decide (oLanes r = 0) ||
  ((decide (k = 1) || decide (k = 2)) && decide (oQueue r = 0)) || decide (Line.bytes r 8 1 ≥ 32) ||
  decide (Line.bytes r 9 3 ≠ 0) || !zeroFrom r 16 ||
  (match k with
    | 2 => !(cls == 1 || cls == 2) || decide (Line.bytes r 12 4 / 16 ≠ 0)
    | 3 => !(cls == 3 || cls == 4) || decide (Line.bytes r 12 4 / 4096 ≠ 0) ||
        (decide (cls = 4) && decide (oStream r ≠ 0)) || decide (oStream r = 255)
    | _ => decide (Line.bytes r 12 4 ≠ 0))

/-- Edge-input queues (row × 8 + queue) that a queue's OPEN takes, and channels ((row × 2 + lane) × 8 + channel). -/
def edgeQueues (r : Line) : List Nat :=
  (if oKind r = 0 ∨ oKind r = 3 then [oRow r * 8 + oQueue r] else []) ++
  (if oReplyEn r then [oRow r * 8 + oReplyQ r] else [])
def channelsOf (r : Line) : List Nat :=
  if oKind r = 1 ∨ oKind r = 2 then
    (if bit (oLanes r) 0 then [(oRow r * 2) * 8 + oQueue r] else []) ++
    (if bit (oLanes r) 1 then [(oRow r * 2 + 1) * 8 + oQueue r] else [])
  else []

/-- The open queues of a drover. -/
def Drover.opens (x : Drover) : List (Nat × DQueue) := x.queues.filter fun y => y.2.isOpen

/-- Another open queue or cut takes one of the queues or channels of an OPEN (R247). -/
def Drover.taken (x : Drover) (r : Line) : Bool :=
  let eq := x.opens.flatMap (fun y => edgeQueues y.2.rcd) ++
    (x.cuts.filter fun c => c.inbound).map fun c => c.row * 8 + c.queue
  let ch := x.opens.flatMap (fun y => channelsOf y.2.rcd) ++
    (x.cuts.filter fun c => !c.inbound).map fun c => (c.row * 2 + c.lane) * 8 + c.queue
  let mine := edgeQueues r
  (mine.any fun q => eq.contains q) || (channelsOf r).any fun c => ch.contains c

/-- OUTSTANDING of all open queues. -/
def Drover.bales (x : Drover) : Nat := x.opens.foldl (fun n y => n + oOut y.2.rcd) 0

/-- The member record of Table 14.4. -/
def memberRecord (g : Group) : Line :=
  let i := g.member.toNat
  let b := max 1 g.b.toNat
  BitVec.ofNat 512 (i + g.modules.toNat * 2 ^ 16 + b * 2 ^ 32 + i % b * 2 ^ 40 + g.q.toNat * 2 ^ 48 +
    i / b * 2 ^ 64 + i / 64 * 2 ^ 80 + (g.board.toNat * 8 + g.slot.toNat) * 2 ^ 96 + g.lowVersion.toNat * 2 ^ 112)

/-- OPEN, taken on row `row`, lane `lane`. -/
def takeOpen (s : State) (d row lane : Nat) (r : Line) : State :=
  let x := s.drover d
  let q := qDq r
  if openBad r || (x.queue q).isOpen || x.taken r then queueFault s d 1 q row lane 0
  else if x.bales + oOut r > 128 then queueFault s d 3 q row lane 0
  else
    let member := decide (oKind r = 3) && decide (oClass r = 4) && s.grp.grouped
    s.modQueue d q fun y => { isOpen := true, rcd := r, reqLane := row * 2 + lane
                              member := member, dropHost := y.dropHost
                              rx := if member then [gwToken (memberRecord s.grp) (oQueue r) true] else [] }

/-- CLOSE: refused while a request is pending or in flight (R247). No entry is dropped (R264): a queue with tokens of its peer
still to deliver closes after the last of them, and a TX queue in a run after the last token of the run.
DEDUCED, unsafe: notes/assumptions/80.md. -/
def takeClose (s : State) (d row lane : Nat) (r : Line) : State :=
  let y := (s.drover d).queue (qDq r)
  if decide (Line.bytes r 1 1 ≥ 32) || !zeroFrom r 2 || !y.isOpen || !y.xfers.isEmpty || !y.behind.isEmpty then
    queueFault s d 1 (qDq r) row lane 0
  else if y.rx.isEmpty && y.tx.isNone then s.modQueue d (qDq r) fun y => { dropHost := y.dropHost }
  else s.modQueue d (qDq r) fun y => { y with closing := true }

/-- An XFER breaks Table 11.1 or the drover rules (BAD_REQ). -/
def xferBad (s : State) (y : DQueue) (r : Line) : Bool :=
  let k := oKind y.rcd
  let bytes := xBytes r
  let bale := decide (bytes % 4096 = 0) && decide (4096 ≤ bytes) && decide (bytes ≤ 16777216) &&
    decide (xOffset r % 4096 = 0)
  let side := (decide (bytes = 64) || decide (bytes = 128) || decide (bytes = 192) || decide (bytes = 256)) &&
    decide (xOffset r % 64 = 0)
  decide (Line.bytes r 1 1 ≥ 32) || decide (xObj r > 4095) || decide (xFlags r ≥ 16) || decide (xWait r = 3) ||
  decide (Line.bytes r 14 2 ≠ 0) || !zeroFrom r 28 || decide (k > 1) || !(bale || side) ||
  (decide (xWait r = 0) && (decide (xLidx r ≠ 0) || decide (xStep r ≠ 0))) ||
  (xNotify r && (decide (k ≠ 1) || !oReplyEn y.rcd)) || (xStaged r && (decide (k ≠ 0) || side)) ||
  (decide (xWait r = 1) && decide (xLidx r ≥ s.layerCount)) ||
  (decide (xWait r = 2) && s.jobActive && decide (xLidx r ≥ s.groupCount))

/-- The instant of a deadline that runs from now (R255). -/
def State.dueIn (s : State) (deadline : Nat) : Nat := s.clockUs * 1000 + deadline * 64

/-- First byte of a transfer: the object's BASE is added when it is issued (R248). -/
def State.xferBase (s : State) (x : Xfer) : Nat := (s.obj x.obj).base.toNat + x.off

/-- The memory that a transfer names is its object's, and how it answers (R235, R237, R248, R397). -/
def State.xferAnswer (s : State) (d : DroverNo) (write : Bool) (x : Xfer) : Reach :=
  let o := s.obj x.obj
  if o.valid ∧ x.off + x.bytes ≤ o.bytes then s.droverReach d write (s.xferBase x) x.bytes else .fault

/-- The transfer may reach its memory. -/
def State.xferReach (s : State) (d : DroverNo) (write : Bool) (x : Xfer) : Bool := s.xferAnswer d write x == .ok

/-- The ADDR fault of a transfer that may not reach its memory; one that the world rules refuse counts. -/
def xferAddr (s : State) (d : DroverNo) (q row lane : Nat) (write : Bool) (x : Xfer) : State :=
  queueFault (if s.xferAnswer d write x = .world then worldRefused s else s) d 2 q row lane x.tag.toNat

/-- The same for a transfer of queue `y`, on its request channel. -/
def queueAddr (s : State) (d : DroverNo) (q : Nat) (y : DQueue) (x : Xfer) : State :=
  xferAddr s d q (y.reqLane / 2) (y.reqLane % 2) (decide (oKind y.rcd = 1)) x

/-- XFER (R248). The object of one that is held is looked at when the hold ends (R252). -/
def takeXfer (s : State) (d : DroverNo) (row lane : Nat) (r : Line) : State :=
  let x := s.drover d
  let q := qDq r
  let y := x.queue q
  if !y.isOpen || xferBad s y r then queueFault s d 1 q row lane (qTag r)
  else
    let w := xWait r
    let dl := if xDeadline r = 0 then x.defDl.toNat else xDeadline r
    let f : Xfer := {
      id := x.xfers + 1, tag := BitVec.ofNat 16 (qTag r), obj := xObj r, off := xOffset r, bytes := xBytes r
      side := decide (xBytes r ≤ 256), notify := xNotify r, wait := BitVec.ofNat 2 w, lidx := xLidx r
      step := BitVec.ofNat 32 (xStep r), staged := xStaged r
      held := !s.released d w (xLidx r) (BitVec.ofNat 32 (xStep r)), deadline := dl, due := s.dueIn dl }
    if !f.held && !s.xferReach d (decide (oKind y.rcd = 1)) f then xferAddr s d q row lane (decide (oKind y.rcd = 1)) f
    else
      (s.modDrover d fun z => { z with xfers := z.xfers + 1 }).modQueue d q fun y => { y with xfers := y.xfers ++ [f] }

/-- The staged transfer that a GO or CANCEL names. -/
def stagedTag (tag : Nat) (x : Xfer) : Bool := x.staged && !x.go && decide (x.tag.toNat = tag)

/-- A GO or CANCEL breaks Table 11.1. -/
def goBad (y : DQueue) (r : Line) : Bool := decide (Line.bytes r 1 1 ≥ 32) || !zeroFrom r 4 || !y.isOpen

/-- GO (R261): the deadline of the staged transfer runs from now (R262). -/
def takeGo (s : State) (d row lane : Nat) (r : Line) : State :=
  let y := (s.drover d).queue (qDq r)
  if goBad y r then queueFault s d 1 (qDq r) row lane (qTag r)
  else if y.xfers.any (stagedTag (qTag r)) then
    s.modQueue d (qDq r) fun y =>
      { y with xfers := modFirst (stagedTag (qTag r)) (fun x => { x with go := true, due := s.dueIn x.deadline }) y.xfers }
  else s.modDrover d fun x => { x with cancelLate := satAdd x.cancelLate 1 }

/-- CANCEL (R261). -/
def takeCancel (s : State) (d row lane : Nat) (r : Line) : State :=
  let y := (s.drover d).queue (qDq r)
  if goBad y r then queueFault s d 1 (qDq r) row lane (qTag r)
  else match y.xfers.find? (stagedTag (qTag r)) with
    | some x =>
      let s := s.modQueue d (qDq r) fun y => { y with xfers := y.xfers.erase x, dropHost := y.dropHost ++ x.host }
      s.modDrover d fun z => { z with cancelXfers := satAdd z.cancelXfers 1, cancelBales := satAdd z.cancelBales x.issued }
    | none => s.modDrover d fun x => { x with cancelLate := satAdd x.cancelLate 1 }

/-- Act on a request record. -/
def takeRequest (s : State) (d : DroverNo) (row lane : Nat) (r : Line) : State :=
  match qOp r with
  | 1 => takeOpen s d row lane r
  | 2 => takeClose s d row lane r
  | 3 => takeXfer s d row lane r
  | 4 => takeGo s d row lane r
  | 5 => takeCancel s d row lane r
  | _ => queueFault s d 1 (qDq r) row lane (qTag r)

/-- The outbound cut that channel `ch` of a lane feeds: an outbound cut
has QUEUE 0 (R192), so it takes the tokens of its lane's channel 0 (R265). DEDUCED, unsafe: notes/assumptions/25.md. -/
def Drover.outCut (x : Drover) (row lane ch : Nat) : Option (Nat × CutQ) :=
  (List.zip (List.range x.cuts.length) x.cuts).find? fun c =>
    !c.2.inbound && decide (c.2.row = row) && decide (c.2.lane = lane) && decide (c.2.queue = ch)

/-- A request channel's head is taken (R246, R259, R264): an uncorrectable one is discarded; one behind a held XFER
waits with the queue; while 16 requests are pending the channel holds its head. -/
def requestRow (d : DroverNo) (row : Fin 8) (lane : Fin 2) (chk : Ecc) (mine : Nat → Bool) (s : State) : Result :=
  .next <|
    match s.chanHead d row lane 0 with
    | none => s
    | some k =>
      let r := k.data
      let x := s.drover d
      let y := x.queue (qDq r)
      if x.stopped || !mine (qOp r) || (x.outCut row lane 0).isSome then s
      else if chk = .ue then queueFault (takeChan s d row lane 0) d 7 0 row lane 0
      else if y.isOpen && (y.closing || decide (y.xfers.length + y.behind.length ≥ 16)) then s
      else
        let s := takeChan s d row lane 0
        if y.isOpen && decide (y.reqLane ≠ row.val * 2 + lane.val) then queueFault s d 1 (qDq r) row lane (qTag r)
        else if y.isOpen && (!y.behind.isEmpty || y.xfers.any fun x => x.held) then
          s.modQueue d (qDq r) fun y => { y with behind := y.behind ++ [r] }
        else takeRequest s d row lane r

/-- CLOSE, XFER, GO and CANCEL requests; OPEN stands with the exchange, which it may feed. -/
def execCloseReq (d : DroverNo) (row : Fin 8) (lane : Fin 2) (chk : Ecc) (s : State) : Result :=
  requestRow d row lane chk (· == 2) s
def execXferReq (d : DroverNo) (row : Fin 8) (lane : Fin 2) (chk : Ecc) (s : State) : Result :=
  requestRow d row lane chk (· == 3) s
def execGoReq (d : DroverNo) (row : Fin 8) (lane : Fin 2) (chk : Ecc) (s : State) : Result :=
  requestRow d row lane chk (· == 4) s
def execCancelReq (d : DroverNo) (row : Fin 8) (lane : Fin 2) (chk : Ecc) (s : State) : Result :=
  requestRow d row lane chk (· == 5) s

/-- The requests behind a hold that has ended, of request channel `ch`, are acted on in order, up to the next held XFER:
each as if the later ones had not arrived (R246). -/
def takeBehind (d : DroverNo) (q ch : Nat) : List Line → State → State
  | [], s => s
  | r :: rest, s =>
    let s1 := takeRequest s d (ch / 2) (ch % 2) r
    if ((s1.drover d).queue q).xfers.any fun x => x.held then s1.modQueue d q fun y => { y with behind := rest }
    else takeBehind d q ch rest s1

/-- The held transfer of queue `q` waits for a group that the job has not (R252). -/
def badHold (s : State) (d : DroverNo) (q : Nat) (y : DQueue) : State :=
  match y.xfers.find? fun x => x.held with
  | some f =>
    if f.wait = 2 ∧ f.lidx ≥ s.groupCount then queueFault s d 1 q (y.reqLane / 2) (y.reqLane % 2) f.tag.toNat else s
  | none => s

/-- The job has started: transfers held on a group are checked (R252). -/
def checkHolds (s : State) : State :=
  forAll (List.range 16) s fun s d => forAll (s.drover d).queues s fun s y => badHold s (Fin.ofNat 16 d) y.1 y.2

/-- RELEASE_HOLD_END (R252): the release that the queue's held XFER waits for has been made, and its deadline runs from now
(R255). A group index out of range, first seen now, is BAD_REQ; memory that it may not reach, ADDR. -/
def execReleaseHoldEnd (d : DroverNo) (q : Fin 32) (s : State) : Result :=
  .next <|
    let x := s.drover d
    let y := x.queue q
    match y.xfers.find? fun x => x.held with
    | none => s
    | some f =>
      if x.stopped || !s.jobActive then s
      else if f.wait = 2 ∧ f.lidx ≥ s.groupCount then
        queueFault s d 1 q (y.reqLane / 2) (y.reqLane % 2) f.tag.toNat
      else if !s.released d f.wait.toNat f.lidx f.step then s
      else if !s.xferReach d (decide (oKind y.rcd = 1)) f then queueAddr s d q y f
      else
        takeBehind d q y.reqLane y.behind (s.modQueue d q fun y => { y with
          behind := []
          xfers := modFirst (fun x => x.held) (fun x => { x with held := false, due := s.dueIn x.deadline }) y.xfers })

/-! ## Issue to memory (R238, R249, R253, R274) -/

/-- A drover IN transfer reads working-copy objects before the first group release of the step (R376). -/
def noteWcRead (s : State) (a : Nat) : State :=
  if s.rel.grelDone then s
  else s.withRel fun r =>
    { r with wcRead := (s.objs.filter fun x => (x.2.kind = 4 ∨ x.2.kind = 6) ∧ x.2.base.toNat ≤ a ∧
        a < x.2.base.toNat + x.2.bytes ∧ ¬ r.wcRead.contains x.1).map Prod.fst ++ r.wcRead }

/-- Change transfer number `id` of a queue. -/
def State.modXfer (s : State) (d q id : Nat) (f : Xfer → Xfer) : State :=
  s.modQueue d q fun y => { y with xfers := modFirst (fun x => decide (x.id = id)) f y.xfers }

/-- An access reaches its controller (R230). -/
def reachCtl (s : State) (x : Access) : State := s.modCtl (hbmMap x.req.addr.toNat).1 fun c => { c with pend := c.pend ++ [x] }

/-- The non-posted PCIe requests that the device has outstanding on port `p`; the limit of 512 (R267). -/
def State.nonPosted (s : State) (p : Nat) : Nat :=
  let mine (h : HostReq) : Bool := h.np && decide (h.port.val = p)
  (s.drovers.map fun d => (d.2.queues.map fun y =>
      (y.2.dropHost.filter mine).length + (y.2.xfers.map fun x => (x.host.filter mine).length).sum).sum).sum +
    (s.snap.host.filter fun h => h.2 && decide (h.1.val = p)).length

/-- An access of `x` to a region with COH = 0 waits for one of the 512 requests. -/
def State.npFull (s : State) (x : Xfer) : Bool :=
  match hostWindow (s.xferBase x) with
  | some (p, _) => !(s.obj x.obj).coh && decide (s.nonPosted p ≥ 512)
  | none => false

/-- The next bale or side-gate transfer of `x` goes to memory: from or to HBM as line accesses with the XFER's deadline, from or
to the host tier as requests of its region's kind. -/
def issueUnit (s : State) (d : DroverNo) (q : Nat) (x : Xfer) (write : Bool) : State :=
  let l0 := x.issued * x.unit
  let a := s.xferBase x + 64 * l0
  let n := x.unit
  let s := s.modXfer d q x.id fun x => { x with issued := x.issued + 1 }
  match hostWindow a with
  | some (pt, hpa) =>
    let p : Port := Fin.ofNat 2 pt
    let coh := (s.obj x.obj).coh
    let s := if write then
        hostFlush (hostStore (beforeWrite (beforeWrite s (.drover d) a) (.drover d) (a + 64 * n - 1)) p coh hpa (64 * n)
          (pack 512 ((List.range n).map fun i => (Sparse.get 0 x.buf (l0 + i)).toNat))) p coh hpa
      else hostFetch s p coh hpa (64 * n)
    let y := (s.drover d).queue q
    let req (line n : Nat) (go : Bool) : HostReq := ⟨p, x.issued, line, n, go, !coh, oRow y.rcd, y.lane, x.tag⟩
    let reqs : List HostReq := if coh then (List.range n).map fun i => req (l0 + i) 1 write else [req l0 n false]
    s.modXfer d q x.id fun x => { x with host := x.host ++ reqs }
  | none =>
    forAll (List.range n) s fun s i =>
      reachCtl s { req := ⟨.drover d, BitVec.ofNat 48 (a + 64 * i), write, BitVec.allOnes 64, Sparse.get 0 x.buf (l0 + i)⟩
                   due := some x.due, q := q, xid := x.id, line := l0 + i }

/-- The transfer has bale transfers to issue. -/
def Xfer.toIssue (x : Xfer) : Bool := !x.side && !x.held && decide (x.issued < x.count)

/-- BALE_ISSUE: the next bale transfer of an IN queue is issued to memory, while fewer than OUTSTANDING are in flight.
A bale of an OUT queue takes its buffer with its first token. DEDUCED, unsafe: notes/assumptions/22.md. -/
def execBaleIssue (d : DroverNo) (q : Fin 32) (s : State) : Result :=
  .next <|
    let z := s.drover d
    let y := z.queue q
    match y.xfers.find? Xfer.toIssue with
    | none => s
    | some x =>
      if z.stopped || !y.isOpen || y.stopped || decide (oKind y.rcd ≠ 0) || decide (y.inflight ≥ oOut y.rcd) then s
      else if !s.xferReach d false x then queueAddr s d q y x
      else if s.npFull x then s
      else issueUnit s d q x false

/-- A side-gate transfer without one of the 16 entries. -/
def Xfer.toGate (x : Xfer) : Bool := x.side && !x.held && !x.gate

/-- SIDE_GATE_ISSUE (R253): one of the 16 entries is taken, and an IN transfer's lines are read. -/
def execSideGateIssue (d : DroverNo) (q : Fin 32) (s : State) : Result :=
  .next <|
    let z := s.drover d
    let y := z.queue q
    match y.xfers.find? Xfer.toGate with
    | none => s
    | some x =>
      if z.stopped || !y.isOpen || y.stopped || decide (z.sideUsed ≥ 16) then s
      else if !s.xferReach d (decide (oKind y.rcd = 1)) x then queueAddr s d q y x
      else if s.npFull x then s
      else
        let s := (s.modDrover d fun z => { z with sideUsed := z.sideUsed + 1 }).modXfer d q x.id fun x => { x with gate := true }
        if oKind y.rcd = 0 then issueUnit s d q x false else s

/-! ## Grants of the HBM controllers (R230, R255, R256, R285) -/

/-- The number of a party at an HBM controller (Table 12.5). -/
def Requester.party : Requester → Nat
  | .drover d => d.val
  | .foldPort f => 16 + f.val
  | .host p => 28 + p.val
  | .melvor => 30
  | .snapshot => 31

/-- How far party `p` stands behind the holder of the token. -/
def behindToken (tok p : Nat) : Nat := (p + 32 - tok) % 32

/-- Insert by distance from the token, behind an equal one. -/
def insertParty (tok : Nat) (x : LineReq) : List LineReq → List LineReq
  | [] => [x]
  | y :: r =>
    if behindToken tok (Requester.party x.req) < behindToken tok (Requester.party y.req) then x :: y :: r
    else y :: insertParty tok x r

/-- The deadline of an access that no transfer makes: a fold port's is its RDL, a drover's DEF_DL; other requesters have none.
DESIGN CHOICE, unsafe: notes/assumptions/17.md. -/
def State.reqDue (s : State) : Requester → Option Nat
  | .drover d => some (s.dueIn (s.drover d).defDl.toNat)
  | .foldPort f => some (s.dueIn (s.link f).rdl.toNat)
  | _ => none

/-- The accesses `l` reach controller `k` in one cycle, ordered by the tie token, which passes to the party after the one that
comes first (R285). DESIGN CHOICE, unsafe: notes/assumptions/17.md. -/
def reachTogether (s : State) (k : Nat) (l : List LineReq) : State :=
  let tok := (s.ctl k).tok
  match l.foldl (fun m x => insertParty tok x m) [] with
  | [] => s
  | x :: r =>
    let s := if r.any fun y => decide (Requester.party y.req ≠ Requester.party x.req) then
        s.modCtl k fun c => { c with tok := (Requester.party x.req + 1) % 32 }
      else s
    forAll (x :: r) s fun s y => s.modCtl k fun c => { c with pend := c.pend ++ [{ req := y, due := s.reqDue y.req }] }

/-- The accesses among `l` that may be granted: no earlier one, `seen` or in `l`, names the same line (R230), and nothing holds
the page. -/
def State.grantable (s : State) : List Access → List Access → List Access
  | _, [] => []
  | seen, x :: r =>
    let a := x.req.addr.toNat
    let rest := s.grantable (x :: seen) r
    if (seen.any fun y => decide (y.req.addr.toNat / 64 = a / 64)) || s.pageBlocked x.req.req x.req.write a then rest
    else x :: rest

/-- `x` is served before `y` in deadline mode: an earlier deadline, or an equal one and nearer to the token (R255). One without
a deadline comes last. DESIGN CHOICE, unsafe: notes/assumptions/17.md. -/
def Access.earlier (tok : Nat) (x y : Access) : Bool :=
  match x.due, y.due with
  | some a, some b =>
    decide (a < b) ||
      (decide (a = b) && decide (behindToken tok (Requester.party x.req.req) < behindToken tok (Requester.party y.req.req)))
  | some _, none => true
  | none, _ => false

/-- Read 0, write 1, remote 2 (R254). DESIGN CHOICE, unsafe: notes/assumptions/17.md. -/
def Access.cls (x : Access) : Nat :=
  match x.req.req with
  | .foldPort _ => 2
  | _ => if x.req.write then 1 else 0

/-- The class that grant `n` of a frame belongs to (R256). -/
def Arb.turn (a : Arb) (n : Nat) : Nat :=
  if n < a.read16.toNat then 0 else if n < a.read16.toNat + a.write16.toNat then 1 else 2

/-- The access that the controller grants next of those that it may grant. -/
def State.pick (s : State) (k : Nat) (l : List Access) : Option Access :=
  if s.arb.split then
    let t := s.arb.turn (s.ctl k).frame
    (((List.range 3).map fun i => (t + i) % 3).filterMap fun c => l.find? fun x => decide (x.cls = c)).head?
  else
    match l with
    | [] => none
    | x :: r => some (r.foldl (fun m y => if y.earlier (s.ctl k).tok m then y else m) x)

/-- The token and the frame after the grant of `x` among `l`: equal deadlines of two parties pass the token on; in split mode
the grant counts in its frame of 16. -/
def HbmCtl.granted (c : HbmCtl) (split : Bool) (x : Access) (l : List Access) : HbmCtl :=
  let p := Requester.party x.req.req
  let tie := !split && x.due.isSome && l.any fun y => decide (y.due = x.due) && decide (Requester.party y.req.req ≠ p)
  { c with pend := c.pend.erase x, sinceScrub := min 255 (c.sinceScrub + 1), tok := if tie then (p + 1) % 32 else c.tok
           frame := if split then (c.frame + 1) % 16 else c.frame }

/-- Lines `l` to `l + n − 1`, of one bale or side-gate transfer, have come into the buffer with data `v`, or are written. -/
def linesIn (l n : Nat) (v : List Line) (poison : Bool) (x : Xfer) : Xfer :=
  { x with done := Sparse.mod 0 x.done (l / x.unit) (· + n)
           buf := (List.zip (List.range v.length) v).foldl (fun m y => Sparse.set 0 m (l + y.1) y.2) x.buf
           bad := if poison then l / x.unit :: x.bad else x.bad }

/-- Memory has answered for these lines of transfer `id`, if it has not ended; a bale that is now written counts. -/
def memoryDone (s : State) (d : DroverNo) (q id l n : Nat) (v : List Line) (poison : Bool) : State :=
  let y := (s.drover d).queue q
  match y.xfers.find? fun x => decide (x.id = id) with
  | none => s
  | some x =>
    let z := linesIn l n v poison x
    let s := s.modXfer d q id fun _ => z
    if decide (oKind y.rcd = 1) && !x.side && z.unitDone (l / x.unit) then
      s.modDrover d fun w => { w with balesOut := satAdd w.balesOut 1 }
    else s

/-- A granted access is performed, with the symbols `err` found in error: the data of a read goes to its requester, or into the
drover's buffer; data of a transfer that has ended is discarded (R261, R263). -/
def lineAccess (s : State) (x : Access) (err : Nat) : State :=
  let r := x.req
  let a := r.addr.toNat
  let into (s : State) (v : List Line) (poison : Bool) : State :=
    match r.req with
    | .drover d => if x.xid = 0 then s else memoryDone s d x.q x.xid x.line 1 v poison
    | _ => s
  if r.write then into (writeLine s r.req a r.mask r.data err) [] false
  else
    let s := match r.req with | .drover _ => noteWcRead s a | _ => s
    let y := readLine s a err
    if x.xid = 0 then y.1.emit (.lineData r.req y.2.1 y.2.2) else into y.1 [y.2.2] y.2.1

/-- Controller `k` grants one access, if it may. -/
def grantLine (s : State) (k err : Nat) : State :=
  let l := s.grantable [] (s.ctl k).pend
  match s.pick k l with
  | none => s
  | some x => lineAccess (s.modCtl k fun c => c.granted s.arb.split x l) x err

/-! ## Delivery to the array (R250, R253, R259, R262) -/

/-- The stream of a cut of this module: it is the sender of an outbound one. -/
def State.cutStream (s : State) (c : CutQ) : Option Stream :=
  (s.grp.cuts.find? fun g =>
    if c.inbound then decide (g.dst = s.rank) && decide (g.inCut = c.cut.toNat)
    else decide (g.src = s.rank) && decide (g.cut = c.cut.toNat)).map fun g => ⟨g.src, g.dst, some g.cut⟩

/-- WINDOW credits of an inbound cut go back to its peer (R192), in a CREDIT message of its stream. -/
def creditBack (s : State) (c : CutQ) (n : Nat) : State :=
  match s.cutStream c with
  | some st => creditStream s st n
  | none => s

/-- Inbound cut queues present their peers' tokens (R265). -/
def deliverCuts (s : State) (d : Nat) : State :=
  let x := s.drover d
  forAll (List.range x.cuts.length) s fun s i =>
    match (s.drover d).cuts[i]? with
    | some c =>
      if c.inbound then
        let r := presentAll d c.row (if c.lane = 0 then 1 else 2) c.queue c.toks.length s c.toks
        creditBack (r.1.modDrover d fun x => { x with cuts := x.cuts.set i { c with toks := r.2 } }) c
          (c.toks.length - r.2.length)
      else s
    | none => s

/-- BALE_DELIVER: the drover presents what it can of the next transfer of an IN queue whose bale (or side-gate data) is
wholly in the buffer, of the tokens of an RX queue, and of its inbound cuts (R250, R253, R259, R262, R265). `buf`: the code
check of the buffer (R366). DEDUCED, unsafe: notes/assumptions/90.md. -/
def execBaleDeliver (d : DroverNo) (q : Fin 32) (buf : Ecc) (s : State) : Result :=
  .next <|
    let z := s.drover d
    if z.stopped then s
    else
      let s := deliverCuts s d
      let y := (s.drover d).queue q
      let row := oRow y.rcd
      let qu := oQueue y.rcd
      if !y.isOpen || y.stopped then s
      else if oKind y.rcd = 3 then
        let r := presentAll d row (oLanes y.rcd) qu y.rx.length s y.rx
        r.1.modQueue d q fun y => if r.2.isEmpty && y.closing then { dropHost := y.dropHost } else { y with rx := r.2 }
      else
        match y.xfers.find? fun x => decide (x.moved < x.tokens) with
        | none => s
        | some x =>
          let u := x.unit
          let i := x.moved / u
          let stop := min x.tokens ((i + 1) * u)
          if oKind y.rcd ≠ 0 ∨ x.held ∨ (x.staged ∧ ¬x.go) then s
          else if x.bad.contains i || (x.unitDone i && decide (buf = .ue)) then
            queueFault (s.modQueue d q fun y => { y with stopped := true }) d 4 q row y.lane x.tag.toNat
          else if !x.unitDone i then s
          else
            let toks := (List.range (stop - x.moved)).map fun i =>
              gwToken (Sparse.get 0 x.buf (x.moved + i)) qu (decide (x.moved + i + 1 = x.tokens))
            let r := presentAll d row (oLanes y.rcd) qu toks.length s toks
            let n := toks.length - r.2.length
            let s := r.1.modXfer d q x.id fun x => { x with moved := x.moved + n }
            if x.moved + n = stop ∧ ¬x.side then s.modDrover d fun z => { z with balesIn := satAdd z.balesIn 1 } else s

/-! ## Transfers to memory (R251) -/

/-- The transfer of an OUT queue that takes the next token. -/
def Xfer.filling (x : Xfer) : Bool := decide (x.moved < x.tokens)

/-- The token has a place: in a side-gate entry, or in one of the queue's OUTSTANDING bale buffers (R264). -/
def DQueue.place (y : DQueue) (x : Xfer) : Bool :=
  !x.held && (if x.side then x.gate else decide (x.moved % 64 ≠ 0) || decide (y.filled < oOut y.rcd))

/-- A full bale, or full side-gate data, that has not gone to memory. -/
def Xfer.toWrite (x : Xfer) : Bool := decide (x.issued < x.moved / x.unit)

/-- BALE_WRITE: the next full bale (or full side-gate data) of an OUT queue goes to memory. `buf`: the code check of the
buffer (R366). DEDUCED, unsafe: notes/assumptions/22.md. DEDUCED, unsafe: notes/assumptions/90.md. -/
def execBaleWrite (d : DroverNo) (q : Fin 32) (buf : Ecc) (s : State) : Result :=
  .next <|
    let z := s.drover d
    let y := z.queue q
    match y.xfers.find? Xfer.toWrite with
    | none => s
    | some x =>
      let a := s.xferBase x + 64 * x.unit * x.issued
      let b := a + 64 * x.unit - 1
      if z.stopped || y.stopped || decide (oKind y.rcd ≠ 1) then s
      else if !s.xferReach d true x then queueAddr s d q y x
      else if (hostWindow a).isSome && s.hostPageWaits a (b + 1 - a) || s.npFull x then s
      else if buf = .ue then
        queueFault (s.modQueue d q fun y => { y with stopped := true }) d 4 q (oRow y.rcd) y.lane x.tag.toNat
      else issueUnit s d q x true

/-- The first transfer is complete (R249, R251). -/
def DQueue.headDone (y : DQueue) (x : Xfer) : Bool :=
  if oKind y.rcd = 0 then decide (x.moved = x.tokens) else decide (x.finished = x.count)

/-- XFER_COMPLETE: the oldest transfer of a queue completes, with its reply token when NOTIFY asks for one. -/
def execXferComplete (d : DroverNo) (q : Fin 32) (s : State) : Result :=
  .next <|
    let z := s.drover d
    let y := z.queue q
    match y.xfers with
    | [] => s
    | x :: rest =>
      let row := oRow y.rcd
      let lane := oReplyLane y.rcd
      if z.stopped || y.stopped || !y.headDone x || (x.notify && !s.canPresent d row lane (oReplyQ y.rcd)) then s
      else
        let s := if x.notify then
            present s d row lane (gwToken (BitVec.ofNat 512 (x.tag.toNat + q.val * 2 ^ 16)) (oReplyQ y.rcd) true)
          else s
        let s := s.modQueue d q fun y => { y with xfers := rest }
        if x.side then s.modDrover d fun z => { z with sideXfers := satAdd z.sideXfers 1, sideUsed := z.sideUsed - 1 }
        else s

/-! ## Misses and timeouts (R257, R258, R262) -/

/-- Bale or side-gate transfers whose data is not all in the buffer (IN) or not all written (OUT).
DESIGN CHOICE, unsafe: notes/assumptions/23.md. -/
def Xfer.lateUnits (x : Xfer) : Nat := x.count - x.finished

/-- The transfer's deadline runs and has not been counted. -/
def Xfer.runs (x : Xfer) : Bool := !x.held && !(x.staged && !x.go) && decide (x.missed = 0) && decide (x.lateUnits > 0)

/-- The transfer whose deadline passes first, the older of two with one deadline. -/
def DQueue.nextDue (y : DQueue) : Option Xfer :=
  let l := y.xfers.filter Xfer.runs
  l.find? fun x => l.all fun z => decide (x.due ≤ z.due)

/-- DEADLINE_MISS: the next deadline of a transfer that is not complete passes; each of its bale or side-gate transfers
that misses it counts. DESIGN CHOICE, unsafe: notes/assumptions/23.md. -/
def execDeadlineMiss (d : DroverNo) (q : Fin 32) (s : State) : Result :=
  .next <|
    let y := (s.drover d).queue q
    match y.nextDue with
    | none => s
    | some x =>
      let n := x.lateUnits
      let s := s.modXfer d q x.id fun w => { w with missed := n }
      fire (s.modDrover d fun z => { z with dlMiss := satAdd z.dlMiss n }) (80 + d.val)

/-- A transfer of the queue makes no progress at memory, or waits fully fetched for GO or CANCEL (R258, R262). -/
def DQueue.stuck (y : DQueue) : Option Xfer :=
  y.xfers.find? fun x =>
    !x.held && (decide (x.finished < x.issued) || (x.staged && !x.go && decide (x.finished = x.count)))

/-- The head of a request channel waits under R252: its queue has a held XFER. -/
def Drover.waitsHold (x : Drover) (r : Line) : Bool := (x.queue (qDq r)).xfers.any fun f => f.held

/-- The queue of a request waits for array credits, of which no time counts (R258): with a bale to present, a token of its
peer, or a reply token. -/
def State.waitsCredit (s : State) (d q : Nat) : Bool :=
  let y := (s.drover d).queue q
  let data := !s.canPresent d (oRow y.rcd) y.lane (oQueue y.rcd)
  match oKind y.rcd with
  | 0 => (match y.xfers.find? fun x => decide (x.moved < x.tokens) with
      | some x => !x.held && !(x.staged && !x.go) && x.unitDone (x.moved / x.unit) && data
      | none => false)
  | 1 => (match y.xfers with
      | x :: _ => decide (x.finished = x.count) && x.notify && !s.canPresent d (oRow y.rcd) (oReplyLane y.rcd) (oReplyQ y.rcd)
      | [] => false)
  | 3 => !y.rx.isEmpty && data
  | _ => false

/-- The drover fault TIMEOUT of the token held at the head of a channel, if it has one: on the request channel with the
queue and tag that it names, on a data channel with the queue, or the cut, that takes it. -/
def headTimeout (s : State) (d : DroverNo) (row lane ch : Nat) : Option DroverFault :=
  let z := s.drover d
  match z.head row lane ch, z.outCut row lane ch with
  | none, _ => none
  | some _, some (_, c) => some ⟨6, 0, BitVec.ofNat 3 row, decide (lane = 1), true, c.cut⟩
  | some k, none =>
    let at_ (q tag : Nat) : DroverFault :=
      ⟨6, BitVec.ofNat 5 q, BitVec.ofNat 3 row, decide (lane = 1), false, BitVec.ofNat 16 tag⟩
    if ch = 0 then
      let r := k.2.data
      if z.waitsHold r || s.waitsCredit d (qDq r) then none else some (at_ (qDq r) (if 3 ≤ qOp r ∧ qOp r ≤ 5 then qTag r else 0))
    else match z.opens.find? fun y => (channelsOf y.2.rcd).contains ((row * 2 + lane) * 8 + ch) with
      | none => some (at_ 0 0)
      | some (q, y) =>
        match y.xfers.find? Xfer.filling with
        | none => some (at_ q 0)
        | some x => if x.held then none else some (at_ q x.tag.toNat)

/-- TIMEOUT: no progress for TIMEOUT_US at a transfer of queue `q` issued to memory, or at the head of a channel of the lane. -/
def execTimeout (d : DroverNo) (q : Fin 32) (row : Fin 8) (lane : Fin 2) (s : State) : Result :=
  .next <|
    let z := s.drover d
    let y := z.queue q
    if z.stopped then s
    else match y.stuck with
      | some x => queueFault s d 6 q (oRow y.rcd) y.lane x.tag.toNat
      | none =>
        match ((List.range 8).filterMap fun c => headTimeout s d row lane c).head? with
        | some f => droverFault s d f
        | none => s

/-- A drover shows IDLE: none of its accesses is outstanding, at a controller or at a host (Table 11.3, R263). -/
def State.droverIdle (s : State) (d : DroverNo) : Bool :=
  ((s.drover d).queues.all fun q => q.2.dropHost.isEmpty && q.2.xfers.all fun f => f.host.isEmpty) &&
    s.hbmCtl.all fun c => c.2.pend.all fun x => decide (x.req.req ≠ .drover d)

/-- Clear the counters of Table 11.3 (R266). -/
def Drover.clear (x : Drover) (v : Nat) : Drover :=
  if bit v 0 then
    { x with balesIn := 0, balesOut := 0, sideXfers := 0, dlMiss := 0, cancelXfers := 0, cancelBales := 0
             cancelLate := 0, discBales := 0, discTokens := 0, cutDisc := 0, relWaitUs := 0, bpUs := 0 }
  else x

end Sys2Proof.Machine
end

