-- ==== Sys2Proof/Machine/Mailbox.lean ====
section
/-! DEFINITION. The mailboxes (spec 13, R280-R284, R292-R300): CRC-32C, completions and events, job ownership, the
fetching and refusal of command entries, ENABLE and the doorbells, and the commands that touch no job: HELLO to PWIN_SET
and FAULT_REPORT. -/

namespace Sys2Proof.Machine

/-! ## CRC-32C (R294) -/

/-- `n` steps of the reflected polynomial. -/
def crcStep (c : Nat) : Nat → Nat
  | 0 => c
  | n + 1 => crcStep (if c % 2 = 1 then c / 2 ^^^ 0x82F63B78 else c / 2) n

/-- CRC-32C of a list of bytes. -/
def crc32c (l : List Byte) : Nat := (l.foldl (fun c b => crcStep (c ^^^ b.toNat) 8) 0xFFFFFFFF) ^^^ 0xFFFFFFFF

/-! ## Entries (Tables 13.3, 13.5) -/

def eOp (e : Line) : Nat := Line.bytes e 0 2
def eNoint (e : Line) : Bool := bit (Line.bytes e 2 2) 0
def eTag (e : Line) : Nat := Line.bytes e 4 4
def eSeq (e : Line) : Nat := Line.bytes e 56 4

/-- The entry is valid on a ring that expects `exp` (R280). -/
def entryValid (e : Line) (exp : Word) : Bool :=
  decide (eSeq e = exp.toNat) && decide (Line.bytes e 60 4 = crc32c (toBytes e.toNat 60))

/-- Table 13.5: whether the command is job control ("Own"), and the lowest version that has it. -/
def opInfo : Nat → Option (Bool × Nat)
  | 0x01 | 0x02 | 0x10 => some (false, 0x0100)
  | 0x11 => some (true, 0x0100)
  | 0x12 => some (true, 0x0200)
  | 0x20 | 0x21 | 0x22 | 0x30 | 0x31 => some (false, 0x0100)
  | 0x32 => some (false, 0x0200)
  | 0x40 | 0x41 | 0x50 | 0x51 | 0x52 | 0x53 => some (true, 0x0100)
  | 0x54 => some (true, 0x0202)
  | 0x55 => some (true, 0x0201)
  | _ => none

/-- The command is a job-control command. -/
def ownOp (op : Nat) : Bool := match opInfo op with | some x => x.1 | none => false

/-! ## Rings (R294, R296) -/

def Mailbox.cmdN (b : Mailbox) : Nat := 2 ^ b.cmdLog2n.toNat
def Mailbox.cplN (b : Mailbox) : Nat := 2 ^ b.cplLog2n.toNat

/-- Entries waiting in the command ring. -/
def Mailbox.cmdWait (b : Mailbox) : Nat := (b.cmdProd.toNat % b.cmdN + b.cmdN - b.cmdCons.toNat) % b.cmdN

/-- Free entries of the completion ring. -/
def Mailbox.cplFree (b : Mailbox) : Nat :=
  b.cplN - 1 - (b.cplProd.toNat + b.cplN - b.cplCons.toNat % b.cplN) % b.cplN

/-- PENDING: commands of a port accepted and not completed. -/
def State.pendingOf (s : State) (p : Port) : Nat := (s.melvor.accepted.filter fun x => x.port = p).length

/-! ## The STATUS result (R300) -/

/-- The paddock of a tile, 0xFFFF outside every paddock. -/
def State.paddockOf (s : State) (t : Nat) : Nat :=
  match s.melvor.fold with
  | none => 0xFFFF
  | some f =>
    match (List.zip (List.range f.paddocks.length) f.paddocks).find? fun x =>
        decide (x.2.row0 ≤ rowOf t) && decide (rowOf t < x.2.row0 + x.2.rows) &&
        decide (x.2.col0 ≤ colOf t) && decide (colOf t < x.2.col0 + x.2.cols) with
    | some x => x.1
    | none => 0xFFFF

/-- Bytes 40–43: the first fault of the last fold fault, where it is a tile's. -/
def State.faultTile (s : State) : Nat :=
  match s.melvor.lastFault with
  | some f =>
    match f.first with
    | some t => t.1 + t.2 * 65536
    | none => 0xFFFFFFFF
  | none => 0xFFFFFFFF

/-- JOB_STATE and STEP as hosts read them: while writes are open or a page of an object is HELD, a result that reports the
job's objects is not published yet (R279). -/
def State.jobShown (s : State) : BitVec 3 := match s.melvor.unpub with | some x => x.1 | none => s.melvor.jobState
def State.stepShown (s : State) : Word := match s.melvor.unpub with | some x => x.2 | none => s.melvor.shown

/-- Bytes 16–55 of a completion with the STATUS result. -/
def State.statusResult (s : State) : Nat :=
  let m := s.melvor
  let mode := match m.job with | some j => b2n j.lsMode | none => 0
  s.jobShown.toNat + m.owner.toNat * 2 ^ 8 +
  (match m.fold with | some f => f.slot + f.rd.toNat * 256 | none => 0xFF) * 2 ^ 16 +
  s.stepShown.toNat * 2 ^ 32 + m.loss.lse * 2 ^ 64 + mode * 2 ^ 72 + m.loss.clean % 65536 * 2 ^ 80 +
  m.loss.halvings.toNat * 2 ^ 96 + m.loss.skipped.toNat * 2 ^ 128 + m.activations.toNat * 2 ^ 160 +
  s.faultTile * 2 ^ 192 + m.dropped.toNat * 2 ^ 224

/-! ## Completion entries (R295, Table 13.4) -/

/-- A completion entry with its sequence number and CRC. -/
def cplEntry (op status tag cmdSeq detail result seq : Nat) : Line :=
  let body := op % 65536 + status % 65536 * 2 ^ 16 + tag % 2 ^ 32 * 2 ^ 32 + cmdSeq % 2 ^ 32 * 2 ^ 64 +
    detail % 2 ^ 32 * 2 ^ 96 + result % 2 ^ 320 * 2 ^ 128 + seq % 2 ^ 32 * 2 ^ 448
  BitVec.ofNat 512 (body + crc32c (toBytes body 60) * 2 ^ 480)

/-- The host address of entry `i` of port `p`'s completion ring, and how it is written: ItoMWr with CPL_COH = 1, a flag
without. -/
def Mailbox.cplAddr (b : Mailbox) (i : Nat) : Nat := b.cplBaseLo.toNat * 4096 + b.cplBaseHi.toNat * 2 ^ 32 + 64 * i
def Mailbox.cplOp (b : Mailbox) : HostOp := if b.cplCoh then .itoMWr else .flag

/-- The device writes one completion entry into port `p`'s ring, or counts it as dropped; a stopped complex writes none. -/
def putEntry (s : State) (p : Port) (op status tag cmdSeq detail result : Nat) (noint : Bool) : State :=
  let b := s.box p
  if s.melvor.lockstepErr then s
  else if !b.enabled || (s.port p).removed then s.setBox p { b with cplDropCnt := satAdd b.cplDropCnt 1 }
  else
    let s := s.setBox p { b with cplProd := BitVec.ofNat 12 ((b.cplProd.toNat + 1) % b.cplN), cplSeq := b.cplSeq + 1 }
    fireIf (!noint) (s.emit (.cplEntry p b.cplOp (b.cplAddr b.cplProd.toNat)
      (cplEntry op status tag cmdSeq detail result b.cplSeq.toNat))) (16 * p)

/-! ## Events (R302) -/

/-- Some page of a valid object is HELD by a port (R279). -/
def State.objectsHeld (s : State) : Bool :=
  ([0, 1] : List (Fin 2)).any fun p => (s.port p).held.any fun h =>
    s.objs.any fun o => decide (o.2.base.toNat < h.1 * 4096 + 4096) && decide (h.1 * 4096 < o.2.base.toNat + o.2.bytes)

/-- A write of an OUT transfer, or of the exchange, has not completed: in HBM or in the host tier (R278, R279). -/
def State.writesOpen (s : State) : Bool :=
  (s.hbmCtl.any fun c => c.2.pend.any fun x => x.req.write && (match x.req.req with | .host _ => false | _ => true)) ||
    s.drovers.any fun d => d.2.queues.any fun q => decide (oKind q.2.rcd = 1) && q.2.xfers.any fun x => !x.host.isEmpty

/-- A result that reports the job's objects is not published yet (R279). -/
def State.resultsWait (s : State) : Bool := s.objectsHeld || s.writesOpen

/-- The event reports written objects (Table 13.9). -/
def eventWrites (code : BitVec 16) : Bool := code = 0x0100 || code = 0x0101 || code = 0x0103

/-- Write the port's pending events in order, while each has room beside the pending commands' completions.
DEDUCED, unsafe: notes/assumptions/37.md. -/
def flushEvents (p : Port) : Nat → State → State
  | 0, s => s
  | n + 1, s =>
    match (s.box p).events with
    | [] => s
    | e :: r =>
      let b := s.box p
      if s.melvor.lockstepErr || decide (b.cplFree ≤ s.pendingOf p) || (eventWrites e.code && s.resultsWait) then s
      else
        flushEvents p n
          (putEntry (s.setBox p { b with events := r }) p 0xFFFF e.code.toNat 0 0 e.detail.toNat s.statusResult false)

/-- After any change of a mailbox: events that have room are written, CPL_STALL follows R296. -/
def boxSettle (s : State) (p : Port) : State :=
  let s := flushEvents p (s.box p).events.length s
  let b := s.box p
  let stall := b.enabled && decide (b.cmdWait > 0) && decide (b.cplFree < s.pendingOf p + 2)
  fireIf (stall && !b.cplStall) (s.setBox p { b with cplStall := stall }) (16 * p + 2)

/-- An event for port `p`, which stands for `merged` earlier ones: merged with a pending one of its code; dropped and counted
where the mailbox is not enabled. -/
def portEvt (s : State) (p : Port) (code : BitVec 16) (merged : Nat) : State :=
  let b := s.box p
  let b := { b with evtMergeCnt := satAdd b.evtMergeCnt merged }
  if !b.enabled || (s.port p).removed then s.setBox p { b with cplDropCnt := satAdd b.cplDropCnt 1 }
  else if b.events.any fun e => e.code = code then
    s.setBox p { b with
      evtMergeCnt := satAdd b.evtMergeCnt 1
      events := b.events.map fun e => if e.code = code then { e with detail := satAdd e.detail (merged + 1) } else e }
  else boxSettle (s.setBox p { b with events := b.events ++ [⟨code, BitVec.ofNat 32 merged⟩] }) p

/-- A held event joins the others of its code (R302). -/
def holdEvent (l : List PendEvt) (code : BitVec 16) : List PendEvt :=
  if l.any fun e => e.code = code then l.map fun e => if e.code = code then { e with detail := satAdd e.detail 1 } else e
  else l ++ [⟨code, 0⟩]

/-- The source of an event (Table 16.1). -/
def eventSource (code : BitVec 16) : Nat :=
  match code.toNat with
  | 0x0100 => 35 | 0x0101 => 34 | 0x0102 => 32 | 0x0103 => 33 | _ => 36

/-- Melvor firmware posts an event: to the owning port, or held while ownership is vacant; OWNER_VACANT to every enabled
port. Its interrupt source waits with it (R279). DEDUCED, unsafe: notes/assumptions/37.md. -/
def postEvent (s : State) (code : BitVec 16) : State :=
  if s.melvor.lockstepErr then s
  else
    let s := if eventWrites code && s.resultsWait then
        s.withMelvor fun m => { m with heldSrcs := m.heldSrcs ++ [eventSource code] }
      else fire s (eventSource code)
    if code = 0x0104 then
      forAll [0, 1] s fun s (p : Port) => if (s.box p).enabled then portEvt s p code 0 else s
    else if s.melvor.owner = 3 then s.withMelvor fun m => { m with heldEvents := holdEvent m.heldEvents code }
    else portEvt s (Fin.ofNat 2 s.melvor.owner.toNat) code 0

/-! ## Ownership (R283, R362) -/

/-- Ownership becomes `o` (3 vacant): OWNER changes fire sources 5 and 21, groups of ROUTE 4 leave service at the old
owner's port, a port that loses ownership no longer holds the flash interface (R430), and held events go to a new
owner. -/
def setOwner (s : State) (o : Nat) : State :=
  let old := s.melvor.owner.toNat
  if old = o then s
  else
    let s := s.withMelvor fun m => { m with owner := BitVec.ofNat 2 o }
    let s := if old < 2 ∧ s.flashIf.holder.toNat = old then s.withFlashIf fun f => { f with held := false } else s
    let s := if old < 2 then
        match Sparse.get none s.irq.insvc old with
        | some g =>
          if g ≥ 2 ∧ (s.irqGrp g).route = 4 then
            { s with irq := { s.irq with insvc := Sparse.set none s.irq.insvc old none } }
          else s
        | none => s
      else s
    let s := forAll [0, 1] s fun s p => fireIf (decide (p = old) || decide (p = o)) s (16 * p + 5)
    if o < 2 then
      let held := s.melvor.heldEvents
      forAll held (s.withMelvor fun m => { m with heldEvents := [] }) fun s e => portEvt s (Fin.ofNat 2 o) e.code e.detail.toNat
    else s

/-- HANDOVER_PEND changes on both ports. -/
def setHandover (s : State) (h : Option Port) : State :=
  let s' := s.withMelvor fun m => { m with handover := h }
  if s.melvor.handover.isSome = h.isSome then s' else fire (fire s' 5) 21

/-! ## Taking and completing commands (R297, R298) -/

/-- Melvor firmware runs. -/
def State.fwOn (s : State) : Bool := s.melvor.fwReady && !s.melvor.lockstepErr

/-- Port `p`'s accepted command `e` completes: one accepted before its mailbox was disabled, or its port removed, counts as
dropped (R293). DEDUCED, unsafe: notes/assumptions/38.md. -/
def complete (s : State) (p : Port) (e : Line) (status detail result : Nat) : State :=
  let m := s.melvor.accepted
  let dead := m.any fun a => decide (a.port = p) && decide (a.entry = e) && a.dead
  let s := s.withMelvor fun x => { x with accepted := m.eraseP fun a => decide (a.port = p) && decide (a.entry = e) }
  let s := if dead then s.modBox p fun b => { b with cplDropCnt := satAdd b.cplDropCnt 1 }
    else putEntry s p (eOp e) status (eTag e) (eSeq e) detail result (eNoint e)
  boxSettle s p

/-- A completion with OK whose RESULT is the STATUS result; where it reports the job's objects, it waits until every write
of them is complete and no page of them is HELD (R279). DEDUCED, unsafe: notes/assumptions/38.md. -/
def completeJob (s : State) (p : Port) (e : Line) : State :=
  if (eOp e = 0x51 ∨ eOp e = 0x53) ∧ s.resultsWait then
    s.withMelvor fun m => { m with accepted := m.accepted.map fun a =>
      if a.port = p ∧ a.entry = e then { a with done := true } else a }
  else complete s p e 0 0 s.statusResult

/-- Some result is withheld. -/
def State.withheld (s : State) : Bool :=
  !s.melvor.heldSrcs.isEmpty || s.melvor.unpub.isSome || (s.melvor.accepted.any fun a => a.done) ||
    ([0, 1] : List (Fin 2)).any fun p => (s.box p).events.any fun e => eventWrites e.code

/-- What waited for writes and HELD pages is published: interrupt sources, JOB_STATE and STEP, completions, events (R279). -/
def publish (s : State) : State :=
  if s.resultsWait || !s.withheld then s
  else
    let s := forAll s.melvor.heldSrcs (s.withMelvor fun m => { m with heldSrcs := [], unpub := none }) fire
    let s := forAll (s.melvor.accepted.filter fun a => a.done) s fun s a => complete s a.port a.entry 0 0 s.statusResult
    boxSettle (boxSettle s 0) 1

/-- JOB_STATE and STEP now report the job's objects: hosts see the old values while they wait. -/
def holdShown (s : State) (state : BitVec 3) (step : Word) : State :=
  if s.resultsWait && s.melvor.unpub.isNone then s.withMelvor fun m => { m with unpub := some (state, step) } else s

/-- The short commands, which complete in order (R298). -/
def shortOp (op : Nat) : Bool := ([0x01, 0x02, 0x10, 0x11, 0x20, 0x30, 0x31, 0x32] : List Nat).contains op

/-- Where port `p`'s next command stands among the accepted ones: a short one does not pass a CLAIM of its port that has been
taken. -/
def State.nextAt (s : State) (p : Port) : Option Nat :=
  let l := s.melvor.accepted
  match l.findIdx? fun a => decide (a.port = p) && !a.started with
  | none => none
  | some i =>
    let claiming := l.any fun a => decide (a.port = p) && a.started && decide (eOp a.entry = 0x10)
    match l[i]? with
    | some a => if claiming && shortOp (eOp a.entry) then none else some i
    | none => none

/-- The next command of a port that Melvor firmware starts: in SEQ order, and after those of the other port that arrived
before it (R285, R298). -/
def State.nextCmd (s : State) (p : Port) : Option Line :=
  match s.nextAt p with
  | none => none
  | some i =>
    let first := match s.nextAt (1 - p) with | some k => decide (i < k) | none => true
    if first then (s.melvor.accepted[i]?).map fun a => a.entry else none

/-- A command row: the port's next command has the opcode, and Melvor firmware runs. -/
def cmdRow (p : Port) (op : Nat) (s : State) (f : State → Line → State) : Result :=
  .next <|
    match s.nextCmd p with
    | some e => if s.fwOn && decide (eOp e = op) then f s e else s
    | none => s

/-- The command has been taken and waits for its end. -/
def markStarted (s : State) (p : Port) (e : Line) : State :=
  s.withMelvor fun m => { m with accepted := m.accepted.map fun a =>
    if a.port = p ∧ a.entry = e then { a with started := true } else a }

/-! ## Argument checks (Table 13.5) -/

/-- The offset of the first failing field. -/
def firstBad : List (Nat × Bool) → Option Nat
  | [] => none
  | x :: r => if x.2 then firstBad r else some x.1

/-- Bytes `a … b − 1` of an entry are 0. -/
def zeros (e : Line) (a b : Nat) : List (Nat × Bool) :=
  (List.range (b - a)).map fun i => (a + i, decide (Line.bytes e (a + i) 1 = 0))

/-- Device memory `[a, a + n)` that Melvor firmware may write for port `p`: the user area in the port's reach, or a
registered region of the port. -/
def State.bufOk (s : State) (p : Port) (a n : Nat) : Bool :=
  match hostWindow a with
  | some (q, hpa) => decide (q = p.val) && s.regionHolds q hpa n
  | none => decide (a + n ≤ userTop) &&
      ((List.range (n / 0x200000 + 2)).all fun i => s.reach (.host p) true (min (a + i * 0x200000) (a + n - 1)) == .ok)

/-- Device memory `[a, a + n)` that Melvor firmware may read for port `p`: as it may write, and the image store (Table 10.3). -/
def State.descOk (s : State) (p : Port) (a n : Nat) : Bool :=
  (decide (fwTop ≤ a) && decide (a + n ≤ hbmTop)) || s.bufOk p a n

/-- The reserved bits of a raw object-table entry are 0 (Table 10.4). -/
def entryClean (v : Nat) : Bool :=
  decide (v / 2 ^ 48 % 2 ^ 16 = 0) && decide (v / 2 ^ 138 % 2 ^ 6 = 0) && decide (v / 2 ^ 160 = 0)

/-- Another VALID placement entry of the port than `i` shares a requester ID with `[lo, hi]` (R276). -/
def State.ridsMeet (s : State) (p : Port) (i lo hi : Nat) : Bool :=
  (s.port p).places.any fun x => x.2.valid && decide (x.1 ≠ i) && decide (lo ≤ x.2.ridHi.toNat) && decide (x.2.ridLo.toNat ≤ hi)

/-- The fields of an entry, in order, with whether each passes. -/
def argFields (s : State) (p : Port) (e : Line) : List (Nat × Bool) :=
  let b (i n : Nat) := Line.bytes e i n
  (2, decide (b 2 2 ≤ 1)) ::
  match eOp e with
  | 0x01 => zeros e 12 56
  | 0x12 => (8, decide (b 8 1 < 2) && decide (b 8 1 ≠ p.val)) :: zeros e 9 56
  | 0x21 => (8, s.bufOk p (b 8 8) (b 16 4)) :: (16, decide (b 16 4 % 64 = 0)) :: zeros e 20 56
  | 0x22 => (8, s.bufOk p (b 8 8) (b 16 4)) :: (16, decide (b 16 4 % 64 = 0) && decide (b 16 4 ≥ 128)) :: zeros e 20 56
  | 0x30 => (8, decide (b 8 8 % 4096 = 0) && decide (b 8 8 < 2 ^ 46)) ::
      (16, decide (b 16 8 % 4096 = 0) && decide (0 < b 16 8) && decide (b 8 8 + b 16 8 ≤ 2 ^ 46)) ::
      (24, decide (b 24 1 ≤ 1)) :: zeros e 25 56
  | 0x31 => (8, decide (b 8 1 < 64)) :: zeros e 9 56
  | 0x32 => (8, decide (b 8 1 < 16)) :: (9, decide (b 9 1 ≤ 3)) ::
      (10, !bit (b 9 1) 0 || (decide (b 10 2 ≤ b 12 2) && !s.ridsMeet p (b 8 1) (b 10 2) (b 12 2))) ::
      zeros e 14 16 ++ (16, !bit (b 9 1) 0 || decide (b 16 4 + b 20 4 ≤ userTop / 4096)) ::
      (20, decide (b 20 4 < 2 ^ 28)) :: zeros e 24 56
  | 0x40 => (8, decide (b 8 1 < 2)) :: zeros e 9 56
  | 0x41 => (8, decide (b 8 1 < 2)) :: (9, decide (b 9 1 < 2)) :: zeros e 10 56
  | 0x50 => (8, s.descOk p (b 8 8) (b 16 4)) ::
      (16, decide (b 16 4 % 32 = 0) && decide (96 ≤ b 16 4) && decide (b 16 4 ≤ 131136)) :: zeros e 20 56
  | 0x53 => (8, decide (b 8 1 < 2)) :: zeros e 9 56
  | 0x54 => (8, decide (b 8 2 < 4096)) :: zeros e 10 16 ++ (16, entryClean (b 16 32)) :: zeros e 48 56
  | 0x55 => (8, decide (b 8 2 < 4096)) :: (10, decide (b 10 1 < 2)) :: zeros e 11 12 ++ zeros e 16 56
  | _ => zeros e 8 56

/-! ## Intake (R281, R282, R296, R297) -/

/-- A refusal at the intake: a completion without acting on the command; QUEUE_FULL fires source 3. -/
def refuse (s : State) (p : Port) (e : Line) (status detail : Nat) : State :=
  putEntry s p (eOp e) status (eTag e) (eSeq e) detail 0 (eNoint e)

/-- A command joins the accepted ones. Of two that arrive from both ports in the same intake cycle, that of the tie
token's holder goes first (R298); two claims of ownership pass the token to the other port (R285). -/
def Melvor.accept (m : Melvor) (p : Port) (e : Line) (same : Bool) : Melvor :=
  let x : Accepted := { port := p, entry := e }
  match m.accepted.getLast? with
  | some a =>
    if same && decide (a.port ≠ p) then
      { m with accepted := if m.ownerTok = p then m.accepted.dropLast ++ [x, a] else m.accepted ++ [x]
               ownerTok := if eOp e = 0x10 ∧ eOp a.entry = 0x10 then 1 - m.ownerTok else m.ownerTok }
    else { m with accepted := m.accepted ++ [x] }
  | none => { m with accepted := [x] }

/-- A valid entry: the first applicable row of R297, or accepted. -/
def takeEntry (s : State) (p : Port) (e : Line) (same : Bool) : State :=
  let b := s.box p
  let s := s.setBox p { b with cmdCons := BitVec.ofNat 12 ((b.cmdCons.toNat + 1) % b.cmdN), expSeq := b.expSeq + 1
                               stale := false, refetches := 0 }
  let op := eOp e
  if !s.melvor.fwReady then refuse s p e 1 0
  else if s.pendingOf p ≥ 16 then
    fire (refuse (s.modBox p fun b => { b with qfullCnt := satAdd b.qfullCnt 1 }) p e 2 0) (16 * p + 3)
  else match opInfo op with
    | none => refuse s p e 4 op
    | some x =>
      if b.negotiated && decide (b.version.toNat < x.2) then refuse s p e 4 op
      else if !b.negotiated && decide (op ≠ 1) then refuse s p e 6 0
      else if x.1 && decide (s.melvor.owner.toNat ≠ p.val) then refuse s p e 7 s.melvor.owner.toNat
      else match firstBad (argFields s p e) with
        | some o => refuse s p e 9 o
        | none => s.withMelvor fun m => m.accept p e same

/-- The device may fetch from port `p`'s ring. -/
def State.fetchDue (s : State) (p : Port) : Bool :=
  let b := s.box p
  b.enabled && !(s.port p).removed && decide (b.cmdWait > 0) && decide (b.cplFree ≥ s.pendingOf p + 2) && !b.waitBell &&
  (s.melvor.fwReady || decide (s.boot.stage = 3)) && !s.melvor.lockstepErr

/-- The 64-byte read of the entry at CMD_CONS: RdCurr with CMD_COH = 1 (R281). -/
def fetchEntry (s : State) (p : Port) : State :=
  let b := s.box p
  s.emit (.hostRead p (if b.cmdCoh then .rdCurr else .memRead)
    (b.cmdBaseLo.toNat * 4096 + b.cmdBaseHi.toNat * 2 ^ 32 + 64 * b.cmdCons.toNat) 64)

/-- ENTRY_FETCH: the entry `e` at CMD_CONS returns from host memory; `same`: in the intake cycle in which the other port's last
entry was accepted; `mem`: the code check of the complex's own memory, whose uncorrectable error is fatal (R366, R367).
DEDUCED, unsafe: notes/assumptions/90.md. -/
def execEntryFetch (p : Port) (e : Line) (same : Bool) (mem : Ecc) (s : State) : Result :=
  .next <|
    if !s.fetchDue p || (s.box p).stale then s
    else if mem = .ue then fatalError s 145
    else
      let s := fetchEntry s p
      if entryValid e (s.box p).expSeq then boxSettle (takeEntry s p e same) p
      else s.modBox p fun b => { b with stale := true, refetches := 0 }

/-- REFETCH: the entry is fetched again; the eighth stale one posts STALE_DOORBELL. -/
def execRefetch (p : Port) (e : Line) (same : Bool) (s : State) : Result :=
  .next <|
    if !s.fetchDue p || !(s.box p).stale then s
    else
      let s := (fetchEntry s p).modPort p fun h => { h with refetchCnt := satAdd h.refetchCnt 1 }
      let b := s.box p
      if entryValid e b.expSeq then boxSettle (takeEntry s p e same) p
      else if b.refetches + 1 < 8 then s.setBox p { b with refetches := b.refetches + 1 }
      else
        let s := s.setBox p { b with stale := false, refetches := 0, waitBell := true }
        let s := s.modPort p fun h => { h with staleCnt := satAdd h.staleCnt 1 }
        boxSettle (fire (putEntry s p 0 3 0 b.expSeq.toNat 8 0 false) (16 * p + 3)) p

/-! ## ENABLE and the doorbells (R292-R294, R416) -/

/-- CFG_ERR is set. -/
def cfgErr (s : State) (p : Port) : State :=
  fireIf (!(s.box p).cfgErr) (s.modBox p fun b => { b with cfgErr := true }) (16 * p + 1)

/-- Both ring sizes lie in 6–12, the rings do not overlap, and both lie below 2^46. -/
def Mailbox.ringsOk (b : Mailbox) : Bool :=
  match b.rings with
  | [c, d] =>
    decide (6 ≤ b.cmdLog2n.toNat) && decide (b.cmdLog2n.toNat ≤ 12) && decide (6 ≤ b.cplLog2n.toNat) &&
    decide (b.cplLog2n.toNat ≤ 12) && (decide (c.2 ≤ d.1) || decide (d.2 ≤ c.1)) && decide (c.2 ≤ 2 ^ 46) &&
    decide (d.2 ≤ 2 ^ 46)
  | _ => false

/-- The completions of a port's accepted commands will not be written (R293). -/
def Melvor.orphan (m : Melvor) (p : Port) : Melvor :=
  { m with accepted := m.accepted.map fun a => if a.port = p then { a with dead := true } else a }

/-- The mailbox stops: fetching ends, pending events are dropped and counted, and so will be the completions of the commands
accepted. -/
def boxStop (s : State) (p : Port) : State :=
  (s.modBox p fun b => { b with
    enable := false, enabled := false, cplStall := false, stale := false, refetches := 0, waitBell := false, events := []
    cplDropCnt := satAdd b.cplDropCnt b.events.length }).withMelvor fun m => m.orphan p

/-- A write of the word at 0x0000 of a mailbox. A COH field counts as written while ENABLE = 1 where its value would
change. -/
def writeEnable (s : State) (p : Port) (en cmdCoh cplCoh : Bool) : State :=
  let b := s.box p
  let s :=
    if b.enable then (if b.cmdCoh ≠ cmdCoh ∨ b.cplCoh ≠ cplCoh then cfgErr s p else s)
    else s.setBox p { b with cmdCoh := cmdCoh, cplCoh := cplCoh }
  if !en then (if b.enabled then boxStop s p else s.modBox p fun b => { b with enable := false })
  else if b.enabled then s
  else if !(s.box p).ringsOk then cfgErr (s.modBox p fun b => { b with enable := true }) p
  else
    let s := s.modBox p fun b => { b with
      enable := true, enabled := true, negotiated := false, cmdCons := 0, cplProd := 0, cmdProd := 0, cplCons := 0
      expSeq := 1, cplSeq := 1, stale := false, refetches := 0, waitBell := false }
    s.modPort p fun h => { h with removed := false }

/-- A doorbell write. -/
def writeCmdProd (s : State) (p : Port) (v : Nat) : State :=
  boxSettle (s.modBox p fun b => { b with cmdProd := BitVec.ofNat 12 v, waitBell := false }) p
def writeCplCons (s : State) (p : Port) (v : Nat) : State :=
  boxSettle (s.modBox p fun b => { b with cplCons := BitVec.ofNat 12 v }) p

/-- CLR_CNT of Table 13.2. -/
def Mailbox.clear (b : Mailbox) (v : Nat) : Mailbox :=
  if bit v 0 then { b with qfullCnt := 0, cplDropCnt := 0, evtMergeCnt := 0 } else b

/-! ## Commands (Table 13.5) -/

/-- The highest version both sides speak (R299). -/
def pickVersion (lo hi : Nat) : Option Nat :=
  ([0x0203, 0x0202, 0x0201, 0x0200, 0x0103, 0x0102, 0x0101, 0x0100] : List Nat).find? fun v =>
    decide (lo ≤ v) && decide (v ≤ hi)

/-- The Device ID (Table 12.1). -/
def deviceId : Grade → Nat
  | .st70 => 0x5370
  | .st68 => 0x5368

/-- RESULT of HELLO. -/
def helloResult (s : State) (p : Port) (v : Nat) : Nat :=
  v + 0x0100 * 2 ^ 16 + 0x0203 * 2 ^ 32 + deviceId s.flash.record.grade * 2 ^ 48 +
  (match s.flash.record.grade with | .st70 => 0 | .st68 => 1) * 2 ^ 64 + p.val * 2 ^ 72 + b2n (s.port p).secure * 2 ^ 80

/-- HELLO (R299). -/
def execHello (p : Port) (s : State) : Result :=
  cmdRow p 0x01 s fun s e =>
    if s.pendingOf p > 1 then complete s p e 10 s.melvor.jobState.toNat (helloResult s p (s.box p).version.toNat)
    else match pickVersion (Line.bytes e 8 2) (Line.bytes e 10 2) with
      | none => complete s p e 5 0 (helloResult s p 0)
      | some v =>
        complete (s.modBox p fun b => { b with negotiated := true, version := BitVec.ofNat 16 v }) p e 0 0
          (helloResult s p v)

/-- NOP. -/
def execNop (p : Port) (s : State) : Result := cmdRow p 0x02 s fun s e => complete s p e 0 0 0

/-- The world of the job, running or starting, is that of the port (R399). -/
def State.worldFits (s : State) (p : Port) : Bool :=
  match s.melvor.job, s.melvor.starting with
  | some j, _ | none, some j => j.world == (s.port p).secure
  | none, none => true

/-- CLAIM (R283, R284): granted when vacant; a claim by the port that a pending handover names is taken, and granted by
HANDOVER_GRANT. -/
def execClaim (p : Port) (s : State) : Result :=
  cmdRow p 0x10 s fun s e =>
    let o := s.melvor.owner.toNat
    if o = p then complete s p e 0 0 o
    else if o = 3 then
      if s.worldFits p then complete (setOwner s p) p e 0 0 p.val else complete s p e 15 0 o
    else if s.melvor.handover = some p then
      if s.worldFits p then
        (markStarted s p e).withMelvor fun m => { m with accepted := m.accepted.map fun a =>
          { a with pre := decide (a.port ≠ p) && ownOp (eOp a.entry) && decide (eOp a.entry ≠ 0x12) } }
      else complete s p e 15 0 o
    else complete s p e 8 o o

/-- Every HANDOVER that waits completes. -/
def endHandovers (s : State) (status : Nat) : State :=
  let waiting := s.melvor.accepted.filter fun a => a.started && decide (eOp a.entry = 0x12)
  forAll waiting (setHandover s none) fun s a => complete s a.port a.entry status 0 0

/-- The claim of the named port that has been taken. -/
def State.taken (s : State) (p : Port) : Option Line :=
  (s.melvor.accepted.find? fun a => decide (a.port = p) && a.started && decide (eOp a.entry = 0x10)).map fun a => a.entry

/-- A claim `e` of port `p` that has been taken is granted, unless the port's world no longer fits the job's (R283, R284,
R399). -/
def grantClaim (s : State) (p : Port) (e : Line) : State :=
  if s.worldFits p then complete (endHandovers (setOwner s p) 0) p e 0 0 p.val
  else complete s p e 15 0 s.melvor.owner.toNat

/-- Ownership becomes vacant: a pending handover ends, and a claim that has been taken is now granted (R283, R284). -/
def vacate (s : State) : State :=
  let claim := ([0, 1] : List Port).findSome? fun q => (s.taken q).map fun e => (q, e)
  let s := setOwner s 3
  let s := if s.melvor.jobState ≠ 0 then postEvent s 0x0104 else s
  let s := match claim with
    | some (q, e) => grantClaim s q e
    | none => s
  if s.melvor.handover.isSome then endHandovers s 0x11 else s

/-- RELEASE, by the owner as it stands when it runs. -/
def execRelease (p : Port) (s : State) : Result :=
  cmdRow p 0x11 s fun s e =>
    if s.melvor.owner.toNat ≠ p.val then complete s p e 7 s.melvor.owner.toNat s.melvor.owner.toNat
    else vacate (complete s p e 0 0 3)

/-- HANDOVER, by the owner as it stands when it runs, to a port of the job's world (R399): HANDOVER_PEND is set for one
second. -/
def execHandover (p : Port) (s : State) : Result :=
  cmdRow p 0x12 s fun s e =>
    let q : Port := Fin.ofNat 2 (Line.bytes e 8 1)
    if s.melvor.owner.toNat ≠ p.val then complete s p e 7 s.melvor.owner.toNat 0
    else if !s.worldFits q then complete s p e 15 0 0
    else setHandover (markStarted s p e) (some q)

/-- HANDOVER_GRANT: every job-control command accepted before the claim has completed; ownership passes. -/
def execHandoverGrant (p : Port) (s : State) : Result :=
  .next <|
    match s.taken p with
    | none => s
    | some e =>
      if !s.fwOn || decide (s.melvor.handover ≠ some p) || (s.melvor.accepted.any fun a => a.pre) then s
      else grantClaim s p e

/-- HANDOVER_EXPIRY: the second ends without a claim. -/
def execHandoverExpiry (s : State) : Result :=
  .next <|
    match s.melvor.handover with
    | none => s
    | some p => if !s.fwOn || (s.taken p).isSome then s else endHandovers s 0x11

/-- STATUS. -/
def execStatus (p : Port) (s : State) : Result := cmdRow p 0x20 s fun s e => complete s p e 0 0 s.statusResult

/-- The drover's word at offset 0x0040 (Table 11.3). -/
def Drover.faultWord (x : Drover) : Nat :=
  match x.fault with
  | none => 0
  | some f => f.code.toNat + f.dq.toNat * 2 ^ 4 + f.row.toNat * 2 ^ 9 + b2n f.lane * 2 ^ 12 + b2n f.cut * 2 ^ 13 + 2 ^ 31

/-- The region of port `p` that holds `[hpa, hpa + n)` has COH = 1; a ring has that of its mailbox (R238, R293). -/
def State.hostCoh (s : State) (p hpa n : Nat) : Bool :=
  ((s.port p).regions.any fun x => x.2.valid && x.2.coh && decide (x.2.base ≤ hpa) && decide (hpa + n ≤ x.2.base + x.2.bytes)) ||
    (List.zip (s.box p).rings [(s.box p).cmdCoh, (s.box p).cplCoh]).any fun r =>
      (s.box p).enabled && r.2 && decide (r.1.1 ≤ hpa) && decide (hpa + n ≤ r.1.2)

/-- The Melvor complex takes a host line into its cache of at most 1 MiB; the lowest line makes room, written back where it is
modified (R268, R274). PRESUMED, unsafe: notes/assumptions/31.md. -/
def cacheLine (s : State) (p : Port) (line : Nat) (c : CacheLine) : State :=
  let s := match (s.port p).cache with
    | (k, some x) :: _ =>
      if (s.port p).cache.length ≥ 16384 ∧ Sparse.get none (s.port p).cache line = none then
        (s.modPort p fun h => { h with cache := h.cache.drop 1 }).emit
          (if x.modified then .hostWrite p .dirtyEvict (64 * k) 64 x.data.toNat else .hostWrite p .cleanEvict (64 * k) 0 0)
      else s
    | _ => s
  s.modPort p fun h => { h with cache := Sparse.set none h.cache line (some c) }

/-- Melvor firmware writes `n` bytes `v` to host memory for a command: with COH = 1 a whole line by ItoMWr, and a part of
one into a line that it owns in its cache; with COH = 0 a posted write, and a zero-length read behind it (R274, R278).
What a line holds beside the bytes written is a free value. PRESUMED, unsafe: notes/assumptions/31.md. -/
def melvorStore (s : State) (p : Port) (hpa n v : Nat) : State :=
  if s.hostCoh p hpa n then
    forAll (linePieces hpa n) s fun s x =>
      let d := v / 256 ^ (x.2.1 - hpa) % 256 ^ x.2.2
      if x.2.2 = 64 then
        (s.modPort p fun h => { h with cache := Sparse.set none h.cache (x.1 / 64) none }).emit (.hostWrite p .itoMWr x.1 64 d)
      else
        let r : Line × State := match Sparse.get none (s.port p).cache (x.1 / 64) with
          | some c => (c.data, if c.modified then s else s.emit (.hostRead p .rdOwn x.1 64))
          | none => let f := s.fresh; (f.1, f.2.emit (.hostRead p .rdOwn x.1 64))
        cacheLine r.2 p (x.1 / 64) ⟨true, BitVec.ofNat 512 (mergeLine r.1.toNat (x.2.1 - x.1) x.2.2 d)⟩
  else hostFlush (hostStore s p false hpa n v) p false hpa

/-- Melvor firmware reads `n` bytes of host memory, which are `v` there: with COH = 1 by RdShared, each line into its cache;
with COH = 0 by one read (R274). What a line holds beside the bytes read is a free value. PRESUMED, unsafe:
notes/assumptions/31.md. -/
def melvorFetch (s : State) (p : Port) (hpa n v : Nat) : State :=
  if s.hostCoh p hpa n then
    forAll (linePieces hpa n) s fun s x =>
      if Sparse.get none (s.port p).cache (x.1 / 64) = none then
        let f := s.fresh
        cacheLine (f.2.emit (.hostRead p .rdShared x.1 64)) p (x.1 / 64)
          ⟨false, BitVec.ofNat 512 (mergeLine f.1.toNat (x.2.1 - x.1) x.2.2 (v / 256 ^ (x.2.1 - hpa) % 256 ^ x.2.2))⟩
      else s
  else s.emit (.hostRead p .memRead hpa n)

/-- The `n` bytes that Melvor firmware reads there: those of a line in its cache come from the cache (R274). -/
def State.melvorSees (s : State) (p : Port) (hpa n v : Nat) : Nat :=
  if s.hostCoh p hpa n then
    (linePieces hpa n).foldl (fun v x =>
      match Sparse.get none (s.port p).cache (x.1 / 64) with
      | some c => mergeLine v (x.2.1 - hpa) x.2.2 (c.data.toNat / 256 ^ (x.2.1 - x.1))
      | none => v) v
  else v

/-- A write to `[a, a + n)` of a host window: what precedes a write of each of its pages (R374, R379). -/
def beforePages (s : State) (r : Requester) (a n : Nat) : State :=
  forAll (List.range (cdiv (a % 4096 + n) 4096)) s fun s i => beforeWrite s r (max a (a / 4096 * 4096 + 4096 * i))

/-- Melvor firmware writes `n` bytes of `v` for a command to `[a, a + n)`: in HBM, or in host memory. -/
def bufWrite (s : State) (a n v : Nat) : State :=
  match hostWindow a with
  | some (q, hpa) => melvorStore (beforePages s .melvor a n) (Fin.ofNat 2 q) hpa n v
  | none => melvorWrite s a n v

/-- The buffer's pages wait. -/
def State.bufBlocked (s : State) (a n : Nat) : Bool :=
  if (hostWindow a).isSome then s.hostPageWaits a n else s.bytesBlocked .melvor true a n

/-- The fold-fault record of Table 13.10, cut at `n` bytes. -/
def faultRecord (f : FoldFault) (n : Nat) : Nat :=
  let head := f.tiles.length + f.step.toNat * 2 ^ 32 + f.cause * 2 ^ 64
  let drovers := pack 32 (f.drovers.map BitVec.toNat) * 2 ^ 512
  let tile (x : Nat × Nat × Word × Word × Word) : Nat :=
    x.1 + x.2.1 * 2 ^ 16 + x.2.2.1.toNat * 2 ^ 32 + x.2.2.2.1.toNat * 2 ^ 64 + x.2.2.2.2.toNat * 2 ^ 96
  (head + drovers + pack 128 ((f.tiles.take ((n - 128) / 16)).map tile) * 2 ^ 1024) % 256 ^ n

/-- FAULT_REPORT: the record of the last fold fault goes to BUF; without one it is zeros. -/
def execFaultReport (p : Port) (hostErr : Bool) (s : State) : Result :=
  cmdRow p 0x22 s fun s e =>
    let a := Line.bytes e 8 8
    let n := Line.bytes e 16 4
    if s.bufBlocked a n then s
    else if hostErr && (hostWindow a).isSome then complete s p e 14 0 0
    else
      match s.melvor.lastFault with
      | none => complete (bufWrite s a n 0) p e 0 0 0
      | some f =>
        complete (bufWrite s a n (faultRecord f n)) p e 0 0 (min ((n - 128) / 16) f.tiles.length + f.tiles.length * 2 ^ 32)

/-! ## Regions and placement windows (R237, R276, R399) -/

/-- Some object lies in `[base, base + n)` of port `p`'s window. -/
def State.objectIn (s : State) (p base n : Nat) : Bool :=
  s.objs.any fun o =>
    match hostWindow o.2.base.toNat with
    | some (q, hpa) => decide (q = p) && decide (hpa < base + n) && decide (base < hpa + o.2.bytes)
    | none => false

/-- Every byte of `[a, a + n)` of the user area is in world `w`. -/
def State.inWorld (s : State) (w : Bool) (a n : Nat) : Bool :=
  if w then
    (List.range (n / 0x200000 + 2)).all fun i => s.secureAt (min (a + i * 0x200000) (a + n - 1))
  else
    !(s.sec.regions.any fun x => x.2.effValid && x.2.effSecure && decide (x.2.effBase.toNat * 0x200000 < a + n) &&
      decide (a < (x.2.effBase.toNat + x.2.effSize.toNat) * 0x200000))

/-- `[base, base + n)` shares a byte with a ring of the port while its mailbox is enabled: the rings count as registered regions
(R237, R293). DEDUCED, unsafe: notes/assumptions/96.md. -/
def State.ringMeets (s : State) (p base n : Nat) : Bool :=
  (s.box p).enabled && (s.box p).rings.any fun r => decide (r.1 < base + n) && decide (base < r.2)

/-- REGION_ADD: the lowest free entry; an overlap or a full table is refused with PLACEMENT.
DESIGN CHOICE, unsafe: notes/assumptions/36.md. -/
def execRegionAdd (p : Port) (s : State) : Result :=
  cmdRow p 0x30 s fun s e =>
    let base := Line.bytes e 8 8
    let n := Line.bytes e 16 8
    let rs := (s.port p).regions
    match rs.find? fun x => x.2.valid && decide (x.2.base < base + n) && decide (base < x.2.base + x.2.bytes) with
    | some x => complete s p e 13 x.1 0
    | none =>
      match (List.range 64).find? fun i => !(Sparse.get {} rs i).valid with
      | none => complete s p e 13 64 0
      | some i =>
        if s.ringMeets p base n then complete s p e 13 i 0
        else if !s.worldFits p && s.objectIn p base n then complete s p e 15 0 0
        else
          let r : Region := { base := base, bytes := n, coh := bit (Line.bytes e 24 1) 0, valid := true }
          complete (s.modPort p fun h => { h with regions := Sparse.set {} h.regions i r }) p e 0 0 i

/-- REGION_DEL: not while an object of a job lies in the region. -/
def execRegionDel (p : Port) (s : State) : Result :=
  cmdRow p 0x31 s fun s e =>
    let i := Line.bytes e 8 1
    let r := Sparse.get {} (s.port p).regions i
    if !r.valid then complete s p e 13 i 0
    else if s.melvor.jobState ≠ 0 ∧ s.objectIn p r.base r.bytes then complete s p e 10 s.melvor.jobState.toNat 0
    else complete (s.modPort p fun h => { h with regions := Sparse.set {} h.regions i {} }) p e 0 0 0

/-- PWIN_SET: VALID = 0 clears the entry. -/
def execPwinSet (p : Port) (s : State) : Result :=
  cmdRow p 0x32 s fun s e =>
    let i := Line.bytes e 8 1
    let fl := Line.bytes e 9 1
    let base := Line.bytes e 16 4
    let n := Line.bytes e 20 4
    let lo := Line.bytes e 10 2
    let hi := Line.bytes e 12 2
    let world := match s.melvor.job with | some j => j.world | none => (s.port p).secure
    if bit fl 0 && s.ridsMeet p i lo hi then complete s p e 9 10 0
    else if !bit fl 0 then complete (s.modPort p fun h => { h with places := Sparse.set {} h.places i {} }) p e 0 0 0
    else if n > 0 && !s.inWorld world (base * 4096) (n * 4096) then complete s p e 15 0 0
    else
      let r : PlaceEntry := { basePg := BitVec.ofNat 28 base, pages := BitVec.ofNat 28 n, valid := true
                              ridLo := BitVec.ofNat 16 lo, ridHi := BitVec.ofNat 16 hi
                              rdEn := bit fl 1 }
      complete (s.modPort p fun h => { h with places := Sparse.set {} h.places i r }) p e 0 0 0

end Sys2Proof.Machine
end

