-- ==== Sys2Proof/Machine/Job.lean ====
section
/-! DEFINITION. The job (spec 13 R300-R303, 09 R208-R213, 10 R240-R242, 04 R105-R111, 17 R374-R377): the object table and
its checks, group tables, curves and group step records, job records, the loss-scale rule, the step journal, the start
and end of a step, and how a fold fault or a stop ends one. -/

namespace Sys2Proof.Machine

/-! ## Fault words (Tables 2.8, 3.11) -/

/-- The word at 0x0128 of a tile's registers. -/
def Router.faultWord (r : Router) : Nat :=
  match r.fault with
  | none => 7 * 2 ^ 4
  | some f => f.code.toNat + f.port.toNat * 2 ^ 4 + f.claimant.toNat * 2 ^ 7 + f.entry.toNat * 2 ^ 10 + 2 ^ 31

/-- The word at 0x0008, and FAULT_INFO. -/
def TileCore.faultWord (c : TileCore) : Nat :=
  match c.fault with
  | none => 0
  | some f => f.code.toNat + f.eng.toNat * 2 ^ 4 + f.detail.toNat * 2 ^ 6 + b2n f.second * 2 ^ 14 + 2 ^ 31
def TileCore.faultInfo (c : TileCore) : Word := match c.fault with | some f => f.info | none => 0

/-! ## Objects (R240-R242) -/

/-- A 32-byte object-table entry (Table 10.4). -/
def ObjEntry.ofNat (v : Nat) : ObjEntry :=
  { base := BitVec.ofNat 48 v, bytes := v / 2 ^ 64 % 2 ^ 64, kind := BitVec.ofNat 8 (v / 2 ^ 128)
    valid := bit v 136, coh := bit v 137, hreg := v / 2 ^ 144 % 2 ^ 16 }

/-- BASE as first written (Table 17.4). -/
def ObjEntry.firstBase (o : ObjEntry) : Addr := o.first.getD o.base

/-- An entry written out as a snapshot keeps it (Tables 10.4, 17.4). -/
def ObjEntry.toNat (o : ObjEntry) : Nat :=
  o.firstBase.toNat + o.bytes % 2 ^ 64 * 2 ^ 64 + o.kind.toNat * 2 ^ 128 + b2n o.valid * 2 ^ 136 + b2n o.coh * 2 ^ 137 +
    o.hreg % 2 ^ 16 * 2 ^ 144

/-- The object lies in the host tier. -/
def ObjEntry.host (o : ObjEntry) : Bool := (hostWindow o.base.toNat).isSome

/-- Two objects share a byte. -/
def ObjEntry.meets (o q : ObjEntry) : Bool :=
  decide (o.base.toNat < q.base.toNat + q.bytes) && decide (q.base.toNat < o.base.toNat + o.bytes)

/-- The kind may lie in the entry's tier (Table 10.6); the row step counts follow the kind 0x05 object. -/
def kindTier (all : List (Nat × ObjEntry)) (o : ObjEntry) : Bool :=
  match o.kind.toNat with
  | 1 | 2 | 3 | 4 | 6 => !o.host
  | 0x0A | 0x0B => !o.host
  | 5 | 8 | 9 | 0x0C => true
  | 7 =>
    match all.find? fun x => x.2.valid && decide (x.2.kind = 5) with
    | some x => x.2.host == o.host
    | none => true
  | _ => false

/-- A valid entry breaks R242, apart from its tier and its world. -/
def State.placeOut (s : State) (all : List (Nat × ObjEntry)) (i : Nat) (o : ObjEntry) : Bool :=
  let a := o.base.toNat
  decide (a % 4096 ≠ 0) || decide (o.bytes = 0) || decide (o.bytes % 64 ≠ 0) ||
  (match hostWindow a with
    | some (q, hpa) =>
      let r := Sparse.get {} (s.port q).regions o.hreg
      !r.valid || (s.port q).removed || decide (hpa < r.base) || decide (hpa + o.bytes > r.base + r.bytes) || r.coh != o.coh
    | none => decide (a + o.bytes > userTop) || o.coh || decide (o.hreg ≠ 0)) ||
  all.any fun x => decide (x.1 ≠ i) && x.2.valid && x.2.meets o

/-- A valid entry breaks R242, apart from its world. -/
def State.placeBad (s : State) (all : List (Nat × ObjEntry)) (i : Nat) (o : ObjEntry) : Bool :=
  !kindTier all o || s.placeOut all i o

/-- The object lies in memory of world `w` (R399). -/
def State.placeWorld (s : State) (w : Bool) (o : ObjEntry) : Bool :=
  match hostWindow o.base.toNat with
  | some (q, _) => (s.port q).secure == w
  | none => s.inWorld w o.base.toNat o.bytes

/-! ## Group table, curves, group step records (R208-R211) -/

/-- Entry `g` of a group table at `a`, as 64 bytes. -/
def State.groupEntry (s : State) (a g : Nat) : Nat := readBytes s.hbm (a + 64 * g) 64

/-- Field of an entry: bytes `b … b + n − 1`. -/
def gField (e b n : Nat) : Nat := e / 256 ^ b % 256 ^ n

/-- The points in use of the curve at `a` (R209). -/
def State.curve (s : State) (a : Nat) : List (Nat × Int) :=
  ((List.range 256).map fun i => (readBytes s.hbm (a + 8 * i) 4, signed 32 (readBytes s.hbm (a + 8 * i + 4) 4))).takeWhile
    fun x => decide (x.1 ≠ 0xFFFFFFFF)

/-- STEP values strictly increase. -/
def rising : List (Nat × Int) → Bool
  | x :: y :: r => decide (x.1 < y.1) && rising (y :: r)
  | _ => true

def curveOk (c : List (Nat × Int)) : Bool := !c.isEmpty && rising c

/-- The curve's value at step `t`, before its clamp (R209). -/
def curveAt (t : Nat) : List (Nat × Int) → Int
  | [] => 0
  | [x] => x.2
  | x :: y :: r =>
    if t ≤ x.1 then x.2
    else if t < y.1 then
      let n := (y.2 - x.2) * ((t : Int) - x.1)
      let d : Int := (y.1 : Int) - x.1
      let q := n / d
      let m := n - q * d
      x.2 + (if 2 * m > d ∨ (2 * m = d ∧ q % 2 = 1) then q + 1 else q)
    else curveAt t (y :: r)

def clampI32 (v : Int) : Int := max (-2147483648) (min 2147483647 v)

/-- The curve and group entries break R208 or R209 for a job start. -/
def State.groupsBad (s : State) (a n : Nat) : Bool :=
  (List.range n).any fun g =>
    let e := s.groupEntry a g
    let ec := signed 16 (gField e 46 2)
    let c := gField e 48 8
    decide (gField e 0 1 > 1) || decide (gField e 1 1 > 1) || decide (gField e 2 2 ≠ 0) || decide (gField e 56 8 ≠ 0) ||
    decide (ec < -512) || decide (ec > 511) || decide (c % 64 ≠ 0) || decide (c + 2048 > userTop) || !curveOk (s.curve c)

/-- The entry after the pending change and the counts of step `t`, and its group step record (R210, R211). -/
def groupStep (s : State) (g t lse : Nat) (noupd : Bool) (e : Nat) : Nat × Nat :=
  let pend := decide (gField e 4 4 = t)
  let fz := if pend then gField e 1 1 % 2 else gField e 0 1 % 2
  let nextStep := if pend then 0xFFFFFFFF else gField e 4 4
  let skip := min (gField e 8 4 + fz) 0xFFFFFFFF
  let upd := min (gField e 12 4 + (if fz = 0 ∧ ¬noupd then 1 else 0)) 0xFFFFFFFF
  let lr := clampI32 (curveAt t (s.curve (gField e 48 8)))
  (fz + gField e 1 1 * 2 ^ 8 + nextStep * 2 ^ 32 + skip * 2 ^ 64 + upd * 2 ^ 96,
   g + (fz + 2 * b2n noupd) * 2 ^ 16 + t * 2 ^ 32 + unsigned 32 lr * 2 ^ 64 + gField e 46 2 * 2 ^ 96 + lse * 2 ^ 112 +
     gField e 16 30 * 2 ^ 128)

/-- The group `g` of the running job is frozen in the step whose records are built. -/
def State.groupFrozen (s : State) (g : Nat) : Bool :=
  match s.melvor.job with
  | some j => decide (gField (s.groupEntry j.groupTable.toNat g) 0 1 % 2 = 1)
  | none => false

/-! ## Release tables (R252) -/

/-- LREL(l) becomes `v` in every drover. -/
def setLrel (s : State) (l : Nat) (v : Word) : State :=
  forAll (List.range 16) s fun s d => s.modDrover d fun x => { x with lrel := Sparse.set x.rel0 x.lrel l v }

/-- GREL(g) becomes `v` in every drover. -/
def setGrel (s : State) (g : Nat) (v : Word) : State :=
  forAll (List.range 16) s fun s d => s.modDrover d fun x => { x with grel := Sparse.set x.rel0 x.grel g v }

/-- Every entry of the release tables becomes `v`. -/
def resetRel (s : State) (v : Word) : State :=
  forAll (List.range 16) s fun s d => s.modDrover d fun x => { x with rel0 := v, lrel := [], grel := [] }

/-! ## Job records (R105) -/

/-- The tiles of the fold that hold a job record. -/
def State.jobTiles (s : State) : List Nat :=
  match s.melvor.fold with
  | none => []
  | some f => f.tiles.filter fun t => decide ((s.tile t).decl.jobRec ≠ 0xFFFFFFFF#32)

/-- Write `n` bytes of `v` at offset `o` of every job record. -/
def writeRecords (s : State) (o n v : Nat) : State :=
  forAll s.jobTiles s fun s t => s.modTile t fun x => x.writeW (x.decl.jobRec.toNat + o) n v

/-- Every job record at the start of a job, or of a replay from step `start`. -/
def startRecords (s : State) (j : Job) (start : Word) (lse : Nat) : State :=
  writeRecords s 0 32 (j.seed.toNat + start.toNat * 2 ^ 64 + j.g * 2 ^ 96 + lse * 2 ^ 128 + lse * 2 ^ 160)

/-- GFLAGS[step mod 2] of every job record, ORed (R107). -/
def State.recordFlags (s : State) (step : Word) : Nat :=
  s.jobTiles.foldl (fun f t =>
    let x := s.tile t
    f ||| x.readW (x.decl.jobRec.toNat + 24 + 4 * (step.toNat % 2)) 4 % 4) 0

/-- The reads of the records' GFLAGS on the maintenance path: errors are counted and charged (R223). What Melvor firmware
takes from a word that reads as uncorrectable is what it stores. DESIGN CHOICE, unsafe: notes/assumptions/82.md. -/
def recordRead (s : State) (step : Word) : State :=
  forAll s.jobTiles s fun s t =>
    let x := s.tile t
    match x.flaw (wmCodes (x.decl.jobRec.toNat + 24 + 4 * (step.toNat % 2)) 4) with
    | .ok => s
    | .ce => chargeCe s t false
    | .ue => chargeUe s t

/-- The exchange flags of a parity (R320): NV and SAT. -/
def Group.flagsOf (g : Group) (step : Word) : Bool × Bool :=
  if step.toNat % 2 = 0 then (g.nv0, g.sat0) else (g.nv1, g.sat1)

/-- OR NV and SAT into the flags of a step. -/
def Group.orFlags (g : Group) (step : Word) (nv sat : Bool) : Group :=
  if step.toNat % 2 = 0 then { g with nv0 := g.nv0 || nv, sat0 := g.sat0 || sat }
  else { g with nv1 := g.nv1 || nv, sat1 := g.sat1 || sat }

/-- Clear the flags of a step's parity. -/
def Group.clearFlags (g : Group) (step : Word) : Group :=
  if step.toNat % 2 = 0 then { g with nv0 := false, sat0 := false } else { g with nv1 := false, sat1 := false }

/-- The module's gradient flags for a step (R107). -/
def State.gradFlags (s : State) (step : Word) : Bool × Bool :=
  let r := s.recordFlags step
  let g := s.grp.flagsOf step
  (bit r 0 || g.1, bit r 1 || g.2)

/-! ## Loss scale (R109, R111) -/

/-- The loss-scale state after the flags of a step are agreed. -/
def LossState.next (l : LossState) (j : Job) (flagged : Bool) : LossState :=
  if flagged then
    { l with lse := max (l.lse - 1) j.lsMin, clean := 0, halvings := satAdd l.halvings 1
             skipped := if j.lsMode then satAdd l.skipped 1 else l.skipped }
  else if l.clean + 1 = j.lsN then { l with lse := min (l.lse + 1) j.lsMax, clean := 0 }
  else { l with clean := l.clean + 1 }

/-- A step is flagged in the skip mode (R111). -/
def Job.skips (j : Job) (flagged : Bool) : Bool := j.lsMode && flagged

/-- Pages that the building of the group step records touches wait for a flip: those of the group table, the GSR area and every
curve. -/
def State.groupsBlocked (s : State) (j : Job) : Bool :=
  s.bytesBlocked .melvor true j.groupTable.toNat (64 * j.groups) || s.bytesBlocked .melvor true j.gsrArea.toNat (64 * j.groups) ||
  (List.range j.groups).any fun g => s.bytesBlocked .melvor false (gField (s.groupEntry j.groupTable.toNat g) 48 8) 2048

/-- Melvor firmware reads the entry and the curve of group `g` (R228, R229). -/
def groupRead (s : State) (j : Job) (g : Nat) : State :=
  let a := j.groupTable.toNat
  tableRead (tableRead s (a + 64 * g) 64) (gField (s.groupEntry a g) 48 8) 2048

/-- The group's flags for the step in progress are agreed: the loss-scale rule, the job records, the group step records
and the releases (R105, R109, R111, R210, R211, R213, R320, R323). -/
def applyAgree (s : State) (j : Job) (nv sat : Bool) : State :=
  let t := s.melvor.step
  let flagged := nv || sat
  let lseNow := s.melvor.loss.lse
  let loss := s.melvor.loss.next j flagged
  let skip := j.skips flagged
  let s := s.withMelvor fun m => { m with loss := loss }
  let odd := (t.toNat + 1) % 2
  let s := writeRecords (writeRecords s (16 + 4 * odd) 4 loss.lse) (24 + 4 * odd) 4 0
  let s := s.withGrp fun g =>
    { (g.clearFlags (t + 1)) with agreed := true, gnv := nv, gsat := sat, agreeLastUs := BitVec.ofNat 32 (min g.agreeUs (2 ^ 32 - 1)) }
  let s := forAll (List.range j.groups) s fun s g =>
    let a := j.groupTable.toNat
    let r := groupStep s g t.toNat lseNow skip (s.groupEntry a g)
    let s := groupRead s j g
    setGrel (melvorWrite (melvorWrite s (a + 64 * g) 16 r.1) (j.gsrArea.toNat + 64 * g) 64 r.2) g t
  let s := s.withRel fun r => { r with grelDone := true }
  let layers := match s.melvor.fold with | some f => f.layers | none => []
  forAll (List.zip (List.range layers.length) layers) s fun s l =>
    if skip || s.groupFrozen l.2.group then setLrel s l.1 t else s

/-! ## The step journal (R374-R377) -/

/-- Journal page `i` lies at this address. -/
def State.journalPage (s : State) (i : Nat) : Nat :=
  match s.journal with
  | some o => o.base.toNat + 4096 * i
  | none => 0

/-- What the journal's first entry keeps. -/
def State.headNow (s : State) : JournalHead :=
  { loss := s.melvor.loss
    groupTable := match s.melvor.job with
      | some j => toBytes (readBytes s.hbm j.groupTable.toNat (64 * j.groups)) (64 * j.groups)
      | none => [] }

/-- Symbols found in error in lines of the journal, as its pages are read back. -/
def noteErrors (s : State) (found : List (Addr × Nat)) : State :=
  forAll (found.filter fun x => (s.journal.any fun o => decide (o.base ≤ x.1) && decide (x.1.toNat < o.base.toNat + o.bytes))) s
    fun s x => { s with bad := Sparse.mod 0 s.bad (x.1.toNat / 64) fun m => m ||| x.2 }

/-- The old contents of journal page `i`, as `copyPage` wrote them (R243), and whether they read as uncorrectable: the
journal is then lost (R376 cause 2). A page outside every registered region is an address fault (R237). -/
def readJournal (s : State) (i : Nat) : State × WriteBack × Nat :=
  let a := s.journalPage i
  match hostWindow a with
  | some (p, hpa) =>
    if s.regionHolds p hpa 4096 then
      (hostFetch s (Fin.ofNat 2 p) (s.cohAt a) hpa 4096, .ok, Sparse.get 0 s.rel.jpages i)
    else (setLost (s.emit (.addressFault .melvor)) 2, .lost, 0)
  | none =>
    let r := bytesRead s a 4096
    if r.2.1 then ((bytesRead (setLost s 2) a 4096).1, .lost, 0) else (r.1, .ok, r.2.2)

/-- Write a whole page back to its address. -/
def writePage (s : State) (page v : Nat) : State × WriteBack :=
  match hostWindow (page * 4096) with
  | some (p, hpa) =>
    let coh := s.cohAt (page * 4096)
    if s.regionHolds p hpa 4096 then
      (hostFlush (hostStore (beforePages s .melvor (page * 4096) 4096) (Fin.ofNat 2 p) coh hpa 4096 v) (Fin.ofNat 2 p) coh hpa, .ok)
    else (s.emit (.addressFault .melvor), .fault)
  | none => (bytesWrite .melvor s (page * 4096) 4096 v, .ok)

/-- Journal pages, with their numbers, are written back in order, up to one that fails. -/
def restorePages : List (Nat × Nat) → State → State × WriteBack
  | [], s => (s, .ok)
  | x :: rest, s =>
    let r := readJournal s x.1
    if r.2.1 ≠ .ok then (r.1, r.2.1)
    else
      let w := writePage r.1 x.2 r.2.2
      if w.2 ≠ .ok then w else restorePages rest w.1

/-- The journal's pages, the pages they go back to, or the group table wait (R275). -/
def State.undoBlocked (s : State) : Bool :=
  (List.zip (List.range s.rel.jindex.length) s.rel.jindex).any (fun x =>
    ((hostWindow (s.journalPage x.1)).isNone && s.bytesBlocked .melvor false (s.journalPage x.1) 4096) ||
      s.bufBlocked (x.2 * 4096) 4096) ||
  match s.melvor.job with
  | some j => s.bytesBlocked .melvor true j.groupTable.toNat (64 * j.groups)
  | none => false

/-- The failed step is undone: every journal page in ascending index order, the loss-scale state and the group table
entries as they stood; the journal is then empty (R377, steps 1, 2 and 5). A write-back that fails leaves the journal as it is
(R383); `w`: how it goes beyond what the pages themselves show. DEDUCED, unsafe: notes/assumptions/40.md. -/
def undoStep (s : State) (w : WriteBack) : State × WriteBack :=
  match w with
  | .lost => (setLost s 2, .lost)
  | .fault => (s, .fault)
  | .ok =>
    let r := restorePages (List.zip (List.range s.rel.jindex.length) s.rel.jindex) s
    if r.2 ≠ .ok then r
    else
      let h := s.rel.jhead
      let s := match s.melvor.job with
        | some j => melvorWrite r.1 j.groupTable.toNat h.groupTable.length (leNat h.groupTable)
        | none => r.1
      ((s.withMelvor fun m => { m with loss := h.loss }).withRel fun r => { r with jindex := [], jpages := [], jstate := 0 }, .ok)

/-! ## Steps -/

/-- The pages of the group table wait as a step begins (R275). -/
def State.tableBlocked (s : State) : Bool :=
  match s.melvor.job with
  | some j => s.bytesBlocked .melvor false j.groupTable.toNat (64 * j.groups)
  | none => false

/-- A step begins with an empty journal and nothing exchanged; a job without a journal object runs with JSTATE = LOST. -/
def beginStep (s : State) : State :=
  let lost := s.journal.isNone
  let s := fireIf (lost && decide (s.rel.jstate ≠ 2)) s 146
  let head := s.headNow
  let s := match s.melvor.job with
    | some j => tableRead s j.groupTable.toNat (64 * j.groups)
    | none => s
  let s := s.withRel fun r =>
    { r with jstate := if lost then 2 else 0, lostCause := 0, jstep := s.melvor.step, jindex := [], jpages := [], jhead := head
             wcRead := [], grelDone := false }
  s.withGrp fun g =>
    { g with agreeSent := false, agreed := false, covered := 0, gnv := false, gsat := false, doneSent := false
             doneCovered := 0, added := [], layerEnds := [], gathering := [], agreeUs := 0
             nelems := (g.contribs.filter fun c => c.step = s.melvor.step).foldl (fun m c => Sparse.set 0 m c.obj c.nelem) []
             contribs := g.contribs.filter fun c => c.step = s.melvor.step }

/-- The routes stop carrying the job (R312). -/
def dropRoutes (s : State) : State :=
  forAll (List.range 12) s fun s f => s.modLink f fun l => { l with routed := false }

/-- The ports that carry a route of the group show ROUTED. -/
def useRoutes (s : State) : State :=
  forAll (List.range 12) s fun s f =>
    if s.grp.routes.getLsbD f then s.modLink f fun l => { l with routed := true } else s

/-- The accepted and started commands with an opcode complete. -/
def completeAll (s : State) (op status detail : Nat) : State :=
  forAll (s.melvor.accepted.filter fun a => a.started && !a.done && decide (eOp a.entry = op)) s fun s a =>
    if status = 0 then completeJob s a.port a.entry else complete s a.port a.entry status detail s.statusResult

/-- The job ends (STOPPING to NONE): JOB_STOP completes, and a JOB_PAUSE that it overtook with BAD_STATE. -/
def jobToNone (s : State) : State :=
  let s := (holdShown s s.melvor.jobState s.melvor.shown).withMelvor fun m => { m with jobState := 0 }
  let s := completeAll (completeAll s 0x53 0 0) 0x51 10 0
  let s := (dropRoutes s).withMelvor fun m => { m with job := none, replace := [], stopDue := false }
  let s := s.withGrp fun g => { g with grouped := false, relays := g.grouped && g.bellwether && !g.top, boundary := none, resumes := 0, contribs := []
                                       early := [], routes := 0, freezeUp := none }
  if s.rel.fatal then s else s.withRel fun r => { r with jstate := 0, jindex := [], wcRead := [], grelDone := false }

/-- STEP after the step in progress has failed: the last completed one. Before the job's first step completes it keeps the
failed step's number. DESIGN CHOICE, unsafe: notes/assumptions/84.md. -/
def stepFailed (s : State) : State :=
  s.withMelvor fun m =>
    let first := match m.job with | some j => decide (j.start = m.step) | none => true
    { m with shown := if first then m.step else m.step - 1, unpub := m.unpub.map fun x => (4, x.2) }

/-- A stop whose step failed: the state returns to that of the last completed step, where the journal can serve. While
pages that the undo reads or writes wait, so does the stop (R275), with JSTATE RESTORING. -/
def stopFailed (s : State) : State :=
  if s.rel.jstate = 0 ∨ s.rel.jstate = 2 then jobToNone (stepFailed s)
  else if s.undoBlocked then (s.withMelvor fun m => { m with stopDue := true }).withRel fun r => { r with jstate := 3 }
  else jobToNone (stepFailed (undoStep s .ok).1)

/-- The faults of the fold's tiles, in ascending tile ID, and of the drovers (Table 13.10). -/
def faultReport (s : State) (cause : Nat) : FoldFault :=
  let tiles := match s.melvor.fold with | some f => f.tiles | none => []
  { step := s.melvor.step, cause := cause, first := s.melvor.firstFault.map fun t => (t, s.paddockOf t)
    tiles := (tiles.filter fun t => (s.tile t).router.fault.isSome || (s.tile t).core.fault.isSome).map fun t =>
      (t, s.paddockOf t, BitVec.ofNat 32 (s.tile t).router.faultWord, BitVec.ofNat 32 (s.tile t).core.faultWord,
        (s.tile t).core.faultInfo)
    drovers := (List.range 16).map fun d => BitVec.ofNat 32 (s.drover d).faultWord }

/-- FREEZE tells the group (R325): up the tree, or down from the top; a partition that has no job yet tells every module
that it has a link to (R193). DESIGN CHOICE, unsafe: notes/assumptions/68.md. -/
def sendFreeze (s : State) (cause : Nat) : State :=
  let partIndex := match s.melvor.fold with | some f => if f.partitioned then some f.partIndex else none | none => none
  if s.grp.grouped && decide (s.melvor.jobState ≠ 0) then
    let s := sendCtl s (ctlMsg 0x15 0 s.grp.member.toNat s.melvor.step.toNat cause)
    if s.grp.top then s.withGrp fun g => { g with frozenStep := some s.melvor.step } else s
  else match partIndex with
    | some i => broadcast s (ctlMsg 0x15 0 i s.melvor.step.toNat cause)
    | none => s

/-- The fold is frozen and the fault reported (R54, R260, R302, R325): a running or pausing job enters FAULTED, a stopping
one reaches NONE. `own`: the fault is the module's, and FREEZE goes to the group. -/
def foldFault (s : State) (cause : Nat) (own : Bool) : State :=
  let s := freezeFold s
  let s := s.withMelvor fun m => { m with lastFault := some (faultReport s cause), activatedSinceFault := false }
  let st := s.melvor.jobState
  let s := if own then sendFreeze s cause else s
  if st = 1 ∨ st = 2 then
    let s := dropRoutes ((stepFailed s).withMelvor fun m => { m with jobState := 4 })
    postEvent (completeAll s 0x51 0x12 0) 0x0102
  else if st = 5 then stopFailed s
  else s

/-- An exchange fault (R327, Table 14.7): the first is kept until the next fold load. -/
def exchFault (s : State) (code port stream src : Nat) : State :=
  match s.grp.fault with
  | some _ => s
  | none =>
    fire (s.withGrp fun g => { g with fault := some ⟨BitVec.ofNat 4 code, BitVec.ofNat 4 port, BitVec.ofNat 8 stream,
      BitVec.ofNat 12 src⟩ }) 108

/-- FOLD_FREEZE: Melvor firmware receives the first tile fault (of the fault tree) or drover fault, or an exchange fault,
of the loaded fold. -/
def execFoldFreeze (s : State) : Result :=
  .next <|
    let m := s.melvor
    let tileFault := m.rowFaults.any fun x => decide (x.2 ≠ 0)
    let droverFaulted := (List.range 16).any fun d => (s.drover d).fault.isSome
    if !s.fwOn || m.fold.isNone || m.foldFrozen then s
    else if tileFault then foldFault s 1 true
    else if droverFaulted || s.grp.fault.isSome then foldFault s 2 true
    else s

/-! ## Snapshots at COMMIT (R379, R380) -/

/-- The kinds a snapshot holds. -/
def snapKinds : List Nat := [1, 2, 4, 5, 6, 7, 0x0A]

/-- The engine starts a snapshot of step `t`, the last committed one; a target that is no registered region ends it at
once (R381). -/
def startSnapshot (s : State) (t : Word) : State :=
  let objs := s.objs.filter fun x => snapKinds.contains x.2.kind.toNat
  let loss := s.melvor.loss
  let head (j : Job) : List Byte :=
    toBytes 1 2 ++ toBytes s.grp.member.toNat 2 ++ toBytes t.toNat 4 ++ toBytes objs.length 4 ++ toBytes j.seed.toNat 8 ++
    toBytes loss.lse 1 ++ toBytes (b2n j.lsMode) 1 ++ toBytes loss.clean 2 ++ toBytes loss.halvings.toNat 4 ++
    toBytes loss.skipped.toNat 4 ++ toBytes j.groups 4
  match s.melvor.job with
  | none => s
  | some j =>
    let pages := objs.flatMap fun x => (List.range (cdiv x.2.bytes 4096)).map fun i => x.2.base.toNat / 4096 + i
    let s := s.withSnap fun x =>
      { x with busy := true, err := false, request := false, curStep := t, todo := pages.eraseDups, head := head j
               objs := objs, copied := [], host := [], phase := 0 }
    let r := Sparse.get {} (s.port (b2n s.snap.tport)).regions s.snap.tregion.toNat
    if !r.valid || (s.port (b2n s.snap.tport)).removed then snapEnd s else s

/-- A snapshot of step `t` falls due. -/
def snapshotDue (s : State) (t : Word) : State :=
  if s.snap.busy then
    stepFire (s.withSnap fun x => { x with request := false }) (fun s => s.snap.skipped)
      (fun s => s.withSnap fun x => { x with skipped := satAdd x.skipped 1 }) 162
  else startSnapshot s t

/-! ## Commit (R324, R26, R301, R375) -/

/-- The step in progress is committed on this member. STEP becomes the next step's number where that step begins. -/
def commitStep (s : State) : State :=
  let t := s.melvor.step
  let n := t + 1
  let was := s.melvor.jobState
  let shown := s.melvor.shown
  let s := beginStep (s.withMelvor fun m => { m with step := n })
  let every := s.snap.every.toNat
  let s := if s.snap.request || (decide (every ≠ 0) && decide (n.toNat % max 1 every = 0)) then snapshotDue s t else s
  let s := holdShown s was shown
  let ev := match s.melvor.job with | some j => j.evtEvery | none => 0
  let cnt := s.melvor.evtCount + 1
  let stepEvt := decide (ev ≠ 0) && decide (cnt ≥ ev)
  let here : Bool := match s.grp.boundary with | some b => seqGe t b | none => false
  let limit := decide (n = 0xFFFFFFFF#32)
  let stops := decide (was = 4) || (decide (was = 5) && here) || (decide (was = 2) && here) || limit
  let s := s.withMelvor fun m => { m with evtCount := if stepEvt then 0 else cnt, shown := if stops then t else n }
  let s := if stepEvt then postEvent s 0x0100 else s
  if was = 5 ∧ (here ∨ limit) then jobToNone (if limit then postEvent s 0x0103 else s)
  else if (was = 2 ∧ here) ∨ ((was = 1 ∨ was = 2) ∧ limit) then
    let pausing := decide (was = 2)
    let s := dropRoutes ((s.withMelvor fun m => { m with jobState := 3 }).withGrp fun g => { g with boundary := none })
    let s := if limit then postEvent s 0x0103 else s
    if pausing then postEvent (completeAll s 0x51 0 0) 0x0101 else s
  else s

/-! ## Pausing (R288, R326) -/

/-- A CONTROL message goes towards the top bellwether, or from it to every member. -/
def sendControl (s : State) (act : Nat) : State :=
  if s.grp.modules.toNat > 1 then sendCtl s (ctlMsg 0x16 act s.grp.member.toNat s.melvor.step.toNat) else s

/-- Where this module is the top bellwether, it names the boundary: the lowest step it has not committed. -/
def nameBoundary (s : State) : State :=
  if s.grp.top then s.withGrp fun g => { g with boundary := some s.melvor.step } else s

/-- A running job pauses at the next step boundary; a stopped complex does nothing (R290). -/
def pauseJob (s : State) : State :=
  if s.melvor.jobState = 1 ∧ ¬s.melvor.lockstepErr then
    nameBoundary (sendControl (s.withMelvor fun m => { m with jobState := 2 }) 1)
  else s

/-- Ownership becomes vacant by removal or loss of SECURE of the owning port (R288, R302, R396). -/
def vacateOwner (s : State) : State := pauseJob (vacate s)

/-! ## Job commands (Tables 13.5, 13.8) -/

/-- BAD_STATE. -/
def badState (s : State) (p : Port) (e : Line) : State :=
  complete s p e 10 s.jobShown.toNat s.statusResult

/-- JOB_PAUSE. -/
def execJobPause (p : Port) (s : State) : Result :=
  cmdRow p 0x51 s fun s e => if s.melvor.jobState = 1 then pauseJob (markStarted s p e) else badState s p e

/-- JOB_STOP: NOW = 0 stops at the next step boundary, at once where none is in progress; NOW = 1 freezes the fold.
DEDUCED, unsafe: notes/assumptions/40.md. -/
def execJobStop (p : Port) (s : State) : Result :=
  cmdRow p 0x53 s fun s e =>
    let now := bit (Line.bytes e 8 1) 0
    let st := s.melvor.jobState
    if st = 0 ∨ st = 5 then badState s p e
    else
      let s := sendControl (markStarted s p e) (if now then 4 else 3)
      if now then
        let s := (freezeFold s).withMelvor fun m => { m with jobState := 5, activatedSinceFault := false }
        if st = 3 then jobToNone s else stopFailed s
      else
        let s := s.withMelvor fun m => { m with jobState := 5 }
        if st = 3 then jobToNone s
        else if st = 4 then stopFailed s
        else nameBoundary s

/-- The job records after an activation: START_STEP = the step to run, LSE of both parities = the current one, both flag
parities clear (R105, R320). DESIGN CHOICE, unsafe: notes/assumptions/94.md. -/
def renewRecords (s : State) (j : Job) : State :=
  (startRecords s j s.melvor.step s.melvor.loss.lse).withGrp fun g => (g.clearFlags 0).clearFlags 1

/-- The failed step has been undone and will be replayed (R377, steps 3 to 5): every release at s − 1, the job records and the
flags, nothing exchanged. -/
def replayStep (s : State) (j : Job) : State :=
  let s := renewRecords (resetRel s (s.melvor.step - 1)) j
  let s := stepFire s (fun s => s.rel.stepsReplayed)
    (fun s => s.withRel fun r => { r with stepsReplayed := satAdd r.stepsReplayed 1 }) 152
  beginStep (s.withGrp fun g => { g with contribs := [], early := [] })

/-- The job is resumed: RUNNING, from the step that follows the last committed one. After an activation the job records
are written again (R105); a failed step is replayed on new routes (R326). -/
def resumeJob (s : State) : State :=
  match s.melvor.job with
  | none => s
  | some j =>
    let failed := decide (s.melvor.jobState = 4)
    let s := if !failed && s.melvor.activatedSinceFault then renewRecords s j else s
    let s := if failed then fixRoutes s s.grp.graph else s
    let s := s.withMelvor fun m => { m with jobState := 1, shown := m.step, activatedSinceFault := false }
    useRoutes (s.withGrp fun g => { g with boundary := none, resumes := 0, frozenStep := none, freezeUp := none })

/-- Every member's CONTROL resume has reached the top: the group resumes, unless this member has an object to place or its step
index has run out (R26, R239). -/
def groupResumes (s : State) : State :=
  let s := if s.grp.modules.toNat > 1 && s.grp.top then sendControl s 2 else s
  match s.melvor.replace with
  | i :: _ => completeAll s 0x52 13 i
  | [] => if s.melvor.step = 0xFFFFFFFF#32 then completeAll s 0x52 16 0 else completeAll (resumeJob s) 0x52 0 0

/-- This member's CONTROL resume is sent or, at the top, counted. -/
def sendResume (s : State) : State :=
  if s.grp.top then
    let s := s.withGrp fun g => { g with resumes := g.resumes + 1 }
    if s.grp.resumes ≥ s.grp.modules.toNat then groupResumes s else s
  else sendControl s 2

/-- Some member is unreachable (R326): on the routes in use, or after a fault on any. -/
def State.unreachable (s : State) : Bool :=
  if s.melvor.jobState = 4 then
    let g := s.graphOf s.grp.graph
    s.grp.ranks.any fun r => decide (r ≠ s.rank) && ((nextHop g r s.rank).isNone || (nextHop g s.rank r).isNone)
  else (List.range 12).any fun f => s.grp.routes.getLsbD f && !(s.link f).up

/-- JOB_RESUME (R239, R301, R326, R377, R383): a failed step is undone and made ready before CONTROL resume goes out.
`found`: lines of the journal read back with symbols in error; `w`: what else its write-back meets. DESIGN CHOICE, unsafe:
notes/assumptions/95.md. -/
def execJobResume (p : Port) (found : List (Addr × Nat)) (w : WriteBack) (s : State) : Result :=
  cmdRow p 0x52 s fun s e =>
    let s := nightExit s
    let st := s.melvor.jobState
    match s.melvor.replace, s.melvor.job with
    | i :: _, _ => if st = 3 ∨ st = 4 then complete s p e 13 i s.statusResult else badState s p e
    | [], none => badState s p e
    | [], some j =>
      if st = 3 then
        if s.melvor.step = 0xFFFFFFFF#32 then complete s p e 16 0 s.statusResult
        else if s.unreachable then badState s p e
        else sendResume (markStarted s p e)
      else if st = 4 then
        if !s.melvor.activatedSinceFault || s.unreachable then badState s p e
        else if s.melvor.step = 0xFFFFFFFF#32 then complete s p e 16 0 s.statusResult
        else if s.rel.jstate = 2 then complete s p e 10 4 s.statusResult
        else
          let s := s.withRel fun r => { r with jstate := 3 }
          if s.undoBlocked then s
          else
            let r := undoStep (noteErrors s found) w
            if r.2 = .ok then sendResume (markStarted (replayStep r.1 j) p e)
            else
              let s := r.1.withRel fun x => { x with jstate := if x.jstate ≠ 3 then x.jstate else if x.jindex.isEmpty then 0 else 1 }
              complete s p e 0x12 0 s.statusResult
      else badState s p e

/-- PLACE (R242): only while the job is paused; the entry replaces the object's. The table that it leaves meets Table
10.6, but for objects that wait to be placed again (R239). -/
def execPlace (p : Port) (s : State) : Result :=
  cmdRow p 0x54 s fun s e =>
    let i := Line.bytes e 8 2
    let raw := Line.bytes e 16 32
    let old := s.obj i
    let o := { ObjEntry.ofNat raw with first := if old.valid || old.first.isSome then some old.firstBase else none }
    let others := s.melvor.objects.filter fun x => x.1 ≠ i
    let live := (i, o) :: others.filter fun x => x.2.valid && !s.melvor.replace.contains x.1
    match s.melvor.job with
    | none => complete s p e 10 s.jobShown.toNat 0
    | some j =>
      if s.melvor.jobState ≠ 3 then complete s p e 10 s.jobShown.toNat 0
      else if !entryClean raw then complete s p e 9 16 0
      else if o.valid && s.placeOut others i o then complete s p e 13 i 0
      else if live.any fun x => x.2.valid && !kindTier live x.2 then complete s p e 13 i 0
      else if o.valid && !s.placeWorld j.world o then complete s p e 15 0 0
      else
        complete (s.withMelvor fun m => { m with objects := Sparse.set {} m.objects i o
                                                 replace := if o.valid then m.replace.filter fun k => k ≠ i else m.replace })
          p e 0 0 0

/-- GROUP (R212): a pending NEXT_FROZEN of a parameter group, from a step above the one now running. -/
def execGroup (p : Port) (s : State) : Result :=
  cmdRow p 0x55 s fun s e =>
    let g := Line.bytes e 8 2
    let nf := bits (Line.bytes e 10 1) 0 0
    let next := Line.bytes e 12 4
    match s.melvor.job with
    | none => complete s p e 10 s.melvor.jobState.toNat 0
    | some j =>
      let a := j.groupTable.toNat + 64 * g
      if g ≥ j.groups then complete s p e 9 8 0
      else if next ≤ s.melvor.shown.toNat then complete s p e 9 12 0
      else if s.bytesBlocked .melvor true a 16 then s
      else complete (melvorWrite (melvorWrite s (a + 1) 1 nf) (a + 4) 4 next) p e 0 0 0

end Sys2Proof.Machine
end

