-- ==== Sys2Proof/Machine/Gate.lean ====
section
/-! DEFINITION. Who may write a register of a control block: the requester column of Table 10.3, the port registers of
R270, the worlds of R397 and R398, and what the sideband reaches (R427). Each block's own rules are applied by the block's
own writes. -/

namespace Sys2Proof.Machine

/-- Block `b` lies in the secure world for a write at offset `off` (R398). -/
def State.blockSecure (s : State) (b off : Nat) : Bool :=
  if b = 0x01 then (s.port 0).secure
  else if b = 0x02 then (s.port 1).secure
  else if 0x08 ≤ b ∧ b ≤ 0x31 then (match s.melvor.job with | some j => j.world | none => false)
  else if b = 0x05 then decide (0x0400 ≤ off ∧ off < 0x0C00)
  else false

/-- The SMBus answers: the boot ROM has ended (R427). -/
def State.smbOn (s : State) : Bool := s.boot.powerOn && (decide (s.boot.stage ≥ 2) || s.boot.romHalted)

/-- The SMBus reaches a register (R427). -/
def State.smbReach (s : State) (b off : Nat) (write : Bool) : Bool :=
  if s.melvor.fwReady then b == 0 || b == 4 || b == 0x30 || b == 0x38 || (!write && b == 5)
  else decide (off ≤ 0x1F) && (b == 0x38 || (!write && b == 5))

/-- The host reaches BAR0 through port `p` (Table 19.2). -/
def State.bar0On (s : State) : Bool := decide (s.boot.stage ≥ 3)

/-- Offset `o` of block `b` is a word of some register table: a register, not reserved space (R15, Table 0.10). -/
def regListed (b o : Nat) : Bool :=
  let upTo (n : Nat) := decide (o ≤ n)
  let within (lo hi : Nat) := decide (lo ≤ o) && decide (o < hi)
  if b = 0x00 then upTo 0x14
  else if b = 0x01 ∨ b = 0x02 then upTo 0x44 || within 0x80000 0x80040 || within 0x80100 0x80200
  else if b = 0x03 then within 0 0x200 || within 0x200 0x20C ||
    (within 0x40000 0x44000 && (decide (o % 0x2000 < 0x100) || decide (o % 0x2000 = 0x1000)))
  else if b = 0x04 then upTo 0x54 || within 0x100 0x10C || within 0x200 0x300
  else if b = 0x05 then upTo 0x18 || (within 0x100 0x200 && (decide (o % 0x80 < 8) || decide (o % 0x80 ≥ 0x40))) ||
    within 0x400 0xE00 || within 0x1000 0x5000
  else if 0x08 ≤ b ∧ b ≤ 0x17 then (upTo 0x48 && o != 0x0C) || within 0x100 0x200 || (b == 0x08 && o == 0x800)
  else if 0x18 ≤ b ∧ b ≤ 0x1F then upTo 0x28
  else if 0x20 ≤ b ∧ b ≤ 0x2B then upTo 0x3C || (b == 0x20 && within 0x800 0x830)
  else if b = 0x30 then upTo 0x38 || within 0x100 0x10C
  else if b = 0x31 then upTo 0x34
  else if b = 0x38 then upTo 0x18 || within 0x100 0x114 || within 0x1000 0x2000
  else false

/-- Agent `w` writes offset `off` of block `b`: `f` performs it. A reserved block and reserved space take no write from any
requester and raise no fault (R15). DESIGN CHOICE, unsafe: notes/assumptions/7.md.
DESIGN CHOICE, unsafe: notes/assumptions/64.md. -/
def writeGate (s : State) (w : Agent) (b off : Nat) (f : State → State) : State :=
  if !regListed b off then s
  else match w with
  | .melvor => if s.boot.stage < 2 || s.melvor.lockstepErr then s else f s
  | .drover _ => s.emit (.addressFault w)
  | .smbus => if s.smbOn && s.smbReach b off true then f s else s
  | .port p =>
    let a : Addr := BitVec.ofNat 48 (b * 0x100000 + off)
    if !s.bar0On then s
    else if (b = 0x01 ∨ b = 0x02) ∧ off ≥ 0x80000 ∧ b ≠ p.val + 1 then addressFault s w 0 a
    else if s.blockSecure b off && !(s.port p).secure && b != 0x05 then
      (worldRefused (portEvent s p 2 0 a 0)).emit (.aer p .abort)
    else f s

/-- The agent counts as Melvor firmware or the owning port, or is the SMBus (R385, R417, R427, R430). -/
def State.mayControl (s : State) (w : Agent) : Bool :=
  match w with
  | .melvor | .smbus => true
  | .port p => decide (s.melvor.owner.toNat = p.val)
  | .drover _ => false

end Sys2Proof.Machine
end

