-- ==== Sys2Proof/Machine/Links.lean ====
section
/-! DEFINITION. The fold links (spec 14, R304-R309, R328, R329): flits in and out, acknowledgement and replay, training,
HELLO, the credits of link streams, and a port that goes down. -/

namespace Sys2Proof.Machine

/-! ## Flits (R305, Table 14.1) -/

/-- `n` steps of the 64-bit CRC with the ECMA-182 polynomial, most significant bit first. -/
def crc64Step (c : Nat) : Nat → Nat
  | 0 => c
  | n + 1 => crc64Step (if 2 ^ 63 ≤ c then 2 * c % 2 ^ 64 ^^^ 0x42F0E1EBA9EA3693 else 2 * c) n

/-- The CRC of a flit: over the header and the payload, in the order of their bytes. DEDUCED, unsafe:
notes/assumptions/85.md. -/
def flitCrc (hdr : BitVec 64) (payload : List Line) : BitVec 64 :=
  BitVec.ofNat 64 ((toBytes hdr.toNat 8 ++ payload.flatMap fun d => toBytes d.toNat 64).foldl
    (fun c b => crc64Step (c ^^^ b.toNat * 2 ^ 56) 8) 0)

/-- A header; a slot that `sids` does not fill is empty. -/
def flitHeader (fseq ackseq : BitVec 12) (ackv nak : Bool) (ftype : Nat) (sids : List Nat) : BitVec 64 :=
  let sid := (List.range 4).map fun i => sids.getD i 0xFF
  BitVec.ofNat 64 (fseq.toNat + ackseq.toNat * 2 ^ 12 + b2n ackv * 2 ^ 24 + b2n nak * 2 ^ 25 + ftype * 2 ^ 26 + pack 8 sid * 2 ^ 32)

def fFseq (x : Flit) : BitVec 12 := BitVec.ofNat 12 x.hdr.toNat
def fAckseq (x : Flit) : BitVec 12 := BitVec.ofNat 12 (x.hdr.toNat / 2 ^ 12)
def fAckv (x : Flit) : Bool := bit x.hdr.toNat 24
def fNak (x : Flit) : Bool := bit x.hdr.toNat 25
def fType (x : Flit) : Nat := bits x.hdr.toNat 27 26

/-- The slots of a data flit that are not empty: stream, line and TAG. -/
def fSlots (x : Flit) : List (Nat × Token) :=
  ((List.range 4).map fun i =>
    (bits x.hdr.toNat (39 + 8 * i) (32 + 8 * i), (⟨x.payload.getD i 0, x.tags.getD i 0⟩ : Token))).filter
      fun y => decide (y.1 ≠ 0xFF)

/-- The sixteen messages of a control flit. -/
def fMsgs (x : Flit) : List (BitVec 128) :=
  x.payload.flatMap fun d => (List.range 4).map fun i => BitVec.ofNat 128 (d.toNat / 2 ^ (128 * i))

/-! ## Sending -/

/-- Slots for one data flit: at most `n` of the waiting ones, in order within each stream, each with a credit. Gives the
slots taken, the ones left, and the credits left. -/
def pickSlots : Nat → List Nat → List (Nat × Token) → Sparse Nat → List (Nat × Token) × List (Nat × Token) × Sparse Nat
  | _, _, [], c => ([], [], c)
  | 0, _, l, c => ([], l, c)
  | n + 1, shut, x :: r, c =>
    if shut.contains x.1 || decide (Sparse.get 0 c x.1 = 0) then
      let y := pickSlots (n + 1) (x.1 :: shut) r c
      (y.1, x :: y.2.1, y.2.2)
    else
      let y := pickSlots n shut r (Sparse.mod 0 c x.1 (· - 1))
      (x :: y.1, y.2.1, y.2.2)

/-- Pack sixteen control messages into the four lines of a control flit's payload. -/
def msgLines (l : List (BitVec 128)) : List Line :=
  (List.range 4).map fun i => BitVec.ofNat 512 (pack 128 ((l.drop (4 * i)).take 4 |>.map BitVec.toNat))

/-- A flit leaves the port, with the acknowledgement as it now stands; it acknowledges what was received in order. -/
def emitFlit (s : State) (f : FoldPort) (nak : Bool) (ftype : Nat) (x : SentFlit) : State :=
  let hdr := flitHeader x.fseq (s.link f).ackSeq true nak ftype x.sids
  let payload := (List.range 4).map fun i => x.body.getD i 0
  (s.modLink f fun l => { l with toAck := 0 }).emit (.flit f hdr payload (flitCrc hdr payload) x.tags)

/-- Number and send one sequenced flit; it stays in the replay buffer (R306). -/
def sendFlit (s : State) (f : FoldPort) (ctrl : Bool) (sids : List Nat) (body : List Line) (tags : List Byte) : State :=
  let l := s.link f
  let x : SentFlit := ⟨l.nextFseq, ctrl, sids, body, tags⟩
  emitFlit (s.setLink f { l with nextFseq := l.nextFseq + 1, replayBuf := l.replayBuf ++ [x], flitsTx := satAdd l.flitsTx 1 }) f
    false (b2n ctrl) x

/-- Send what the replay buffer has room for, at most `n` flits. -/
def pump (f : FoldPort) : Nat → State → State
  | 0, s => s
  | n + 1, s =>
    let l := s.link f
    if !l.up || l.training || decide (l.replayBuf.length ≥ 512) then s
    else if !l.outMsgs.isEmpty then
      pump f n (sendFlit (s.setLink f { l with outMsgs := l.outMsgs.drop 16 }) f true [] (msgLines (l.outMsgs.take 16)) [])
    else
      let x := pickSlots 4 [] l.outSlots l.credits
      if x.1.isEmpty then s
      else
        pump f n (sendFlit (s.setLink f { l with outSlots := x.2.1, credits := x.2.2 }) f false (x.1.map Prod.fst)
          (x.1.map fun y => y.2.data) (x.1.map fun y => y.2.tag))

/-- Everything that waits on a port is sent as far as it can be. -/
def pumpAll (s : State) (f : FoldPort) : State :=
  let l := s.link f
  pump f (l.outMsgs.length + l.outSlots.length + 1) s

/-! ## Ports that go down, training (R307-R310, R327) -/

/-- A port goes down: DOWN_CNT, source 96 + f where UP falls, and LINK_DOWN where it carries a route. What waits to be
sent stays: nothing in the exchange is dropped (R328). -/
def portDown (s : State) (f : FoldPort) : State :=
  let l := s.link f
  let s1 := s.setLink f { l with up := false, training := false, half := false, version := 0, downCnt := satAdd l.downCnt 1
                                 replayBuf := [], toAck := 0, discarding := false, stuck := 0 }
  let s1 := fireIf l.up s1 (96 + f.val)
  if l.routed then exchFault s1 1 f 0 0 else s1

/-- The module's HELLO on a port (Table 14.5). -/
def helloMsg (s : State) (f : FoldPort) : BitVec 128 :=
  ctlMsg 0x01 3 (s.grp.board.toNat * 8 + s.grp.slot.toNat) (f.val + b2n s.melvor.fwReady * 256) (shake256 s.sec.identity 8)

/-- A retrain begins; a port that is down trains again, and sends its HELLO (R308). -/
def startRetrain (s : State) (f : FoldPort) : State :=
  let l := s.link f
  if l.training || l.holdDown then s
  else
    let s := (s.setLink f { l with training := true, retrains := satAdd l.retrains 1, stuck := 0
                                   peerReady := l.up && l.peerReady }).emit (.retrain f)
    if l.up then s else s.emit (.linkCtrl f (helloMsg s f))

/-- Training completes once both sides have sent HELLO with FW_READY = 1 (R410). -/
def linkComplete (s : State) (f : FoldPort) (version : Nat) : State :=
  let l := s.link f
  if !l.training || l.up || l.holdDown || !l.peerReady || !s.melvor.fwReady then s
  else if l.half ∧ version < 3 then portDown s f
  else s.setLink f { l with up := true, training := false, version := BitVec.ofNat 2 version, nextFseq := 0, replayBuf := []
                            ackSeq := 0xFFF#12, toAck := 0, discarding := false, stuck := 0 }

/-- LINK_HELLO (R308, R309): the partner's straps, its readiness, MISWIRED, and the version. The HELLO of a partner that
trains holds a port that is down in training too (R410). -/
def execLinkHello (f : FoldPort) (version : BitVec 2) (rank : BitVec 12) (pport : BitVec 4) (ready : Bool) (s : State) :
    Result :=
  .next <|
    let l := s.link f
    if l.holdDown || (!l.training && (l.up || decide (s.boot.stage < 2))) then s
    else
      let s := if l.training then s else (s.setLink f { l with training := true, half := false }).emit (.linkCtrl f (helloMsg s f))
      let l := s.link f
      let me := s.grp.board.toNat * 8 + s.grp.slot.toNat
      let r := rank.toNat
      let mis := decide (r = me) ||
        (decide (r / 8 = s.grp.board.toNat) && decide (f.val ≠ boardPort s.grp.slot.toNat (r % 8)))
      let s1 := s.setLink f { l with
        peerSlot := BitVec.ofNat 3 r, peerBoard := BitVec.ofNat 9 (r / 8), peerPort := pport, peerValid := true
        peerReady := ready, peerVersion := version, miswired := mis }
      let s1 := fireIf (mis && !l.miswired) s1 (96 + f.val)
      linkComplete s1 f (max 1 (min 3 version.toNat))

/-- FEC_LOCK_LOSS (R307). -/
def execFecLockLoss (f : FoldPort) (_lane : Fin 8) (s : State) : Result :=
  .next (if (s.link f).up then startRetrain s f else s)

/-- RETRAIN (Table 14.6). -/
def execRetrain (w : Agent) (f : FoldPort) (s : State) : Result :=
  .next (writeGate s w (0x20 + f.val) 0x0008 fun s => startRetrain s f)

/-- One half of the lanes is whole. -/
def halfWhole (bad : BitVec 8) : Bool := decide (bad.toNat % 16 = 0) || decide (bad.toNat / 16 = 0)

/-- HALF is set. -/
def setHalf (s : State) (f : FoldPort) : State :=
  fireIf (!(s.link f).half) (s.modLink f fun l => { l with half := true }) 109

/-- RETRAIN_END (R307): a retrain, or the electrical part of a training, ends with the lanes `badLanes` failed. -/
def execRetrainEnd (f : FoldPort) (badLanes : BitVec 8) (over10ms : Bool) (s : State) : Result :=
  .next <|
    let l := s.link f
    if !l.training then s
    else if l.up && over10ms then portDown s f
    else
      let done (s : State) : State := if l.up then pumpAll (s.modLink f fun l => { l with training := false }) f else s
      if badLanes = 0 then done (s.modLink f fun l => { l with half := false })
      else if halfWhole badLanes && (!l.up || decide (l.version = 3)) then done (setHalf s f)
      else portDown s f

/-- A write of HOLD_DOWN: not performed to 1 while ROUTED = 1 (R329). -/
def writeHoldDown (s : State) (f : FoldPort) (v : Bool) : State :=
  let l := s.link f
  if v then
    if l.routed then s
    else
      let s := if l.up then portDown s f else s
      s.modLink f fun l => { l with holdDown := true, training := false }
  else if l.holdDown then
    (s.setLink f { l with holdDown := false, training := decide (s.boot.stage ≥ 2), peerReady := false }).emit
      (.linkCtrl f (helloMsg s f))
  else s

/-- HOLD_DOWN. -/
def execHoldDown (w : Agent) (f : FoldPort) (v : Bool) (s : State) : Result :=
  .next (writeGate s w (0x20 + f.val) 0x0008 fun s => writeHoldDown s f v)

/-! ## Receiving (R306) -/

/-- Send every unacknowledged flit again; 16 replays in a row without progress retrain the port. -/
def replay (s : State) (f : FoldPort) : State :=
  let l := s.link f
  let s := s.setLink f { l with replays := satAdd l.replays 1, stuck := l.stuck + 1 }
  let s := forAll l.replayBuf s fun s x => emitFlit s f false (b2n x.ctrl) x
  if l.stuck + 1 ≥ 16 then startRetrain s f else s

/-- The flits of the replay buffer that ACKSEQ `a` acknowledges leave it. -/
def acked (a : BitVec 12) (l : List SentFlit) : List SentFlit :=
  if l.any fun x => x.fseq = a then (l.dropWhile fun x => decide (x.fseq ≠ a)).drop 1 else l

/-- An acknowledgement leaves the port in an idle flit, which carries the last FSEQ sent. -/
def sendAck (s : State) (f : FoldPort) (nak : Bool) : State :=
  emitFlit s f nak 2 ⟨(s.link f).nextFseq - 1, false, [], [], []⟩

/-- A flit is discarded: the first discard is answered with a NAK. DEDUCED, unsafe: notes/assumptions/44.md. -/
def discardFlit (s : State) (f : FoldPort) : State :=
  if (s.link f).discarding then s else sendAck (s.modLink f fun l => { l with discarding := true }) f true

/-- The type of a control message is one of Table 14.5, or the message is unused. -/
def ctlKnown (m : BitVec 128) : Bool :=
  let t := m.toNat % 256
  t == 0 || t == 1 || t == 2 || (decide (0x10 ≤ t) && decide (t ≤ 0x16))

/-- An inbound cut of a drover that has the stream: drover, place, cut. -/
def State.cutOf (s : State) (st : Stream) : Option (Nat × Nat × CutQ) :=
  ((List.range 16).flatMap fun k => (List.zip (List.range (s.drover k).cuts.length) (s.drover k).cuts).map fun c =>
    (k, c.1, c.2)).find? fun x => x.2.2.inbound && s.cutStream x.2.2 == some st

/-- The drover that held the cut before a DISCARD. -/
def State.oldCutOf (s : State) (st : Stream) : Option Nat :=
  match s.grp.cuts.find? fun g => decide (g.src = st.src) && decide (g.dst = st.dst) && decide (st.cut = some g.cut) with
  | some g => (List.range 16).find? fun k => (s.drover k).oldCuts.any fun c => decide (c.toNat = g.inCut)
  | none => none

/-- A slot of an accepted data flit that arrives at port `f` with stream number `sid`: a token of an inbound cut joins the
cut's queue with its tag, or is dropped and counted after a DISCARD (R192, R193); one of a stream for another module is
passed on (R312). The frames that the slots of the other streams carry arrive by rows of their own. -/
def slotIn (s : State) (f : FoldPort) (sid : Nat) (k : Token) : State :=
  match (s.streamsIn f)[sid]? with
  | none => s
  | some st =>
    if st.dst ≠ s.rank then
      match s.streamOut st with
      | some (o, n) =>
        pumpAll (s.modLink o fun l =>
          { l with outSlots := l.outSlots ++ [(n, k)], credits := Sparse.mod 0 l.credits n (· + 1) }) (Fin.ofNat 12 o)
      | none => s
    else match s.cutOf st with
      | some (d, i, c) =>
        s.modDrover d fun x =>
          { x with cuts := x.cuts.set i { c with toks := c.toks ++ [gwToken k.data c.queue (bit k.tag.toNat 3)] } }
      | none => match s.oldCutOf st with
        | some d => s.modDrover d fun x => { x with cutDisc := satAdd x.cutDisc 1 }
        | none => s

/-- FLIT_RECEIVE. What its control messages do, and the frames that its slots carry, are steps of their own.
DEDUCED, unsafe: notes/assumptions/44.md. -/
def execFlitReceive (f : FoldPort) (x : Flit) (s : State) : Result :=
  .next <|
    let l := s.link f
    if !l.up then s
    else
      let s := s.setLink f { l with fecSym := satAdd l.fecSym x.fecSym }
      if x.fecBad then discardFlit (s.modLink f fun l => { l with fecUncorr := satAdd l.fecUncorr 1 }) f
      else if x.crc ≠ flitCrc x.hdr x.payload then discardFlit (s.modLink f fun l => { l with crcErr := satAdd l.crcErr 1 }) f
      else
        let left := acked (fAckseq x) l.replayBuf
        let s := if fAckv x then
            s.modLink f fun l => { l with replayBuf := left, stuck := if left.length < l.replayBuf.length then 0 else l.stuck }
          else s
        let s := if fNak x then replay s f else s
        let s :=
          if fType x ≥ 2 then s
          else if fFseq x = l.ackSeq + 1 then
            let bad := if fType x = 1 then ((fMsgs x).filter fun m => !ctlKnown m).length else 0
            let s := s.modLink f fun l =>
              { l with ackSeq := fFseq x, flitsRx := satAdd l.flitsRx 1, toAck := l.toAck + 1, discarding := false
                       crcErr := satAdd l.crcErr bad }
            let s := if fType x = 0 then forAll (fSlots x) s fun s y => slotIn s f y.1 y.2 else s
            if (s.link f).toAck ≥ 64 then sendAck s f false else s
          else if (l.ackSeq - fFseq x).toNat < 2048 then s
          else discardFlit s f
        pumpAll s f

/-- REPLAY_TIMEOUT: 20 µs pass with no acknowledgement. -/
def execReplayTimeout (f : FoldPort) (s : State) : Result :=
  .next (if (s.link f).up && !(s.link f).replayBuf.isEmpty then replay s f else s)

/-- ACK_TIMER: 1 µs passes since the last acknowledgement. -/
def execAckTimer (f : FoldPort) (s : State) : Result :=
  .next (if (s.link f).up && decide ((s.link f).toAck > 0) then sendAck s f false else s)

/-- WINDOW credits come back to an outbound cut (R192). -/
def CutQ.credit (s : State) (st : Stream) (n : Nat) (c : CutQ) : CutQ :=
  if !c.inbound && decide (s.cutStream c = some st) then { c with credits := c.credits + n } else c

/-- The frame of `n` tokens that a CREDIT of a stream gives back has left the store at its other end; the oldest of that size.
DESIGN CHOICE, unsafe: notes/assumptions/83.md. -/
def frameBack (s : State) (st : Stream) (n : Nat) : State :=
  match st.cut with
  | some _ => s
  | none =>
    let m := s.grp.ranks.findIdx fun r => r = st.dst
    s.withGrp fun g => { g with flying := g.flying.eraseP fun x => decide (x.1 = m) && decide (x.2.2 = n) }

def cutCredits (s : State) (st : Stream) (n : Nat) : State :=
  { s with drovers := s.drovers.map fun x => (x.1, { x.2 with cuts := x.2.cuts.map (CutQ.credit s st n) }) }

/-- CREDIT: tokens granted to a link stream (R328), and to the outbound cut that has it; of a stream that only passes
through this module they go on towards its sender. DESIGN CHOICE, unsafe: notes/assumptions/42.md. -/
def execCredit (f : FoldPort) (stream : Byte) (n : BitVec 16) (s : State) : Result :=
  .next <|
    if !(s.link f).up then s
    else match (s.streamsOut f)[stream.toNat]? with
      | none => s
      | some st =>
        if st.src ≠ s.rank then creditStream s st n.toNat
        else
          pumpAll ((cutCredits (frameBack s st n.toNat) st n.toNat).modLink f fun l =>
            { l with credits := Sparse.mod 0 l.credits stream.toNat (· + n.toNat) }) f

/-! ## Counters (R329) -/

/-- CLR_CNT at 0x003C of a fold port. -/
def LinkPort.clear (l : LinkPort) (v : Nat) : LinkPort :=
  if bit v 0 then { l with flitsTx := 0, flitsRx := 0, crcErr := 0, replays := 0, retrains := 0, fecSym := 0, fecUncorr := 0
                           downCnt := 0, redFrames := 0 } else l

/-- CLR_CNT at 0x082C of block 0x20. -/
def Group.clear (g : Group) (v : Nat) : Group :=
  if bit v 0 then { g with combineWaitUs := 0, agreeLastUs := 0, freezeMerged := 0, gatherDrop := 0 } else g

def execFoldPortClrCnt (w : Agent) (f : FoldPort) (s : State) : Result :=
  .next (writeGate s w (0x20 + f.val) 0x003C fun s => s.modLink f fun l => l.clear 1)
def execGroupClrCnt (w : Agent) (s : State) : Result :=
  .next (writeGate s w 0x20 0x082C fun s => s.withGrp fun g => g.clear 1)

/-! ## The clears of other blocks that have rows of their own (R233, R266) -/

def execClrErr (w : Agent) (k : Stack) (s : State) : Result :=
  .next (writeGate s w (0x18 + k.val) 0x0028 fun s => s.modCtl k fun c => c.clear 1)
def execClrTraffic (w : Agent) (k : Stack) (s : State) : Result :=
  .next (writeGate s w (0x18 + k.val) 0x0028 fun s => s.modCtl k fun c => c.clear 2)
def execDroverClrCnt (w : Agent) (d : DroverNo) (s : State) : Result :=
  .next (writeGate s w (0x08 + d.val) 0x0048 fun s => s.modDrover d fun x => x.clear 1)

end Sys2Proof.Machine
end

