-- ==== Sys2Proof/Machine/Exchange.lean ====
section
/-! DEFINITION. The exchange's data (spec 14, R313-R322, R327): shards, runs and frames, in-link reduction, the
accumulators, the gather and its release of layers, and what takes a token from a gateway data channel. -/

namespace Sys2Proof.Machine

/-! ## Shards (R316) -/

/-- Frames of an object. -/
def framesOf (nelem : Nat) : Nat := cdiv nelem 2048

/-- Position p of frame j of J frames. -/
def Group.pos (g : Group) (nelem j : Nat) : Nat := j / max 1 (cdiv (framesOf nelem) g.bb)

/-- Board q of frame j. -/
def Group.brd (g : Group) (nelem j : Nat) : Nat :=
  let l1 := max 1 (cdiv (framesOf nelem) g.bb)
  (j - g.pos nelem j * l1) / max 1 (cdiv l1 g.qq)

/-- The owner of frame j. -/
def Group.owner (g : Group) (nelem j : Nat) : Nat := g.brd nelem j * g.bb + g.pos nelem j

/-- The member of this module's board that combines frame j at level 1. -/
def Group.combiner (g : Group) (nelem j : Nat) : Nat := g.member.toNat / g.bb * g.bb + g.pos nelem j

/-! ## Runs (R314, R315, Table 14.3) -/

def hOp (h : Line) : Nat := Line.bytes h 0 1
def hFlags (h : Line) : Nat := Line.bytes h 1 1
def hLidx (h : Line) : Nat := Line.bytes h 2 2
def hStep (h : Line) : Nat := Line.bytes h 4 4
def hMicro (h : Line) : Nat := Line.bytes h 8 2
def hObj (h : Line) : Nat := Line.bytes h 10 2
def hOffset (h : Line) : Nat := Line.bytes h 12 6
def hCount (h : Line) : Nat := Line.bytes h 18 4
def hEg (h : Line) : Int := signed 16 (Line.bytes h 22 2)
def hDfmt (h : Line) : Nat := Line.bytes h 24 1
def hRx (h : Line) : Nat := Line.bytes h 25 1
def hNelem (h : Line) : Nat := Line.bytes h 26 6

/-- The object fits the layout that a header implies (R315): W32, B8 or B16. -/
def objFits (bytes nelem dfmt : Nat) : Bool :=
  match dfmt with
  | 0 => decide (bytes ≥ cdiv nelem 64 * 257)
  | 1 => decide (bytes ≥ cdiv nelem 32 * 33)
  | _ => decide (bytes ≥ cdiv nelem 32 * 65)

/-- A header breaks Table 14.3 on a queue of class `cls` (1 REDUCE, 2 GATHER), or its object does not fit. -/
def State.runBad (s : State) (cls : Nat) (h : Line) : Bool :=
  let o := s.obj (hObj h)
  let g := match s.melvor.job with | some j => j.g | none => 0
  decide (hOp h ≠ cls) || decide (hFlags h > 3) || decide (hLidx h ≥ s.layerCount) ||
  decide (hStep h ≠ s.melvor.step.toNat) || decide (hObj h > 4095) || !o.valid || decide (hOffset h % 2048 ≠ 0) ||
  decide (hCount h = 0) || decide (hOffset h + hCount h > hNelem h) || !zeroFrom h 32 || !objFits o.bytes (hNelem h) (hDfmt h) ||
  (if cls = 1 then
    decide (hMicro h ≥ g) || decide (o.kind ≠ 3) || decide (hEg h < -128) || decide (hEg h > 127) || decide (hDfmt h ≠ 0) ||
    decide (hRx h ≠ 0)
  else
    decide (hMicro h ≠ 0) || !(o.kind == 4 || o.kind == 6) || decide (Line.bytes h 22 2 ≠ 0) ||
    !(hDfmt h == 1 || hDfmt h == 2))

/-- Elements of frame j of a run that ends before element `stop`. -/
def frameElems (stop j : Nat) : Nat := min stop (2048 * (j + 1)) - 2048 * j

/-- Tokens of a frame, its scale token among them. -/
def frameTokens (cls stop j : Nat) : Nat :=
  let nb := cdiv (frameElems stop j) 32
  (if cls = 1 then nb else cdiv nb 2) + 1

/-- The frame that a run's tokens spell. -/
def buildFrame (h : Line) (j : Nat) (toks : List Line) (layerEnd : Bool) : Frame :=
  let n := frameElems (hOffset h + hCount h) j
  let red := hOp h = 1
  let per := if red then 32 else 64
  let w := if red then 16 else 8
  let data := toks.dropLast
  let scale := toks.getLastD 0
  { obj := hObj h, frame := j, step := BitVec.ofNat 32 (hStep h), micro := hMicro h, lidx := hLidx h, eg := hEg h
    dfmt := hDfmt h, rx := hRx h, nelem := hNelem h, layerEnd := layerEnd
    elems := (List.range n).map fun i =>
      BitVec.ofNat 16 (bits (data.getD (i / per) 0).toNat (w * (i % per) + w - 1) (w * (i % per)))
    scales := (List.range (cdiv n 32)).map fun k => BitVec.ofNat 8 (Line.bytes scale k 1) }

/-! ## Frames on a link (R321, R328) -/

/-- Member `m`'s rank, and the streams that carry this module's frames to it and its frames here. -/
def State.rankOf (s : State) (m : Nat) : Nat := s.grp.ranks.getD m 0
def State.streamTo (s : State) (m : Nat) : Stream := ⟨s.rank, s.rankOf m, none⟩
def State.streamFrom (s : State) (m : Nat) : Stream := ⟨s.rankOf m, s.rank, none⟩

/-- The tokens of one frame on a link: a run header (Table 14.3) that names this frame only, the data tokens, the scale
token. Of class 1 (REDUCE) or 2 (GATHER). DESIGN CHOICE, unsafe: notes/assumptions/83.md. -/
def linkFrame (cls : Nat) (x : Frame) : List Token :=
  let n := x.elems.length
  let per := if cls = 1 then 32 else 64
  let w := if cls = 1 then 16 else 8
  let hdr := cls + b2n x.layerEnd * 2 ^ 8 + x.lidx * 2 ^ 16 + x.step.toNat * 2 ^ 32 + x.micro * 2 ^ 64 + x.obj * 2 ^ 80 +
    2048 * x.frame * 2 ^ 96 + n * 2 ^ 144 + unsigned 16 x.eg * 2 ^ 176 + x.dfmt * 2 ^ 192 + x.rx * 2 ^ 200 + x.nelem * 2 ^ 208
  let data := (List.range (cdiv n per)).map fun i => pack w (((x.elems.drop (per * i)).take per).map BitVec.toNat)
  (hdr :: data ++ [leNat x.scales]).map fun v => ⟨BitVec.ofNat 512 v, 0⟩

/-- Credit for a frame of `n` elements goes back to the member it came from. -/
def creditFrame (s : State) (cls m n : Nat) : State :=
  if m = s.grp.member.toNat then s
  else creditStream s (s.streamFrom m) (cdiv n (if cls = 1 then 32 else 64) + 2)

/-! ## In-link reduction (R317, R318) -/

/-- One element widened into a contribution at exponent EG. -/
def widen (e : BitVec 16) (scale : Byte) (eg : Int) : A44 :=
  match signMag 16 e.toNat with
  | none => { nv := true }
  | some m => A44.align m false (signed 8 scale.toNat - eg)

/-- A frame widened. -/
def widenFrame (x : Frame) : List A44 :=
  (List.zip (List.range x.elems.length) x.elems).map fun y => widen y.2 (x.scales.getD (y.1 / 32) 0) x.eg

/-- Some word shows NV; some word shows SAT. -/
def anyNv (l : List A44) : Bool := l.any fun w => w.nv
def anySat (l : List A44) : Bool := l.any fun w => w.sat

/-- The contribution has the key of a combine of step `t`. -/
def Contrib.at_ (c : Contrib) (level : Nat) (t : Word) (obj frame micro : Nat) : Bool :=
  decide (c.level = level) && decide (c.step = t) && decide (c.obj = obj) && decide (c.frame = frame) && decide (c.micro = micro)

/-- A frame enters the exchange store as a contribution of member `src`; a second one of the same source, or one already
added, is dropped. -/
def addContrib (s : State) (level src : Nat) (x : Frame) : State :=
  let g := s.grp
  let key := x.obj * 2 ^ 32 + x.frame
  if (g.contribs.any fun c => c.at_ level x.step x.obj x.frame x.micro && decide (c.src = src)) ||
      (decide (x.step = s.melvor.step) && decide (x.micro < Sparse.get 0 g.added key)) then s
  else
    let ws := widenFrame x
    s.withGrp fun g =>
      { (g.orFlags x.step (anyNv ws) (anySat ws)) with
        contribs := g.contribs ++ [⟨level, x.step, x.obj, x.frame, x.micro, src, x.eg, x.nelem, ws.map A44.toBits⟩]
        nelems := if x.step = s.melvor.step then Sparse.set 0 g.nelems x.obj x.nelem else g.nelems }

/-- REDUCE_FRAME: a frame of member `src` arrives at port `f` for a combine of level 1 (0) or level 2 (1). A frame of the
next step waits for this member's COMMIT. -/
def execReduceFrame (f : FoldPort) (level : Fin 2) (src : Nat) (x : Frame) (s : State) : Result :=
  .next <|
    if !s.grp.grouped || s.melvor.foldFrozen || !(s.link f).up || (s.link f).miswired ||
        !(x.step == s.melvor.step || x.step == s.melvor.step + 1) then s
    else addContrib (s.modLink f fun l => { l with redFrames := satAdd l.redFrames 1 }) level src x

/-- The words of a combine: added from zero in ascending source order. -/
def combineWords : List (List A44) → List A44 → List A44
  | [], acc => acc
  | c :: r, acc => combineWords r (List.zipWith A44.add acc c)

/-- Some byte of `[a, a + n)` may not be reached by requester `r`. -/
def State.unreached (s : State) (r : Requester) (write : Bool) (a n : Nat) : Bool :=
  (List.range (n / 0x200000 + 2)).any fun i => !(s.reach r write (min (a + i * 0x200000) (a + n - 1)) == .ok)

/-- The exchange acts on HBM as fold port 0. -/
def xReq : Requester := .foldPort 0

/-- The result of a combine goes into the accumulator (R319): `ws` of frame `j` of an object with NELEM `nelem`. An access
outside the object's arrays raises ADDR (R327). -/
def accumulate (s : State) (obj j micro nelem : Nat) (eg : Int) (ws : List A44) : State :=
  let o := s.obj obj
  let n := ws.length
  let a := o.base.toNat + 8192 * j
  let sc := o.base.toNat + cdiv nelem 64 * 256 + 32 * j
  if !o.valid || !objFits o.bytes nelem 0 || decide (2048 * j + n > cdiv nelem 64 * 64) || s.unreached xReq true a (4 * n) ||
      s.unreached xReq true sc (cdiv n 64) then
    exchFault s 3 0xF 0 0
  else
    let r := if micro = 0 then (s, false, 0) else bytesRead s a (4 * n)
    if r.2.1 then exchFault r.1 5 0xF 0 0
    else
      let elems := (List.zip (List.range n) ws).map fun y =>
        match ofW32 (bits r.2.2 (32 * y.1 + 31) (32 * y.1)), y.2.nv with
        | some v, false =>
          let t := v + y.2.v
          (some (clampTo (2 ^ 31 - 1) t), decide (t ≠ clampTo (2 ^ 31 - 1) t))
        | _, _ => ((none : Option Int), false)
      let s := bytesWrite xReq r.1 a (4 * n) (pack 32 (elems.map fun e => toW32 e.1))
      let s := bytesWrite xReq s sc (cdiv n 64) (pack 8 (List.replicate (cdiv n 64) (unsigned 8 eg)))
      s.withGrp fun g =>
        { (g.orFlags s.melvor.step (elems.any fun e => e.1.isNone) (elems.any fun e => e.2)) with
          added := Sparse.set 0 g.added (obj * 2 ^ 32 + j) (micro + 1) }

/-- A level-1 result converted to B16 for level 2 (R318): blocks of 32 under SMODE BLOCK and RMODE 0. -/
def toB16 (eg : Int) (ws : List A44) : List Block :=
  (List.range (cdiv ws.length 32)).map fun k =>
    let vals : List SrcVal := ((ws.drop (32 * k)).take 32).map fun w => ⟨if w.nv then none else some w.v, w.sat⟩
    convBlock .b16 (blockE Fmt.b16.q eg vals) eg [] vals

/-- The pages that an accumulation touches wait. -/
def State.accBlocked (s : State) (obj j nelem n : Nat) : Bool :=
  let b := (s.obj obj).base.toNat
  s.bytesBlocked xReq true (b + 8192 * j) (4 * n) || s.bytesBlocked xReq true (b + cdiv nelem 64 * 256 + 32 * j) (cdiv n 64)

/-- A frame of a class leaves for member `dst`. -/
def sendFrame (s : State) (cls dst : Nat) (x : Frame) : State :=
  let l := linkFrame cls x
  (streamSend s (s.streamTo dst) l).withGrp fun g => { g with flying := g.flying ++ [(dst, cls, l.length)] }

/-- A frame leaves for member `dst`'s combine of a level, or enters this module's own. -/
def sendReduce (s : State) (level dst : Nat) (x : Frame) : State :=
  if dst = s.grp.member.toNat then addContrib s level dst x else sendFrame s 1 dst x

/-- Tokens for member `dst` wait for their flits. -/
def State.sendBusy (s : State) (dst : Nat) : Bool := decide (dst ≠ s.grp.member.toNat) && s.streamBusy (s.streamTo dst)

/-- This module's window at member `dst`'s combine of a level is full (R328): the frames that are still in the store
there, or in its own. -/
def State.windowFull (s : State) (level dst : Nat) : Bool :=
  let me := s.grp.member.toNat
  decide (s.grp.frames ≤ if dst = me then (s.grp.contribs.filter fun c => decide (c.level = level) && decide (c.src = me)).length
    else (s.grp.flying.filter fun x => decide (x.1 = dst) && decide (x.2.1 = 1)).length)

/-- COMBINE (R318, R319): the sources are all in, and for the accumulator the predecessor micro-batch. `store`: the code
check of the exchange store (R366). DEDUCED, unsafe: notes/assumptions/90.md. -/
def execCombine (level : Fin 2) (obj frame micro : Nat) (store : Ecc) (s : State) : Result :=
  .next <|
    let g := s.grp
    let t := s.melvor.step
    let me := g.member.toNat
    let need := if level = 0 then (List.range g.bb).map fun p => me / g.bb * g.bb + p
      else (List.range g.qq).map fun q => q * g.bb + me % g.bb
    let have_ := g.contribs.filter fun c => c.at_ level t obj frame micro
    match need.mapM fun m => have_.find? fun c => c.src = m with
    | none => s
    | some [] => s
    | some (c :: cs) =>
      let n := c.words.length
      let final := decide (level = 1) || decide (g.qq = 1)
      if !g.grouped || !s.jobActive || s.melvor.foldFrozen then s
      else if store = .ue then exchFault s 5 0xF 0 0
      else if final && (decide (Sparse.get 0 g.added (obj * 2 ^ 32 + frame) ≠ micro) || s.accBlocked obj frame c.nelem n) then s
      else if !final && (s.sendBusy (g.brd c.nelem frame * g.bb + me % g.bb) ||
          s.windowFull 1 (g.brd c.nelem frame * g.bb + me % g.bb)) then s
      else
        let s := forAll (c :: cs) s fun s x => creditFrame s 1 x.src n
        let ws := combineWords ((c :: cs).map fun x => x.words.map A44.ofBits) (List.replicate n {})
        let s := s.withGrp fun g =>
          { (g.orFlags t (anyNv ws) (anySat ws)) with
            contribs := g.contribs.filter fun c => !c.at_ level t obj frame micro }
        if final then accumulate s obj frame micro c.nelem c.eg ws
        else
          let blocks := toB16 c.eg ws
          let s := s.withGrp fun g => g.orFlags t false (blocks.any Block.sat)
          let x : Frame := {
            obj := obj, frame := frame, step := t, micro := micro, lidx := 0, eg := c.eg, dfmt := 0, rx := 0, nelem := c.nelem
            layerEnd := false
            elems := (blocks.flatMap fun b => (b.elems.map fun e => BitVec.ofNat 16 (toSignMag 16 e.1)))
            scales := blocks.map fun b => BitVec.ofNat 8 (unsigned 8 b.e) }
          sendReduce s 1 (g.brd c.nelem frame * g.bb + me % g.bb) x

/-! ## The gather (R321, R322) -/

/-- A frame of member `src` is written into its working copy (R321), and whether it was; B16 takes the B8 value at the
same scale. An access outside the object's arrays raises ADDR (R327). -/
def writeFrame (s : State) (src : Nat) (x : Frame) : State × Bool :=
  let o := s.obj x.obj
  let n := x.elems.length
  let eb := if x.dfmt = 2 then 2 else 1
  let a := o.base.toNat + eb * 2048 * x.frame
  let sc := o.base.toNat + cdiv x.nelem 32 * 32 * eb + 64 * x.frame
  if !o.valid || !(o.kind == 4 || o.kind == 6) || !objFits o.bytes x.nelem x.dfmt ||
      decide (2048 * x.frame + n > cdiv x.nelem 32 * 32) || s.unreached xReq true a (eb * n) ||
      s.unreached xReq true sc (cdiv n 32) then
    (exchFault s 3 0xF 0 src, false)
  else
    let code (e : BitVec 16) : Nat := if x.dfmt = 2 then toSignMag 16 (signMag 8 e.toNat) else e.toNat
    let s := bytesWrite xReq s a (eb * n) (pack (8 * eb) (x.elems.map code))
    (bytesWrite xReq s sc (cdiv n 32) (leNat x.scales), true)

/-- The pages that a frame is written to wait. -/
def State.frameBlocked (s : State) (x : Frame) : Bool :=
  let b := (s.obj x.obj).base.toNat
  let eb := if x.dfmt = 2 then 2 else 1
  s.bytesBlocked xReq true (b + eb * 2048 * x.frame) (eb * x.elems.length) ||
  s.bytesBlocked xReq true (b + cdiv x.nelem 32 * 32 * eb + 64 * x.frame) (cdiv x.elems.length 32)

/-- The tokens of a frame in DFMT frame layout, for an RX queue. -/
def frameLines (x : Frame) : List Line :=
  let per := if x.dfmt = 2 then 32 else 64
  let w := if x.dfmt = 2 then 16 else 8
  let code (e : BitVec 16) : Nat := if x.dfmt = 2 then toSignMag 16 (signMag 8 e.toNat) else e.toNat
  ((List.range (cdiv x.elems.length per)).map fun i =>
    BitVec.ofNat 512 (pack w (((x.elems.drop (per * i)).take per).map code))) ++ [BitVec.ofNat 512 (leNat x.scales)]

/-- The RX queue whose STREAM is `k`: drover and queue. -/
def State.rxQueue (s : State) (k : Nat) : Option (Nat × Nat) :=
  ((List.range 16).flatMap fun d => ((s.drover d).opens.filter fun y =>
    decide (oKind y.2.rcd = 3) && decide (oClass y.2.rcd = 3) && decide (oStream y.2.rcd = k)).map fun y => (d, y.1)).head?

/-- Insert a member's frame by ascending frame number. -/
def insertFrame (x : Nat × Frame) : List (Nat × Frame) → List (Nat × Frame)
  | [] => [x]
  | y :: r => if x.2.frame < y.2.frame then x :: y :: r else y :: insertFrame x r

/-- Push lines into an RX queue; LAST on the last when `last`. -/
def pushRx (s : State) (d q : Nat) (ls : List Line) (last : Bool) : State :=
  let k := oQueue ((s.drover d).queue q).rcd
  let toks := (List.zip (List.range ls.length) ls).map fun x => gwToken x.2 k (last && decide (x.1 + 1 = ls.length))
  s.modQueue d q fun y => { y with rx := y.rx ++ toks }

/-- Every member has sent LAYER_END of layer `l` for the step. -/
def State.layerEnded (s : State) (l : Nat) : Bool :=
  (List.range (max 1 s.grp.modules.toNat)).all fun m => Sparse.get false s.grp.layerEnds (m * 2 ^ 16 + l)

/-- Deliver the waiting frames of a layer, in ascending frame order, LAST on each stream's last token; their store is free
again. -/
def deliverLayer (s : State) (frames : List (Nat × Frame)) : State :=
  match frames with
  | [] => s
  | x :: r =>
    let s := match s.rxQueue x.2.rx with
      | some (d, q) => pushRx s d q (frameLines x.2) (!(r.any fun y => y.2.rx = x.2.rx))
      | none => s
    deliverLayer (creditFrame s 2 x.1 x.2.elems.length) r

/-- A layer whose gather is complete has its frames delivered and its LREL set; delivery keeps ascending LIDX. `store`: the code
check of the exchange store as frames leave it (R366). After an exchange fault no layer is released (R24, R327). -/
def gatherSettle (store : Ecc) (s : State) : State :=
  let t := s.melvor.step
  (forAll (List.range s.layerCount) (s, true) fun (x : State × Bool) l =>
    let s := x.1
    if seqGe ((s.drover 0).lrelAt l) t || s.grp.fault.isSome then x
    else if !s.layerEnded l then (s, false)
    else
      let mine := (s.grp.early.filter fun y => decide (y.2.lidx = l) && decide (y.2.step = t)).foldr insertFrame []
      if !mine.isEmpty && (!x.2 || mine.any fun y => (s.rxQueue y.2.rx).isNone) then (s, false)
      else if decide (store = .ue) && !mine.isEmpty then (exchFault s 5 0xF 0 ((mine.head?.map Prod.fst).getD 0), false)
      else
        let s := deliverLayer s mine
        let s := s.withGrp fun g => { g with early := g.early.filter fun y => !(decide (y.2.lidx = l) && decide (y.2.step = t)) }
        (setLrel s l t, x.2)).1

/-- A frame of layer `l`, of member `src`, is in place; its sender may have marked the end of the layer. -/
def frameIn (store : Ecc) (s : State) (src l : Nat) (layerEnd : Bool) : State :=
  let s := s.withGrp fun g => { g with
    gathering := if g.gathering.contains l then g.gathering else g.gathering ++ [l]
    layerEnds := if layerEnd then Sparse.set false g.layerEnds (src * 2 ^ 16 + l) true else g.layerEnds }
  gatherSettle store s

/-- A frame of member `src` for the step in progress: written, or kept for delivery. One that is not written leaves its layer
incomplete, and so does every one after an exchange fault (R24). -/
def takeGather (store : Ecc) (s : State) (src : Nat) (x : Frame) : State :=
  if s.grp.fault.isSome then s
  else if x.rx = 0xFF then
    let w := writeFrame s src x
    if w.2 then frameIn store (creditFrame w.1 2 src x.elems.length) src x.lidx x.layerEnd else w.1
  else frameIn store (s.withGrp fun g => { g with early := g.early ++ [(src, x)] }) src x.lidx x.layerEnd

/-- GATHER_FRAME: a frame of member `src` arrives at port `f`; one of the next step waits in the exchange store. -/
def execGatherFrame (f : FoldPort) (src : Nat) (x : Frame) (store : Ecc) (s : State) : Result :=
  .next <|
    if !s.grp.grouped || s.melvor.foldFrozen || !(s.link f).up || (s.link f).miswired then s
    else if x.step = s.melvor.step + 1 then s.withGrp fun g => { g with early := g.early ++ [(src, x)] }
    else if x.step ≠ s.melvor.step || !s.jobActive then s
    else if x.rx = 0xFF && s.frameBlocked x then s
    else takeGather store s src x

/-- OPEN, and a request whose OP is none of Table 11.1 (BAD_REQ). An RX queue that opens takes the frames that wait for it. -/
def execOpenReq (d : DroverNo) (row : Fin 8) (lane : Fin 2) (chk store : Ecc) (s : State) : Result :=
  match requestRow d row lane chk (fun o => !(2 ≤ o && o ≤ 5)) s with
  | .next t => .next (if t.grp.grouped && t.jobActive && !t.melvor.foldFrozen then gatherSettle store t else t)
  | r => r

/-- Frames of the step just begun that arrived early: those to be written leave the exchange store, which `store` checks
(R366). -/
def takeEarly (store : Ecc) (s : State) : State :=
  let now := s.grp.early.filter fun y => y.2.step = s.melvor.step
  let s := s.withGrp fun g => { g with early := g.early.filter fun y => y.2.step ≠ s.melvor.step }
  forAll now s fun s y =>
    if store = .ue ∧ y.2.rx = 0xFF then exchFault s 5 0xF 0 y.1 else takeGather store s y.1 y.2

/-- A page that an early frame of the next step is written to waits. -/
def State.earlyBlocked (s : State) : Bool :=
  s.grp.early.any fun y => decide (y.2.step = s.melvor.step + 1) && decide (y.2.rx = 0xFF) && s.frameBlocked y.2

/-! ## Tokens of the data channels (R251, R259, R264, R265, R314, R315) -/

/-- A whole frame of a TX queue: to its combine, or into this member's working copy and to every other member (R318, R321). -/
def txFrame (store : Ecc) (s : State) (h : Line) (x : Frame) : State :=
  if hOp h = 1 then sendReduce s 0 (s.grp.combiner x.nelem x.frame) x
  else
    let me := s.grp.member.toNat
    let w := writeFrame s me x
    if !w.2 then w.1
    else
      let s := forAll ((List.range s.grp.modules.toNat).filter fun m => m ≠ me) w.1 fun s m =>
        sendFrame s 2 m x
      frameIn store s me x.lidx x.layerEnd

/-- A GATHER run that is discarded at the sender (R322). -/
def State.gatherDropped (s : State) (h : Line) : Bool :=
  let group := match s.melvor.fold with
    | some f => (match f.layers[hLidx h]? with | some l => l.group | none => 0)
    | none => 0
  let noupd := match s.melvor.job with
    | some j => s.grp.agreed && j.skips (s.grp.gnv || s.grp.gsat)
    | none => false
  decide (hOp h = 2) && (s.groupFrozen group || noupd)

/-- The TX queue takes a token: a header, or a token of the frame being collected. -/
def txToken (store : Ecc) (s : State) (d q : Nat) (k : Line) : State :=
  let y := (s.drover d).queue q
  let cls := oClass y.rcd
  match y.tx with
  | none =>
    if s.runBad cls k then exchFault s 2 0xF q 0
    else
      let drop := s.gatherDropped k
      let s := if drop then s.withGrp fun g => { g with gatherDrop := satAdd g.gatherDrop 1 } else s
      let s := if cls = 1 then s.withGrp fun g => { g with nelems := Sparse.set 0 g.nelems (hObj k) (hNelem k) } else s
      s.modQueue d q fun y => { y with tx := some { hdr := k, frame := hOffset k / 2048, drop := drop } }
  | some r =>
    let stop := hOffset r.hdr + hCount r.hdr
    let toks := r.toks ++ [k]
    if toks.length < frameTokens cls stop r.frame then
      s.modQueue d q fun y => { y with tx := some { r with toks := toks } }
    else
      let last := decide (2048 * (r.frame + 1) ≥ stop)
      let x := buildFrame r.hdr r.frame toks (last && bit (hFlags r.hdr) 0 && decide (cls = 2))
      let s := s.modQueue d q fun y =>
        { y with tx := if last then none else some { r with frame := r.frame + 1, toks := [] }
                 final := if last && bit (hFlags r.hdr) 1 then hStep r.hdr + 1 else y.final }
      let s := if r.drop then s else txFrame store s r.hdr x
      if last && ((s.drover d).queue q).closing then
        s.modQueue d q fun y => { dropHost := y.dropHost }
      else s

/-- The frame that the next token of a TX queue completes cannot go on: the pages that it is written to wait, or tokens
for one of the members it goes to still wait for credit (R328). -/
def State.txBlocked (s : State) (y : DQueue) (k : Line) : Bool :=
  match y.tx with
  | none => false
  | some r =>
    let cls := hOp r.hdr
    let x := buildFrame r.hdr r.frame (r.toks ++ [k]) false
    !r.drop && decide (r.toks.length + 1 = frameTokens cls (hOffset r.hdr + hCount r.hdr) r.frame) &&
    if cls = 1 then s.sendBusy (s.grp.combiner x.nelem x.frame) || s.windowFull 0 (s.grp.combiner x.nelem x.frame)
    else s.frameBlocked x || (List.range s.grp.modules.toNat).any s.sendBusy

/-- The module's exchange works. -/
def State.exchOn (s : State) : Bool := s.grp.grouped && s.jobActive && s.grp.fault.isNone && !s.melvor.foldFrozen

/-- The open queue that channel `ch` of a lane feeds. -/
def Drover.fedBy (x : Drover) (row lane ch : Nat) : Option (Nat × DQueue) :=
  x.opens.find? fun y => (channelsOf y.2.rcd).contains ((row * 2 + lane) * 8 + ch)

/-- The stream of an outbound cut, where it has a route. DEDUCED, unsafe: notes/assumptions/25.md. -/
def State.cutRoute (s : State) (c : CutQ) : Option Stream :=
  match s.cutStream c with
  | some st => if (s.streamOut st).isSome then some st else none
  | none => none

/-- DATA_TOKEN_TAKE: the token at the head of data channel `ch`, whose check gives `chk`.
DEDUCED, unsafe: notes/assumptions/24.md. -/
def execDataTokenTake (d : DroverNo) (row : Fin 8) (lane : Fin 2) (ch : Fin 8) (chk store : Ecc) (s : State) : Result :=
  .next <|
    let z := s.drover d
    match s.chanHead d row lane ch with
    | none => s
    | some k =>
      if z.stopped then s
      else match z.outCut row lane ch with
        | some (i, c) =>
          if chk = .ue then
            droverFault (takeChan s d row lane ch) d ⟨7, 0, BitVec.ofNat 3 row, decide (lane = 1), true, c.cut⟩
          else if c.credits = 0 then s
          else match s.cutRoute c with
            | none => s
            | some st =>
              let s := takeChan s d row lane ch
              streamSend (s.modDrover d fun x => { x with cuts := x.cuts.set i { c with credits := c.credits - 1 } }) st [k]
        | none =>
          if ch = 0 then s
          else match z.fedBy row lane ch with
          | none => if chk = .ue then queueFault (takeChan s d row lane ch) d 7 0 row lane 0 else s
          | some (q, y) =>
            if oLanes y.rcd = 3 && !z.inOrder row lane ch then s
            else if chk = .ue then queueFault (takeChan s d row lane ch) d 7 q row lane 0
            else if oKind y.rcd = 2 then
              if !s.exchOn || s.txBlocked y k.data then s else txToken store (takeChan s d row lane ch) d q k.data
            else
              match y.xfers.find? Xfer.filling with
              | none => s
              | some x =>
                if !y.place x then s
                else
                  (takeChan s d row lane ch).modQueue d q fun y => { y with
                    xfers := modFirst Xfer.filling (fun x =>
                      { x with buf := Sparse.set 0 x.buf x.moved k.data, moved := x.moved + 1 }) y.xfers }

/-! ## Timeouts (R327) -/

/-- A combine of the step holds a frame, or the gather of a layer of which a frame has arrived is incomplete (R327). -/
def State.exchWaits (s : State) : Bool :=
  (s.grp.contribs.any fun c => c.step = s.melvor.step) ||
  s.grp.gathering.any fun l => !seqGe ((s.drover 0).lrelAt l) s.melvor.step

/-- EXCH_TIMEOUT. -/
def execExchTimeout (s : State) : Result :=
  .next (if s.exchOn && s.exchWaits then exchFault s 4 0xF 0 0 else s)

end Sys2Proof.Machine
end

