-- ==== Sys2Proof/Machine/Group.lean ====
section
/-! DEFINITION. The group (spec 14, R310-R312, R323-R326): JOB_START and the joining of a group, agreement on the flags of
a step, DONE and COMMIT, freezes and control messages. -/

namespace Sys2Proof.Machine

/-! ## The job descriptor (Table 13.6) -/

/-- Field of a descriptor. -/
def dField (d b n : Nat) : Nat := d / 256 ^ b % 256 ^ n

/-- The descriptor's job, of world `w`. -/
def jobOf (d n : Nat) (w : Bool) : Job :=
  { seed := BitVec.ofNat 64 (dField d 0 8), start := BitVec.ofNat 32 (dField d 8 4), g := dField d 12 4
    lsMode := dField d 16 1 = 1, lseInit := dField d 17 1, lsMin := dField d 18 1, lsMax := dField d 19 1
    lsN := dField d 20 2, shares := BitVec.ofNat 16 (dField d 22 2), groupTable := BitVec.ofNat 48 (dField d 24 8)
    groups := dField d 32 4, evtEvery := dField d 36 4, gsrArea := BitVec.ofNat 48 (dField d 40 8)
    modules := dField d 48 2, world := w, desc := toBytes d n }

/-- SHARES: 0, or three shares of 1 to 14 that sum to 16 (R254). -/
def sharesOk (v : Nat) : Bool :=
  let a := bits v 3 0
  let b := bits v 7 4
  let c := bits v 11 8
  decide (v = 0) || (decide (v < 4096) && decide (1 ≤ a) && decide (a ≤ 14) && decide (1 ≤ b) && decide (b ≤ 14) &&
    decide (1 ≤ c) && decide (c ≤ 14) && decide (a + b + c = 16))

/-- The user area holds `[a, a + n)`. -/
def inUser (a n : Nat) : Bool := decide (a + n ≤ userTop)

/-- Fields of the descriptor of `n` bytes, in order, with whether each passes (R108, R208, R299, R310, Table 13.6). -/
def descFields (s : State) (p : Port) (d n : Nat) : List (Nat × Bool) :=
  let f := dField d
  let objects := f 50 2
  let groups := f 32 4
  let layers := match s.melvor.fold with | some x => x.layers | none => []
  (8, decide (f 8 4 < 0xFFFFFFFF)) :: (12, decide (1 ≤ f 12 4) && decide (f 12 4 ≤ 4096)) ::
  (16, decide (f 16 1 ≤ 1) && (decide ((s.box p).version.toNat ≥ 0x0200) || decide (f 16 1 = 1))) ::
  (17, decide (f 17 1 ≤ 63)) :: (18, decide (f 18 1 ≤ 63) && decide (f 18 1 ≤ f 17 1)) ::
  (19, decide (f 19 1 ≤ 63) && decide (f 17 1 ≤ f 19 1)) :: (20, decide (1 ≤ f 20 2)) :: (22, sharesOk (f 22 2)) ::
  (24, inUser (f 24 8) (64 * groups) && (decide (groups > 4096) || !s.groupsBad (f 24 8) groups)) ::
  (32, decide (1 ≤ groups) && decide (groups ≤ 4096) && layers.all fun l => decide (l.group < groups)) ::
  (40, decide (f 40 8 % 64 = 0) && inUser (f 40 8) (64 * groups)) ::
  (48, decide (1 ≤ f 48 2) && decide (f 48 2 ≤ 4096) && (decide (f 48 2 ≤ 64) || decide (f 48 2 % 64 = 0))) ::
  (50, decide (1 ≤ objects) && decide (objects ≤ 4096) && decide (n = 64 + 32 * objects)) ::
  (52, decide (f 52 12 = 0)) :: []

/-- The OBJECT entries of a descriptor. -/
def descObjects (d : Nat) : List (Nat × Nat) := (List.range (dField d 50 2)).map fun i => (i, dField d (64 + 32 * i) 32)

/-- The objects that Melvor firmware enters itself (R240): the group table, the GSR area, and the curves by address.
DESIGN CHOICE, unsafe: notes/assumptions/39.md. -/
def ownObjects (s : State) (j : Job) : List ObjEntry :=
  let a := j.groupTable.toNat
  let curves := sortBy (fun x y => decide (x ≤ y)) ((List.range j.groups).map fun g => gField (s.groupEntry a g) 48 8).eraseDups
  { base := j.groupTable, bytes := 64 * j.groups, kind := 0x0A, valid := true : ObjEntry } ::
  { base := j.gsrArea, bytes := 64 * j.groups, kind := 0x0B, valid := true } ::
  curves.map fun c => { base := BitVec.ofNat 48 c, bytes := 2048, kind := 0x0A, valid := true }

/-- The object table of a job: the descriptor's entries, then the internal ones at the lowest free indices from OBJECTS.
DESIGN CHOICE, unsafe: notes/assumptions/39.md. -/
def jobObjects (s : State) (d : Nat) (j : Job) : Sparse ObjEntry :=
  let own := ownObjects s j
  let n := dField d 50 2
  let t := (descObjects d).foldl (fun m x => Sparse.set {} m x.1 (if bit x.2 136 then ObjEntry.ofNat x.2 else {})) []
  (List.zip (List.range own.length) own).foldl (fun m x => Sparse.set {} m (n + x.1) x.2) t

/-- The first failing check of a start: status and DETAIL (R242, R399). -/
def startBad (s : State) (p : Port) (d n : Nat) (j : Job) : Option (Nat × Nat) :=
  match firstBad (descFields s p d n) with
  | some o => some (9, 0x80000000 + o)
  | none =>
    let raws := descObjects d
    let all := jobObjects s d j
    match raws.find? fun x => !entryClean x.2 with
    | some x => some (9, 0x80000000 + 64 + 32 * x.1)
    | none =>
      if decide (dField d 50 2 + (ownObjects s j).length > 4096) then some (13, 4095)
      else match raws.find? fun x => bit x.2 136 && s.placeBad all x.1 (ObjEntry.ofNat x.2) with
        | some x => some (13, x.1)
        | none =>
          let own := all.filter fun x => decide (x.1 ≥ dField d 50 2)
          match own.find? fun x => own.any fun y => decide (y.1 ≠ x.1) && y.2.meets x.2 with
          | some x => some (13, x.1)
          | none => if all.any fun x => x.2.valid && !s.placeWorld j.world x.2 then some (15, 0) else none

/-! ## Starting (R301, R310, R382) -/

/-- A header that RESTORE holds (Table 17.4) matches the job (R382). -/
def headMatches (h : List Byte) (j : Job) : Bool :=
  let d := leNat h
  decide (dField d 8 4 + 1 = j.start.toNat) && decide (dField d 16 8 = j.seed.toNat) && decide (dField d 25 1 = b2n j.lsMode)

/-- The loss-scale state that a job starts with, and whether it adopts the held header. -/
def State.startLoss (s : State) (j : Job) : LossState × Bool :=
  match s.snap.held with
  | some h =>
    if headMatches h j then
      let d := leNat h
      ({ lse := dField d 24 1, clean := dField d 26 2, halvings := BitVec.ofNat 32 (dField d 28 4)
         skipped := BitVec.ofNat 32 (dField d 32 4) }, true)
    else ({ lse := j.lseInit }, false)
  | none => ({ lse := j.lseInit }, false)

/-- The job that waits for its group starts: the group has formed with `ranks`, this module being member `i`, over
`links`, with the cut streams `cuts`. -/
def beginJob (s : State) (j : Job) (ranks : List Nat) (i b : Nat) (links : List GLink) (cuts : List GCut) : State :=
  let n := j.modules
  let s := s.withGrp fun g => { g with
    member := BitVec.ofNat 12 i, modules := BitVec.ofNat 13 n, bellwether := decide (i % 64 = 0), top := decide (i = 0)
    grouped := true, b := BitVec.ofNat 4 b, q := BitVec.ofNat 10 (n / max 1 b), ranks := ranks, cuts := cuts
    boundary := none, resumes := 0, frozenStep := none, freezeUp := none, contribs := [], early := [], heard := [], relays := false
    nv0 := false, sat0 := false, nv1 := false, sat1 := false }
  let s := fire s 38
  let s := useRoutes (fixRoutes s links)
  let l := s.startLoss j
  let split := decide (n > 4)
  let sh := j.shares.toNat
  let s := { s with arb :=
    if sh = 0 then { split := split, read16 := 8, write16 := 4, remote16 := 4 }
    else { split := split, read16 := BitVec.ofNat 4 sh, write16 := BitVec.ofNat 4 (sh / 16), remote16 := BitVec.ofNat 4 (sh / 256) } }
  let s := s.withSnap fun x => if l.2 then { x with held := none } else x
  let s := s.withMelvor fun m => { m with
    jobState := 1, job := some j, starting := none, step := j.start, shown := j.start, unpub := none, loss := l.1, evtCount := 0
    objects := jobObjects s (leNat j.desc) j, activatedSinceFault := false, replace := [] }
  let s := startRecords (resetRel s (j.start - 1)) j j.start l.1.lse
  let s := forAll (List.range 16) s fun s d =>
    forAll ((s.drover d).opens.filter fun y => decide (oKind y.2.rcd = 3) && decide (oClass y.2.rcd = 4) && !y.2.member) s
      fun s y => s.modQueue d y.1 fun q =>
        { q with member := true, rx := q.rx ++ [gwToken (memberRecord s.grp) (oQueue q.rcd) true] }
  let s := forAll (List.range 16) s fun s d => forAll (s.drover d).opens s fun s y => s.modQueue d y.1 fun q => { q with final := 0 }
  checkHolds (completeAll (beginStep s) 0x50 0 0)

/-- The starting job is refused: JOB_START completes with BAD_ARG that names MODULES. -/
def refuseStart (s : State) : State :=
  completeAll ((s.withMelvor fun m => { m with starting := none }).withGrp fun g => { g with heard := [] }) 0x50 9 0x80000030

/-- The group key (R310). DESIGN CHOICE, unsafe: notes/assumptions/43.md. -/
def groupKey (s : State) (d : Nat) (j : Job) : BitVec 64 :=
  let id : List Byte := match s.melvor.fold with
    | some f => if f.partitioned then toBytes f.setId.toNat 8 else toBytes f.digest.toNat 64
    | none => []
  let objs := (jobObjects s d j).flatMap fun x => toBytes x.2.kind.toNat 1 ++ toBytes x.2.bytes 8
  let a := j.groupTable.toNat
  let table := toBytes (readBytes s.hbm a (64 * j.groups)) (64 * j.groups)
  let curves := (List.range j.groups).flatMap fun g => toBytes (readBytes s.hbm (gField (s.groupEntry a g) 48 8) 2048) 2048
  BitVec.ofNat 64 (shake256 (id ++ toBytes d 22 ++ toBytes j.modules 2 ++ objs ++ table ++ curves) 8)

/-- A JOIN that holds this module's key, MODULES and kind: the module joins; two members with one rank, or one PART_INDEX,
refuse the start (R191, R310). -/
def joinOne (s : State) (j : Job) (kind : Nat) (x : Nat × Nat × Nat × BitVec 64 × Nat) : State :=
  let (rank, k, part, key, modules) := x
  if s.melvor.starting.isNone || key ≠ s.grp.key || modules ≠ j.modules || k ≠ kind then s
  else if s.grp.joined.contains (rank, part) then (if rank = s.rank then refuseStart s else s)
  else if s.grp.joined.any fun x => decide (x.1 = rank) || (decide (kind = 1) && decide (x.2 = part)) then refuseStart s
  else s.withGrp fun g => { g with joined := g.joined ++ [(rank, part)] }

/-- Kind and PART_INDEX that this module's JOIN carries (Table 14.5). -/
def State.joinKind (s : State) : Nat × Nat :=
  match s.melvor.fold with
  | some f => if f.partitioned then (1, f.partIndex) else (0, 0)
  | none => (0, 0)

/-- The JOIN of this module goes to every module beyond a link, and those it has heard join (R310). -/
def joinGroup (s : State) (d : Nat) (j : Job) : State :=
  let key := groupKey s d j
  let k := s.joinKind
  let s := s.withMelvor fun m => { m with starting := some j }
  let s := s.withGrp fun g => { g with grouped := false, key := key, joined := [(s.rank, k.2)] }
  let s := broadcast s (ctlMsg 0x10 k.1 k.2 (key.toNat % 2 ^ 32) (key.toNat / 2 ^ 32 + j.modules * 2 ^ 32))
  forAll s.grp.heard s fun s x => joinOne s j k.1 x

/-- JOB_START: the descriptor is read from DESC (`desc`: what host memory returns), checked, and the module joins its
group; a group of one forms at once. -/
def execJobStart (p : Port) (desc : List Byte) (hostErr : Bool) (s : State) : Result :=
  cmdRow p 0x50 s fun s e =>
    let s := nightExit s
    let a := Line.bytes e 8 8
    let n := Line.bytes e 16 4
    let st := s.melvor.jobState
    let host := (hostWindow a).isSome
    let d := match hostWindow a with
      | some (_, hpa) => s.melvorSees p hpa n (leNat (desc.take n))
      | none => readBytes s.hbm a n
    if st ≠ 0 ∨ s.melvor.starting.isSome then complete s p e 10 st.toNat s.statusResult
    else if s.melvor.loaderBusy then complete s p e 11 0 s.statusResult
    else if s.melvor.fold.isNone then complete s p e 10 st.toNat s.statusResult
    else if host && hostErr then complete s p e 14 0 s.statusResult
    else if !host && s.bytesBlocked .melvor false a n then s
    else
      let j := jobOf d n (s.port p).secure
      if decide (j.groups ≤ 4096) && s.groupsBlocked j then s
      else
        let s := match hostWindow a with
          | some (_, hpa) => melvorFetch s p hpa n d
          | none => tableRead s a n
        let s := if j.groups ≤ 4096 then forAll (List.range j.groups) s fun s g => groupRead s j g else s
        match startBad s p d n j with
        | some x => complete s p e x.1 x.2 s.statusResult
        | none =>
          let l := s.startLoss j
          if l.2 && (decide (l.1.lse < j.lsMin) || decide (j.lsMax < l.1.lse)) then
            complete s p e 9 0x80000012 s.statusResult
          else
            let s := markStarted s p e
            if j.modules = 1 then beginJob s j [s.rank] 0 1 [] [] else joinGroup s d j

/-- JOIN (R310): a module that holds the same key joins. One that comes before this module's own start is kept for it, and
each goes on, over links of version 2, to the other modules beyond a link, but not to the one that it names.
DESIGN CHOICE, unsafe: notes/assumptions/43.md. -/
def execJoin (f : FoldPort) (rank : BitVec 12) (kind : Byte) (part : BitVec 16) (key : BitVec 64) (modules : BitVec 16)
    (s : State) : Result :=
  .next <|
    let x : Nat × Nat × Nat × BitVec 64 × Nat := (rank.toNat, kind.toNat, part.toNat, key, modules.toNat)
    if !s.fwOn || !(s.link f).up || (s.link f).miswired then s
    else if s.grp.heard.contains x then s
    else
      let s := s.withGrp fun g => { g with heard := g.heard ++ [x] }
      let msg := ctlMsg 0x10 kind.toNat part.toNat (key.toNat % 2 ^ 32) (key.toNat / 2 ^ 32 + modules.toNat * 2 ^ 32)
      let onward := s.ownLinks.filter fun l => decide (l.ap ≠ f.val) && decide (l.b ≠ rank.toNat) && decide (l.ver ≥ 2)
      let s := forAll onward s fun s l => queueOn s l.ap msg
      match s.melvor.starting with
      | none => s
      | some j => joinOne s j s.joinKind.1 x

/-- Members per board, in the order of the boards. -/
def boardCounts (ranks : List Nat) : List Nat :=
  ((ranks.map (· / 8)).eraseDups).map fun b => (ranks.filter fun r => r / 8 = b).length

/-- GROUP_FORMED (R310-R312): MODULES modules hold one key, with the links `links` between the other modules and the cut streams
`cuts` of the set. Where some member cannot be reached the group has not formed. -/
def execGroupFormed (links : List GLink) (cuts : List GCut) (s : State) : Result :=
  .next <|
    match s.melvor.starting with
    | none => s
    | some j =>
      let js := s.grp.joined
      let part := s.joinKind.1 = 1
      if !s.fwOn || js.length ≠ j.modules || s.groupsBlocked j then s
      else
        let sorted := sortBy (fun x y => decide (x ≤ y)) (js.map fun x => if part then x.2 * 4096 + x.1 else x.1)
        let ranks := sorted.map (· % 4096)
        let counts := boardCounts ranks
        let b := counts.headD 1
        let g := s.graphOf links
        if ranks.any fun r => decide (r ≠ s.rank) && ((nextHop g r s.rank).isNone || (nextHop g s.rank r).isNone) then s
        else if badRoutes g ranks cuts || counts.any fun c => c ≠ b then refuseStart s
        else beginJob s j ranks (ranks.findIdx fun r => r = s.rank) b links cuts

/-- JOIN_TIMEOUT. -/
def execJoinTimeout (s : State) : Result :=
  .next (if s.fwOn && s.melvor.starting.isSome then refuseStart s else s)

/-! ## Agreement (R323) -/

/-- Members of this module's flock. -/
def Group.flockSize (g : Group) : Nat := min 64 (g.modules.toNat - g.member.toNat / 64 * 64)

/-- Members whose messages this module gathers: all at the top, its flock at another bellwether, itself elsewhere. -/
def Group.gathers (g : Group) : Nat := if g.top then g.modules.toNat else if g.bellwether then g.flockSize else 1

/-- Every combine that this member owns for the last micro-batch is in its accumulator. -/
def State.reduced (s : State) (j : Job) : Bool :=
  s.grp.nelems.all fun o => (List.range (framesOf o.2)).all fun f =>
    decide (s.grp.owner o.2 f ≠ s.grp.member.toNat) || decide (Sparse.get 0 s.grp.added (o.1 * 2 ^ 32 + f) = j.g)

/-- The TX queues of a class (1 REDUCE, 2 GATHER) that are open. -/
def State.txQueues (s : State) (cls : Nat) : List DQueue :=
  (List.range 16).flatMap fun d =>
    ((s.drover d).opens.filter fun y => decide (oKind y.2.rcd = 2) && decide (oClass y.2.rcd = cls)).map Prod.snd

/-- The agreement of the group goes down the tree, and this member applies it at AGREE_DOWN. -/
def agreeMsg (s : State) : BitVec 128 := ctlMsg 0x12 (b2n s.grp.gnv + 2 * b2n s.grp.gsat) 0 s.melvor.step.toNat

/-- `n` more members are covered, with their flags; a bellwether that has gathered all of its own passes the OR on. -/
def coverAgree (s : State) (nv sat : Bool) (n : Nat) : State :=
  let s := s.withGrp fun g => { g with gnv := g.gnv || nv, gsat := g.gsat || sat, covered := g.covered + n }
  if s.grp.covered < s.grp.gathers then s
  else if s.grp.top then sendDown s (agreeMsg s)
  else sendUp s (ctlMsg 0x11 (b2n s.grp.gnv + 2 * b2n s.grp.gsat) 0 s.melvor.step.toNat s.grp.covered)

/-- AGREE_UP_SEND: this member's reduction of the step is complete and every open REDUCE queue has carried its FINAL run. -/
def execAgreeUpSend (s : State) : Result :=
  .next <|
    match s.melvor.job with
    | none => s
    | some j =>
      let t := s.melvor.step.toNat
      if !s.exchOn || !s.fwOn || s.grp.agreeSent || ((s.txQueues 1).any fun q => q.final ≠ t + 1) || !s.reduced j then s
      else
        let f := s.gradFlags s.melvor.step
        coverAgree ((recordRead s s.melvor.step).withGrp fun g => { g with agreeSent := true, agreeUs := 0 }) f.1 f.2 1

/-- AGREE_UP: a bellwether receives it. -/
def execAgreeUp (step : Word) (gnv gsat : Bool) (covered : Nat) (s : State) : Result :=
  .next <|
    if !s.exchOn || !s.grp.bellwether || step ≠ s.melvor.step || s.grp.covered + covered > s.grp.gathers then s
    else coverAgree s gnv gsat covered

/-- AGREE_DOWN: a member receives the group's flags. At the top they are those it has gathered; a bellwether relays them. -/
def execAgreeDown (step : Word) (gnv gsat : Bool) (s : State) : Result :=
  .next <|
    match s.melvor.job with
    | none => s
    | some j =>
      let g := s.grp
      if !s.exchOn || !s.fwOn || step ≠ s.melvor.step || !g.agreeSent || g.agreed ||
          (g.top && decide (g.covered < g.modules.toNat)) || s.groupsBlocked j then s
      else if g.top then applyAgree s j g.gnv g.gsat
      else
        let s := sendDown s (ctlMsg 0x12 (b2n gnv + 2 * b2n gsat) 0 step.toNat)
        applyAgree s j gnv gsat

/-! ## DONE and COMMIT (R324, R325) -/

/-- `n` more members are done; a bellwether that has gathered its own passes DONE on; the top sends COMMIT. -/
def coverDone (s : State) (n : Nat) : State :=
  let s := s.withGrp fun g => { g with doneCovered := g.doneCovered + n }
  if s.grp.doneCovered < s.grp.gathers then s
  else if s.grp.top then sendDown s (ctlMsg 0x14 0 0 s.melvor.step.toNat)
  else sendUp s (ctlMsg 0x13 0 0 s.melvor.step.toNat s.grp.doneCovered)

/-- This member is done with the step. -/
def State.stepDone (s : State) (j : Job) : Bool :=
  j.skips (s.grp.gnv || s.grp.gsat) ||
  (((List.range s.layerCount).all fun l => seqGe ((s.drover 0).lrelAt l) s.melvor.step) &&
    (s.txQueues 2).all fun q => decide (q.final = s.melvor.step.toNat + 1))

/-- DONE_SEND. -/
def execDoneSend (s : State) : Result :=
  .next <|
    match s.melvor.job with
    | none => s
    | some j =>
      if !s.exchOn || !s.fwOn || !s.grp.agreed || s.grp.doneSent || !s.stepDone j then s
      else coverDone (s.withGrp fun g => { g with doneSent := true }) 1

/-- DONE: a bellwether receives it. -/
def execDoneMsg (step : Word) (covered : Nat) (s : State) : Result :=
  .next <|
    if !s.exchOn || !s.grp.bellwether || step ≠ s.melvor.step || s.grp.doneCovered + covered > s.grp.gathers then s
    else coverDone s covered

/-- COMMIT: a member that has sent DONE commits the step, frozen or not; at the top once every member is done. Pages that its
firmware reads or writes as the next step begins come first (R275). `store`: the code check of the exchange store (R366). -/
def execCommit (step : Word) (store : Ecc) (s : State) : Result :=
  .next <|
    let g := s.grp
    let st := s.melvor.jobState
    if !g.grouped || !s.fwOn || s.melvor.job.isNone || step ≠ s.melvor.step || !g.doneSent ||
        (g.top && decide (g.doneCovered < g.modules.toNat)) ||
        !(s.jobActive || decide (st = 4)) || s.tableBlocked || s.earlyBlocked then s
    else takeEarly store (commitStep (if g.top then s else sendDown s (ctlMsg 0x14 0 0 step.toNat)))

/-! ## Freezes and control (R325, R326) -/

/-- FREEZE: `down`, from the top; else from a member, which a bellwether below the top passes up. The top relays the first
one for a step; a member that is not frozen yet records cause 3. A partition that has no job freezes with its set, and
tells its links (R193). DESIGN CHOICE, unsafe: notes/assumptions/68.md. -/
def execFreeze (down : Bool) (origin : BitVec 16) (step : Word) (cause : Byte) (s : State) : Result :=
  .next <|
    let g := s.grp
    let msg := ctlMsg 0x15 0 origin.toNat step.toNat cause.toNat
    let merged (s : State) : State := s.withGrp fun g => { g with freezeMerged := satAdd g.freezeMerged 1 }
    if !s.fwOn then s
    else if g.relays && s.melvor.jobState = 0 then
      if down then (sendDown s msg).withGrp fun g => { g with relays := false } else sendUp s msg
    else if !g.grouped || s.melvor.jobState = 0 then
      if s.joinKind.1 = 1 && !s.melvor.foldFrozen then foldFault (broadcast s msg) 3 false else s
    else if g.bellwether && !g.top && !down then
      if g.freezeUp = some step then merged s else (sendUp s msg).withGrp fun g => { g with freezeUp := some step }
    else if g.frozenStep = some step then merged s
    else
      let s := (sendDown s msg).withGrp fun g => { g with frozenStep := some step }
      if s.melvor.foldFrozen then s else (foldFault s 3 false).withGrp fun g => { g with relays := false }

/-- ACTION of a CONTROL message (Table 14.5). -/
def actionCode : Action → Nat
  | .pause => 1 | .resume => 2 | .stop => 3 | .stopNow => 4

/-- An action of the group reaches this module; a bellwether relays it to its flock, the top with the boundary that it names. -/
def groupAction (act : Action) (origin : BitVec 16) (step : Word) (s : State) : State :=
  let g := s.grp
  let st := s.melvor.jobState
  let at_ := if g.top then s.melvor.step else step
  let relay (s : State) : State := sendDown s (ctlMsg 0x16 (actionCode act) origin.toNat at_.toNat)
  let passed (s : State) : State := s.withGrp fun g => { g with relays := false }
  match act with
  | .pause =>
    if st = 1 ∨ st = 2 then
      (relay (s.withMelvor fun m => { m with jobState := 2 })).withGrp fun g => { g with boundary := some at_ }
    else s
  | .stop =>
    let s := relay (s.withMelvor fun m => { m with jobState := 5 })
    if st = 3 then passed (jobToNone s) else if st = 4 then passed (stopFailed s)
    else s.withGrp fun g => { g with boundary := some at_ }
  | .stopNow =>
    let s := (freezeFold (relay s)).withMelvor fun m => { m with jobState := 5, activatedSinceFault := false }
    passed (if st = 3 then jobToNone s else stopFailed s)
  | .resume =>
    if !(st = 3 || st = 4) then s
    else if g.top then
      let s := s.withGrp fun g => { g with resumes := g.resumes + 1 }
      if s.grp.resumes ≥ s.grp.modules.toNat then groupResumes s else s
    else groupResumes (relay s)

/-- CONTROL: `down`, an action of the group; else an action of some member, which the top acts on for the group and a bellwether
below the top passes up (R311, R326). It ends Night (R350). -/
def execControl (down : Bool) (act : Action) (origin : BitVec 16) (step : Word) (s : State) : Result :=
  .next <|
    let g := s.grp
    let msg := ctlMsg 0x16 (actionCode act) origin.toNat step.toNat
    if !s.fwOn then s
    else if g.relays && s.melvor.jobState = 0 then
      if !down then sendUp s msg
      else (sendDown s msg).withGrp fun g => { g with relays := g.relays && decide (act = .pause ∨ act = .resume) }
    else if !g.grouped || s.melvor.jobState = 0 then s
    else
      let s := nightExit s
      if g.bellwether && !g.top && !down then sendUp s msg else groupAction act origin step s

end Sys2Proof.Machine
end

