-- ==== Sys2Proof/Machine/Image.lean ====
section
/-! DEFINITION. The fold image (spec 08, R171, R180-R184, R192) and the loader's checks 0x01 to 0x0D on it (R185, Table
8.7): format, signature, grade, world, tile sections, schedule (R43), tile core (R70), queues, crooks, joins, engine
records, declarations, partition. An image is held as one number, its bytes little-endian; `gField img o n` is the field of
`n` bytes at offset `o`. -/

namespace Sys2Proof.Machine

/-! ## Sections (R182, R183, Tables 8.4, 8.5) -/

/-- An entry of the section table, with its index. -/
structure Sec where
  idx  : Nat
  kind : Nat
  tile : Nat
  off  : Nat
  n    : Nat
  dest : Nat
  deriving DecidableEq, Repr

def secOf (img i : Nat) : Sec :=
  let o := 256 + 16 * i
  { idx := i, kind := gField img o 2, tile := gField img (o + 2) 2, off := gField img (o + 4) 4, n := gField img (o + 8) 4
    dest := gField img (o + 12) 4 }

def sections (img : Nat) : List Sec := (List.range (gField img 8 4)).map (secOf img)

/-- The order of R185: global sections, then tiles in ascending ID. -/
def ordered (l : List Sec) : List Sec :=
  (l.filter fun x => x.tile = 0xFFFF) ++
  sortBy (fun x y => decide (x.tile < y.tile) || (decide (x.tile = y.tile) && decide (x.idx ≤ y.idx)))
    (l.filter fun x => x.tile ≠ 0xFFFF)

def globalKind (k : Nat) : Bool := decide (1 ≤ k) && decide (k ≤ 5)
def tileKind (k : Nat) : Bool := decide (0x10 ≤ k) && decide (k ≤ 0x14)

/-- The section of a global kind. -/
def globalSec (l : List Sec) (k : Nat) : Option Sec := l.find? fun x => x.tile = 0xFFFF ∧ x.kind = k

/-- A failed check: its code, the tile ID (0xFFFF for a global failure), and the section index where one is at fault. -/
structure Bad where
  code : Nat
  tile : Nat := 0xFFFF
  sec  : Option Nat := none
  deriving DecidableEq, Repr

/-- The header fails check 0x01. -/
def headerFails (img : Nat) : Bool :=
  let f := gField img
  decide (f 0 4 ≠ 0x4656524F) || decide (f 4 2 ≠ 4) || decide (f 6 2 ≥ 4) || decide (f 8 4 = 0) || decide (f 8 4 > 32768) ||
  decide (f 12 4 ≠ 0) || decide (f 16 8 < 256) || decide (f 16 8 > 190000000) || decide (f 29 3 ≠ 0) ||
  decide (f 56 8 ≠ 0) || decide (f 128 128 ≠ 0) || decide (256 + 16 * f 8 4 > f 16 8)

/-- Two sections share a byte. -/
def Sec.meets (x y : Sec) : Bool := decide (x.off < y.off + y.n) && decide (y.off < x.off + x.n)

/-- A section's entry of the table fails check 0x01. -/
def Sec.entryFails (img : Nat) (all : List Sec) (x : Sec) : Bool :=
  let f := gField img
  let count (o size : Nat) := decide (x.n ≠ size * f o 2)
  (if x.tile = 0xFFFF then !globalKind x.kind else !tileKind x.kind) ||
  decide (x.off + x.n > f 16 8) || (decide (x.n ≠ 0) && decide (x.off < 256 + 16 * f 8 4)) ||
  (all.any fun y => decide (y.idx ≠ x.idx) && decide (x.n ≠ 0) && decide (y.n ≠ 0) && x.meets y) ||
  (decide (x.kind ≠ 0x13) && decide (x.dest ≠ 0)) ||
  (globalKind x.kind && all.any fun y => decide (y.idx < x.idx) && decide (y.tile = 0xFFFF) && decide (y.kind = x.kind)) ||
  (match x.kind with
    | 1 => decide (x.n ≠ 3309)
    | 2 => count 36 16
    | 3 => count 38 8
    | 5 => count 42 16
    | 0x10 => decide (x.n % 4 ≠ 0) || decide (x.n > 32768)
    | 0x11 => decide (x.n % 16 ≠ 0) || decide (x.n > 8192)
    | 0x12 => decide (x.n ≠ 176)
    | 0x13 => decide (x.dest % 64 ≠ 0) || decide (x.n % 64 ≠ 0)
    | 0x14 => decide (x.n < 32)
    | _ => false)

/-! ## Joins (R181) -/

/-- One path of a join: Dp, its links, its queue references. -/
structure Path where
  demand : Nat
  links  : Nat
  refs   : List Nat
  deriving DecidableEq, Repr

/-- An entry of the join table. -/
structure Join where
  tile  : Nat
  kind  : Nat
  paths : List Path
  deriving DecidableEq, Repr

/-- `n` paths from byte `o`, and the byte that follows. -/
def readPaths (img top : Nat) : Nat → Nat → Option (List Path × Nat)
  | 0, o => some ([], o)
  | n + 1, o =>
    let nq := gField img (o + 6) 2
    if o + 8 + 4 * nq > top then none
    else
      let p : Path := { demand := gField img o 4, links := gField img (o + 4) 2
                        refs := (List.range nq).map fun i => gField img (o + 8 + 4 * i) 4 }
      match readPaths img top n (o + 8 + 4 * nq) with
      | some r => if p.refs.any fun x => decide (x ≥ 2 ^ 18) then none else some (p :: r.1, r.2)
      | none => none

/-- `n` entries from byte `o` that end at `top`; `none`: the section does not hold them. -/
def readJoins (img top : Nat) : Nat → Nat → Option (List Join)
  | 0, o => if o = top then some [] else none
  | n + 1, o =>
    if o + 4 > top then none
    else match readPaths img top (gField img (o + 3) 1) (o + 4) with
      | none => none
      | some r => (readJoins img top n r.2).map fun l => ⟨gField img o 2, gField img (o + 2) 1, r.1⟩ :: l

/-- The join table of an image. -/
def joinsOf (img : Nat) (l : List Sec) : Option (List Join) :=
  match globalSec l 4 with
  | some x => readJoins img (x.off + x.n) (gField img 40 2) x.off
  | none => some []

/-! ## Contents that check 0x01 reads -/

/-- Entries of `size` bytes of a section. -/
def Sec.entries (x : Sec) (size : Nat) : List Nat := (List.range (x.n / size)).map fun i => x.off + size * i

/-- A section of this kind has reserved fields or counts of its own. -/
def Sec.structured (x : Sec) : Bool :=
  x.kind == 2 || x.kind == 3 || x.kind == 4 || x.kind == 5 || x.kind == 0x12 || x.kind == 0x14

/-- A section's content fails check 0x01: reserved fields of Tables 8.1, 8.6, 8.8, of R181 and R192, and the sizes that
the content gives. -/
def Sec.contentFails (img : Nat) (x : Sec) : Bool :=
  let f := gField img
  match x.kind with
  | 2 => (x.entries 16).any fun o => decide (f (o + 8) 8 ≠ 0)
  | 3 => (x.entries 8).any fun o => decide (f (o + 6) 1 ≥ 2) || decide (f (o + 7) 1 ≠ 0)
  | 4 => (readJoins img (x.off + x.n) (f 40 2) x.off).isNone
  | 5 => (x.entries 16).any fun o => decide (f (o + 3) 1 ≥ 64) || decide (f (o + 12) 4 ≠ 0)
  | 0x12 => ((List.range 32).any fun i => decide (f (x.off + 4 * i) 4 ≥ 1024)) ||
      (List.range 4).any fun k =>
        let a := f (x.off + 128 + 12 * k) 4
        let b := f (x.off + 132 + 12 * k) 4
        bit a 7 || decide (bits a 31 29 ≠ 0) || decide (bits b 15 9 ≠ 0)
  | 0x14 => decide (x.n ≠ 32 + 4 * f (x.off + 16) 2) || decide (f (x.off + 18) 14 ≠ 0) ||
      (List.range ((x.n - 32) / 4)).any fun i => decide (f (x.off + 32 + 4 * i) 4 ≥ 2 ^ 23)
  | _ => false

/-- A table that the header counts is missing; a missing cut table is left to check 0x0D (R192). -/
def tablesMissing (img : Nat) (l : List Sec) : Bool :=
  let gone (k o : Nat) := decide (gField img o 2 ≠ 0) && (globalSec l k).isNone
  gone 2 36 || gone 3 38 || gone 4 40

/-! ## Tiles of an image -/

/-- The sections of one tile of the fold. -/
structure TileSecs where
  tile  : Nat
  first : Nat
  imem  : Sec
  sched : Sec
  fab   : Sec
  decl  : Sec
  wmem  : List Sec
  deriving DecidableEq, Repr

/-- The tile IDs that tile sections name, ascending. -/
def namedTiles (l : List Sec) : List Nat := ((ordered l).filter fun x => x.tile ≠ 0xFFFF).map Sec.tile |>.eraseDups

/-- The sections that name tile `t`, by index. -/
def secsOf (l : List Sec) (t : Nat) : List Sec := (ordered l).filter fun x => x.tile = t

/-- The tiles with every section that R183 requires. -/
def foldTiles (l : List Sec) : List TileSecs :=
  (namedTiles l).filterMap fun t =>
    let m := secsOf l t
    let find (k : Nat) := m.find? fun x => x.kind = k
    match find 0x10, find 0x11, find 0x12, find 0x14 with
    | some i, some s, some f, some d => some ⟨t, (m.map Sec.idx).headD 0, i, s, f, d, m.filter fun x => x.kind = 0x13⟩
    | _, _, _, _ => none

/-- Schedule entry `e` of a tile; beyond the section it is zero (R226). -/
def TileSecs.entry (img : Nat) (x : TileSecs) (e : Nat) : Nat :=
  if 16 * e < x.sched.n then gField img (x.sched.off + 16 * e) 16 else 0

/-- Every entry of the SCHEDULE section. -/
def TileSecs.entriesOf (img : Nat) (x : TileSecs) : List Nat := (List.range (x.sched.n / 16)).map (x.entry img)

/-- Every word of the IMEM section. -/
def TileSecs.words (img : Nat) (x : TileSecs) : List Nat :=
  (List.range (x.imem.n / 4)).map fun i => gField img (x.imem.off + 4 * i) 4

/-- The field of output `o` in an entry. -/
def outField (e o : Nat) : Nat := bits e (13 * o + 12) (13 * o)

/-- QCFG of queue `k`, as a queue at its fold start. -/
def TileSecs.queue (img : Nat) (x : TileSecs) (k : Nat) : StreamQueue :=
  { cfg := BitVec.ofNat 32 (gField img (x.fab.off + 4 * k) 4) }

/-- Crook `k` at its fold start. -/
def TileSecs.crook (img : Nat) (x : TileSecs) (k : Nat) : Crook :=
  let w (j : Nat) : Word := BitVec.ofNat 32 (gField img (x.fab.off + 128 + 12 * k + 4 * j) 4)
  { cfg0 := w 0, cfg1 := w 1, cfg2 := w 2 }

/-- The declared regions of a tile (Table 8.6). -/
def TileSecs.declOf (img : Nat) (x : TileSecs) : Decl :=
  let w (o : Nat) : Word := BitVec.ofNat 32 (gField img (x.decl.off + o) 4)
  { jobRec := w 0, spillBase := w 4, spillBytes := w 8, mxeStats := w 12 }

/-- STATIC entries of a tile. -/
def TileSecs.statics (img : Nat) (x : TileSecs) : List Nat :=
  (List.range ((x.decl.n - 32) / 4)).map fun i => gField img (x.decl.off + 32 + 4 * i) 4

/-- The 64 bytes at working-memory address `a` (a multiple of 64) as the WMEM_DATA sections leave them. -/
def TileSecs.wmLine (img : Nat) (x : TileSecs) (a : Nat) : Line :=
  match x.wmem.find? fun s => decide (s.dest ≤ a) && decide (a < s.dest + s.n) with
  | some s => BitVec.ofNat 512 (gField img (s.off + a - s.dest) 64)
  | none => 0

/-- The DEPTH that the image gives queue `k` of tile `t`; 0 outside the fold. -/
def depthOf (img : Nat) (l : List TileSecs) (t k : Nat) : Nat :=
  match l.find? fun x => x.tile = t with
  | some x => (x.queue img k).depth
  | none => 0

/-- The first failing of several sections of one tile: the lowest index. -/
def firstFailing (code tile : Nat) (l : List (Sec × Bool)) : Option Bad :=
  match ((l.filter fun x => x.2).map fun x => x.1.idx).min? with
  | some i => some ⟨code, tile, some i⟩
  | none => none

/-! ## Checks 0x03 to 0x09 -/

/-- 0x03 (R18). -/
def check03 (s : State) (img : Nat) : Option Bad :=
  let east := gField img 26 2
  if gField img 25 1 > s.cols ∨ (east ≠ 0xFFFF ∧ east ≠ s.cols - 1) then some ⟨3, 0xFFFF, none⟩ else none

/-- 0x04: a tile section names a tile of another world than the request's (R399). A TILE that names no tile belongs to no
world: its failure is 0x05. -/
def check04 (s : State) (w : Bool) (l : List Sec) : Option Bad :=
  ((ordered l).find? fun x => decide (x.tile < 8192) && s.tileOk x.tile && (Sparse.get false s.sec.tileMap x.tile != w)).map fun x =>
    ⟨4, x.tile, some x.idx⟩

/-- 0x05 on one tile. -/
def tileSecsFail (s : State) (l : List Sec) (t : Nat) : Option Bad :=
  let m := secsOf l t
  let has (k : Nat) := m.any fun x => x.kind = k
  let clash (x y : Sec) : Bool := decide (y.idx < x.idx) && decide (y.kind = x.kind) &&
    (decide (x.kind ≠ 0x13) || (decide (x.dest < y.dest + y.n) && decide (y.dest < x.dest + x.n)))
  let bad (x : Sec) : Bool := (decide (x.kind = 0x13) && decide (x.dest + x.n > wmTop)) || m.any fun y => clash x y
  if !(decide (t < 8192) && s.tileOk t) then some ⟨5, t, m.head?.map Sec.idx⟩
  else match m.find? bad with
    | some x => some ⟨5, t, some x.idx⟩
    | none =>
      if !has 0x10 then some ⟨5, t, m.head?.map Sec.idx⟩
      else if has 0x11 && has 0x12 && has 0x14 then none
      else some ⟨5, t, none⟩

/-- 0x06: the source that field `f` of output `o` names does not exist, or the output has no link (R43, Table 2.5). Every
entry of the upstream SCHEDULE section counts as one that may send, also one behind HALT or WRAP. DESIGN CHOICE, unsafe:
notes/assumptions/91.md. -/
def sourceFails (s : State) (img : Nat) (l : List TileSecs) (t o f : Nat) : Bool :=
  let idx := fieldIndex f
  match fieldKind f with
  | 0 => decide (idx ≠ 0)
  | k =>
    s.beyond t o == .none ||
    (match k with
      | 1 => decide (idx ≥ 4) || (match s.beyond t idx with
          | .tile u i => !(match l.find? fun x => x.tile = u with
              | some x => (x.entriesOf img).any fun e => fieldDirect (outField e i) && decide (fieldKind (outField e i) ≠ 0)
              | none => false)
          | _ => true)
      | 2 => decide (idx ≥ 32)
      | 3 => decide (idx ≠ 0)
      | 4 => decide (idx ≥ 4)
      | _ => true)

def schedFails (s : State) (img : Nat) (l : List TileSecs) (x : TileSecs) : Option Bad :=
  firstFailing 6 x.tile [(x.sched, (x.entriesOf img).any fun e =>
    decide (e ≥ 2 ^ 83) || (List.range 5).any fun o => sourceFails s img l x.tile o (outField e o))]

/-- 0x07 (R70). -/
def coreFails (img : Nat) (x : TileSecs) : Option Bad :=
  let sends (e : Nat) : Nat := ((List.range 5).filter fun o => fieldKind (outField e o) = 3).length
  let bad (w : Nat) : Bool := match wOP w with
    | 0x20 => decide (wOut w > 4) || decide (fieldKind (outField (x.entry img (wEntry w)) (wOut w)) ≠ 3)
    | 0x21 => let q := x.queue img (8 * wDir w + wQueue w); decide (q.cons ≠ 1) || decide (q.depth = 0)
    | _ => false
  firstFailing 7 x.tile [(x.sched, (x.entriesOf img).any fun e => decide (sends e > 1)), (x.imem, (x.words img).any bad)]

/-- The queues that a crook reads. -/
def Crook.reads (c : Crook) : List Nat :=
  if 1 ≤ c.mode ∧ c.mode ≤ 4 then
    [c.in0] ++ (if c.mode = 2 then [c.in1] else []) ++ (if c.csrc = 2 then [c.cq] else [])
  else []

/-- 0x08. DESIGN CHOICE, unsafe: notes/assumptions/10.md. -/
def queuesFail (s : State) (img : Nat) (l : List TileSecs) (x : TileSecs) : Option Bad :=
  let q := x.queue img
  let conf := ((List.range 32).any fun k => decide ((q k).depth > 32) || decide ((q k).cons = 3)) ||
    (List.range 4).any fun k => (x.crook img k).reads.any fun i => decide ((q i).cons ≠ 2) || decide ((q i).cidx ≠ k)
  let out (e o : Nat) : Bool :=
    let f := outField e o
    (decide (fieldKind f = 2) && decide ((q (fieldIndex f)).cons ≠ 0)) ||
    (decide (fieldKind f ≠ 0) && !fieldDirect f && match s.beyond x.tile o with
      | .tile u i => decide (depthOf img l u (8 * i + fieldQueue f) = 0)
      | _ => false)
  firstFailing 8 x.tile [(x.fab, conf), (x.sched, (x.entriesOf img).any fun e => (List.range 5).any fun o => out e o)]

/-- 0x09 on one crook's words. DEDUCED, unsafe: notes/assumptions/18.md. -/
def Crook.badFields (c : Crook) : Bool :=
  let m := c.mode
  if m = 0 then decide (c.cfg0 ≠ 0) || decide (c.cfg1 ≠ 0) || decide (c.cfg2 ≠ 0)
  else
    !c.allowed || decide (c.outA > 4) || (if m = 1 then decide (c.outB > 4) else decide (c.outB ≠ 7)) ||
    (decide (m ≠ 2) && decide (c.in1 ≠ 0)) || (decide (m ≠ 4) && decide (bits c.cfg1.toNat 31 16 ≠ 0)) ||
    (decide (m = 2) && (decide (c.cb ≠ 0) || decide (bits c.cfg1.toNat 8 6 ≠ 0))) ||
    (decide (m = 4) && (bit c.cfg0.toNat 5 || bit c.cfg0.toNat 6 || decide (bits c.cfg1.toNat 8 6 ≠ 0) ||
      decide (c.cfg2 ≠ 0))) ||
    (decide (c.csrc = 1) && decide (c.cb > 62))

/-- 0x09. DEDUCED, unsafe: notes/assumptions/18.md. -/
def crooksFail (img : Nat) (x : TileSecs) : Option Bad :=
  let entry (e : Nat) : Bool := (List.range 4).any fun k =>
    let c := x.crook img k
    let outs := (List.range 5).filter fun o => decide (fieldKind (outField e o) = 4) && decide (fieldIndex (outField e o) = k)
    let own := if c.mode = 1 then [c.outA, c.outB] else if c.mode = 0 then [] else [c.outA]
    (outs.any fun o => !own.contains o) || (!outs.isEmpty && own.any fun o => !outs.contains o)
  firstFailing 9 x.tile [(x.fab, (List.range 4).any fun k => (x.crook img k).badFields), (x.sched, (x.entriesOf img).any entry)]

/-! ## Cuts and checks 0x0A to 0x0D -/

/-- A cut table entry (R192). -/
structure Cut where
  cut   : Nat
  row   : Nat
  east  : Bool
  inb   : Bool
  lane  : Nat
  queue : Nat
  part  : Nat
  peer  : Nat
  window : Nat
  deriving DecidableEq, Repr

def cutsOf (img : Nat) (l : List Sec) : List Cut :=
  match globalSec l 5 with
  | none => []
  | some x => (x.entries 16).map fun o =>
    let f := gField img (o + 3) 1
    { cut := gField img o 2, row := gField img (o + 2) 1, east := bit f 0, inb := bit f 1, lane := bits f 2 2
      queue := bits f 5 3, part := gField img (o + 4) 2, peer := gField img (o + 6) 2, window := gField img (o + 8) 4 }

/-- The queue that an inbound cut writes: tile and 8 × input + queue. -/
def cutQueue (s : State) (c : Cut) : Nat × Nat :=
  if c.east then (idOf c.row (s.cols - 1), 8 + c.queue) else (idOf c.row 0, 24 + c.queue)

/-- Cp of a path, or `none` where a reference names no queue of the image (R180, R181). -/
def capacity (s : State) (img : Nat) (l : List TileSecs) (cuts : List Cut) (p : Path) : Option Nat :=
  let q := p.refs.map fun r => (bits r 12 0, 8 * bits r 14 13 + bits r 17 15)
  if q.any fun x => depthOf img l x.1 x.2 = 0 then none
  else
    let inb := cuts.filter fun c => c.inb && q.contains (cutQueue s c)
    some ((q.map fun x => depthOf img l x.1 x.2).sum + 4 * p.links + (inb.map Cut.window).sum)

/-- 0x0A. -/
def check0A (s : State) (img : Nat) (secs : List Sec) (l : List TileSecs) : Option Bad :=
  match globalSec secs 4, joinsOf img secs with
  | some x, some js =>
    let cuts := cutsOf img secs
    let bad (j : Join) : Bool := !(l.any fun y => y.tile = j.tile) || decide (j.kind > 2) || decide (j.paths.length < 2) ||
      decide (j.paths.length > 8) || j.paths.any fun p => match capacity s img l cuts p with
        | some c => decide (c < p.demand)
        | none => true
    if js.any bad then some ⟨0x0A, 0xFFFF, some x.idx⟩ else none
  | _, _ => none

/-- The held-state and pair checks of a record against the one before it in a straight run (R184). M and N that a shape
record gives are compared when the command starts (R128, R132), all else here. -/
def runFails (p r : Line) : Bool :=
  if isMatmul p && mPair p then !mxePairFits p r || (isMatmul r && mAccin r)
  else
    let late := mRt p || (isMatmul r && mRt r)
    let h : Option Held := if isMatmul p && decide (mOut p = 2) then
        some ⟨if late then mM r else mM p, if late then mN r else mN p, mEacc p, 0⟩ else none
    mxeHeldBad h r (mM r) (mN r)

/-- The MXE records of a tile's STATIC entries, each with its SEQ: `prev` is the record before. -/
def runsFail : Option Line → List (Bool × Line) → Bool
  | _, [] => false
  | prev, x :: r =>
    (match prev with | some p => x.1 && runFails p x.2 | none => false) || runsFail (some x.2) r

/-- 0x0B: static records (R132, R169, R220). DEDUCED, unsafe: notes/assumptions/19.md. -/
def staticsFail (img : Nat) (x : TileSecs) : Option Bad :=
  let d := x.declOf img
  let st := x.statics img
  let rec_ (w : Nat) : Line := x.wmLine img (bits w 19 0)
  let bad (w : Nat) : Bool :=
    let r := rec_ w
    decide (bits w 19 0 % 64 ≠ 0) ||
    (match bits w 21 20 with
      | 0 => headerBad 0 r none || decide (mxeStaticCheck d r ≠ 0) || (isMatmul r && mPair r && mxeSelfPairBad r) ||
          (isMatmul r && !mRt r && mxeMaskBad r (mM r) (mN r))
      | 1 => decide (vxeCheck r none 0 ≠ 0)
      | 2 => decide (upeCheck r none ≠ 0)
      | _ => true)
  let mxe := (st.filter fun w => bits w 21 20 = 0).map fun w => (bit w 22, rec_ w)
  firstFailing 0x0B x.tile [(x.decl, st.any bad || runsFail none mxe)]

def paddocksOf (img : Nat) (l : List Sec) : List Paddock :=
  match globalSec l 2 with
  | none => []
  | some x => (x.entries 16).map fun o =>
    { row0 := gField img o 1, col0 := gField img (o + 1) 1, rows := gField img (o + 2) 1, cols := gField img (o + 3) 1
      first := gField img (o + 4) 2, last := gField img (o + 6) 2 }

def layersOf (img : Nat) (l : List Sec) : List Layer :=
  match globalSec l 3 with
  | none => []
  | some x => (x.entries 8).map fun o =>
    { layer := gField img o 2, paddock := gField img (o + 2) 2, group := gField img (o + 4) 2
      retained := bit (gField img (o + 6) 1) 0 }

/-- A tile lies in a paddock. -/
def Paddock.holds (p : Paddock) (t : Nat) : Bool :=
  decide (p.row0 ≤ rowOf t) && decide (rowOf t < p.row0 + p.rows) && decide (p.col0 ≤ colOf t) &&
  decide (colOf t < p.col0 + p.cols)

/-- Two paddocks share a tile. -/
def Paddock.meets (p q : Paddock) : Bool :=
  decide (p.row0 < q.row0 + q.rows) && decide (q.row0 < p.row0 + p.rows) && decide (p.col0 < q.col0 + q.cols) &&
  decide (q.col0 < p.col0 + p.cols)

/-- Some two elements of a list, in order, stand in a relation. -/
def anyPair {α : Type} (f : α → α → Bool) : List α → Bool
  | [] => false
  | x :: r => (r.any fun y => f x y) || anyPair f r

/-- 0x0C, paddocks (R171). -/
def paddocksFail (s : State) (ps : List Paddock) (layers : Nat) : Bool :=
  (ps.any fun p => decide (p.rows = 0) || decide (p.row0 + p.rows > 64) || decide (p.cols = 0) ||
    decide (p.col0 + p.cols > s.cols) || decide (p.first > p.last) || decide (p.last ≥ layers)) || anyPair Paddock.meets ps

/-- 0x0C, layers (R172). -/
def layersFail (ls : List Layer) (paddocks rd : Nat) : Bool :=
  (anyPair (fun x y => decide (x.layer = y.layer)) ls) || (ls.any fun x => decide (x.paddock ≥ paddocks)) ||
  (List.zip (List.range ls.length) ls).any fun x => x.2.retained != decide (ls.length ≤ x.1 + rd)

/-- A declared region: first byte and size. -/
def TileSecs.declared (img : Nat) (x : TileSecs) : List (Nat × Nat) :=
  let d := x.declOf img
  (if d.jobRec = 0xFFFFFFFF#32 then [] else [(d.jobRec.toNat, 64)]) ++
  (if d.spillBytes = 0 then [] else [(d.spillBase.toNat, d.spillBytes.toNat)]) ++
  (if d.mxeStats = 0xFFFFFFFF#32 then [] else [(d.mxeStats.toNat, 32)]) ++
  (x.statics img).map fun w => (bits w 19 0, 64)

/-- SEQ = 1 on the first STATIC entry of some engine (R184). -/
def seqFirst (st : List Nat) : Bool :=
  (List.range 4).any fun e => match st.find? fun w => bits w 21 20 = e with
    | some w => bit w 22
    | none => false

/-- 0x0C on one tile (R105, R132, R184). -/
def declFails (img : Nat) (x : TileSecs) : Option Bad :=
  let d := x.declOf img
  let j := d.jobRec.toNat
  let b := d.spillBase.toNat
  let n := d.spillBytes.toNat
  let m := d.mxeStats.toNat
  let none_ (w : Word) := decide (w = 0xFFFFFFFF#32)
  let bad := seqFirst (x.statics img) || (!none_ d.jobRec && (decide (j % 64 ≠ 0) || decide (j + 64 > wmTop))) ||
    (decide (n ≠ 0) && (decide (b % 64 ≠ 0) || decide (n % 32768 ≠ 0) || decide (b + n > wmTop))) ||
    (!none_ d.mxeStats && (decide (m % 32 ≠ 0) || decide (m + 32 > wmTop) ||
      (decide (n ≠ 0) && decide (m < b + n) && decide (b < m + 32))))
  let cuts (s : Sec) : Bool := (x.declared img).any fun r =>
    decide (s.dest < r.1 + r.2) && decide (r.1 < s.dest + s.n) && !(decide (r.1 ≤ s.dest) && decide (s.dest + s.n ≤ r.1 + r.2))
  if bad then some ⟨0x0C, x.tile, some x.decl.idx⟩
  else (x.wmem.find? cuts).map fun s => ⟨0x0C, x.tile, some s.idx⟩

/-- 0x0C. -/
def check0C (s : State) (img : Nat) (secs : List Sec) (l : List TileSecs) : Option Bad :=
  let rd := gField img 28 1
  let ps := paddocksOf img secs
  let ls := layersOf img secs
  if rd > 63 then some ⟨0x0C, 0xFFFF, none⟩
  else if paddocksFail s ps ls.length then some ⟨0x0C, 0xFFFF, (globalSec secs 2).map Sec.idx⟩
  else if layersFail ls ps.length rd then some ⟨0x0C, 0xFFFF, (globalSec secs 3).map Sec.idx⟩
  else l.findSome? fun x =>
    if (ps.filter fun p => p.holds x.tile).length ≠ 1 then some ⟨0x0C, x.tile, some x.first⟩ else declFails img x

/-- 0x0D (R191, R192). -/
def check0D (img : Nat) (secs : List Sec) : Option Bad :=
  let part := bit (gField img 6 2) 1
  let i := gField img 52 2
  let n := gField img 54 2
  let sec := (globalSec secs 5).map Sec.idx
  let bad (c : Cut) : Bool := decide (c.window < 64) || decide (c.window > 4096) || decide (c.row > 63) ||
    (!c.inb && decide (c.queue ≠ 0)) || decide (c.part ≥ n) || decide (c.part = i)
  if part then
    if n < 2 ∨ n > 4096 ∨ i ≥ n then some ⟨0x0D, 0xFFFF, none⟩
    else if gField img 42 2 ≠ 0 ∧ sec.isNone then some ⟨0x0D, 0xFFFF, none⟩
    else if (cutsOf img secs).any bad then some ⟨0x0D, 0xFFFF, sec⟩
    else none
  else if n ≠ 1 ∨ i ≠ 0 ∨ gField img 44 8 ≠ 0 then some ⟨0x0D, 0xFFFF, none⟩
  else if gField img 42 2 ≠ 0 ∨ sec.isSome then some ⟨0x0D, 0xFFFF, sec⟩
  else none

/-! ## Digest and signature (R182, R435) -/

/-- Replace bytes `a … a + n − 1` by zeros. -/
def blank (l : List Byte) (a n : Nat) : List Byte := l.take a ++ List.replicate (min n (l.length - a)) 0 ++ l.drop (a + n)

/-- 0x02: DIGEST, and the signature where an operator key is enrolled. -/
def check02 (s : State) (img : Nat) (secs : List Sec) : Option Bad :=
  let all := toBytes img (gField img 16 8)
  let sig := globalSec secs 1
  let zeroed := match sig with | some x => blank (blank all 64 64) x.off x.n | none => blank all 64 64
  if shake256 zeroed 64 ≠ gField img 64 64 then some ⟨2, 0xFFFF, none⟩
  else match s.flash.operatorKey with
    | none => none
    | some key =>
      match sig with
      | none => some ⟨2, 0xFFFF, none⟩
      | some x =>
        if Config.mldsaVerify key "ORV-FOLD" (all.take 128) ((all.drop x.off).take x.n) then none
        else some ⟨2, 0xFFFF, some x.idx⟩

/-- Checks 0x02 to 0x0D, the image being wholly read; `w` is the world of the request.
DEDUCED, unsafe: notes/assumptions/19.md. -/
def imageFails (s : State) (w : Bool) (img : Nat) : Option Bad :=
  let secs := sections img
  let l := foldTiles secs
  (check02 s img secs).orElse fun _ => (check03 s img).orElse fun _ => (check04 s w secs).orElse fun _ =>
  ((namedTiles secs).findSome? (tileSecsFail s secs)).orElse fun _ => (l.findSome? (schedFails s img l)).orElse fun _ =>
  (l.findSome? (coreFails img)).orElse fun _ => (l.findSome? (queuesFail s img l)).orElse fun _ =>
  (l.findSome? (crooksFail img)).orElse fun _ => (check0A s img secs l).orElse fun _ =>
  (l.findSome? (staticsFail img)).orElse fun _ => (check0C s img secs l).orElse fun _ => check0D img secs

end Sys2Proof.Machine
end

