-- ==== Sys2Proof/Machine/Mesh.lean ====
section
/-! DEFINITION. The commands of the mesh: slots and entries, arrivals, the watchdog, the mesh counters, the fault tree
(spec 02, 03 R79, 08). -/

namespace Sys2Proof.Machine

/-- The router is running a slot: the fold runs on the tile, or a core fault lets the current slot complete, and the router
is neither halted, frozen nor between two entries (R39, R54, R78). -/
def Tile.slotDue (x : Tile) : Bool :=
  (decide (x.core.state = 1) || x.router.last) && !x.router.halted && !x.router.frozen && !x.router.used

/-- A cycle in which the current slot does not complete: one of the three counters counts it (R46), HOLD is asserted or
not (R49), and a cycle without progress advances the watchdog of a tile on which the fold runs (R52). -/
def stallSlot (s : State) (t : Nat) (lackOut held : Bool) : State :=
  s.modTile t fun x => x.withRouter fun r =>
    let r := { r with stalled := true, held := held, wdCount := if held then 0 else r.wdCount + b2n (decide (x.core.state = 1)) }
    if held then { r with stallHold := satAdd r.stallHold 1 }
    else if lackOut then { r with stallOut := satAdd r.stallOut 1 }
    else { r with stallIn := satAdd r.stallIn 1 }

/-- Output `o` sends the token that its owner presents: ROOM and credit are used (R40), TAG is formed from the field and
from the token's LAST (Table 2.1, R68, R179). -/
def sendOn (s : State) (t o : Nat) (data : Line) (last : Bool) : State :=
  let f := (s.tile t).router.field o
  let q := fieldQueue f
  let tag : Byte := BitVec.ofNat 8 (128 * b2n (fieldDirect f) + 16 * q + 8 * b2n last)
  let gw : Bool := match s.beyond t o with | .gateway _ _ _ => true | _ => false
  let s := s.modTile t fun x => x.withRouter fun r =>
    let r := if gw then r else { r with room := Sparse.mod 0 r.room o (· - 1) }
    if gw || !fieldDirect f then { r with credit := Sparse.mod 0 r.credit (8 * o + q) (· - 1) } else r
  sendToken (s.modTile t fun x => x.chargeFree 24) t o ⟨data, tag⟩

/-- What the sources of a completing slot give up, each once: crossing heads (by input), queue heads (by queue), the
oldest message of the send buffer. Crooks give up their heads in `crookTake`. -/
def takeSources (s : State) (t : Nat) (x : Tile) : State :=
  let r := x.router
  let fs := r.owned.map r.field
  let inputs := (List.range 5).filter fun i => fs.any fun f => fieldKind f == 1 && directInput (fieldIndex f) == i
  let queues := (List.range 32).filter fun k => fs.any fun f => fieldKind f == 2 && fieldIndex f % 32 == k
  let s := forAll inputs s fun s i => popCross s t i
  let s := forAll queues s fun s k => popQueue s t k
  if fs.any fun f => fieldKind f == 3 then
    s.modTile t fun x => x.withCore fun c => { c with sendBuf := c.sendBuf.drop 1 }
  else s

/-- Crook `k` takes its heads and moves on, and counts what it presented on each output it owns (R178). -/
def crookTake (s : State) (t : Nat) (x : Tile) (k : Nat) : State :=
  match x.router.crookStep k with
  | .wait _ => s
  | .go outs pops next =>
    let mine := x.router.owned.filter fun o =>
      fieldKind (x.router.field o) == 4 && fieldIndex (x.router.field o) % 4 == k
    let toks := (mine.filter fun o => match outs.lookup o with | some (some _) => true | _ => false).length
    let c := { next with pres := satAdd next.pres toks, nulls := satAdd next.nulls (mine.length - toks) }
    let s := forAll pops s fun s q => popQueue s t q
    s.modTile t fun y => y.withRouter fun r => { r with crooks := Sparse.set {} r.crooks k c }

/-- The slot counter, REMAIN and the watchdog after a completed slot (R39, R40, R52). -/
def Router.completed (r : Router) : Router :=
  { r with
    slotCnt := satAdd r.slotCnt 1, stalled := false, held := false, last := false, wdCount := 0
    remain := if r.remain = 0 then 0 else r.remain - 1
    used := decide (r.remain = 0) }

/-- The queue heads that crooks read in the slot, with the outcome of the check made when they leave (Table 17.2). -/
def Router.crookReads (r : Router) : List Nat :=
  r.owningCrooks.flatMap fun k => match r.crookStep k with | .go _ pops _ => pops | .wait _ => []

/-- A completing slot: every transfer, every source's part, the counters. -/
def completeSlot (s : State) (t : Nat) : State :=
  let x := s.tile t
  let r := x.router
  let s := forAll r.owned s fun s o =>
    match x.present (r.field o) o with
    | .tok d l => sendOn s t o d l
    | _ => s
  let s := takeSources s t x
  let s := forAll r.owningCrooks s fun s k => crookTake s t x k
  s.modTile t fun x => x.withRouter Router.completed

/-- The violation that an earlier cycle of the current slot has recorded (R50). -/
def Router.violated (r : Router) : Option (Nat × Nat) :=
  match r.fault with
  | some f => if f.code = 1 ∧ f.slot = r.slotCnt then some (f.port.toNat, f.claimant.toNat) else none
  | none => none

/-- The violation `v` of the slot that tile `t` runs (R50): the fault is recorded, and the tile stops when the slot completes
(`done`), with the counter holding that slot's number. -/
def violate (s : State) (t : Nat) (slot : BitVec 64) (done : Bool) (v : Nat × Nat) : State :=
  s.modTile t fun x =>
    let r := { x.router with slotCnt := slot }
    if done then { x with router := (r.record 1 v.1 v.2).halt, core := { x.core with state := stopState x.core.state } }
    else { x with router := r.record 1 v.1 v.2 }

/-- SLOT: one attempt at tile `t`'s current slot. `ret`: an uncorrectable error on the return path of an output. A corrected
one has no effect: R55 counts corrected tokens, and the return path carries none. DEDUCED, unsafe:
notes/assumptions/74.md. -/
def slotEffect (t : Nat) (ret : Option (Fin 5)) (heads : List (Fin 32 × Ecc)) (s : State) : State :=
  let x := s.tile t
  let r := x.router
  if !x.slotDue then s
  else match ret with
  | some o => returnUe s t o
  | none =>
    let pres (o : Nat) := x.present (r.field o) o
    let needOut := r.owned.filter fun o => pres o != .null && !canTake s t o
    let needIn := r.owned.filter fun o => pres o == .absent
    let checks := heads.filter fun h => r.crookReads.contains h.1.val
    match checks.find? fun h => h.2 == .ue with
    | some h => linkUe (popQueue s t h.1.val) t (h.1.val / 8)
    | none =>
      let done := needOut.isEmpty && needIn.isEmpty
      let s1 :=
        if done then
          completeSlot (forAll (checks.filter fun h => h.2 == .ce) s fun s h => countCe s t (h.1.val / 8)) t
        else
          let outHeld (o : Nat) : Bool :=
            match s.beyond t o with
            | .tile u _ => (s.tile u).router.held
            | .gateway _ _ _ => true
            | .none => false
          let held := needOut.all outHeld && needIn.all fun o => sourceHeld s t o
          stallSlot s t (!needOut.isEmpty) held
      match x.violation.orElse fun _ => r.violated with
      | none => s1
      | some v => violate s1 t r.slotCnt done v

def execSlot (t : TileId) (ret : Option (Fin 5)) (heads : List (Fin 32 × Ecc)) (s : State) : Result :=
  atIsland t s (slotEffect t.toNat ret heads)

/-- The router after the last slot of an entry (R39): HALT stops it, WRAP and entry 511 return to entry 0. -/
def Router.advance (r : Router) : Router :=
  let e := r.entryWord r.entry.toNat
  if entryHalt e then { r with halted := true, used := false, remain := 0 }
  else
    let nxt : BitVec 9 := if entryWrap e then 0 else r.entry + 1
    { r with entry := nxt, used := false, remain := BitVec.ofNat 16 (entryRepeat (r.entryWord nxt.toNat)) }

/-- ENTRY_ADVANCE (R39). -/
def execEntryAdvance (t : TileId) (s : State) : Result :=
  atIsland t s fun s =>
    let x := s.tile t.toNat
    if x.core.state = 1 ∧ x.router.used ∧ ¬x.router.halted ∧ ¬x.router.frozen then
      s.setTile t.toNat (x.withRouter Router.advance)
    else s

/-- A token is written into queue `k` (R42, R48): never beyond DEPTH. -/
def Router.accept (r : Router) (k : Nat) (tok : Token) : Router :=
  { r with queues := Sparse.mod {} r.queues k fun q => { q with toks := q.toks ++ [tok], accept := satAdd q.accept 1 } }

/-- The head of input `inp`'s crossing buffer is the next to enter: the two lanes of an edge-facing input enter in the order
of their presentation (R37, R175). -/
def State.laneNext (s : State) (t inp : Nat) : Bool :=
  match (s.tile t).router.laneOrder with
  | [] => true
  | l :: _ => if decide (inp = 4) || decide (s.edgeDir t = some inp) then l == decide (inp = 4) else true

/-- TOKEN_ARRIVAL: the head of the crossing buffer of input `inp` leaves it (R34, R42). Tokens still enter the stream queues of
a tile that a core fault has stopped and no freeze has reached: R78 does not say. DESIGN CHOICE, unsafe:
notes/assumptions/91.md. -/
def tokenArrivalEffect (t : Nat) (inp : Nat) (chk : Ecc) (s : State) : State :=
  let r := (s.tile t).router
  match (Sparse.get [] r.cross inp).head? with
  | none => s
  | some k =>
    if r.frozen || !s.laneNext t inp then s
    else if chk = .ue then linkUe (popCross s t inp) t inp
    else
      let s1 := if chk = .ce then countCe s t inp else s
      if bit k.tag.toNat 7 then s1
      else
        let d := if inp = 4 then (s.edgeDir t).getD 3 else inp
        let qk := d * 8 + bits k.tag.toNat 6 4
        let q := r.queue qk
        if q.toks.length < q.depth then
          popCross (s1.modTile t fun x => x.withRouter fun r => r.accept qk k) t inp
        else s

def execTokenArrival (t : TileId) (inp : Fin 5) (chk : Ecc) (s : State) : Result :=
  atIsland t s (tokenArrivalEffect t.toNat inp.val chk)

/-- NO_PROGRESS (R52): the watchdog has counted MESH_WD_LIMIT cycles (`stallSlot` counts them). It counts only while the
fold runs on a tile that is neither held, halted nor frozen, and never with a limit of 0. -/
def execNoProgress (t : TileId) (s : State) : Result :=
  atIsland t s fun s =>
    let x := s.tile t.toNat
    if x.core.state = 1 ∧ ¬x.router.held ∧ ¬x.router.halted ∧ ¬x.router.frozen ∧ x.router.wdLimit ≠ 0 ∧
        x.router.wdCount ≥ x.router.wdLimit.toNat then meshFault s t.toNat 2 7 0
    else s

/-- A write to MESH_WD_LIMIT (R53). -/
def execMeshWdLimit (w : Agent) (t : TileId) (v : Word) (s : State) : Result :=
  .next (tileWrite s w t.toNat 0x180104 v.toNat)

/-- A write of 1 to CLR_STALL (R55). -/
def execClrStall (w : Agent) (t : TileId) (s : State) : Result :=
  .next (tileWrite s w t.toNat 0x180134 1)

/-- A write of 1 to CLR_CE (R55). -/
def execClrCe (w : Agent) (t : TileId) (s : State) : Result :=
  .next (tileWrite s w t.toNat 0x180134 2)

/-- A write of 1 to CLR_CNT of the tile core (R81). -/
def execClrCnt (w : Agent) (t : TileId) (s : State) : Result :=
  .next (tileWrite s w t.toNat 0x180048 1)

/-- A tile with a recorded mesh or core fault asserts its fault output (R79). -/
def Tile.faulted (x : Tile) : Bool := x.router.fault.isSome || x.core.fault.isSome

/-- FAULT_TREE_REPORT (R79): the row's fault bit and its lowest-numbered faulting tile reach the Melvor complex. An entry
of `rowFaults` holds the tile ID plus 1; 0 is no fault. -/
def execFaultTreeReport (row : Fin 64) (s : State) : Result :=
  .next <|
    match ((List.range s.cols).map (idOf row.val)).find? fun t => (s.tile t).faulted with
    | none => s
    | some t =>
      fireIf (decide (Sparse.get 0 s.melvor.rowFaults row.val = 0))
        (s.withMelvor fun m => { m with rowFaults := Sparse.set 0 m.rowFaults row.val (t + 1)
                                        firstFault := some (m.firstFault.getD t) }) 48

end Sys2Proof.Machine
end

