-- ==== Sys2Proof/Machine/Loader.lean ====
section
/-! DEFINITION. The device loader (spec 08 R185-R193, 13 R303, 02 R31, R55, 17 R373): reading and checking an image, the
drained state, DISCARD, row maps, the clear and the load of the tiles, the fold start, IMAGE_STAGE, IMAGE_ACTIVATE and
PARTITION_START. -/

namespace Sys2Proof.Machine

/-! ## Reading an image (R185) -/

/-- Check 0x01 on sections in order, reading the structured ones from the store. -/
def scanSecs (base img : Nat) (all : List Sec) : List Sec → State → State × Option Bad
  | [], s => (s, none)
  | x :: r, s =>
    if x.entryFails img all then (s, some ⟨1, x.tile, some x.idx⟩)
    else if x.structured then
      let y := bytesRead s (base + x.off) x.n
      if y.2.1 then (y.1, some ⟨0x0F, 0xFFFF, none⟩)
      else if x.contentFails (img + y.2.2 * 256 ^ x.off) then (y.1, some ⟨1, x.tile, some x.idx⟩)
      else scanSecs base img all r y.1
    else scanSecs base img all r s

/-- The image in slot `slot`, read and checked for a request of world `w`: the state, the first failing check, and the
bytes. No check runs on poisoned bytes. -/
def loadImage (s : State) (slot : Nat) (w : Bool) : State × Option Bad × Nat :=
  let base := slotBase slot
  let h := bytesRead s base 256
  if h.2.1 then
    let f := h.1.fresh
    let g := f.2.fresh
    (g.2, some ⟨0x0F, 0xFFFF, none⟩, f.1.toNat + g.1.toNat * 2 ^ 512)
  else if headerFails h.2.2 then (h.1, some ⟨1, 0xFFFF, none⟩, h.2.2)
  else
    let t := bytesRead h.1 (base + 256) (16 * gField h.2.2 8 4)
    let head := h.2.2 + t.2.2 * 256 ^ 256
    if t.2.1 then (t.1, some ⟨0x0F, 0xFFFF, none⟩, h.2.2)
    else
      let all := sections head
      let g := scanSecs base head all (all.filter fun x => x.tile = 0xFFFF) t.1
      match g.2 with
      | some b => (g.1, some b, head)
      | none =>
        if tablesMissing head all then (g.1, some ⟨1, 0xFFFF, none⟩, head)
        else
          let k := scanSecs base head all ((ordered all).filter fun x => x.tile ≠ 0xFFFF) g.1
          match k.2 with
          | some b => (k.1, some b, head)
          | none =>
            let r := bytesRead k.1 base (gField head 16 8)
            if r.2.1 then (r.1, some ⟨0x0F, 0xFFFF, none⟩, head)
            else (r.1, imageFails r.1 w r.2.2, r.2.2)

/-- Some line that the loader reads from a slot waits. -/
def State.slotBlocked (s : State) (slot : Nat) : Bool :=
  let n := readBytes s.hbm (slotBase slot + 16) 8
  s.bytesBlocked .melvor false (slotBase slot) (max 256 (min n 190000000))

/-- RESULT of both loader commands (R303). The time taken, and the tile and section of a result that names none, are
free values. -/
def loaderResult (s : State) (bad : Option Bad) (img dropped : Nat) : Nat × State :=
  let f := s.fresh
  let v := f.1.toNat
  let code := match bad with | some b => b.code | none => 0
  let tile := match bad with | some b => b.tile | none => v / 2 ^ 64 % 2 ^ 16
  let sec := match bad with
    | some b => b.sec.getD (v / 2 ^ 32 % 2 ^ 32)
    | none => v / 2 ^ 32 % 2 ^ 32
  (code + gField img 28 1 * 2 ^ 8 + tile % 65536 * 2 ^ 16 + sec % 2 ^ 32 * 2 ^ 32 + gField img 16 8 * 2 ^ 64 +
    dropped % 2 ^ 32 * 2 ^ 128 + v % 2 ^ 32 * 2 ^ 160 + gField img 64 16 * 2 ^ 192, f.2)

/-- A loader command completes; LOADER_BUSY falls (source 37). -/
def loaderEnd (s : State) (p : Port) (e : Line) (bad : Option Bad) (img dropped : Nat) : State :=
  let s := fire (s.withMelvor fun m => { m with loaderBusy := false, pendingAct := none }) 37
  let r := loaderResult s bad img dropped
  match bad with
  | none => complete r.2 p e 0 0 r.1
  | some b => complete r.2 p e 12 b.code r.1

/-! ## Drained (R186) -/

/-- Every stream queue, crossing buffer and the send buffer is empty (EMPTY, Table 8.8). -/
def Tile.empty (x : Tile) : Bool :=
  (x.router.queues.all fun q => q.2.toks.isEmpty) && (x.router.cross.all fun c => c.2.isEmpty) && x.core.sendBuf.isEmpty

/-- The conditions of R80 hold (DONE, Table 8.8). -/
def Tile.done (x : Tile) : Bool := x.core.ended && x.partDone

/-- The loaded fold is drained; a fold stopped by a fault or frozen is not, nor is that of a job (R301). -/
def State.drained (s : State) : Bool :=
  match s.melvor.fold with
  | none => true
  | some f =>
    !s.melvor.foldFrozen && decide (s.melvor.jobState = 0) &&
      (f.tiles.all fun t => let x := s.tile t; x.done && x.empty && !x.faulted) &&
    (List.range 16).all fun d => (s.drover d).opens.all fun q => q.2.xfers.isEmpty && q.2.behind.isEmpty

/-! ## DISCARD (R188, R263, R265) -/

/-- Tokens and messages of a tile. -/
def Tile.tokens (x : Tile) : Nat :=
  (x.router.queues.map fun q => q.2.toks.length).sum + (x.router.cross.map fun c => c.2.length).sum + x.core.sendBuf.length

/-- A tile drops what it holds, counting it in QDISCARD and FAB_DISC; its engines lose their queues, commands and held
state. -/
def Tile.discard (x : Tile) : Tile :=
  let r := x.router
  let lost := (r.cross.map fun c => c.2.length).sum + x.core.sendBuf.length
  let q (e : EngQ) : EngQ := { e with queue := [], summs := [] }
  { x with
    router := { r with queues := r.queues.map fun k =>
                         (k.1, { k.2 with toks := [], discard := satAdd k.2.discard k.2.toks.length })
                       cross := [], laneOrder := [], fabDisc := satAdd r.fabDisc lost }
    core := { x.core with sendBuf := [], blocked := none }
    mxe := { x.mxe with q := q x.mxe.q, run := none, held := none, drain := [], waiting := false }
    vxe := { x.vxe with q := q x.vxe.q, run := none }
    upe := { x.upe with q := q x.upe.q, run := none } }

/-- Bales of a queue that DISCARD drops: buffered or returning ones, and bales of an OUT queue not issued (R263). -/
def DQueue.bales (y : DQueue) : Nat :=
  y.sumBales fun x => if oKind y.rcd = 0 then x.issued - x.moved / 64 else cdiv x.moved 64 - x.issued

/-- Requests to host memory of a queue that are outstanding. -/
def DQueue.hostOpen (y : DQueue) : List HostReq := y.dropHost ++ y.xfers.flatMap fun x => x.host

/-- A queue is closed; what its requests still bring is discarded as it arrives. -/
def DQueue.closed (y : DQueue) : DQueue := { dropHost := y.hostOpen }

/-- A drover drops what the old fold left in it. -/
def Drover.discard (x : Drover) : Drover :=
  { x with
    discBales := satAdd x.discBales ((x.queues.map fun q => q.2.bales).sum)
    discTokens := satAdd x.discTokens ((x.chans.map fun c => c.2.length).sum)
    cutDisc := satAdd x.cutDisc ((x.cuts.map fun c => if c.inbound then c.toks.length else 0).sum)
    queues := (x.queues.map fun q => (q.1, q.2.closed)).filter fun q => decide (q.2 ≠ {})
    oldCuts := (x.oldCuts ++ (x.cuts.filter fun c => c.inbound).map fun c => c.cut).eraseDups
    chans := [], cuts := [], sideUsed := 0 }

/-- The tokens and messages that DISCARD will drop. -/
def State.heldTokens (s : State) : Nat :=
  match s.melvor.fold with
  | some f => (f.tiles.map fun t => (s.tile t).tokens).sum
  | none => 0

/-- Step 5: the fold is frozen and flushed. -/
def discardFold (s : State) : State :=
  let s := freezeFold s
  let s := match s.melvor.fold with
    | some f => forAll f.tiles s fun s t => s.modTile t Tile.discard
    | none => s
  let s := s.withGrp fun g => { g with contribs := [], early := [] }
  forAll (List.range 16) s fun s d => s.modDrover d Drover.discard

/-! ## Row maps (R28, R31, R372, R373) -/

/-- The physical columns of a row that the device record does not expose, defective and spare (R28, R389); a row for which
it lists none has its eastmost columns as spares. -/
def State.recordRow (s : State) (row : Nat) : List Nat × List Nat :=
  let x := (Sparse.get [] s.flash.record.defects row, Sparse.get [] s.flash.record.spares row)
  if x = ([], []) then ([], (List.range 72).drop s.cols) else x

/-- The unexposed good tiles of a row. -/
def State.rowSpares (s : State) (row : Nat) : List Nat := Sparse.get (s.recordRow row).2 s.flash.spares row

/-- The defective tiles of a row (R372). -/
def State.rowDefects (s : State) (row : Nat) : List Nat := (s.recordRow row).1 ++ Sparse.get [] s.flash.defective row

/-- The physical columns of a row that are exposed, in order; logical column c is the entry c. -/
def State.exposed (s : State) (row : Nat) : List Nat :=
  (List.range 72).filter fun c => !(s.rowSpares row).contains c && !(s.rowDefects row).contains c

/-- Every vertical link between two rows stays within 4 physical columns (R30). -/
def inReach (a b : List Nat) : Bool := (List.zip a b).all fun x => decide (x.1 ≤ x.2 + 4) && decide (x.2 ≤ x.1 + 4)

/-- The spares of a row by distance from physical column `c`, the western one first on a tie.
DESIGN CHOICE, unsafe: notes/assumptions/20.md. -/
def byDistance (c : Nat) (l : List Nat) : List Nat :=
  let dist (x : Nat) := (x - c) + (c - x)
  sortBy (fun x y => decide (dist x < dist y) || (decide (dist x = dist y) && decide (x ≤ y))) l

/-- The row with spare `p` in place of the tile at physical column `c`. -/
def State.shifted (s : State) (row c p : Nat) : List Nat :=
  (List.range 72).filter fun x => (s.exposed row).contains x && decide (x ≠ c) || decide (x = p)

/-- The place of physical column `c` in a row's map. -/
def placeIn (c : Nat) (l : List Nat) : Option Nat := (List.range l.length).find? fun j => decide (l.getD j 72 = c)

/-- A tile with every memory at zero (R226). -/
def Tile.cleared (x : Tile) : Tile :=
  { x with wmem := [], amem := [], flaws := [], core := { x.core with imem := [] }, router := { x.router with sched := [] }
           rel := { x.rel with rewrite := none } }

/-- The tile at logical column `j` of a row once the map `new` has replaced `old`: the physical tile that the map names,
with the WORLD of its new ID, cleared where that differs or where the tile was not exposed before (R226, R401). -/
def State.movedTile (s : State) (row : Nat) (old new : List Nat) (j : Nat) : Tile :=
  let x := s.tile (idOf row j)
  match placeIn (new.getD j 72) old with
  | none => { world := x.world, island := x.island }
  | some k =>
    let y := s.tile (idOf row k)
    if y.world = x.world then y else { y.cleared with world := x.world }

/-- The row's map `new` replaces `old`: the shifted physical tiles, with their counts, go by their new IDs. -/
def moveRow (s : State) (row : Nat) (old new : List Nat) : State :=
  let count (j : Nat) : TileCount := match placeIn (new.getD j 72) old with | some k => s.count (idOf row k) | none => {}
  let home (u : Nat) : Nat :=
    if rowOf u = row then idOf row ((placeIn (old.getD (colOf u) 72) new).getD (colOf u)) else u
  let moved := (List.range new.length).filter fun j => decide (new.getD j 72 ≠ old.getD j 72)
  let f := s.flash
  forAll moved { s with flash := { f with unplaced := f.unplaced.map home } } fun u j =>
    (u.setTile (idOf row j) (s.movedTile row old new j)).setCount (idOf row j) (count j)

/-- The logical location of physical column `c`, in the row of `t`, names no tile from now on (R373); its counts end. -/
def unplace (s : State) (t c : Nat) : State :=
  let u := idOf (rowOf t) ((placeIn c (s.exposed (rowOf t))).getD (colOf t))
  (s.setCount u {}).withFlash fun f => { f with unplaced := f.unplaced ++ [u] }

/-- The tile at physical column `c` of a row is retired, which was marked as `t`: the nearest spare whose row stays in reach
replaces it, and the logical columns between shift by one (R373). DESIGN CHOICE, unsafe: notes/assumptions/20.md. -/
def retireTile (s : State) (t c : Nat) : State :=
  let row := rowOf t
  let old := s.exposed row
  let fits (p : Nat) : Bool :=
    let m := s.shifted row c p
    (decide (row = 0) || inReach m (s.exposed (row - 1))) && (decide (row = 63) || inReach m (s.exposed (row + 1)))
  let s := s.withFlash fun f => { f with applied := f.applied ++ [t], linkUes := f.linkUes.filter fun x => decide (x.1 / 8 ≠ t) }
  match (byDistance c (s.rowSpares row)).find? fits with
  | some p =>
    let spares := (s.rowSpares row).filter fun x => x ≠ p
    let s1 := moveRow s row old (s.shifted row c p)
    (s1.withFlash fun f => { f with
      defective := Sparse.set [] f.defective row (c :: Sparse.get [] f.defective row)
      spares := Sparse.set (s.recordRow row).2 f.spares row spares }).withRel fun r =>
        { r with tilesRetired := satAdd r.tilesRetired 1 }
  | none =>
    setNoSpare (unplace s t c)

/-- Step 6: every mark that awaits activation takes effect on the physical tile that was marked; one that the full service
record did not take leaves its location without a tile. -/
def setRowMaps (s : State) : State :=
  let at_ (t : Nat) : Nat × Nat := (t, (s.exposed (rowOf t)).getD (colOf t) 72)
  let due := (s.flash.service.eraseDups.filter fun t => s.retirePending t).map at_
  let full := s.rel.overflow.map at_
  let s := forAll full (forAll due s fun s x => retireTile s x.1 x.2) fun s x => unplace s x.1 x.2
  (s.withRel fun r => { r with retirePend := false, overflow := [] }).withMelvor fun m => { m with rowMapStale := false }

/-! ## Measurements, the tile map (R392, R401) -/

/-- Measurement register `i` is extended with a digest. DEDUCED, unsafe: notes/assumptions/58.md. -/
def extendMeas (s : State) (i : Nat) (d : Line) : State :=
  s.withSec fun x =>
    let m := shake256 (toBytes (Sparse.get 0 x.meas i).toNat 64 ++ toBytes d.toNat 64) 64
    { x with meas := Sparse.set 0 x.meas i (BitVec.ofNat 512 m) }

/-- The world configuration in effect: the region table, the secure tiles, both SECURE bits. -/
def State.worldConfig (s : State) : List Nat :=
  ((List.range 64).flatMap fun i =>
    let e := Sparse.get {} s.sec.regions i
    [e.effBase.toNat, e.effSize.toNat, b2n e.effValid + 2 * b2n e.effSecure]) ++
  ((s.tiles.filter fun x => x.2.world).map Prod.fst) ++ [b2n (s.port 0).secure, b2n (s.port 1).secure]

/-- Register 6 is extended with the world configuration. -/
def measureWorld (s : State) : State := extendMeas s 6 (Config.worldDigest s.worldConfig)

/-- The tiles whose WORLD the pending tile map changes. -/
def State.worldChanges (s : State) : List Nat :=
  ((s.sec.tileMap.map Prod.fst ++ (s.tiles.filter fun x => x.2.world).map Prod.fst).eraseDups).filter fun t =>
    Sparse.get false s.sec.tileMap t != (s.tile t).world

/-- The pending tile map takes effect: every tile whose WORLD changes is cleared as R226 gives. -/
def applyTileMap (s : State) : State :=
  let due := s.worldChanges
  if due.isEmpty then s
  else
    measureWorld (forAll due s fun s t => s.modTile t fun x => { x.cleared with world := !x.world })

/-! ## Load and start (R226, R187, Table 8.9 steps 7 and 8) -/

/-- A tile that is no part of the fold: STATE 0. -/
def Tile.unload (x : Tile) : Tile :=
  { x with inFold := false, decl := {}, core := { x.core with state := 0, blocked := none }
           router := { x.router with frozen := false, stalled := false, held := false } }

/-- No fold is loaded: register 4 of the measurements is zero. -/
def unloadFold (s : State) : State :=
  let ts : Sparse Tile := s.tiles.map fun x => (x.1, if x.2.inFold then x.2.unload else x.2)
  let s := { s with tiles := ts.filter fun x => decide (x.2 ≠ ({} : Tile)) }
  let s := s.withMelvor fun m => { m with fold := none, foldFrozen := false, rowFaults := [], firstFault := none }
  s.withSec fun x => { x with meas := Sparse.set 0 x.meas 4 0 }

/-- The bytes of the WMEM_DATA sections over zero. -/
def loadWmem (img : Nat) (l : List Sec) : Sparse Byte :=
  l.foldl (fun m x => writeBytes m x.dest (gField img x.off x.n) x.n) []

/-- Words of a section as sparse storage. -/
def loadWords {n : Nat} (img off size cnt : Nat) : Sparse (BitVec n) :=
  (List.range cnt).foldl (fun m i => Sparse.set 0 m i (BitVec.ofNat n (gField img (off + size * i) size))) []

/-- Steps 7 and 8 on one tile: every memory is cleared, the sections are written, and the fold load of R55, R56, R81,
R128, R152 and R194 is done; the start broadcast follows. REMAIN, which the load clears (R55), then shows the slots that
entry 0 has left after its first (Table 2.8). DEDUCED, unsafe: notes/assumptions/81.md. -/
def loadTile (img : Nat) (x : TileSecs) (wd : Word) (world : Bool) (y : Tile) : Tile :=
  let r := y.router
  let sched : Sparse (BitVec 128) := loadWords img x.sched.off 16 (x.sched.n / 16)
  { y with
    inFold := true, wmem := loadWmem img x.wmem, amem := [], flaws := [], decl := x.declOf img, world := world
    rel := { y.rel with rewrite := none }
    router := { r with
      sched := sched, slotCnt := 0, entry := 0, remain := BitVec.ofNat 16 (entryRepeat (Sparse.get 0 sched 0).toNat)
      used := false, halted := false, frozen := false, last := false, stalled := false, held := false, fault := none
      wdLimit := wd, wdCount := 0, cross := [], laneOrder := []
      queues := (List.range 32).foldl (fun m k =>
        Sparse.set {} m k { x.queue img k with discard := (r.queue k).discard }) []
      crooks := (List.range 4).foldl (fun m k => Sparse.set {} m k (x.crook img k)) [] }
    core := { imem := loadWords img x.imem.off 4 (x.imem.n / 4) }
    mxe := {}, vxe := {}, upe := {} }

/-- Room and credits at the start (R37, R42, R244): 4 entries of every crossing buffer, DEPTH of the receiver's queues, 32
tokens of every gateway channel. A tile outside the fold keeps the DEPTH of the fold that last named it. DESIGN CHOICE, unsafe:
notes/assumptions/91.md. -/
def startCredits (s : State) (t : Nat) : State :=
  let outs (f : Nat → Nat → Peer → Nat) (n : Nat) : Sparse Nat :=
    (List.range 5).foldl (fun m o => (List.range n).foldl (fun m q => Sparse.set 0 m (n * o + q) (f o q (s.beyond t o))) m) []
  let room := outs (fun _ _ p => match p with | .tile _ _ => 4 | _ => 0) 1
  let credit := outs (fun _ q p => match p with
    | .tile u i => ((s.tile u).router.queue (8 * i + q)).depth
    | .gateway _ _ _ => 32
    | .none => 0) 8
  s.modTile t fun x => x.withRouter fun r => { r with room := room, credit := credit }

/-- A drover at the fold start: every queue closed, its fault cleared, the edge queues' credits, the cut queues opened
(R244, R247, R260, R265). A token of the fold before that is still on its way for a cut number in use again counts as the new
fold's. DEDUCED, unsafe: notes/assumptions/21.md. -/
def startDrover (cuts : List Cut) (s : State) (d : Nat) : State :=
  let depth (row q : Nat) : Nat :=
    let g := s.gatewayTile d row
    if (s.tile g.1).inFold then ((s.tile g.1).router.queue (8 * g.2 + q)).depth else 0
  let mine := cuts.filter fun c => decide ((gatewayDrover c.east c.row).1 = d)
  s.modDrover d fun x => { x with
    queues := (x.queues.map fun q => (q.1, q.2.closed)).filter fun q => decide (q.2 ≠ {})
    chans := [], sideUsed := 0, fault := none, stopped := s.rel.fatal || s.boot.holdUp
    oldCuts := x.oldCuts.filter fun k => !mine.any fun c => c.inb && decide (c.cut = k.toNat)
    credits := (List.range 64).foldl (fun m k => Sparse.set 0 m k (depth (k / 8) (k % 8))) []
    room := (List.range 16).foldl (fun m k => Sparse.set 0 m k 4) []
    cuts := mine.map fun c => { cut := BitVec.ofNat 16 c.cut, row := c.row % 8, lane := c.lane, inbound := c.inb
                                queue := c.queue, peer := c.part, credits := if c.inb then 0 else c.window } }

/-- The loaded fold's record. -/
def foldOf (img slot : Nat) : Fold :=
  let secs := sections img
  { slot := slot, streaming := bit (gField img 6 2) 0, partitioned := bit (gField img 6 2) 1
    rd := BitVec.ofNat 8 (gField img 28 1), wdLimit := BitVec.ofNat 32 (gField img 32 4)
    setId := BitVec.ofNat 64 (gField img 44 8), partIndex := gField img 52 2, partCount := gField img 54 2
    digest := BitVec.ofNat 512 (gField img 64 64), imageBytes := gField img 16 8
    paddocks := paddocksOf img secs, layers := layersOf img secs, tiles := (foldTiles secs).map TileSecs.tile }

/-- Steps 7 and 8: the image's sections are written, the fold is loaded and started.
DEDUCED, unsafe: notes/assumptions/21.md. -/
def startFold (s : State) (img slot dropped : Nat) : State :=
  let secs := sections img
  let f := foldOf img slot
  let s := applyTileMap (unloadFold s)
  let s := forAll (foldTiles secs) s fun s x =>
    s.modTile x.tile (loadTile img x f.wdLimit (Sparse.get false s.sec.tileMap x.tile))
  let s := forAll f.tiles s startCredits
  let s := forAll (List.range 16) s (startDrover (cutsOf img secs))
  let s := forAll f.tiles s fun s t => s.modTile t fun x => x.withCore fun c => { c with state := 1 }
  let s := s.withGrp fun g => { g with fault := none }
  let s := (extendMeas s 5 f.digest).withSec fun x => { x with meas := Sparse.set 0 x.meas 4 f.digest }
  s.withMelvor fun m => { m with
    fold := some f, foldFrozen := false, rowFaults := [], firstFault := none, activations := m.activations + 1
    dropped := BitVec.ofNat 32 dropped, activatedSinceFault := true, pendingAct := none }

/-! ## The commands (R190, R191, R301, R303) -/

/-- IMAGE_STAGE: checks 0x01 to 0x0D and 0x0F on a slot. -/
def execImageStage (p : Port) (s : State) : Result :=
  cmdRow p 0x40 s fun s e =>
    let slot := Line.bytes e 8 1
    if s.melvor.loaderBusy then complete s p e 11 0 0
    else if s.slotBlocked slot then s
    else
      let r := loadImage s slot (s.port p).secure
      loaderEnd r.1 p e r.2.1 r.2.2 0

/-- Step 6 and the check that every tile of the image still names a tile (R373); then the fold starts. -/
def finishActivation (s : State) (p : Port) (e : Line) (img slot dropped : Nat) : State :=
  let s := if s.melvor.rowMapStale || s.rel.retirePend || !s.rel.overflow.isEmpty then setRowMaps (unloadFold s) else s
  match (foldTiles (sections img)).find? fun x => !s.tileOk x.tile with
  | some x =>
    let s := (unloadFold s).withMelvor fun m => { m with dropped := BitVec.ofNat 32 dropped }
    loaderEnd s p e (some ⟨5, x.tile, some x.first⟩) img dropped
  | none => loaderEnd (startFold s img slot dropped) p e none img dropped

/-- IMAGE_ACTIVATE: Table 8.9. The activation of a partition holds its slot, and LOADER_BUSY, until PARTITION_START. -/
def execImageActivate (p : Port) (s : State) : Result :=
  cmdRow p 0x41 s fun s e =>
    let s := nightExit s
    let slot := Line.bytes e 8 1
    let discard := bit (Line.bytes e 9 1) 0
    let st := s.melvor.jobState
    if st ≠ 0 ∧ st ≠ 3 ∧ st ≠ 4 then badState s p e
    else if s.melvor.loaderBusy then complete s p e 11 0 0
    else if s.slotBlocked slot then s
    else if !s.drained && !discard then
      let h := bytesRead s (slotBase slot) 256
      loaderEnd h.1 p e (some ⟨0x0E, 0xFFFF, none⟩) h.2.2 0
    else
      let r := loadImage s slot (s.port p).secure
      match r.2.1 with
      | some b => loaderEnd r.1 p e (some b) r.2.2 0
      | none =>
        let s := r.1
        let img := r.2.2
        let flush := discard && s.melvor.fold.isSome && !s.drained
        let dropped := if flush then s.heldTokens else 0
        let s := if flush then discardFold s else s
        if bit (gField img 6 2) 1 then
          let s := (unloadFold (markStarted s p e))
          s.withMelvor fun m => { m with
            loaderBusy := true
            pendingAct := some { port := p, entry := e, fold := foldOf img slot, image := img, dropped := BitVec.ofNat 32 dropped } }
        else finishActivation s p e img slot dropped

/-- PARTITION_START: the bellwether reports the set. The image is the one that the activation has verified (R236).
DESIGN CHOICE, unsafe: notes/assumptions/68.md. -/
def execPartitionStart (allActivated indicesDistinct : Bool) (s : State) : Result :=
  .next <|
    match s.melvor.pendingAct with
    | none => s
    | some a =>
      if !s.fwOn then s
      else
        let img := a.image
        if allActivated && indicesDistinct then
          finishActivation s a.port a.entry img a.fold.slot a.dropped.toNat
        else
          let s := s.withMelvor fun m => { m with dropped := a.dropped }
          loaderEnd s a.port a.entry (some ⟨0x0D, 0xFFFF, none⟩) img a.dropped.toNat

end Sys2Proof.Machine
end

