-- ==== Sys2Proof/Machine/Power.lean ====
section
/-! DEFINITION. The power, droop and thermal controller (spec 15): phases and the target point, changes of the operating
point, the estimate and the cap, activity windows, droop, thermal levels and trips, Night. Times belong to whoever sends
the commands: a window, an evaluation or a wait has ended when its command comes. -/

namespace Sys2Proof.Machine

/-! ## Points and changes (R330, R331, R334, R346) -/

/-- The supply voltage of a point in mV (Table 0.6, R330). Table 0.6 gives none for Night, where the array is gated: it
counts as Dawn's. DESIGN CHOICE, unsafe: notes/assumptions/97.md. -/
def Power.mv (p : Power) : Point → Nat
  | .dawn | .night => p.dawnMv
  | .dusk => p.duskMv
  | .noon => 720

/-- Some island is stretched or relocking because of a droop. -/
def State.droops (s : State) : Bool := s.tiles.any fun x => x.2.island.droop

/-- The reference steps to the new point, and every island relocks. -/
def freqStep (p : Power) : Power := { p with point := p.chgTo, chg := .relocking }

/-- A change to point `q` starts: upward, the supply slews first; downward, the reference steps first. -/
def beginChange (p : Power) (q : Point) : Power :=
  let p := { p with changing := true, chgTo := q, deferred := false, deferEvals := 0 }
  if p.point.rank < q.rank then { p with chg := .slewing } else freqStep p

/-- The change is complete. -/
def endChange (p : Power) : Power :=
  { p with chg := .idle, changing := false, deferred := false, deferSeen := false, deferEvals := 0, pointChgCnt := satAdd p.pointChgCnt 1 }

/-- The change in progress, or the one due, is deferred by droop: it counts once (R346). -/
def defer (p : Power) : Power :=
  if p.deferred then p
  else
    { p with deferred := true, deferSeen := true, deferEvals := 0
             chgDeferCnt := if p.deferSeen then p.chgDeferCnt else satAdd p.chgDeferCnt 1 }

/-- A change is due. -/
def Power.due (p : Power) : Bool := p.chg == .idle && p.point != .night && p.target != p.point

/-- POINT_CHANGE_START (R334): a droop, or the 1 µs after it, defers the change. Before stage 4 the array stays at Dawn
(R405). -/
def execPointChangeStart (s : State) : Result :=
  .next <| s.withPower fun p =>
    if !p.due || decide (s.boot.stage < 4) then p
    else if p.droopActive || p.droopWait then defer p
    else beginChange p p.target

/-- SLEW_END (R330): the supply is at its new voltage. -/
def execSlewEnd (s : State) : Result :=
  .next <| s.withPower fun p =>
    match p.chg with
    | .slewing => freqStep { p with supply := p.mv p.chgTo }
    | .slewingDown => endChange { p with supply := p.mv p.point }
    | _ => p

/-- The islands have relocked: the relock and the 64 cycles that follow count in STRETCH_CNT (R46, R330). -/
def countRelock (s : State) : State :=
  forAll s.allTiles s fun s t =>
    s.modTile t fun x => x.withRouter fun r => { r with stretchCnt := satAdd r.stretchCnt 128 }

/-- RELOCK_END (R330): after a step down, the supply slews down; after a step up, the change is complete. -/
def execRelockEnd (s : State) : Result :=
  .next <|
    if s.power.chg ≠ .relocking then s
    else
      (countRelock s).withPower fun p =>
        if p.supply > p.mv p.point then { p with chg := .slewingDown } else endChange p

/-! ## Droop (R344-R346) -/

/-- DROOP_DETECT: the island enters Hold, after `cycles` cycles of the stage that the droop ends (R46). A detector is
blind while its island relocks after a frequency step. -/
def execDroopDetect (t : TileId) (cycles : Nat) (s : State) : Result :=
  atIsland t s fun s =>
    let i := (s.tile t.toNat).island
    let p := s.power
    if p.chg = .relocking ∨ i.stage = 1 then s
    else
      let s := s.modTile t.toNat fun x =>
        { x with island := { x.island with stage := 1, droop := true }
                 router := { x.router with
                   stretchCnt := if i.stage = 0 then x.router.stretchCnt else satAdd x.router.stretchCnt cycles } }
      let atTn := decide (i.stage = 0) || decide (i.stage = 4)
      s.withPower fun p =>
        let p := { p with droopActive := true, droopEvents := if atTn then satAdd p.droopEvents 1 else p.droopEvents }
        let p := if p.droopWait then { p with droopWait := false, chgDeferCnt := satAdd p.chgDeferCnt 1 } else p
        match p.chg with
        | .slewing => defer { p with chg := .halted, resumeStage := .slewing }
        | .slewingDown => defer { p with chg := .halted, resumeStage := .slewingDown }
        | _ => p

/-- STRETCH_STAGE_END: the island leaves its stage after `cycles` cycles. When the last droop has cleared, a deferred or
halted change waits 1 µs more. -/
def execStretchStageEnd (t : TileId) (cycles : Nat) (s : State) : Result :=
  atIsland t s fun s =>
    let i := (s.tile t.toNat).island
    if i.stage = 0 then s
    else
      let n : BitVec 3 := if i.stage = 4 then 0 else i.stage + 1
      let s := s.modTile t.toNat fun x =>
        { x with island := { x.island with stage := n, droop := x.island.droop && decide (n ≠ 0) }
                 router := { x.router with stretchCnt := satAdd x.router.stretchCnt cycles } }
      let active := s.droops
      s.withPower fun p =>
        { p with droopActive := active
                 droopWait := p.droopWait || (p.droopActive && !active && (p.deferred || p.chg == .halted)) }

/-- DROOP_WAIT_END (R346). -/
def execDroopWaitEnd (s : State) : Result :=
  .next <| s.withPower fun p =>
    if !p.droopWait then p
    else
      let p := { p with droopWait := false }
      if p.chg = .halted then { p with chg := p.resumeStage, deferred := false, deferEvals := 0 }
      else if p.deferred then
        if p.due then beginChange p p.target else { p with deferred := false, deferSeen := false, deferEvals := 0 }
      else p

/-! ## Phases (R332, R333) -/

/-- The fold-port complex holds a combine or an incomplete gather. -/
def State.exchanging (s : State) : Bool :=
  !s.grp.contribs.isEmpty || !s.grp.early.isEmpty ||
    s.grp.gathering.any fun l => !seqGe ((s.drover 0).lrelAt l) s.melvor.step

/-- PHASE_WINDOW: the window's phase is the first that holds; it takes effect with the second window in a row. -/
def execPhaseWindow (x : WindowFacts) (s : State) : Result :=
  .next <|
    let ph : BitVec 2 :=
      if x.upeBusy then 2 else if x.mxeLow && s.exchanging then 3 else if x.mxePairT then 1 else 0
    s.withPower fun p =>
      Power.aim { p with lastPhase := ph, phase := if ph = p.lastPhase then ph else p.phase }

/-! ## The cap (R335-R339) -/

/-- The common denominator of activity figures: E_unit is 0.122 pJ × (V / 0.72 V)². -/
def actDen : Nat := 720 * 720 * 10 ^ 9

/-- Σ(units) × E_unit over `us` µs, in watts, as numerator over `actDen × us`: 0.122 × 10⁻¹² J per unit is
0.122 × 10⁻⁶ W per unit and µs. -/
def actNum (p : Power) (units : Nat) : Nat := units * 122 * (p.mv p.point) ^ 2

/-- The terms of R336 beside the array's activity, in mW, of the lines since the last evaluation. -/
def State.baseMw (s : State) : Nat :=
  let lines := (List.range 8).foldl (fun n k => n + (s.ctl k).lines10) 0
  Config.leakPower s.flash.record.leak ((List.range 64).map fun i => Sparse.get 0 s.power.temps i) + Config.hbmPower lines +
    Config.foldLinkPower * ((List.range 12).filter fun f => (s.link f).up).length +
    Config.hostLinkPower * (([0, 1] : List Nat).filter fun q => (s.port q).linkUp).length + Config.mgmtPower

/-- The mean of those terms over the evaluations of the running 1 ms (R337), or their value now where there was none. -/
def State.baseMean (s : State) : Nat :=
  if s.power.baseCnt = 0 then s.baseMw else s.power.baseSum / s.power.baseCnt

/-- A fraction as a whole number: the spec does not say how it is rounded, so one unit up or down is free.
DESIGN CHOICE, safe: notes/assumptions/47.md. -/
def roundFree (s : State) (a b : Nat) : Nat × State :=
  if b = 0 ∨ a % b = 0 then (a / b, s)
  else
    let f := s.fresh
    (a / b + f.1.toNat % 2, f.2)

/-- CAP_LIMIT holds: the cap limit or ACT_CEIL is below its maximum. -/
def Power.capped (p : Power) : Bool := p.capLimit != .noon || decide (p.actCeil.toNat < 65536)

/-- ACT_CEIL falls by one step. -/
def ceilDown (p : Power) : Power :=
  { p with actCeil := BitVec.ofNat 17 (max 16384 (p.actCeil.toNat - 4096)) }

/-- The next point below for the cap limit. -/
def Point.fall : Point → Point
  | .noon => .dusk | .dusk => .dawn | p => p
def Point.rise : Point → Point
  | .dawn => .dusk | .dusk => .noon | p => p

/-- A comparison that found the power above PCAP. DEDUCED, unsafe: notes/assumptions/46.md. -/
def capStep (p : Power) : Power :=
  let p := { p with capEvents := satAdd p.capEvents 1 }
  if p.capLimit = .dawn ∨ p.point = .dawn then ceilDown p else { p with capLimit := p.capLimit.fall }

/-- One step is undone, ACT_CEIL first. DEDUCED, unsafe: notes/assumptions/46.md. -/
def capUndo (p : Power) : Power :=
  if p.actCeil.toNat < 65536 then { p with actCeil := BitVec.ofNat 17 (min 65536 (p.actCeil.toNat + 4096)) }
  else { p with capLimit := p.capLimit.rise }

/-- After a change of the cap: TARGET follows, and source 131 fires where CAP_LIMIT is set. -/
def capSettle (s : State) (f : Power → Power) : State :=
  let was := s.power.capped
  let s := s.withPower fun p => (f p).aim
  fireIf (s.power.capped && !was) s 131

/-- The cap's part of an evaluation: a step down, or a step back after 10 evaluations at or below 0.95 × PCAP, or
neither; thermal level 3 holds ACT_CEIL down. -/
def evalCap (p : Power) (above low : Bool) : Power :=
  if above then capStep { p with lowEvals := 0 }
  else if !low then { p with lowEvals := 0 }
  else if p.lowEvals < 9 then { p with lowEvals := p.lowEvals + 1 }
  else if p.thermLevel = 3 then p
  else capUndo { p with lowEvals := 0 }

/-- A downward change that droop has deferred for more than 100 µs steps ACT_CEIL down (R346). -/
def evalDefer (p : Power) : Power :=
  let down := decide (p.target.rank < p.point.rank) || (p.chg == .halted && p.resumeStage == .slewingDown)
  if p.deferred && down then
    if p.deferEvals < 10 then { p with deferEvals := p.deferEvals + 1 } else ceilDown p
  else p

/-- The denominator of P_est in mW. -/
def estDen : Nat := actDen * 10 * 16384

/-- P_est over `estDen`, in mW: CAL_GAIN × the activity of 10 µs, and the other terms. -/
def State.estNum (s : State) : Nat :=
  s.power.calGain.toNat * actNum s.power s.power.units10 * 1000 + s.baseMw * estDen

/-- POWER_EVAL: P_est, the comparison with PCAP, the way back, and a deferred change. -/
def execPowerEval (s : State) : Result :=
  .next <|
    let num := s.estNum
    let cap := s.power.pcap.toNat * 1000 * estDen
    let est := roundFree s num (estDen * 1000)
    let base := s.baseMw
    let s := est.2.withPower fun p =>
      { p with pEst := BitVec.ofNat 16 (min 65535 est.1), units10 := 0, baseSum := p.baseSum + base, baseCnt := p.baseCnt + 1 }
    let s := forAll (List.range 8) s fun s k => s.modCtl k fun c => { c with lines10 := 0 }
    capSettle s fun p => evalDefer (evalCap p (decide (num > cap)) (decide (num * 100 ≤ 95 * cap)))

/-- INPUT_SAMPLE: the last 10 samples are kept. DEDUCED, unsafe: notes/assumptions/70.md. -/
def execInputSample (watts : Nat) (valid : Bool) (s : State) : Result :=
  .next <| s.withPower fun p =>
    { p with sampleValid := valid, samples := if valid then (watts :: p.samples).take 10 else p.samples }

/-- CALIBRATION: P_meas, CAL_GAIN, the energy of the millisecond, the comparison with PCAP.
DEDUCED, unsafe: notes/assumptions/48.md. DEDUCED, unsafe: notes/assumptions/70.md. -/
def execCalibration (s : State) : Result :=
  .next <|
    let p := s.power
    let sum := p.samples.foldl (· + ·) 0
    let cnt := max 1 p.samples.length
    let meas := roundFree s sum cnt
    let act := p.act1ms * 122                -- over actDen × 1000, W
    let actD := actDen * 1000
    let base := s.baseMean
    let s := meas.2.withPower fun p =>
      let e := p.energyAcc + sum / cnt
      { p with pMeas := BitVec.ofNat 16 (min 65535 meas.1), act1ms := 0, baseSum := 0, baseCnt := 0
               energyAcc := e % 1000
               energyJ := satAdd p.energyJ (e / 1000) }
    let s :=
      if !p.sampleValid then
        fireIf p.calValid (s.withPower fun p => { p with calGain := 0x5000#16, calValid := false }) 133
      else if act < 200 * actD then s
      else
        -- ratio = (p_meas − base) / act_raw over a common denominator; gain in units of 1/16384
        let d := cnt * 1000 * act
        let n : Int := ((sum * 1000 : Nat) : Int) - ((base * cnt : Nat) : Int)
        let g : Int := p.calGain.toNat
        let num : Int := 7 * g * (d : Int) + 16384 * n * (actD : Int)
        let r := roundFree s num.toNat (8 * d)
        r.2.withPower fun p => { p with calValid := true, calGain := BitVec.ofNat 16 (min 20480 (max 13107 r.1)) }
    if sum > p.pcap.toNat * cnt then capSettle s capStep else s

/-! ## Activity windows (R340-R343) -/

/-- Ties at banks of a tile's working memory, claims of one cycle each: the token passes on (R285, Table 12.5). -/
def Tile.bankTies (x : Tile) (ties : List (Fin 16 × List (Fin 5))) : Tile :=
  { x with bankTok := ties.foldl (fun m b =>
      Sparse.set 0 m b.1.val (tiePass 5 (Sparse.get 0 m b.1.val) (b.2.map Fin.val)).2) x.bankTok }

/-- ACTIVITY_WINDOW_END: A(n) is what the island has been charged: what its engines were charged, within the limit of the
window, and what no limit holds. What exceeds the limit counts in the next window, and filler brings A(n) to the ramp's
lower bound (R340-R343). `ties`: the ties at the tile's memory banks in the window. DESIGN CHOICE, unsafe:
notes/assumptions/50.md. -/
def execActivityWindowEnd (t : TileId) (ties : List (Fin 16 × List (Fin 5))) (s : State) : Result :=
  atIsland t s fun s =>
    let i := (s.tile t.toNat).island
    let eng := min i.units (i.limit s.power - i.other)
    let real := eng + i.other
    let n := max real (i.act - rampStep i.stepAt)
    let fill := cdiv (n - real) 880
    let s := s.modTile t.toNat fun x => { (x.bankTies ties) with island := { x.island with
      act := n, units := i.units - eng, other := 0, held := false, stepAt := Point.code s.power.point
      hold := if i.held then satAdd i.hold 1 else i.hold } }
    s.withPower fun p => { p with
      units10 := p.units10 + n, act1ms := p.act1ms + n * (p.mv p.point) ^ 2, fillCnt := satAdd p.fillCnt fill
      rampHoldCnt := if i.held then satAdd p.rampHoldCnt 1 else p.rampHoldCnt }

/-! ## Thermal control (R347, R348) -/

/-- The index and the value of the hottest entry of a list. -/
def hottest (l : List (Nat × Nat)) : Option (Nat × Nat) :=
  l.foldl (fun m x => match m with | some y => if y.2 < x.2 then some x else m | none => some x) none

/-- The level in force at die temperature `c` (Table 15.6): entered at the threshold, left 3 °C below. -/
def Power.levelAt (p : Power) (c : Nat) : Nat :=
  let th := p.tjThrottle.toNat
  let on (k thr : Nat) : Bool := decide (thr ≤ c) || (decide (k ≤ p.thermLevel) && decide (thr < c + 3))
  if on 3 (th + 8) then 3 else if on 2 (th + 5) then 2 else if on 1 th then 1 else 0

/-- A trip: every island clock stops, THERMTRIP# is asserted, the record goes to flash. -/
def trip (s : State) (kind sensor temp : Nat) : State :=
  let s := (s.withPower fun p => { p with clocksStopped := true }).withBoot fun b => { b with thermtrip := true }
  s.withFlash fun f => { f with trip := some ⟨BitVec.ofNat 2 kind, BitVec.ofNat 8 sensor, BitVec.ofNat 8 temp⟩ }

/-- THERMAL_EVAL: `die` gives each die sensor's reading and whether it is in range, `hbm` each stack's temperature.
DEDUCED, unsafe: notes/assumptions/48.md. -/
def execThermalEval (die : List (BitVec 8 × Bool)) (hbm : List (BitVec 8)) (s : State) : Result :=
  .next <|
    let ds := List.zip (List.range 64) die
    let good := (ds.filter fun x => x.2.2).map fun x => (x.1, x.2.1.toNat)
    let hs := (List.zip (List.range 8) hbm).map fun x => (x.1, x.2.toNat)
    let bad := (ds.filter fun x => !x.2.2).length
    let p := s.power
    let lvl := match hottest good with | some x => p.levelAt x.2 | none => p.thermLevel
    let throttle := hs.any fun x => decide (x.2 ≥ 95)
    let fault := decide (bad > 0)
    let s := s.withPower fun p => Power.aim { p with
      temps := ds.foldl (fun m x => if x.2.2 then Sparse.set 0 m x.1 x.2.1 else m) p.temps
      badTemps := ds.foldl (fun m x => Sparse.set false m x.1 (!x.2.2)) []
      tjMax := match hottest good with | some x => BitVec.ofNat 8 x.2 | none => p.tjMax
      tjSensor := match hottest good with | some x => BitVec.ofNat 6 x.1 | none => p.tjSensor
      hbmTmax := match hottest hs with | some x => BitVec.ofNat 8 x.2 | none => p.hbmTmax
      hbmStack := match hottest hs with | some x => BitVec.ofNat 3 x.1 | none => p.hbmStack
      thermLevel := lvl, thermLimitDawn := decide (bad > 4), hbmThrottle := throttle, sensorFault := fault
      thermEvents := if p.thermLevel = 0 ∧ lvl ≥ 1 then satAdd p.thermEvents 1 else p.thermEvents }
    let s := forAll hs s fun s x => s.modCtl x.1 fun c =>
      { c with refresh2 := decide (x.2 ≥ 85), throttled := decide (x.2 ≥ 95) }
    let s := fireIf (decide (lvl ≥ 3) && decide (p.thermLevel < 3)) s 128
    let s := fireIf (decide (lvl ≥ 1) && decide (p.thermLevel = 0)) s 129
    let s := fireIf (throttle && !p.hbmThrottle) s 130
    let s := fireIf (fault && !p.sensorFault) s 132
    let s := if lvl ≥ 3 then capSettle s ceilDown else s
    match (hottest good).filter fun x => decide (x.2 ≥ 105), (hottest hs).filter fun x => decide (x.2 ≥ 105) with
    | some x, _ => trip s 1 x.1 x.2
    | none, some x => trip s 2 x.1 x.2
    | none, none => s

/-! ## Night (R349, R350) -/

/-- Some tile of the fold runs. -/
def State.foldRuns (s : State) : Bool :=
  match s.melvor.fold with
  | some f => f.tiles.any fun t => (s.tile t).core.state = 1
  | none => false

/-- NIGHT_ENTRY. DEDUCED, unsafe: notes/assumptions/45.md. -/
def execNightEntry (s : State) : Result :=
  .next <|
    let p := s.power
    let st := s.melvor.jobState
    if p.nightReq && (decide (st = 0) || decide (st = 3) || decide (st = 4)) && !s.melvor.loaderBusy &&
        ((List.finRange 16).all fun d => s.droverIdle d) && p.point != .night && p.chg == .idle then
      s.withPower fun p =>
        { p with point := .night, target := .night, deferred := false, deferSeen := false, deferEvals := 0, droopWait := false
                 pointChgCnt := satAdd p.pointChgCnt 1 }
    else s

/-- A write of NIGHT_REQ. -/
def writeNightReq (s : State) (v : Bool) : State :=
  if v then s.withPower fun p => { p with nightReq := true } else nightExit s

/-- A write of a register of R351 by an agent that may not make it. -/
def powerGate (s : State) (w : Agent) (f : State → State) : State :=
  if s.mayControl w then f s else s.withPower fun p => { p with pwrWrRefused := satAdd p.pwrWrRefused 1 }

/-- NIGHT_REQ. -/
def execNightReq (w : Agent) (v : Bool) (s : State) : Result :=
  .next <| writeGate s w 0x04 0x000C fun s => powerGate s w fun s => writeNightReq s v

/-- NIGHT_IDLE_EXPIRY: no fold has run for NIGHT_IDLE_MS. -/
def execNightIdleExpiry (s : State) : Result :=
  .next <|
    if s.power.nightIdleMs ≠ 0 ∧ s.power.nightBlockUs = 0 ∧ s.power.point ≠ .night ∧ ¬s.foldRuns then
      s.withPower fun p => { p with nightReq := true }
    else s

/-- CLR_CNT of Table 15.8. -/
def Power.clear (p : Power) (v : Nat) : Power :=
  if bit v 0 then
    { p with pointChgCnt := 0, chgDeferCnt := 0, droopEvents := 0, capEvents := 0, thermEvents := 0, rampHoldCnt := 0
             fillCnt := 0, pwrWrRefused := 0 }
  else p

/-- DEDUCED, unsafe: notes/assumptions/49.md. -/
def execPowerClrCnt (w : Agent) (s : State) : Result :=
  .next <| writeGate s w 0x04 0x004C fun s => s.withPower fun p => p.clear 1

end Sys2Proof.Machine
end

