-- ==== Sys2Proof/Machine/Interrupts.lean ====
section
/-! DEFINITION. The interrupt controller (spec 16): destinations, delivery, EOI, the writes of R364, and MSI-X. -/

namespace Sys2Proof.Machine

/-! ## Destinations (R357, R358) -/

/-- ROUTE of a group; groups 0 and 1 have fixed ones. -/
def State.routeOf (s : State) (g : Nat) : Nat :=
  if g = 0 then 1 else if g = 1 then 2 else (s.irqGrp g).route.toNat

/-- The destination of a group: 0 port 0, 1 port 1, 2 Melvor firmware. -/
def State.destOf (s : State) (g : Nat) : Option Nat :=
  match s.routeOf g with
  | 1 => some 0
  | 2 => some 1
  | 3 => some 2
  | 4 => if s.melvor.owner.toNat < 2 then some s.melvor.owner.toNat else none
  | _ => none

/-- A destination is available. -/
def State.destOn (s : State) (d : Nat) : Bool :=
  if d = 2 then s.fwOn else !(s.port d).removed && (s.port d).msixEn

/-- The group in service at a destination. -/
def State.inService (s : State) (d : Nat) : Option Nat := Sparse.get none s.irq.insvc d

def State.setService (s : State) (d : Nat) (g : Option Nat) : State :=
  { s with irq := { s.irq with insvc := Sparse.set none s.irq.insvc d g } }

/-- The group leaves service wherever it is in service. -/
def endService (s : State) (g : Nat) : State :=
  forAll [0, 1, 2] s fun s d => if s.inService d = some g then s.setService d none else s

/-- A group is ready, and its CAUSE (R356). -/
def IrqGrp.ready (x : IrqGrp) : Bool := (x.pend &&& x.enable) != 0
def IrqGrp.cause (x : IrqGrp) : Nat :=
  ((List.range 16).find? fun i => (x.pend &&& x.enable).getLsbD i).getD 0

/-- A ready group that waits for its destination (WAIT_DEST; its reset value is 0, Table 16.2).
DEDUCED, unsafe: notes/assumptions/51.md. -/
def State.waitDest (s : State) (g : Nat) : Bool :=
  (s.irqGrp g).ready &&
  match s.destOf g with
  | some d => !s.destOn d
  | none => decide (s.routeOf g = 4)

/-! ## Delivery (R359, R363) -/

/-- The message of vector `v` leaves port `p`, to the address and with the data of its table entry. -/
def emitVector (s : State) (p : Port) (v : Nat) : State :=
  let x := Sparse.get {} (s.port p).msix v
  s.emit (.msix p v x.addr x.data)

/-- The message of group `g` goes to destination `d`: a masked vector holds it in the Pending Bit Array. -/
def sendMessage (s : State) (d g : Nat) : State :=
  if d = 2 then s.emit (.melvorIrq g)
  else
    let h := s.port d
    if h.funcMask || (Sparse.get {} h.msix g).mask then
      s.setPort d { h with pba := h.pba ||| BitVec.ofNat 16 (2 ^ g) }
    else emitVector s (Fin.ofNat 2 d) g

/-- MESSAGE_SEND: the lowest-numbered eligible group of the destination. -/
def execMessageSend (dest : Fin 3) (s : State) : Result :=
  .next <|
    if (s.inService dest).isSome || !s.destOn dest then s
    else match (List.range 16).find? fun g => s.destOf g == some dest.val && (s.irqGrp g).ready && !(s.irqGrp g).run with
      | none => s
      | some g =>
        let s := (sendMessage s dest g).setService dest (some g)
        s.modIrqGrp g fun x => { x with run := decide (x.holdoff ≠ 0), msgCnt := satAdd x.msgCnt 1 }

/-- HOLDOFF_EXPIRY. -/
def execHoldoffExpiry (g : IrqGroup) (s : State) : Result :=
  .next <| s.modIrqGrp g fun x => { x with run := false }

/-! ## Writes (R364) -/

/-- The registers of a group. -/
inductive IrqReg where
  | pend | enable | set | route | eoi
  deriving DecidableEq, Repr

/-- Who may write a register of group `g`. -/
def State.irqMay (s : State) (w : Agent) (r : IrqReg) (g : Nat) : Bool :=
  match w with
  | .melvor => true
  | .port p =>
    match r with
    | .set => true
    | .pend | .eoi => s.destOf g == some p.val
    | .enable | .route => if g < 2 then decide (g = p.val) else decide (s.melvor.owner.toNat = p.val)
  | _ => false

/-- A write that R364 does not allow is counted. -/
def irqGate (s : State) (ok : Bool) (f : State → State) : State :=
  if ok then f s else { s with irq := { s.irq with wrRefused := satAdd s.irq.wrRefused 1 } }

/-- A write of 1s to PEND clears the bits; of a write and a source in one cycle the source comes after it, and stays set (R10).
DESIGN CHOICE, unsafe: notes/assumptions/88.md. -/
def writePend (s : State) (w : Agent) (g : Nat) (v : BitVec 16) : State :=
  irqGate s (s.irqMay w .pend g) fun s => s.modIrqGrp g fun x => { x with pend := x.pend &&& ~~~v }

def writeIrqEnable (s : State) (w : Agent) (g : Nat) (v : BitVec 16) : State :=
  irqGate s (s.irqMay w .enable g) fun s => s.modIrqGrp g fun x => { x with enable := v }

/-- SET: each bit acts as a fire, but for the sources `same`, which the hardware has fired in the same cycle: the two are
one event (R355). -/
def writeSet (s : State) (w : Agent) (g : Nat) (v same : BitVec 16) : State :=
  irqGate s (s.irqMay w .set g) fun s =>
    forAll (List.range 16) s fun s i => fireIf ((v &&& ~~~same).getLsbD i) s (16 * g + i)

/-- The word of ROUTE and HOLDOFF: a write of ROUTE ends the group's service at the old destination (R362); in groups 0
and 1 it performs HOLDOFF only. DEDUCED, unsafe: notes/assumptions/51.md. -/
def writeRoute (s : State) (w : Agent) (g : Nat) (r : BitVec 3) (holdoff : BitVec 16) : State :=
  irqGate s (s.irqMay w .route g) fun s =>
    if g < 2 then s.modIrqGrp g fun x => { x with holdoff := holdoff }
    else (endService s g).modIrqGrp g fun x => { x with route := r, holdoff := holdoff }

/-- The word of EOI: a 1 ends the service (R360). -/
def writeEoi (s : State) (w : Agent) (g : Nat) (v : Bool) : State :=
  irqGate s (s.irqMay w .eoi g) fun s => if v then endService s g else s

/-- A write of a word that holds nothing to write: a port's is none of those that R364 allows. -/
def writeIrqOther (s : State) (w : Agent) : State := irqGate s (w == .melvor) fun s => s

/-- CLR_CNT of Table 16.2. -/
def clearIrq (s : State) (w : Agent) (v : Nat) : State :=
  irqGate s (w == .melvor) fun s =>
    if bit v 0 then
      forAll (List.range 16) { s with irq := { s.irq with wrRefused := 0 } } fun s g =>
        s.modIrqGrp g fun x => { x with mergeCnt := 0, msgCnt := 0 }
    else s

def execEoi (w : Agent) (g : IrqGroup) (s : State) : Result :=
  .next <| writeGate s w 0x03 (32 * g.val + 0x14) fun s => writeEoi s w g true
def execSetSrc (w : Agent) (g : IrqGroup) (v same : BitVec 16) (s : State) : Result :=
  .next <| writeGate s w 0x03 (32 * g.val + 0x08) fun s => writeSet s w g v same
def execPend (w : Agent) (g : IrqGroup) (v : BitVec 16) (s : State) : Result :=
  .next <| writeGate s w 0x03 (32 * g.val) fun s => writePend s w g v
def execRoute (w : Agent) (g : IrqGroup) (r : BitVec 3) (holdoff : BitVec 16) (s : State) : Result :=
  .next <| writeGate s w 0x03 (32 * g.val + 0x0C) fun s => writeRoute s w g r holdoff
/-- DEDUCED, unsafe: notes/assumptions/51.md. -/
def execIrqClrCnt (w : Agent) (s : State) : Result :=
  .next <| writeGate s w 0x03 0x0208 fun s => clearIrq s w 1

/-! ## MSI-X (R363) -/

/-- Held messages of port `p` whose vectors are not masked go out, while MSI-X Enable is 1. -/
def flushMsix (s : State) (p : Port) : State :=
  forAll (List.range 16) s fun s v =>
    let h := s.port p
    if h.pba.getLsbD v && h.msixEn && !h.funcMask && !(Sparse.get {} h.msix v).mask then
      emitVector (s.setPort p { h with pba := h.pba &&& ~~~(BitVec.ofNat 16 (2 ^ v)) }) p v
    else s

/-- MSIX_UNMASK: a vector's mask clears, or Function Mask. -/
def execMsixUnmask (p : Port) (vec : Option (Fin 16)) (s : State) : Result :=
  .next <|
    match vec with
    | some v => flushMsix (s.modPort p fun h => { h with msix := Sparse.mod {} h.msix v fun x => { x with mask := false } }) p
    | none => flushMsix (s.modPort p fun h => { h with funcMask := false }) p

/-- The interrupt controller at the removal of a port. -/
def dropMessages (s : State) (p : Port) : State :=
  (s.modPort p fun h => { h with pba := 0 }).setService p none

end Sys2Proof.Machine
end

