-- ==== Sys2Proof/Machine/Reliability.lean ====
section
/-! DEFINITION. The reliability block and the snapshot engine (spec 17): the lockstep mismatch, the clears, the end of a
snapshot (R380), START, ABORT and RESTORE. The journal copy stands with the retried accesses in HostPorts.lean. -/

namespace Sys2Proof.Machine

/-- LOCKSTEP_MISMATCH (R290): the complex stops, and the fatal-error handling follows. -/
def execLockstepMismatch (s : State) : Result :=
  .next <|
    if s.melvor.lockstepErr then s else fatalError (s.withMelvor fun m => { m with lockstepErr := true }) 144

/-! ## Clears (R385) -/

/-- A write of a register of blocks 0x30 and 0x31: Melvor firmware's and the owning port's only. -/
def relGate (s : State) (w : Agent) (f : State → State) : State := if s.mayControl w then f s else s

def Reliability.clear (r : Reliability) (v : Nat) : Reliability :=
  if bit v 0 then
    { r with stepsReplayed := 0, hbmScrubPasses := 0, hbmScrubCe := 0, hbmScrubUe := 0, tileScrubCe := 0, tileScrubUe := 0
             tilesRetired := 0, pinsRetired := 0 }
  else r

def Snapshot.clear (x : Snapshot) (v : Nat) : Snapshot :=
  if bit v 0 then { x with snapshots := 0, skipped := 0, errors := 0, waitUs := 0 } else x

def execReliabilityClrCnt (w : Agent) (s : State) : Result :=
  .next <| writeGate s w 0x30 0x0038 fun s => relGate s w fun s => s.withRel fun r => r.clear 1
def execSnapshotClrCnt (w : Agent) (s : State) : Result :=
  .next <| writeGate s w 0x31 0x0034 fun s => relGate s w fun s => s.withSnap fun x => x.clear 1

/-! ## Snapshots (R379-R382) -/

/-- START: a snapshot at the next COMMIT; at once of the last committed step while the job is PAUSED. -/
def snapStart (s : State) : State :=
  if s.melvor.jobState = 3 then snapshotDue s (s.melvor.step - 1) else s.withSnap fun x => { x with request := true }

def execSnapStart (w : Agent) (s : State) : Result :=
  .next <| writeGate s w 0x31 0x0004 fun s => relGate s w snapStart

def execAbort (w : Agent) (s : State) : Result :=
  .next <| writeGate s w 0x31 0x0004 fun s => relGate s w snapEnd

/-- RESTORE is written: the engine reads the header at the target, which must lie in the registered region (R237); an
address fault there ends it. -/
def restoreBegin (s : State) : State :=
  if s.melvor.jobState = 0 && !s.snap.busy then
    snapAt (s.withSnap fun x => { x with busy := true, restoring := true }) 0 4096 fun s p a =>
      hostFetch s p s.snapRegion.coh a 4096
  else s

/-- The header `hdr` has been read; `digestOk`: its digest matches the data at the target. A target that is no registered
region gives no header. -/
def restoreEnd (s : State) (hdr : List Byte) (digestOk : Bool) : State :=
  let p := s.port (b2n s.snap.tport)
  let d := leNat (hdr.take 8)
  let ok := (Sparse.get {} p.regions s.snap.tregion.toNat).valid && !p.removed && digestOk &&
    decide (d % 2 ^ 32 = 0x5350524F) && decide (d / 2 ^ 32 % 65536 = 1)
  if ok then
    fireIf s.snap.held.isNone
      (s.withSnap fun x => { x with busy := false, restoring := false, err := false, held := some hdr }) 163
  else fireIf (!s.snap.err) (s.withSnap fun x => { x with busy := false, restoring := false, err := true }) 161

/-- RESTORE (R382). DEDUCED, unsafe: notes/assumptions/52.md. -/
def execRestore (w : Agent) (hdr : List Byte) (digestOk : Bool) (s : State) : Result :=
  .next <|
    let s := if s.snap.restoring then s else writeGate s w 0x31 0x0004 fun s => relGate s w restoreBegin
    if s.snap.restoring then restoreEnd s hdr digestOk else s

/-- Bytes padded with zeros to a multiple of 4 KiB. -/
def padPage (l : List Byte) : List Byte := l ++ List.replicate (cdiv l.length 4096 * 4096 - l.length) 0

/-- The bytes of an object as the engine has copied them. -/
def objBytes (m : Sparse Nat) (o : ObjEntry) : List Byte :=
  (List.range (cdiv o.bytes 4096)).flatMap fun i =>
    toBytes (Sparse.get 0 m (o.base.toNat / 4096 + i)) (min 4096 (o.bytes - 4096 * i))

/-- The data of the snapshot from byte 4,096 on (Table 17.4). -/
def Snapshot.payload (x : Snapshot) : List Byte :=
  padPage (x.objs.flatMap fun o => toBytes o.2.toNat 32) ++ x.objs.flatMap fun o => padPage (objBytes x.copied o.2)

/-- The writes of one phase of the snapshot's end: `v` at offset `o`, and with COH = 0 the zero-length read that shows
every posted write before it to be complete (R278). -/
def snapSeal (s : State) (o n v phase : Nat) : State :=
  let p : Port := Fin.ofNat 2 (b2n s.snap.tport)
  let s := snapStore s o n v
  if !s.snap.busy then s
  else if s.snapRegion.coh then s.withSnap fun x => { x with phase := phase }
  else (hostFlush s p false (s.snapTarget o)).withSnap fun x => { x with host := x.host ++ [(p, true)], phase := phase }

/-- SNAPSHOT_COMPLETE: the pages that are left are copied, as far as the 512 requests to a host allow (R267), and the
object table is written; the next one, every data write being complete, writes the header. DEDUCED, unsafe:
notes/assumptions/52.md. -/
def execSnapshotComplete (s : State) : Result :=
  .next <|
    let held := s.snap.todo.any fun q =>
      (hostWindow (q * 4096)).isNone && s.bytesBlocked .snapshot false (q * 4096) 4096
    if !s.snap.busy || s.snap.restoring || held || s.rel.fatal then s
    else if s.snap.phase = 0 then
      let full (s : State) (q : Nat) : Bool := match hostWindow (q * 4096) with | some (p, _) => decide (s.nonPosted p ≥ 512) | none => false
      let s := forAll s.snap.todo s fun s q => if full s q then s else snapCopy s q
      let table := s.snap.objs.flatMap fun o => toBytes o.2.toNat 32
      if s.snap.busy && s.snap.todo.isEmpty then snapSeal s 4096 table.length (leNat table) 1 else s
    else if s.snap.phase = 1 ∧ s.snap.host = [] then
      let x := s.snap
      let data := x.payload
      let head := toBytes 0x5350524F 4 ++ x.head ++ toBytes (4096 + data.length) 8 ++ toBytes (shake256 data 64) 64
      snapSeal s 0 4096 (leNat head) 2
    else s

/-- The header is written: SNAP_STEP, source 160 (R380). -/
def snapDone (s : State) : State :=
  fire (s.withSnap fun y => { y with
    busy := false, snapStep := y.curStep, snapBytes := BitVec.ofNat 64 (4096 + y.payload.length), snapshots := satAdd y.snapshots 1
    copied := [], objs := [], head := [], phase := 0 }) 160

/-- A completion of the oldest request of the snapshot engine. -/
def snapServed (s : State) : State :=
  match s.snap.host with
  | [] => s
  | _ :: rest =>
    let s1 := s.withSnap fun x => { x with host := rest }
    if s.snap.busy && decide (s.snap.phase = 2) && rest.isEmpty then snapDone s1 else s1

end Sys2Proof.Machine
end

