-- ==== Sys2Proof/Machine/Security.lean ====
section
/-! DEFINITION. The security block (spec 18): nonces (R394), port requests (R395, R396, R402), the region table and the
pending tile map (R400, R401), the overwrite of HBM units, and SPDM (R393). -/

namespace Sys2Proof.Machine

/-! ## Nonces (R394) -/

/-- The nonce of a domain, and the state after its issue. DEDUCED, unsafe: notes/assumptions/55.md. -/
def issueNonce (s : State) (dom : Nat) : Line × State :=
  let count := s.flash.bootCount.toNat * 2 ^ 32 + s.sec.nonces.toNat
  (BitVec.ofNat 512 (shake256 (s.sec.nonceKey ++ toBytes count 8 ++ toBytes dom 1) 64),
    s.withSec fun x => { x with nonces := x.nonces + 1 })

/-- The port's NONCE is renewed. DEDUCED, unsafe: notes/assumptions/55.md. -/
def renewNonce (s : State) (p : Port) : State :=
  let r := issueNonce s p
  r.2.modSecPort p fun x => { x with nonce := r.1 }

/-! ## SECURE (R396) -/

/-- A port's SECURE bit: a change fires source 177 and is measured; an owner of a secure job that loses it vacates
ownership. -/
def setSecure (s : State) (p : Port) (v : Bool) : State :=
  if (s.port p).secure = v then s
  else
    let s := measureWorld (fire (s.modPort p fun h => { h with secure := v }) 177)
    let secureJob : Bool := match s.melvor.job with | some j => j.world | none => false
    if !v && secureJob && decide (s.melvor.owner.toNat = p.val) then vacateOwner s else s

/-! ## Writes of HBM units by the device (R401) -/

/-- Units of 2 MiB in the user area. -/
def userUnits : Nat := userTop / 0x200000

/-- Address `a` lies in the units. -/
def inUnits (u : List (Nat × Nat)) (a : Nat) : Bool :=
  u.any fun x => decide (x.1 * 0x200000 ≤ a) && decide (a < (x.1 + x.2) * 0x200000)

/-- A page of the units is HELD by a port: the overwrite waits for its flip (R275). -/
def State.unitsHeld (s : State) (u : List (Nat × Nat)) : Bool :=
  ([0, 1] : List (Fin 2)).any fun p => (s.port p).held.any fun h => inUnits u (h.1 * 4096)

/-- Overwrite the units with zeros and valid codes; pages of a running snapshot are copied first. Every stack writes 4,096
lines of a unit. -/
def zeroUnits (s : State) (u : List (Nat × Nat)) : State :=
  let s := forAll (s.snap.todo.filter fun q => inUnits u (q * 4096)) s snapCopy
  let n := 4096 * (u.map Prod.snd).sum
  let s := { s with hbm := s.hbm.filter fun x => !inUnits u x.1, poison := s.poison.filter fun x => !inUnits u (x.1 * 64)
                    bad := s.bad.filter fun x => !inUnits u (x.1 * 64) }
  forAll (List.range 8) s fun s k => s.modCtl k fun c => { c with wrLines := satAdd c.wrLines n }

/-! ## The region table (R400, R401) -/

/-- A write of the region table or of the tile map: from a secure requester, with no job, no JOB_START, no loader and no
overwrite in progress; `off`: the register's offset. DESIGN CHOICE, unsafe: notes/assumptions/56.md. -/
def regionGate (s : State) (w : Agent) (off : Nat) (f : State → State) : State :=
  let open_ := decide (s.melvor.jobState = 0) && s.melvor.starting.isNone && !s.melvor.loaderBusy && !s.sec.clearing
  match w with
  | .port p =>
    if !(s.port p).secure then
      (worldRefused (portEvent s p 2 0 (BitVec.ofNat 48 (0x500000 + off)) 0)).emit (.aer p .abort)
    else if open_ then f s else worldRefused s
  | _ => if open_ then f s else worldRefused s

/-- The written words of entry `e` take effect. -/
def applyEntry (s : State) (e : Nat) : State :=
  let x := Sparse.get {} s.sec.regions e
  let y := { x with effBase := x.base, effSize := x.size, effValid := x.valid, effSecure := x.secure }
  if y = x then s else measureWorld (s.withSec fun z => { z with regions := Sparse.set {} z.regions e y })

/-- The units of `[a, a + n)` outside `[b, b + m)`. -/
def unitsMinus (a n b m : Nat) : List (Nat × Nat) :=
  ([(a, min (a + n) b - a), (max a (b + m), a + n - max a (b + m))] : List (Nat × Nat)).filter fun x => decide (x.2 > 0)

/-- The entry is VALID and would leave the user area or meet another VALID entry. -/
def State.entryBad (s : State) (e : Nat) (x : RegionEntry) : Bool :=
  let lo := x.base.toNat
  let hi := lo + x.size.toNat
  x.valid && (decide (hi > userUnits) || s.sec.regions.any fun y =>
    decide (y.1 ≠ e) && y.2.effValid && decide (y.2.effBase.toNat < hi) && decide (lo < y.2.effBase.toNat + y.2.effSize.toNat))

/-- REGION_ERR. -/
def setRegionErr (s : State) : State := s.withSec fun z => { z with regionErr := true }

/-- The flag word of entry `e`: the entry changes, after the overwrite of the units that leave the secure world. -/
def writeFlags (s : State) (e : Nat) (valid secure : Bool) : State :=
  let old := Sparse.get {} s.sec.regions e
  let x := { old with valid := valid, secure := secure }
  if s.entryBad e x then setRegionErr s
  else
    let s := s.withSec fun z => { z with regions := Sparse.set {} z.regions e x }
    let kept := if valid && secure then (x.base.toNat, x.size.toNat) else (0, 0)
    let gone := if old.effValid && old.effSecure then unitsMinus old.effBase.toNat old.effSize.toNat kept.1 kept.2 else []
    if gone.isEmpty then applyEntry s e
    else s.withSec fun z => { z with clearing := true, clearingUnits := gone, clearingEntry := some e }

/-- A word of the region table. -/
def writeRegion (s : State) (e word v : Nat) : State :=
  let x := Sparse.get {} s.sec.regions e
  let put (y : RegionEntry) : State := s.withSec fun z => { z with regions := Sparse.set {} z.regions e y }
  match word with
  | 0 => put { x with base := BitVec.ofNat 19 v }
  | 1 => put { x with size := BitVec.ofNat 19 v }
  | _ => writeFlags s e (bit v 0) (bit v 1)

/-- REGION_TABLE_WRITE. -/
def execRegionTableWrite (w : Agent) (e : Fin 64) (word : Fin 3) (v : Word) (s : State) : Result :=
  let off := 0x0400 + 0x10 * e.val + 4 * word.val
  .next <| writeGate s w 0x05 off fun s => regionGate s w off fun s => writeRegion s e word v.toNat

/-- A word of the pending tile map: bits of IDs that name no tile are RSV. -/
def writeTileMap (s : State) (i v : Nat) : State :=
  forAll (List.range 32) s fun s j =>
    if s.tileOk (32 * i + j) then s.withSec fun z => { z with tileMap := Sparse.set false z.tileMap (32 * i + j) (bit v j) }
    else s

/-- TILE_MAP_WRITE. -/
def execTileMapWrite (w : Agent) (i : Fin 256) (v : Word) (s : State) : Result :=
  let off := 0x0800 + 4 * i.val
  .next <| writeGate s w 0x05 off fun s => regionGate s w off fun s => writeTileMap s i v.toNat

/-! ## Port requests (R395, Table 18.4) -/

/-- `n` bytes of a request window. -/
def winBytes (w : Sparse Byte) (a n : Nat) : List Byte := (List.range n).map fun i => Sparse.get 0 w (a + i)

/-- The request is signed; it carries a new key; it writes the replay-protected area. -/
def reqSigned (c : Nat) : Bool := c == 1 || c == 4 || c == 5 || c == 6
def reqCarries (c : Nat) : Bool := c == 3 || c == 4
def reqWrites (c : Nat) : Bool := decide (3 ≤ c) && decide (c ≤ 6)

/-- The window's layout fits the command: ACTION is the command, and every byte without a use in it is 0. -/
def windowBad (c : Nat) (w : Sparse Byte) : Bool :=
  decide (c = 0) || decide (c > 6) || decide (readBytes w 0 4 ≠ c) ||
  w.any fun x => decide (4 ≤ x.1) && !(reqSigned c && decide (64 ≤ x.1) && decide (x.1 ≤ 3372)) &&
    !(reqCarries c && decide (3376 ≤ x.1) && decide (x.1 ≤ 5327))

/-- The message that a signed request signs. -/
def signedMsg (x : SecPort) (p : Port) (c : Nat) : List Byte :=
  toBytes x.nonce.toNat 64 ++ toBytes p 1 ++ winBytes x.window 0 64 ++
    (if reqCarries c then winBytes x.window 3376 1952 else [])

/-- The state does not allow the request ("Allowed when"). -/
def State.reqBad (s : State) (c : Nat) : Bool :=
  if c = 3 then
    s.flash.operatorKey.isSome || decide (s.melvor.jobState ≠ 0) || s.melvor.fold.isSome || (s.port 0).secure ||
      (s.port 1).secure
  else if c = 5 then decide (s.melvor.jobState ≠ 0) || s.melvor.loaderBusy
  else false

/-- RESULT of a request: 4 BAD_ARG, 2 NO_KEY, 5 FLASH, 1 BAD_SIG, 3 STATE, in this order; 0 performs it. `flashErr`: the
replay-protected area does not match its tag when the request reads it (R390).
DESIGN CHOICE, unsafe: notes/assumptions/56.md. -/
def State.judge (s : State) (p : Port) (c : Nat) (flashErr : Bool) : Nat :=
  let x := s.secPort p
  if windowBad c x.window then 4
  else if reqSigned c && s.flash.operatorKey.isNone then 2
  else if flashErr && decide (c ≠ 2) then 5
  else if reqSigned c &&
      !Config.mldsaVerify (s.flash.operatorKey.getD []) "ORV-REQ" (signedMsg x p c) (winBytes x.window 64 3309) then 1
  else if s.reqBad c then 3
  else if s.sec.replayErr && reqWrites c then 5
  else 0

/-- The request completes: RESULT, the fresh NONCE, and for a result other than 0 AUTH_FAIL_CNT and source 176. -/
def endRequest (s : State) (p : Port) (r : Nat) : State :=
  let s := renewNonce (s.modSecPort p fun x => { x with busy := false, result := BitVec.ofNat 3 r }) p
  if r = 0 then s else fire (s.withSec fun x => { x with authFailCnt := satAdd x.authFailCnt 1 }) 176

/-- REPLAY_ERR is set. DEDUCED, unsafe: notes/assumptions/54.md. -/
def setReplayErr (s : State) : State :=
  fireIf (!s.sec.replayErr) (s.withSec fun x => { x with replayErr := true }) 181

/-- Measurement 3 follows MIN_SVN and the operator key. -/
def measurePolicy (s : State) : State :=
  extendMeas s 3 (Config.policyDigest s.flash.minSvn.toNat (s.flash.operatorKey.getD []))

/-- The operator key is enrolled, replaced or removed. -/
def setKey (s : State) (k : Option (List Byte)) : State :=
  fire (measurePolicy (flashWrite s fun f => { f with operatorKey := k })) 178

/-- The effect of an allowed request. DEDUCED, unsafe: notes/assumptions/53.md. -/
def performRequest (s : State) (p : Port) (c : Nat) : State :=
  match c with
  | 1 => endRequest (setSecure s p true) p 0
  | 2 => endRequest (setSecure s p false) p 0
  | 3 => endRequest (setKey s (some (winBytes (s.secPort p).window 3376 1952))) p 0
  | 4 =>
    endRequest (setSecure (setSecure (setKey s (some (winBytes (s.secPort p).window 3376 1952))) 0 false) 1 false) p 0
  | 5 =>
    (s.withSec fun x =>
      { x with clearing := true, clearingUnits := [(0, userUnits)], clearKey := x.clearKey ++ [p] }).modSecPort p
      fun x => { x with busy := true }
  | _ =>
    endRequest (measurePolicy (flashWrite s fun f =>
      { f with minSvn := if f.minSvn < s.sec.fwSvn then s.sec.fwSvn else f.minSvn })) p 0

/-- Port `p` writes CMD. DEDUCED, unsafe: notes/assumptions/53.md. -/
def writeSecCmd (s : State) (p : Port) (c : Nat) (flashErr : Bool) : State :=
  if (s.secPort p).busy then s.withSec fun x => { x with authFailCnt := satAdd x.authFailCnt 1 }
  else
    let r := s.judge p c flashErr
    let s := if r = 5 && flashErr then setReplayErr s else s
    if r = 0 then performRequest s p c else endRequest s p r

/-- A request row: CMD is written by the port itself. -/
def secRow (s : State) (p : Port) (c : Nat) (flashErr : Bool) : Result :=
  .next <| writeGate s (.port p) 0x05 (0x0100 + 0x80 * p.val) fun s => writeSecCmd s p c flashErr

def execAuth (p : Port) (flashErr : Bool) (s : State) : Result := secRow s p 1 flashErr
def execDrop (p : Port) (flashErr : Bool) (s : State) : Result := secRow s p 2 flashErr
def execEnroll (p : Port) (flashErr : Bool) (s : State) : Result := secRow s p 3 flashErr
def execReplace (p : Port) (flashErr : Bool) (s : State) : Result := secRow s p 4 flashErr
def execClearKey (p : Port) (flashErr : Bool) (s : State) : Result := secRow s p 5 flashErr
def execSvnCommit (p : Port) (flashErr : Bool) (s : State) : Result := secRow s p 6 flashErr

/-- A tile whose working and accumulator memory CLEAR_KEY has overwritten: its words carry valid codes, and no stored error. -/
def Tile.overwritten (x : Tile) : Tile :=
  { x with wmem := [], amem := [], flaws := [], rel := { x.rel with rewrite := none } }

/-- What CLEAR_KEY does after the overwrite of the user area (R402): tile memories, then region table and tile map, the
key, both SECURE bits. Where REPLAY_ERR has been set since, the key cannot be removed: RESULT 5 (R390). DEDUCED, unsafe:
notes/assumptions/53.md. -/
def finishClearKey (s : State) (p : Port) : State :=
  let ts : Sparse Tile := s.tiles.map fun x => (x.1, x.2.overwritten)
  let s := { s with tiles := ts.filter fun x => decide (x.2 ≠ ({} : Tile)) }
  if s.sec.replayErr then endRequest s p 5
  else
    let ts : Sparse Tile := s.tiles.map fun x => (x.1, { x.2 with world := false })
    let s := { s with tiles := ts.filter fun x => decide (x.2 ≠ ({} : Tile)) }
    let s := s.withSec fun x => { x with regions := [], tileMap := [] }
    endRequest (setSecure (setSecure (setKey (measureWorld s) none) 0 false) 1 false) p 0

/-- A CLEAR_KEY that was taken while the other port's was running is judged after it. DEDUCED, unsafe:
notes/assumptions/53.md. -/
def laterClearKey (s : State) (p : Port) : State :=
  let r := s.judge p 5 false
  if r = 0 then performRequest s p 5 else endRequest s p r

/-- CLEARING_END: the overwrite ends, and what waited for it takes effect. -/
def execClearingEnd (s : State) : Result :=
  .next <|
    if !s.sec.clearing || s.unitsHeld s.sec.clearingUnits then s
    else
      let e := s.sec.clearingEntry
      let keys := s.sec.clearKey
      let s := zeroUnits s s.sec.clearingUnits
      let s := s.withSec fun x => { x with clearing := false, clearingUnits := [], clearingEntry := none, clearKey := [] }
      let s := match e with
        | some i => applyEntry s i
        | none => s
      fire (match keys with
        | p :: rest => forAll rest (finishClearKey s p) laterClearKey
        | [] => s) 179

/-- CLR_CNT of Table 18.6. -/
def Security.clear (x : Security) (v : Nat) : Security :=
  if bit v 0 then { x with authFailCnt := 0, worldRefusedCnt := 0 } else x

def execSecurityClrCnt (w : Agent) (s : State) : Result :=
  .next <| writeGate s w 0x05 0x0018 fun s => s.withSec fun x => x.clear 1

/-! ## SPDM (R393) -/

/-- The number of a transport. -/
def transportNum : Transport → Nat
  | .doe p => p
  | .smbus => 2

/-- The module answers on the transport (Table 19.2). -/
def State.spdmOn (s : State) (x : Transport) : Bool :=
  !s.melvor.lockstepErr && match x with
    | .doe _ => s.boot.portsReady
    | .smbus => s.melvor.fwReady

def State.spdm (s : State) (x : Transport) : Spdm := Sparse.get {} s.sec.spdm (transportNum x)
def State.setSpdm (s : State) (x : Transport) (y : Spdm) : State :=
  s.withSec fun z => { z with spdm := Sparse.set {} z.spdm (transportNum x) y }

/-- A response: its code and content in the encoding of DSP0274, with the alias key's signature where it is signed.
PRESUMED, unsafe: notes/assumptions/57.md. -/
def spdmAnswer (s : State) (x : Transport) (code : Nat) (content : List Byte) (sign : Bool) : State :=
  let body := Config.spdmResponse code content
  s.emit (.spdm x (if sign then body ++ Config.spdmSign s.sec.aliasKey body else body))

/-- An ERROR response: 0x01 InvalidRequest, 0x04 UnexpectedRequest. PRESUMED, unsafe: notes/assumptions/57.md. -/
def spdmError (s : State) (x : Transport) (code : Nat) : State := spdmAnswer s x 0x7F (toBytes code 1) false

/-- A request that needs the negotiation so far (`ok`). -/
def spdmRow (x : Transport) (ok : Spdm → Bool) (s : State) (f : State → State) : Result :=
  .next <| if !s.spdmOn x then s else if ok (s.spdm x) then f s else spdmError s x 0x04

/-- GET_VERSION: version 1.2; it begins the transport's negotiation anew. -/
def execGetVersion (x : Transport) (s : State) : Result :=
  spdmRow x (fun _ => true) s fun s =>
    spdmAnswer (s.setSpdm x { version := true }) x 0x04 (toBytes 0x12 1) false

/-- GET_CAPABILITIES: CERT_CAP, CHAL_CAP and MEAS_CAP with signed measurements. -/
def execGetCapabilities (x : Transport) (s : State) : Result :=
  spdmRow x (fun y => y.version) s fun s =>
    spdmAnswer (s.setSpdm x { version := true, caps := true }) x 0x61 (toBytes 0x16 4) false

/-- NEGOTIATE_ALGORITHMS: ML-DSA-65 and SHAKE256, both as extended algorithms of the vendor ID; neither base algorithm. -/
def execNegotiateAlgorithms (x : Transport) (mldsa shake : Bool) (s : State) : Result :=
  spdmRow x (fun y => y.version && y.caps) s fun s =>
    spdmAnswer (s.setSpdm x { version := true, caps := true, algs := mldsa && shake }) x 0x63
      (toBytes (b2n mldsa) 1 ++ toBytes (b2n shake) 1) false

/-- The certificates of slot 0 below the root: issuing, identity, alias. -/
def State.chainContent (s : State) : List Byte := s.flash.record.issCert ++ s.flash.record.idCert ++ s.sec.aliasCert

/-- GET_DIGESTS. -/
def execGetDigests (x : Transport) (s : State) : Result :=
  spdmRow x (fun y => y.algs) s fun s => spdmAnswer s x 0x01 s.chainContent false

/-- GET_CERTIFICATE: slot 0 only. -/
def execGetCertificate (x : Transport) (slot : Byte) (off len : Nat) (s : State) : Result :=
  spdmRow x (fun y => y.algs) s fun s =>
    if slot ≠ 0 then spdmError s x 0x01
    else spdmAnswer s x 0x02 (s.chainContent ++ toBytes off 4 ++ toBytes len 4) false

/-- The measurement blocks at SPDM indices `l` (Table 18.5: index i + 1 of register i). -/
def State.blocks (s : State) (l : List Nat) : List Byte :=
  l.flatMap fun i => toBytes i 1 ++ toBytes (Sparse.get 0 s.sec.meas (i - 1)).toNat 64

/-- CHALLENGE: a signed response over the chain, the measurements and both nonces. -/
def execChallenge (x : Transport) (slot : Byte) (nonce : BitVec 256) (s : State) : Result :=
  spdmRow x (fun y => y.algs) s fun s =>
    if slot ≠ 0 then spdmError s x 0x01
    else
      let r := issueNonce s 2
      spdmAnswer r.2 x 0x03
        (s.chainContent ++ s.blocks [1, 2, 3, 4, 5, 6, 7] ++ toBytes nonce.toNat 32 ++ toBytes r.1.toNat 64) true

/-- GET_MEASUREMENTS: index 0 asks for the number of blocks, 0xFF for all, 1 to 7 for one. -/
def execGetMeasurements (x : Transport) (index : Byte) (nonce : BitVec 256) (s : State) : Result :=
  spdmRow x (fun y => y.algs) s fun s =>
    let i := index.toNat
    if 7 < i ∧ i ≠ 0xFF then spdmError s x 0x01
    else
      let r := issueNonce s 2
      let l := if i = 0 then [] else if i = 0xFF then [1, 2, 3, 4, 5, 6, 7] else [i]
      spdmAnswer r.2 x 0x60 (toBytes i 1 ++ toBytes 7 1 ++ s.blocks l ++ toBytes nonce.toNat 32 ++ toBytes r.1.toNat 64) true

end Sys2Proof.Machine
end

