-- ==== Sys2Proof/Machine/Boot.lean ====
section
/-! DEFINITION. Resets and the power stage (spec 19, 20: R405, R412, R414, R422, R424), the boot ROM (R387, R391), the
clock and reset registers (R417), the firmware flash interface (R430) and the test access port (R429). -/

namespace Sys2Proof.Machine

/-! ## Resets (R412, R414) -/

/-- What the pins of the host ports hold through a reset: PERST# and the clock mode sampled at its deassertion. -/
def State.portPins (s : State) : Sparse HostPort :=
  forAll [0, 1] [] fun m p =>
    Sparse.set {} m p { perst := (s.port p).perst, srisMode := (s.port p).srisMode }

/-- Every register, tile, queue, buffer and cache at its Reset value; module flash, the straps as sampled and the pins
stay, and so do the model's own fields. `b`: the clock, reset and power stage registers. -/
def State.cleared (s : State) (b : Boot) : State :=
  { pending := s.pending, out := s.out, free := s.free, flash := s.flash, ports := s.portPins
    grp := { slot := s.grp.slot, board := s.grp.board }, tap := s.tap, boot := b, clockUs := s.clockUs
    power := { supply := s.flash.record.dawnMv, dawnMv := s.flash.record.dawnMv, duskMv := s.flash.record.duskMv } }

/-- A module reset: the sequence begins at stage 1. Until a main reset has been released (stage 0) there is none. Islands
and drovers that a trip or a shut-off has stopped stay stopped (R348, R422). -/
def moduleReset (s : State) (cause : Nat) : State :=
  if s.boot.stage = 0 then s
  else
    let stop := s.power.clocksStopped
    let s := s.cleared { s.boot with
      stage := 1, portsReady := false, hbmClear := false, resetCause := BitVec.ofNat 3 cause, tPortsUs := 0, tReadyUs := 0
      rstWrRefused := 0, sinceUs := 0, romHalted := false }
    let s := s.withPower fun p => { p with clocksStopped := stop }
    if stop then stopDrovers s else s

/-- A boundary-scan instruction. -/
def Tap.scans : Tap → Bool
  | .extest | .extestPulse | .extestTrain | .clamp | .highz => true
  | _ => false

/-- RESET_ASSERT: RESET# has been low for 1 ms; a boundary-scan instruction that is loaded takes effect (R429). -/
def execResetAssert (s : State) : Result :=
  .next <| moduleReset (s.withBoot fun b => { b with resetLow := true, scanned := s.tap.scans }) 2

/-- RESET_RELEASE: after boundary scan a module reset starts. -/
def execResetRelease (s : State) : Result :=
  .next <|
    if !s.boot.resetLow then s
    else
      let scanned := s.boot.scanned
      let s := s.withBoot fun b => { b with resetLow := false, scanned := false }
      if scanned then moduleReset s 2 else s

/-! ## Clock and reset registers (R417) -/

/-- RESET_CAUSE of an RST_REQ. -/
def rstCause : Agent → Nat
  | .port p => 3 + p
  | .smbus => 5
  | _ => 6

def rstRefused (s : State) : State := s.withBoot fun b => { b with rstWrRefused := satAdd b.rstWrRefused 1 }

/-- A write of the word of KEY and RST_REQ. -/
def writeRstReq (s : State) (w : Agent) (key : BitVec 16) (req : Bool) : State :=
  if !s.mayControl w || decide (key ≠ 0xA5C3#16) then rstRefused s else if req then moduleReset s (rstCause w) else s

/-- A write of TRIP_CLR. -/
def writeTripClr (s : State) (w : Agent) (v : Bool) : State :=
  if !s.mayControl w then rstRefused s else if v then s.withFlash fun f => { f with trip := none } else s

def execRstReq (w : Agent) (key : BitVec 16) (s : State) : Result :=
  .next <| writeGate s w 0x38 0x0010 fun s => writeRstReq s w key true
def execTripClr (w : Agent) (s : State) : Result :=
  .next <| writeGate s w 0x38 0x0014 fun s => writeTripClr s w true

/-! ## The power stage (R422, R424) -/

/-- The power stage turns off: everything but module flash is lost; a slot whose erasing or programming is cut is not
valid. `en`: the EN input; `trip`: THERMTRIP# stays asserted. -/
def powerOff (s : State) (en trip : Bool) : State :=
  let cut := s.flashIf.busy && (decide (s.flashIf.cmd = 1) || decide (s.flashIf.cmd = 2))
  let s := if cut then s.withFlash fun f => { f with cut := some (!s.sec.fwSlot) } else s
  let s := s.cleared { stage := 0, resetCause := 0, en := en, powerOn := false, pgood := false, thermtrip := trip
                       resetLow := s.boot.resetLow }
  (s.withPower fun p => { p with clocksStopped := true })

/-- INPUT_IN_RANGE: the hot-swap controller turns the power stage on. After a trip only removal of the input re-arms it. -/
def execInputInRange (s : State) : Result :=
  .next <|
    if s.boot.powerOn || s.boot.thermtrip then s
    else s.cleared { stage := 0, resetCause := 0, en := true, powerOn := true, pgood := false, resetLow := s.boot.resetLow }

/-- POWER_GOOD, unless the input has left its range since: the main reset is released, the boot ROM starts: a cold reset. -/
def execPowerGood (s : State) : Result :=
  .next <|
    if !s.boot.powerOn || decide (s.boot.stage ≠ 0) || s.boot.holdUp then s
    else { s.cleared { en := s.boot.en, resetLow := s.boot.resetLow } with tap := .idcode }

/-- Every island clock and every drover stops. -/
def stopClocks (s : State) : State := stopDrovers (s.withPower fun p => { p with clocksStopped := true })

/-- EN_LOW. -/
def execEnLow (s : State) : Result :=
  .next <| if s.boot.powerOn then powerOff s false s.boot.thermtrip else s.withBoot fun b => { b with en := false }

/-- INPUT_OUT_OF_RANGE: a shut-off on the input, with hold-up for the management complex; a fall below 38.0 V (`below`)
removes the input and re-arms a tripped module. -/
def execInputOutOfRange (below : Bool) (s : State) : Result :=
  .next <|
    let s := if below then s.withBoot fun b => { b with thermtrip := false } else s
    if s.boot.powerOn then (stopClocks s).withBoot fun b => { b with holdUp := true } else s

/-- POWER_STAGE_OFF: the hold-up of a shut-off ends, or the controller has a trip turn the stage off. -/
def execPowerStageOff (s : State) : Result :=
  .next <|
    if s.boot.powerOn && (s.boot.holdUp || s.boot.thermtrip) then powerOff s s.boot.en s.boot.thermtrip else s

/-! ## The boot ROM (R387-R392) -/

/-- The pages of slot A (false) or B (true). -/
def Flash.slot (f : Flash) (b : Bool) : Sparse (List Byte) := if b then f.slotB else f.slotA
def Flash.setSlot (f : Flash) (b : Bool) (x : Sparse (List Byte)) : Flash := if b then { f with slotB := x } else { f with slotA := x }

/-- Slot A (false) or B (true) is valid, with its SVN and its header and body: the signature verifies over their digest,
the SVN is at least MIN_SVN, and no shut-off has cut its programming (R391, R424). -/
def State.slotValid (s : State) (slot : Bool) : Option (BitVec 16 × List Byte) :=
  match Config.slotImage (s.flash.slot slot) with
  | some (svn, image, sig) =>
    if Config.mldsaVerify Config.firmwareKey "ORV-FW" (toBytes (shake256 image 64) 64) sig && decide (s.flash.minSvn ≤ svn) &&
        decide (s.flash.cut ≠ some slot) then some (svn, image) else none
  | none => none

/-- The slot that starts, with what it holds: the higher SVN, A on a tie. -/
def pickSlot (a b : Option (BitVec 16 × List Byte)) : Option (Bool × BitVec 16 × List Byte) :=
  match a, b with
  | some x, some y => if x.1 < y.1 then some (true, y) else some (false, x)
  | some x, none => some (false, x)
  | none, some y => some (true, y)
  | none, none => none

/-- The signed device record verifies: the issuing certificate against the root key digest, the record with its key. -/
def recordVerifies (r : DeviceRecord) : Bool :=
  match Config.issuingKey r.issCert with
  | some k => Config.mldsaVerify k "ORV-REC" (Config.recordBytes r) r.signature
  | none => false

/-- The boot ROM halts with BOOT_ERR. -/
def romHalt (s : State) (err : BitVec 3) : State :=
  (s.withSec fun x => { x with bootErr := err }).withBoot fun b => { b with romHalted := true }

/-- A fold port begins its training, with HELLO and FW_READY = 0 (R410). -/
def startTraining (s : State) (f : Nat) : State :=
  if (s.link f).holdDown then s
  else (s.modLink f fun l => { l with training := true }).emit (.linkCtrl (Fin.ofNat 12 f) (helloMsg s (Fin.ofNat 12 f)))

/-- Step 2: the ROM recovers S from the PUF with the helper data. -/
def romSecret (s : State) : State := s.withSec fun x => { x with secret := some (Config.deviceSecret s.flash.record.helper) }

/-- Step 4: the keys of Table 18.3 that need no measurement, and the device identity. -/
def romKeys (s : State) : State :=
  let k (label : String) : List Byte := deriveKey label (s.sec.secret.getD 0) []
  s.withSec fun x =>
    { x with identityKey := some (k "ORV identity"), identity := Config.mldsaPublic (k "ORV identity")
             replayKey := k "ORV replay", nonceKey := k "ORV nonce" }

/-- The replay-protected area matches its tag (R390). -/
def State.areaMatches (s : State) : Bool :=
  decide (s.flash.tag = areaTag s.sec.replayKey s.flash.writeCount s.flash.minSvn s.flash.bootCount s.flash.operatorKey s.flash.service)

/-- Step 6: measurements 0 to 3, the alias key and its certificate, S and the identity private key erased.
DEDUCED, unsafe: notes/assumptions/58.md. -/
def romMeasure (s : State) (image : List Byte) : State :=
  let s := extendMeas s 0 Config.romDigest
  let s := extendMeas s 1 (BitVec.ofNat 512 (shake256 (Config.recordBytes s.flash.record) 64))
  let s := measurePolicy (extendMeas s 2 (BitVec.ofNat 512 (shake256 image 64)))
  s.withSec fun x =>
    let m2 := Sparse.get 0 x.meas 2
    let key := deriveKey "ORV alias" (x.secret.getD 0) (toBytes m2.toNat 64)
    let cert := Config.aliasCert (Config.mldsaPublic key) m2
    { x with aliasKey := key, aliasCert := cert ++ Config.mldsaSign (x.identityKey.getD []) "ORV-ALIAS" cert
             secret := none, identityKey := none }

/-- The exit into stage 2: the firmware started, HBM and fold ports in training. -/
def romDone (s : State) (slot : Bool) (svn : BitVec 16) (image : List Byte) : State :=
  let s := (romMeasure s image).withSec fun x => { x with fwSlot := slot, fwSvn := svn, bootErr := 0 }
  let s := s.withBoot fun b => { b with stage := 2 }
  let s := forAll (List.range 8) s fun s k => s.modCtl k fun c => { c with training := true }
  forAll (List.range 12) s startTraining

/-- The straps that stage 1 has sampled, once for each cold or module reset (R421). -/
def sampleStraps (s : State) (b : BootFacts) : State := s.withGrp fun g => { g with slot := b.slot, board := b.board }

/-- Steps 5 and 6: a slot is chosen and started. -/
def romStart (s : State) (err : BitVec 3) : State :=
  if err = 4 then romHalt s 4
  else match pickSlot (s.slotValid false) (s.slotValid true) with
    | none => romHalt s 4
    | some (slot, svn, image) => romDone s slot svn image

/-- ROM_EXIT: the steps of Table 18.2 in order. BOOT_COUNT rises in step 4, before the firmware is verified.
DEDUCED, unsafe: notes/assumptions/59.md. -/
def execRomExit (b : BootFacts) (s : State) : Result :=
  .next <|
    if !s.boot.powerOn || decide (s.boot.stage ≠ 1) || s.boot.romHalted || decide (b.err > 5) then s
    else
      let s := sampleStraps s b
      if b.err = 1 ∨ b.err = 2 then romHalt s b.err
      else
        let s := romSecret s
        if b.err = 3 || !recordVerifies s.flash.record then romHalt s 3
        else
          let s := romKeys s
          if b.err = 5 || !s.areaMatches then romHalt s 5
          else romStart (flashWrite s fun f => { f with bootCount := f.bootCount + 1 }) b.err

/-! ## The firmware flash interface (R430) -/

/-- HOLDER's code of a writer. -/
def holderCode : Agent → Nat
  | .port p => p
  | .smbus => 2
  | _ => 3

/-- A write of the interface: by the agents that may, by no other while one holds it, and of FL_CMD and FL_DATA (`idle`)
only while BUSY = 0. -/
def flashGate (s : State) (w : Agent) (idle : Bool) (f : State → State) : State :=
  if !s.mayControl w || (s.flashIf.held && decide (s.flashIf.holder.toNat ≠ holderCode w)) || (idle && s.flashIf.busy) then
    s.withFlashIf fun x => { x with refused := satAdd x.refused 1 }
  else f s

/-- FL_CMD: 1 ERASE, 2 PROGRAM, 3 VERIFY. -/
def writeFlCmd (s : State) (w : Agent) (c : Nat) : State :=
  flashGate s w true fun s => s.withFlashIf fun x =>
    match c with
    | 0 => x
    | 1 => { x with busy := true, cmd := 1, held := true, holder := BitVec.ofNat 2 (holderCode w) }
    | n => { x with busy := true, cmd := BitVec.ofNat 2 n, cmdPage := x.page }

def writeFlPage (s : State) (w : Agent) (v : Nat) : State :=
  flashGate s w false fun s => s.withFlashIf fun x => { x with page := BitVec.ofNat 12 v }

/-- A word of FL_DATA. -/
def writeFlData (s : State) (w : Agent) (off v : Nat) : State :=
  flashGate s w true fun s => s.withFlashIf fun x => { x with data := writeBytes x.data off v 4 }

/-- The party of an agent in a tie of ERASE writes. -/
def eraseParty : Agent → Option Nat
  | .port p => some p
  | .smbus => some 2
  | _ => none

/-- ERASE by `w`, and in the same cycle by the agents `tied`: the tie token orders those that could be taken, and the
first becomes the holder. -/
def execErase (w : Agent) (tied : List Agent) (s : State) : Result :=
  .next <|
    let x := s.flashIf
    let all := (w :: tied).eraseDups
    let free (a : Agent) : Bool := s.mayControl a && !x.busy && !(x.held && decide (x.holder.toNat ≠ holderCode a))
    let t := tiePass 3 x.tok ((all.filter free).filterMap eraseParty)
    let won (a : Agent) : Bool := (eraseParty a).isSome && decide (eraseParty a = t.1)
    forAll (all.filter won ++ all.filter fun a => !won a) (s.withFlashIf fun x => { x with tok := t.2 }) fun s a =>
      writeGate s a 0x38 0x0104 fun s => writeFlCmd s a 1

def execProgram (w : Agent) (s : State) : Result := .next <| writeGate s w 0x38 0x0104 fun s => writeFlCmd s w 2
def execVerify (w : Agent) (s : State) : Result := .next <| writeGate s w 0x38 0x0104 fun s => writeFlCmd s w 3

/-- The slot that the interface acts on. -/
def State.inactive (s : State) : Bool := !s.sec.fwSlot

/-- The page may be programmed: in the slot, and not programmed since it was erased. -/
def State.pageErased (s : State) (p : Nat) : Bool :=
  decide (p < 2304) && !(s.flash.slot s.inactive).any fun x => x.1 = p

/-- The command ends with RESULT `r`. DEDUCED, unsafe: notes/assumptions/60.md. -/
def flashEnd (s : State) (r : Nat) : State :=
  s.withFlashIf fun x => { x with busy := false, result := BitVec.ofNat 2 r, cmd := 0 }

/-- The inactive slot is erased. -/
def eraseSlot (s : State) : State :=
  s.withFlash fun f => { f.setSlot s.inactive [] with cut := if f.cut = some s.inactive then none else f.cut }

/-- The page of the command holds `data`. -/
def programPage (s : State) (data : List Byte) : State :=
  s.withFlash fun f => f.setSlot s.inactive (Sparse.set [] (f.slot s.inactive) s.flashIf.cmdPage.toNat data)

/-- FLASH_COMPLETE: the command ends; `err`: a flash error, after which a page that was to be programmed holds free values
and a slot that was to be erased what it held. DEDUCED, unsafe: notes/assumptions/60.md. -/
def execFlashComplete (err : Bool) (s : State) : Result :=
  .next <|
    let x := s.flashIf
    if !x.busy then s
    else match x.cmd.toNat with
      | 1 => if err then flashEnd s 3 else flashEnd (eraseSlot s) 1
      | 2 =>
        if !s.pageErased x.cmdPage.toNat then flashEnd s 2
        else if err then let f := s.freshLines 64; flashEnd (programPage f.2 (toBytes f.1 4096)) 3
        else flashEnd (programPage s (winBytes x.data 0 4096)) 1
      | _ =>
        let s := s.withFlashIf fun x => { x with held := false }
        if err then flashEnd s 3
        else match s.slotValid s.inactive with
          | none => flashEnd s 2
          | some (svn, _) => flashEnd (s.withFlashIf fun x => { x with slotSvn := svn }) 1

/-- HOLDER_TIMEOUT. -/
def execHolderTimeout (s : State) : Result := .next <| s.withFlashIf fun x => { x with held := false }

/-! ## The test access port (R429) -/

/-- An instruction that takes effect at any time. PRESUMED, unsafe: notes/assumptions/62.md. -/
def tapRow (t : Tap) (s : State) : State := if s.boot.powerOn then { s with tap := t } else s

/-- The instruction in effect: one of boundary scan acts as BYPASS while RESET# is high. -/
def State.tapActs (s : State) : Tap := if s.tap.scans && !s.boot.resetLow then .bypass else s.tap

/-- A boundary-scan instruction is loaded: it takes effect while RESET# is low. PRESUMED, unsafe: notes/assumptions/62.md. -/
def scanRow (t : Tap) (s : State) : Result :=
  .next <|
    if s.boot.resetLow && s.boot.powerOn then (tapRow t s).withBoot fun b => { b with scanned := true } else tapRow t s

/-- The word of IDCODE. -/
def State.idcode (s : State) : Nat :=
  1 + Config.manufacturerCode.toNat * 2 + deviceId s.flash.record.grade * 2 ^ 12 + Config.siliconRevision.toNat * 2 ^ 28

def execBypass (s : State) : Result := .next <| tapRow .bypass s
def execIdcode (s : State) : Result :=
  .next <| if s.boot.powerOn then (tapRow .idcode s).emit (.tdo (BitVec.ofNat 32 s.idcode)) else s
def execSamplePreload (s : State) : Result := .next <| tapRow .samplePreload s
def execExtest (s : State) : Result := scanRow .extest s
def execExtestPulse (s : State) : Result := scanRow .extestPulse s
def execExtestTrain (s : State) : Result := scanRow .extestTrain s
def execClamp (s : State) : Result := scanRow .clamp s
def execHighz (s : State) : Result := scanRow .highz s

end Sys2Proof.Machine
end

