-- ==== Sys2Proof/Machine/TileRegs.lean ====
section
/-! DEFINITION. Reads of a tile window (R81, R82, R224, R225): the tile registers of Tables 2.8, 3.11 and 8.8, the
schedule memory, and the tile memories; and the maintenance write of an outside agent. -/

namespace Sys2Proof.Machine

/-- A fault field of a core or router, 0 without a fault. -/
def optNat {α : Type} (o : Option α) (f : α → Nat) : Nat := match o with | some x => f x | none => 0

/-- Every island relocks after a frequency step (R330). -/
def State.relocks (s : State) : Bool := s.power.chg == .relocking

/-- Mesh registers, offsets 0x0100 to 0x0137 (Table 2.8); `relock`: every island relocks after a frequency step (R330). -/
def Tile.meshReg (x : Tile) (relock : Bool) (o : Nat) : Nat :=
  let r := x.router
  match o with
  | 0x0100 => b2n (decide (x.core.state = 1)) + b2n r.halted * 2 + b2n r.frozen * 4 + b2n r.fault.isSome * 8 +
      b2n r.stalled * 16 + b2n r.held * 32 + b2n (relock || decide (x.island.stage ≠ 0)) * 64
  | 0x0104 => r.wdLimit.toNat
  | 0x0108 => r.slotCnt.toNat % 2 ^ 32
  | 0x010C => r.slotCnt.toNat / 2 ^ 32
  | 0x0110 => r.entry.toNat + r.remain.toNat * 2 ^ 16
  | 0x0114 => r.stallOut.toNat
  | 0x0118 => r.stallIn.toNat
  | 0x011C => r.stallHold.toNat
  | 0x0120 => r.stretchCnt.toNat
  | 0x0124 => r.ceN.toNat + r.ceE.toNat * 2 ^ 8 + r.ceS.toNat * 2 ^ 16 + r.ceW.toNat * 2 ^ 24
  | 0x0128 => r.faultWord
  | 0x012C => optNat r.fault fun f => f.slot.toNat % 2 ^ 32
  | 0x0130 => optNat r.fault fun f => f.slot.toNat / 2 ^ 32
  | _ => 0

/-- The words of WAITING and of the queue counts. -/
def TileCore.stateWord (c : TileCore) : Nat :=
  c.state.toNat + b2n c.blocked.isSome * 4 + (optNat c.blocked fun b => b.on.toNat) * 8

def Tile.countWord (x : Tile) : Nat :=
  let n := x.core.sendBuf.length
  x.mxe.q.queue.length + x.vxe.q.queue.length * 2 ^ 4 + x.upe.q.queue.length * 2 ^ 8 + x.mxe.q.summs.length * 2 ^ 12 +
    x.vxe.q.summs.length * 2 ^ 15 + x.upe.q.summs.length * 2 ^ 18 + n % 4 * 2 ^ 21 + b2n (decide (n ≥ 4)) * 2 ^ 23

/-- Core registers, offsets below 0x0100 and PREG (Table 3.11), of the tile with ID `t`. -/
def Tile.coreReg (x : Tile) (t o : Nat) : Nat :=
  let c := x.core
  match o with
  | 0x0000 => c.stateWord
  | 0x0004 => c.pc.toNat
  | 0x0008 => c.faultWord
  | 0x000C => optNat c.fault fun f => f.pc.toNat
  | 0x0010 => c.faultInfo.toNat
  | 0x0014 => x.countWord
  | 0x0018 => x.mxe.q.done.toNat
  | 0x001C => x.vxe.q.done.toNat
  | 0x0020 => x.upe.q.done.toNat
  | 0x0024 => x.mxe.q.enq.toNat
  | 0x0028 => x.vxe.q.enq.toNat
  | 0x002C => x.upe.q.enq.toNat
  | 0x0030 => c.retired.toNat % 2 ^ 32
  | 0x0034 => c.retired.toNat / 2 ^ 32
  | 0x0038 => c.dual.toNat
  | 0x003C => c.wait.toNat
  | 0x0040 => c.interlock.toNat
  | 0x0044 => c.imemCe.toNat
  | 0x004C => t + b2n x.world * 2 ^ 13
  | 0x0140 => if c.state = 1 then 1 else c.preds.toNat
  | _ =>
    if 0x0080 ≤ o ∧ o < 0x0100 then
      (if c.state = 1 then 0 else (Sparse.get 0 c.regs ((o - 0x0080) / 4)).toNat)
    else 0

/-- Fabric registers (Table 8.8). -/
def Tile.fabricReg (x : Tile) (o : Nat) : Nat :=
  let r := x.router
  if o < 0x0600 then
    let q := r.queue ((o - 0x0400) / 16)
    match o % 16 with
    | 0 => bits q.cfg.toNat 9 0
    | 4 => q.toks.length
    | 8 => q.accept.toNat
    | _ => q.discard.toNat
  else if o < 0x06A0 then Sparse.get 0 r.credit ((o - 0x0600) / 4)
  else if 0x0800 ≤ o ∧ o < 0x0880 then
    let k := r.crook ((o - 0x0800) / 32)
    match o % 32 with
    | 0x00 => bits k.cfg0.toNat 28 0 - bits k.cfg0.toNat 7 7 * 2 ^ 7
    | 0x04 => bits k.cfg1.toNat 8 0 + bits k.cfg1.toNat 31 16 * 2 ^ 16
    | 0x08 => k.cfg2.toNat
    | 0x0C => k.ccnt.toNat
    | 0x10 => k.pres.toNat
    | 0x14 => k.nulls.toNat
    | _ => 0
  else if o = 0x0C00 then b2n x.empty + b2n x.done * 2
  else if o = 0x0C04 then r.fabDisc.toNat
  else 0

/-- A tile register at offset `o` of the region (R81). -/
def Tile.readReg (x : Tile) (relock : Bool) (t o : Nat) : Nat :=
  if 0x1000 ≤ o ∧ o < 0x3000 then
    let i := (o - 0x1000) / 4
    bits (Sparse.get 0 x.router.sched (i / 4)).toNat (32 * (i % 4) + 31) (32 * (i % 4))
  else if 0x0400 ≤ o ∧ o < 0x1000 then x.fabricReg o
  else if 0x0100 ≤ o ∧ o < 0x0138 then x.meshReg relock o
  else x.coreReg t o

/-- A 32-bit read at offset `off` of tile `t`'s window; `none`: an address fault. -/
def Tile.read32 (x : Tile) (relock : Bool) (t off : Nat) : Option Nat :=
  if off % 4 ≠ 0 then none
  else if off < 0x100000 then if x.core.state = 1 then none else some (x.readW off 4)
  else if 0x100000 ≤ off ∧ off < 0x124000 then
    if x.core.state = 1 then none
    else some (leNat ((List.range 4).map fun i => x.readAByte (off - 0x100000 + i)))
  else if 0x140000 ≤ off ∧ off < 0x148000 then some (Sparse.get 0 x.core.imem ((off - 0x140000) / 4)).toNat
  else if 0x180000 ≤ off ∧ off < 0x190000 then some (x.readReg relock t (off - 0x180000))
  else none

/-- First byte of the tile windows (Table 0.8). -/
def tileBase : Nat := 0x400000000000

/-- TILE_MAINT_WRITE: a 32-bit write of a device address in the tile windows. -/
def tileWrite32 (s : State) (w : Agent) (a v : Nat) : State :=
  let t := (a - tileBase) / 0x200000
  if a < tileBase ∨ t ≥ 8192 then addressFault s w 2 (BitVec.ofNat 48 ((a - tileBase) % 0x200000000))
  else tileWrite s w t ((a - tileBase) % 0x200000) v

def execTileMaintWrite (w : Agent) (a : Addr) (v : Word) (s : State) : Result :=
  .next (tileWrite32 s w a.toNat v.toNat)

end Sys2Proof.Machine
end

