-- ==== Sys2Proof/Machine/RegRead.lean ====
section
/-! DEFINITION. Reads of control-block registers (R9, R15 and the register table of each chapter). An offset that a table
does not list reads 0. Every offset here is a multiple of 4. -/

namespace Sys2Proof.Machine

/-- Block 0x00 (Table 13.1). -/
def State.melvorReg (s : State) (o : Nat) : Nat :=
  let m := s.melvor
  match o with
  | 0x0000 => b2n m.fwReady + b2n m.lockstepErr * 2 + b2n m.loaderBusy * 4
  | 0x0004 => if s.boot.stage ≥ 2 then Config.firmwareVersion.toNat else 0
  | 0x0008 => 0x0100 + 0x0203 * 2 ^ 16
  | 0x000C => m.heartbeat.toNat
  | 0x0010 => s.jobShown.toNat + m.owner.toNat * 8
  | 0x0014 => s.stepShown.toNat
  | _ => 0

/-- Mailbox registers (Table 13.2). -/
def State.boxReg (s : State) (p : Port) (o : Nat) : Nat :=
  let b := s.box p
  match o with
  | 0x0000 => b2n b.enable + b2n b.cmdCoh * 2 + b2n b.cplCoh * 4
  | 0x0004 => b2n b.enabled + b2n b.negotiated * 2 + b2n b.cfgErr * 4 + b2n b.cplStall * 8 + b.version.toNat * 2 ^ 8
  | 0x0008 => b.cmdBaseLo.toNat * 2 ^ 12
  | 0x000C => b.cmdBaseHi.toNat
  | 0x0010 => b.cmdLog2n.toNat
  | 0x0014 => b.cplBaseLo.toNat * 2 ^ 12
  | 0x0018 => b.cplBaseHi.toNat
  | 0x001C => b.cplLog2n.toNat
  | 0x0020 => b.cmdProd.toNat
  | 0x0024 => b.cmdCons.toNat
  | 0x0028 => b.expSeq.toNat
  | 0x002C => b.cplCons.toNat
  | 0x0030 => b.cplProd.toNat
  | 0x0034 => s.pendingOf p
  | 0x0038 => b.qfullCnt.toNat
  | 0x003C => b.cplDropCnt.toNat
  | 0x0040 => b.evtMergeCnt.toNat
  | _ => 0

/-- PORT_STATUS. -/
def State.portStatus (s : State) (p : Port) : Nat :=
  let h := s.port p
  b2n h.linkUp + h.speed.toNat * 2 + h.width.toNat * 2 ^ 4 + b2n h.cxlCache * 2 ^ 9 + b2n h.cxlMem * 2 ^ 10 +
    b2n h.secure * 2 ^ 11 + b2n (decide (s.melvor.owner.toNat = p.val)) * 2 ^ 12 +
    b2n s.melvor.handover.isSome * 2 ^ 13 + b2n h.removed * 2 ^ 14

/-- A placement entry (Table 12.6). -/
def PlaceEntry.reg (e : PlaceEntry) (o : Nat) : Nat :=
  match o with
  | 0x0 => e.basePg.toNat
  | 0x4 => e.pages.toNat + b2n e.valid * 2 ^ 31
  | 0x8 => e.ridLo.toNat + e.ridHi.toNat * 2 ^ 16
  | _ => b2n e.rdEn

/-- Port registers, from offset 0x8_0000 (Table 12.6). -/
def State.portReg (s : State) (p : Port) (o : Nat) : Nat :=
  let h := s.port p
  match o with
  | 0x00 => s.portStatus p
  | 0x04 => b2n h.half
  | 0x08 => h.urCnt.toNat
  | 0x0C => h.caCnt.toNat
  | 0x10 => h.epSent.toNat
  | 0x14 => h.epRcvd.toNat
  | 0x18 => h.lockedWr.toNat
  | 0x1C => h.staleCnt.toNat
  | 0x20 => h.refetchCnt.toNat
  | 0x24 => h.flipCnt.toNat
  | 0x28 => h.removalCnt.toNat
  | 0x2C => h.droppedLines.toNat
  | 0x30 => optNat h.fault fun f => f.addr.toNat % 2 ^ 32
  | 0x34 => optNat h.fault fun f => f.addr.toNat / 2 ^ 32 + f.bar.toNat * 2 ^ 16 + f.kind.toNat * 2 ^ 18 + 2 ^ 31
  | 0x38 => optNat h.fault fun f => f.reqid.toNat
  | _ => if 0x100 ≤ o ∧ o < 0x200 then (Sparse.get {} h.places ((o - 0x100) / 16)).reg (o % 16) else 0

/-- A word of a port's MSI-X table. -/
def Vector16.reg (v : Vector16) (o : Nat) : Nat :=
  match o with
  | 0x0 => v.addr.toNat % 2 ^ 32
  | 0x4 => v.addr.toNat / 2 ^ 32
  | 0x8 => v.data.toNat
  | _ => b2n v.mask

/-- Words of a port's MSI-X table (offsets below 0x100) and Pending Bit Array (0x1000). -/
def HostPort.msixReg (h : HostPort) (o : Nat) : Nat :=
  if o < 0x100 then (Sparse.get {} h.msix (o / 16)).reg (o % 16) else if o = 0x1000 then h.pba.toNat else 0

/-- Where an agent finds the MSI-X structures of a port: its own at 0x4_0000 through BAR0, each port's at a stride of
0x2000 for the device (R363). -/
def msixAt (w : Agent) (o : Nat) : Option (Port × Nat) :=
  if o < 0x40000 ∨ o ≥ 0x44000 then none
  else match w with
    | .port p => if o < 0x42000 then some (p, o - 0x40000) else none
    | _ => some (Fin.ofNat 2 ((o - 0x40000) / 0x2000), (o - 0x40000) % 0x2000)

/-- An in-service slot, 0x1F for none. -/
def insvcCode (o : Option Nat) : Nat := o.getD 0x1F

/-- A group's words (Table 16.2). -/
def State.irqGroupReg (s : State) (g o : Nat) : Nat :=
  let x := s.irqGrp g
  match o with
  | 0x00 | 0x08 => x.pend.toNat
  | 0x04 => x.enable.toNat
  | 0x0C => s.routeOf g + x.holdoff.toNat * 2 ^ 16
  | 0x10 => (if x.ready then x.cause else 0) + b2n x.ready * 2 ^ 4 +
      b2n (([0, 1, 2] : List Nat).any fun d => s.inService d = some g) * 2 ^ 5 + b2n x.run * 2 ^ 6 + b2n (s.waitDest g) * 2 ^ 7
  | 0x18 => x.mergeCnt.toNat
  | 0x1C => x.msgCnt.toNat
  | _ => 0

/-- Block 0x03. -/
def State.irqReg (s : State) (w : Agent) (o : Nat) : Nat :=
  if o < 0x200 then s.irqGroupReg (o / 32) (o % 32)
  else if o = 0x200 then
    insvcCode (s.inService 0) + insvcCode (s.inService 1) * 2 ^ 8 + insvcCode (s.inService 2) * 2 ^ 16
  else if o = 0x204 then s.irq.wrRefused.toNat
  else match msixAt w o with
    | some (p, x) => (s.port p).msixReg x
    | none => 0

/-- Block 0x04 (Table 15.8). -/
def State.powerReg (s : State) (o : Nat) : Nat :=
  let p := s.power
  let isl := (s.tile p.islSel.toNat).island
  match o with
  | 0x0000 => p.point.code + p.target.code * 4 + b2n p.changing * 2 ^ 4 + b2n p.droopActive * 2 ^ 5 +
      b2n p.capped * 2 ^ 6 + b2n (decide (p.thermLevel ≥ 1)) * 2 ^ 7 + b2n p.hbmThrottle * 2 ^ 8 +
      b2n p.calValid * 2 ^ 9 + b2n p.sensorFault * 2 ^ 10 + p.phase.toNat * 2 ^ 11
  | 0x0004 => p.pcap.toNat
  | 0x0008 => p.fwd.toNat + p.bwd.toNat * 4 + p.upd.toNat * 16 + p.exch.toNat * 64
  | 0x000C => b2n p.nightReq + p.nightIdleMs.toNat * 2 ^ 16
  | 0x0010 => p.tjThrottle.toNat
  | 0x0014 => p.droopTh.toNat
  | 0x0018 => p.pMeas.toNat + p.pEst.toNat * 2 ^ 16
  | 0x001C => p.calGain.toNat
  | 0x0020 => p.tjMax.toNat + p.tjSensor.toNat * 2 ^ 8 + p.hbmTmax.toNat * 2 ^ 16 + p.hbmStack.toNat * 2 ^ 24
  | 0x0024 => p.actCeil.toNat
  | 0x0028 => p.pointChgCnt.toNat
  | 0x002C => p.chgDeferCnt.toNat
  | 0x0030 => p.droopEvents.toNat
  | 0x0034 => p.capEvents.toNat
  | 0x0038 => p.thermEvents.toNat
  | 0x003C => p.rampHoldCnt.toNat
  | 0x0040 => p.fillCnt.toNat
  | 0x0044 => p.pwrWrRefused.toNat
  | 0x0048 => optNat s.flash.trip fun t => t.kind.toNat + t.sensor.toNat * 2 ^ 2 + t.temp.toNat * 2 ^ 10 + 2 ^ 31
  | 0x0050 => p.energyJ.toNat % 2 ^ 32
  | 0x0054 => p.energyJ.toNat / 2 ^ 32
  | 0x0100 => p.islSel.toNat
  | 0x0104 => isl.act % 2 ^ 17
  | 0x0108 => isl.hold.toNat
  | _ =>
    if 0x0200 ≤ o ∧ o < 0x0300 then
      let n := (o - 0x0200) / 4
      (Sparse.get 0 p.temps n).toNat + b2n (Sparse.get false p.badTemps n) * 2 ^ 31
    else 0

/-- A region table entry's words, as written (Table 18.6). -/
def RegionEntry.reg (e : RegionEntry) (o : Nat) : Nat :=
  match o with
  | 0x0 => e.base.toNat
  | 0x4 => e.size.toNat
  | 0x8 => b2n e.valid + b2n e.secure * 2
  | _ => 0

/-- A port's request registers (offsets 0x00 to 0x7F of its group). -/
def SecPort.reg (x : SecPort) (o : Nat) : Nat :=
  if o = 0x04 then b2n x.busy + x.result.toNat * 2
  else if 0x40 ≤ o then Line.bytes x.nonce (o - 0x40) 4
  else 0

/-- Block 0x05 (Table 18.6): a request window reads as 0 to the other port. -/
def State.securityReg (s : State) (w : Agent) (o : Nat) : Nat :=
  let x := s.sec
  if o = 0x0000 then
    b2n s.flash.operatorKey.isSome + b2n (s.port 0).secure * 2 + b2n (s.port 1).secure * 4 + b2n x.clearing * 8 +
      b2n x.regionErr * 16 + b2n x.replayErr * 32
  else if o = 0x0004 then x.fwSvn.toNat + s.flash.minSvn.toNat * 2 ^ 16
  else if o = 0x0008 then b2n x.fwSlot + x.bootErr.toNat * 2 + Config.romVersion.toNat * 2 ^ 8
  else if o = 0x000C then s.flash.bootCount.toNat
  else if o = 0x0010 then x.authFailCnt.toNat
  else if o = 0x0014 then x.worldRefusedCnt.toNat
  else if 0x0100 ≤ o ∧ o < 0x0200 then (s.secPort ((o - 0x0100) / 0x80)).reg (o % 0x80)
  else if 0x0400 ≤ o ∧ o < 0x0800 then (Sparse.get {} x.regions ((o - 0x0400) / 16)).reg (o % 16)
  else if 0x0800 ≤ o ∧ o < 0x0C00 then
    pack 1 ((List.range 32).map fun j => b2n (Sparse.get false x.tileMap ((o - 0x0800) * 8 + j)))
  else if 0x0C00 ≤ o ∧ o < 0x0E00 then Line.bytes (Sparse.get 0 x.meas ((o - 0x0C00) / 64)) (o % 64) 4
  else if 0x1000 ≤ o ∧ o < 0x5000 then
    let q := (o - 0x1000) / 0x2000
    let hidden : Bool := match w with | .port p => decide (p.val ≠ q) | _ => false
    if hidden then 0 else readBytes (s.secPort q).window ((o - 0x1000) % 0x2000) 4
  else 0

/-- The two words of drover queue `q` (Table 11.3). -/
def DQueue.reg (y : DQueue) (hi : Bool) : Nat :=
  if hi then
    min 64 y.inflight + min 16 (y.xfers.length + y.behind.length) * 2 ^ 7 + b2n (y.xfers.any fun x => x.held) * 2 ^ 12 +
      b2n (y.xfers.any fun x => x.staged && !x.go) * 2 ^ 13
  else if y.isOpen then
    1 + oKind y.rcd * 2 + oOut y.rcd % 128 * 2 ^ 3 + oRow y.rcd * 2 ^ 10 + oLanes y.rcd * 2 ^ 13 + oQueue y.rcd * 2 ^ 15
  else 0

def Arb.reg (a : Arb) : Nat := b2n a.split + a.read16.toNat * 2 ^ 4 + a.write16.toNat * 2 ^ 8 + a.remote16.toNat * 2 ^ 12

/-- Blocks 0x08 to 0x17 (Table 11.3). -/
def State.droverReg (s : State) (d o : Nat) : Nat :=
  let x := s.drover d
  match o with
  | 0x0000 => b2n (!x.opens.isEmpty || !x.cuts.isEmpty) + b2n (s.droverIdle (Fin.ofNat 16 d)) * 2 + b2n x.fault.isSome * 4 +
      b2n (x.queues.any fun y => y.2.xfers.any fun f => f.held) * 8
  | 0x0004 => x.timeoutUs.toNat
  | 0x0008 => x.defDl.toNat
  | 0x0010 => x.balesIn.toNat
  | 0x0014 => x.balesOut.toNat
  | 0x0018 => x.sideXfers.toNat
  | 0x001C => x.dlMiss.toNat
  | 0x0020 => x.cancelXfers.toNat
  | 0x0024 => x.cancelBales.toNat
  | 0x0028 => x.cancelLate.toNat
  | 0x002C => x.discBales.toNat
  | 0x0030 => x.discTokens.toNat
  | 0x0034 => x.cutDisc.toNat
  | 0x0038 => x.relWaitUs.toNat
  | 0x003C => x.bpUs.toNat
  | 0x0040 => x.faultWord
  | 0x0044 => optNat x.fault fun f => f.tag.toNat
  | _ =>
    if 0x0100 ≤ o ∧ o < 0x0200 then (x.queue ((o - 0x0100) / 8)).reg (decide (o % 8 = 4))
    else if o = 0x0800 ∧ d = 0 then s.arb.reg
    else 0

/-- Blocks 0x18 to 0x1F (Table 10.5). -/
def HbmCtl.reg (c : HbmCtl) (o : Nat) : Nat :=
  match o with
  | 0x0000 => b2n c.ready + b2n c.training * 2 + b2n c.degraded * 4
  | 0x0004 => c.ceCnt.toNat
  | 0x0008 => c.ueCnt.toNat
  | 0x000C => c.poisonCnt.toNat
  | 0x0010 => optNat c.ue fun u => u.addr.toNat % 2 ^ 32
  | 0x0014 => optNat c.ue fun u => u.addr.toNat / 2 ^ 32 + u.pc.toNat * 2 ^ 16 + b2n u.poison * 2 ^ 22 + 2 ^ 31
  | 0x0018 => c.rdLines.toNat % 2 ^ 32
  | 0x001C => c.rdLines.toNat / 2 ^ 32
  | 0x0020 => c.wrLines.toNat % 2 ^ 32
  | 0x0024 => c.wrLines.toNat / 2 ^ 32
  | _ => 0

/-- A fold port's words (Table 14.6). -/
def LinkPort.reg (l : LinkPort) (o : Nat) : Nat :=
  match o with
  | 0x0000 => b2n l.up + b2n l.training * 2 + b2n l.miswired * 4 + b2n l.half * 8 + l.version.toNat * 16 + b2n l.routed * 64
  | 0x0004 => l.peerSlot.toNat + l.peerBoard.toNat * 2 ^ 3 + l.peerPort.toNat * 2 ^ 12 + b2n l.peerValid * 2 ^ 16
  | 0x0008 => b2n l.holdDown
  | 0x000C => l.rdl.toNat
  | 0x0010 => l.flitsTx.toNat % 2 ^ 32
  | 0x0014 => l.flitsTx.toNat / 2 ^ 32
  | 0x0018 => l.flitsRx.toNat % 2 ^ 32
  | 0x001C => l.flitsRx.toNat / 2 ^ 32
  | 0x0020 => l.crcErr.toNat
  | 0x0024 => l.replays.toNat
  | 0x0028 => l.retrains.toNat
  | 0x002C => l.fecSym.toNat
  | 0x0030 => l.fecUncorr.toNat
  | 0x0034 => l.downCnt.toNat
  | 0x0038 => l.redFrames.toNat
  | _ => 0

/-- The group's words, from offset 0x0800 of block 0x20. -/
def Group.reg (g : Group) (o : Nat) : Nat :=
  match o with
  | 0x0800 => g.member.toNat + g.modules.toNat * 2 ^ 12 + b2n g.bellwether * 2 ^ 25 + b2n g.top * 2 ^ 26 + b2n g.grouped * 2 ^ 27
  | 0x0804 => g.slot.toNat + g.board.toNat * 2 ^ 3 + (g.board.toNat * 8 + g.slot.toNat) * 2 ^ 12
  | 0x0808 => g.b.toNat + g.q.toNat * 2 ^ 4
  | 0x080C => b2n g.nv0 + b2n g.sat0 * 2 + b2n g.nv1 * 4 + b2n g.sat1 * 8
  | 0x0810 => g.joinTimeoutS.toNat
  | 0x0814 => g.exchTimeoutMs.toNat
  | 0x0818 => g.combineWaitUs.toNat
  | 0x081C => g.agreeLastUs.toNat
  | 0x0820 => g.freezeMerged.toNat
  | 0x0824 => g.gatherDrop.toNat
  | 0x0828 => match g.fault with
    | none => 0xF0
    | some f => f.code.toNat + f.port.toNat * 2 ^ 4 + f.stream.toNat * 2 ^ 8 + f.src.toNat * 2 ^ 16 + 2 ^ 31
  | _ => 0

/-- The two words of a tile's error counts (Table 17.7). -/
def State.tileWord1 (s : State) (t : Nat) : Nat :=
  min (s.recent (s.count t).wmemCe).length (2 ^ 20 - 1) + min (s.recent (s.count t).amemCe).length (2 ^ 12 - 1) * 2 ^ 20
def State.tileWord2 (s : State) (t : Nat) : Nat :=
  min (s.recent (s.count t).ue).length 255 + min (s.recent (s.count t).link).length 255 * 2 ^ 8 +
  min (s.recent (s.count t).rep).length 255 * 2 ^ 16 + b2n (s.flash.service.contains t) * 2 ^ 24 +
  b2n (s.retirePending t) * 2 ^ 25

/-- Block 0x30 (Table 17.7). -/
def State.relReg (s : State) (o : Nat) : Nat :=
  let r := s.rel
  match o with
  | 0x0000 => r.jstate.toNat + r.lostCause.toNat * 4 + b2n r.fatal * 2 ^ 5 + b2n r.viral * 2 ^ 6 + b2n r.retirePend * 2 ^ 7 +
      b2n r.noSpare * 2 ^ 8
  | 0x0004 => b2n r.hbmScrubEn + b2n r.tileScrubEn * 2
  | 0x0008 => r.scrubPeriodH.toNat + r.serviceWindowH.toNat * 2 ^ 8 + r.tileCeTh.toNat * 2 ^ 16
  | 0x000C => r.jstep.toNat
  | 0x0010 => r.jindex.length
  | 0x0014 => s.jcap
  | 0x0018 => r.stepsReplayed.toNat
  | 0x001C => r.hbmScrubPasses.toNat
  | 0x0020 => r.hbmScrubCe.toNat
  | 0x0024 => r.hbmScrubUe.toNat
  | 0x0028 => r.tileScrubCe.toNat
  | 0x002C => r.tileScrubUe.toNat
  | 0x0030 => r.tilesRetired.toNat
  | 0x0034 => r.pinsRetired.toNat
  | 0x0100 => r.tileSel.toNat
  | 0x0104 => s.tileWord1 r.tileSel.toNat
  | 0x0108 => s.tileWord2 r.tileSel.toNat
  | _ => 0

/-- Block 0x31 (Table 17.8). -/
def Snapshot.reg (x : Snapshot) (o : Nat) : Nat :=
  match o with
  | 0x0000 => b2n x.busy + b2n x.err * 2 + b2n x.held.isSome * 4
  | 0x0008 => x.every.toNat
  | 0x000C => b2n x.tport + x.tregion.toNat * 2
  | 0x0010 => x.toffLo.toNat * 2 ^ 12
  | 0x0014 => x.toffHi.toNat
  | 0x0018 => x.snapStep.toNat
  | 0x001C => x.snapBytes.toNat % 2 ^ 32
  | 0x0020 => x.snapBytes.toNat / 2 ^ 32
  | 0x0024 => x.snapshots.toNat
  | 0x0028 => x.skipped.toNat
  | 0x002C => x.errors.toNat
  | 0x0030 => x.waitUs.toNat
  | _ => 0

/-- Block 0x38 (Tables 19.3, 20.4). -/
def State.clockReg (s : State) (o : Nat) : Nat :=
  let b := s.boot
  let f := s.flashIf
  match o with
  | 0x0000 => b.stage.toNat + b2n b.portsReady * 8 + b2n b.hbmClear * 16
  | 0x0004 => b.resetCause.toNat
  | 0x0008 => b.tPortsUs.toNat
  | 0x000C => b.tReadyUs.toNat
  | 0x0018 => b.rstWrRefused.toNat
  | 0x0100 => b2n f.busy + f.result.toNat * 2 + b2n f.held * 8 + f.holder.toNat * 16 + b2n (!s.sec.fwSlot) * 64
  | 0x0108 => f.page.toNat
  | 0x010C => f.slotSvn.toNat
  | 0x0110 => f.refused.toNat
  | _ => if 0x1000 ≤ o ∧ o < 0x2000 then readBytes f.data (o - 0x1000) 4 else 0

/-- The register at offset `o` of block `b`, as agent `w` reads it; reserved blocks and reserved space read 0 (R15).
DEDUCED, unsafe: notes/assumptions/65.md. -/
def State.regRead (s : State) (w : Agent) (b o : Nat) : Nat :=
  if b = 0x00 then s.melvorReg o
  else if b = 0x01 ∨ b = 0x02 then
    let p : Port := Fin.ofNat 2 (b - 1)
    if o < 0x80000 then s.boxReg p o else s.portReg p (o - 0x80000)
  else if b = 0x03 then s.irqReg w o
  else if b = 0x04 then s.powerReg o
  else if b = 0x05 then s.securityReg w o
  else if 0x08 ≤ b ∧ b ≤ 0x17 then s.droverReg (b - 0x08) o
  else if 0x18 ≤ b ∧ b ≤ 0x1F then (s.ctl (b - 0x18)).reg o
  else if 0x20 ≤ b ∧ b ≤ 0x2B then (if o < 0x0800 then (s.link (b - 0x20)).reg o else if b = 0x20 then s.grp.reg o else 0)
  else if b = 0x30 then s.relReg o
  else if b = 0x31 then s.snap.reg o
  else if b = 0x38 then s.clockReg o
  else 0

/-! ## COUNTERS (R384) -/

/-- The 32-bit words of block `b` from offset `o`, `n` of them. -/
def State.regBytes (s : State) (b o n : Nat) : List Byte :=
  (List.range n).flatMap fun i => toBytes (s.regRead .melvor b (o + 4 * i)) 4

/-- The layout of Table 17.6. -/
def State.countersLayout (s : State) : List Byte :=
  toBytes 1 4 ++ toBytes s.stepShown.toNat 4 ++ toBytes (64 * s.cols) 2 ++
    toBytes (match s.flash.record.grade with | .st70 => 0 | .st68 => 1) 54 ++
  s.regBytes 0x30 0 16 ++ s.regBytes 0x31 0 16 ++
  ((List.range 8).flatMap fun k => s.regBytes (0x18 + k) 0 16) ++
  ((List.range 16).flatMap fun d => s.regBytes (0x08 + d) 0 16) ++
  ((List.range 12).flatMap fun f => s.regBytes (0x20 + f) 0 16) ++
  s.regBytes 0x20 0x0800 16 ++ s.regBytes 0x04 0 32 ++
  (s.allTiles.flatMap fun t => toBytes (s.tileWord1 t) 4 ++ toBytes (s.tileWord2 t) 4)

/-- COUNTERS: the layout, cut at BYTES, goes to BUF. -/
def execCounters (p : Port) (hostErr : Bool) (s : State) : Result :=
  cmdRow p 0x21 s fun s e =>
    let a := Line.bytes e 8 8
    let n := Line.bytes e 16 4
    if s.bufBlocked a n then s
    else if hostErr && (hostWindow a).isSome then complete s p e 14 0 0
    else
      let l := s.countersLayout.take n
      complete (bufWrite s a l.length (leNat l)) p e 0 0 l.length

end Sys2Proof.Machine
end

