-- ==== Sys2Proof/Machine/RegWrite.lean ====
section
/-! DEFINITION. Writes of control-block registers (R9, R15 and each chapter's rules): one function for each block, built on
the effects that the rows of single registers use; the register writes of an agent by device address, the rows of the
mailbox and port registers, and the sideband SMBus (R427, R428). -/

namespace Sys2Proof.Machine

/-! ## Mailbox and port registers (R289, R292, R293) -/

/-- A base or size of a ring: not performed while ENABLE = 1, and CFG_ERR is set. -/
def writeRing (s : State) (p : Port) (f : Mailbox → Mailbox) : State :=
  if (s.box p).enable then cfgErr s p else s.modBox p f

/-- A word of a mailbox (Table 13.2). -/
def writeBox (s : State) (p : Port) (o v : Nat) : State :=
  match o with
  | 0x0000 => writeEnable s p (bit v 0) (bit v 1) (bit v 2)
  | 0x0004 => if bit v 2 then s.modBox p fun b => { b with cfgErr := false } else s
  | 0x0008 => writeRing s p fun b => { b with cmdBaseLo := BitVec.ofNat 20 (v / 2 ^ 12) }
  | 0x000C => writeRing s p fun b => { b with cmdBaseHi := BitVec.ofNat 14 v }
  | 0x0010 => writeRing s p fun b => { b with cmdLog2n := BitVec.ofNat 4 v }
  | 0x0014 => writeRing s p fun b => { b with cplBaseLo := BitVec.ofNat 20 (v / 2 ^ 12) }
  | 0x0018 => writeRing s p fun b => { b with cplBaseHi := BitVec.ofNat 14 v }
  | 0x001C => writeRing s p fun b => { b with cplLog2n := BitVec.ofNat 4 v }
  | 0x0020 => writeCmdProd s p v
  | 0x002C => writeCplCons s p v
  | 0x0044 => s.modBox p fun b => b.clear v
  | _ => s

/-- CLR_CNT and CLR_FAULT of Table 12.6, as bits 0 and 1 of a value. -/
def HostPort.clear (h : HostPort) (v : Nat) : HostPort :=
  let h := if bit v 0 then
      { h with urCnt := 0, caCnt := 0, epSent := 0, epRcvd := 0, lockedWr := 0, staleCnt := 0, refetchCnt := 0, flipCnt := 0
               removalCnt := 0, droppedLines := 0 }
    else h
  if bit v 1 then { h with fault := none } else h

/-- A word of the port registers, from offset 0x8_0000. -/
def writePort (s : State) (p : Port) (o v : Nat) : State :=
  match o with
  | 0x04 => s.modPort p fun h => { h with half := bit v 0 }
  | 0x3C => s.modPort p fun h => h.clear v
  | _ => s

/-- The block of port `p`. -/
def portBlock (p : Port) : Nat := p + 1

def execEnable (w : Agent) (p : Port) (cmdCoh cplCoh : Bool) (s : State) : Result :=
  .next <| writeGate s w (portBlock p) 0x0000 fun s => writeEnable s p true cmdCoh cplCoh
def execDisable (w : Agent) (p : Port) (s : State) : Result :=
  .next <| writeGate s w (portBlock p) 0x0000 fun s => writeEnable s p false (s.box p).cmdCoh (s.box p).cplCoh
def execCmdDoorbell (w : Agent) (p : Port) (v : Word) (s : State) : Result :=
  .next <| writeGate s w (portBlock p) 0x0020 fun s => writeCmdProd s p v.toNat
def execCplDoorbell (w : Agent) (p : Port) (v : Word) (s : State) : Result :=
  .next <| writeGate s w (portBlock p) 0x002C fun s => writeCplCons s p v.toNat
def execMailboxClrCnt (w : Agent) (p : Port) (s : State) : Result :=
  .next <| writeGate s w (portBlock p) 0x0044 fun s => s.modBox p fun b => b.clear 1
def execPortClrCnt (w : Agent) (p : Port) (s : State) : Result :=
  .next <| writeGate s w (portBlock p) 0x8003C fun s => s.modPort p fun h => h.clear 1
def execClrFault (w : Agent) (p : Port) (s : State) : Result :=
  .next <| writeGate s w (portBlock p) 0x8003C fun s => s.modPort p fun h => h.clear 2

/-! ## Interrupts (R363, R364) -/

/-- A word of an MSI-X vector. -/
def Vector16.write (x : Vector16) (o v : Nat) : Vector16 :=
  match o with
  | 0x0 => { x with addr := BitVec.ofNat 64 (x.addr.toNat / 2 ^ 32 * 2 ^ 32 + v) }
  | 0x4 => { x with addr := BitVec.ofNat 64 (v * 2 ^ 32 + x.addr.toNat % 2 ^ 32) }
  | 0x8 => { x with data := BitVec.ofNat 32 v }
  | _ => { x with mask := bit v 0 }

/-- A word of a port's MSI-X table; the Pending Bit Array is read-only. -/
def writeMsix (s : State) (p : Port) (o v : Nat) : State :=
  if o < 0x100 then
    flushMsix (s.modPort p fun h => { h with msix := Sparse.mod {} h.msix (o / 16) fun x => x.write (o % 16) v }) p
  else s

/-- A word of block 0x03. -/
def writeIrq (s : State) (w : Agent) (o v : Nat) : State :=
  if o < 0x200 then
    let g := o / 32
    match o % 32 with
    | 0x00 => writePend s w g (BitVec.ofNat 16 v)
    | 0x04 => writeIrqEnable s w g (BitVec.ofNat 16 v)
    | 0x08 => writeSet s w g (BitVec.ofNat 16 v) 0
    | 0x0C => writeRoute s w g (BitVec.ofNat 3 v) (BitVec.ofNat 16 (v / 2 ^ 16))
    | 0x14 => writeEoi s w g (bit v 0)
    | _ => writeIrqOther s w
  else if o = 0x208 then clearIrq s w v
  else if o < 0x208 then writeIrqOther s w
  else match msixAt w o with
    | some (p, x) => writeMsix s p x v
    | none => s

/-! ## Power (R339, R345, R351) -/

/-- The value, or the nearer bound. -/
def nearestBound (lo hi v : Nat) : Nat := max lo (min hi v)

/-- A word of block 0x04. DEDUCED, unsafe: notes/assumptions/49.md. -/
def writePower (s : State) (w : Agent) (o v : Nat) : State :=
  let own (f : Power → Power) : State := powerGate s w fun s => s.withPower f
  match o with
  | 0x0004 => own fun p => { p with pcap := BitVec.ofNat 12 (nearestBound 600 2700 (v % 2 ^ 12)) }
  | 0x0008 => own fun p => Power.aim { p with
      fwd := BitVec.ofNat 2 v, bwd := BitVec.ofNat 2 (v / 4), upd := BitVec.ofNat 2 (v / 16), exch := BitVec.ofNat 2 (v / 64) }
  | 0x000C => powerGate s w fun s =>
      (writeNightReq s (bit v 0)).withPower fun p => { p with nightIdleMs := BitVec.ofNat 16 (v / 2 ^ 16) }
  | 0x0010 => own fun p => { p with tjThrottle := BitVec.ofNat 8 (nearestBound 70 95 (v % 2 ^ 8)) }
  | 0x0014 => own fun p => { p with droopTh := BitVec.ofNat 7 (nearestBound 20 80 (v % 2 ^ 7)) }
  | 0x004C => s.withPower fun p => p.clear v
  | 0x0100 => s.withPower fun p => { p with islSel := BitVec.ofNat 13 v }
  | _ => s

/-! ## Security (R395, R398, R400, R404) -/

/-- A word of port `q`'s request window or of its CMD, written by port `q` only. -/
def ownWrite (s : State) (w : Agent) (q : Nat) (f : Port → State) : State :=
  match w with
  | .port p => if p.val = q then f p else s
  | _ => s

/-- A word of block 0x05. -/
def writeSecurity (s : State) (w : Agent) (o v : Nat) : State :=
  if o = 0x0000 then (if bit v 4 then s.withSec fun x => { x with regionErr := false } else s)
  else if o = 0x0018 then s.withSec fun x => x.clear v
  else if 0x0100 ≤ o ∧ o < 0x0200 then
    if o % 0x80 = 0 then ownWrite s w ((o - 0x0100) / 0x80) fun p => writeSecCmd s p (v % 8) false else s
  else if 0x0400 ≤ o ∧ o < 0x0800 then
    if o % 16 = 12 then s else regionGate s w o fun s => writeRegion s ((o - 0x0400) / 16) (o % 16 / 4) v
  else if 0x0800 ≤ o ∧ o < 0x0C00 then regionGate s w o fun s => writeTileMap s ((o - 0x0800) / 4) v
  else if 0x1000 ≤ o ∧ o < 0x5000 then
    ownWrite s w ((o - 0x1000) / 0x2000) fun p =>
      s.modSecPort p fun x => { x with window := writeBytes x.window ((o - 0x1000) % 0x2000) v 4 }
  else s

/-! ## Drovers, HBM, fold ports (R233, R254, R266, R329) -/

/-- A word of a drover's block. -/
def writeDrover (s : State) (w : Agent) (d o v : Nat) : State :=
  match o with
  | 0x0004 => s.modDrover d fun x => { x with timeoutUs := BitVec.ofNat 20 v }
  | 0x0008 => s.modDrover d fun x => { x with defDl := BitVec.ofNat 16 v }
  | 0x0048 => s.modDrover d fun x => x.clear v
  | 0x0800 =>
    -- a host port's write of ARB is not performed (R254)
    if d ≠ 0 || agentPort w then s
    else { s with arb := { split := bit v 0, read16 := BitVec.ofNat 4 (v / 2 ^ 4), write16 := BitVec.ofNat 4 (v / 2 ^ 8)
                           remote16 := BitVec.ofNat 4 (v / 2 ^ 12) } }
  | _ => s

/-- A word of an HBM controller's block. -/
def writeHbm (s : State) (k o v : Nat) : State := if o = 0x0028 then s.modCtl k fun c => c.clear v else s

/-- A word of a fold port's block; in block 0x20 also of the group. HOLD_DOWN is taken before RETRAIN. -/
def writeLink (s : State) (f : FoldPort) (o v : Nat) : State :=
  match o with
  | 0x0008 =>
    let s := writeHoldDown s f (bit v 0)
    if bit v 1 then startRetrain s f else s
  | 0x000C => s.modLink f fun l => { l with rdl := BitVec.ofNat 16 v }
  | 0x003C => s.modLink f fun l => l.clear v
  | _ =>
    if f.val ≠ 0 then s
    else if o = 0x0810 then s.withGrp fun g => { g with joinTimeoutS := BitVec.ofNat 16 v }
    else if o = 0x0814 then s.withGrp fun g => { g with exchTimeoutMs := BitVec.ofNat 16 v }
    else if o = 0x082C then s.withGrp fun g => g.clear v
    else s

/-! ## Reliability, snapshots, clock and reset (R385, R417, R430) -/

/-- A word of block 0x30. -/
def writeReliability (s : State) (o v : Nat) : State :=
  match o with
  | 0x0004 => s.withRel fun r => { r with hbmScrubEn := bit v 0, tileScrubEn := bit v 1 }
  | 0x0008 => checkTriggers (s.withRel fun r => { r with
      scrubPeriodH := BitVec.ofNat 8 (nearestBound 1 168 (v % 2 ^ 8)), serviceWindowH := BitVec.ofNat 8 (v / 2 ^ 8)
      tileCeTh := BitVec.ofNat 16 (v / 2 ^ 16) })
  | 0x0038 => s.withRel fun r => r.clear v
  | 0x0100 => s.withRel fun r => { r with tileSel := BitVec.ofNat 13 v }
  | _ => s

/-- START, ABORT and RESTORE of one word, in the order of their bits. -/
def writeSnapCmd (s : State) (v : Nat) : State :=
  let s := if bit v 0 then snapStart s else s
  let s := if bit v 1 then snapEnd s else s
  if bit v 2 then restoreBegin s else s

/-- A word of block 0x31. -/
def writeSnapshot (s : State) (o v : Nat) : State :=
  match o with
  | 0x0004 => writeSnapCmd s v
  | 0x0008 => s.withSnap fun x => { x with every := BitVec.ofNat 16 v }
  | 0x000C => s.withSnap fun x => { x with tport := bit v 0, tregion := BitVec.ofNat 6 (v / 2) }
  | 0x0010 => s.withSnap fun x => { x with toffLo := BitVec.ofNat 20 (v / 2 ^ 12) }
  | 0x0014 => s.withSnap fun x => { x with toffHi := BitVec.ofNat 14 v }
  | 0x0034 => s.withSnap fun x => x.clear v
  | _ => s

/-- A word of block 0x38. -/
def writeClock (s : State) (w : Agent) (o v : Nat) : State :=
  match o with
  | 0x0010 => writeRstReq s w (BitVec.ofNat 16 v) (bit v 16)
  | 0x0014 => writeTripClr s w (bit v 0)
  | 0x0104 => writeFlCmd s w (v % 4)
  | 0x0108 => writeFlPage s w v
  | _ => if 0x1000 ≤ o ∧ o < 0x2000 then writeFlData s w (o - 0x1000) v else s

/-! ## Any register -/

/-- The effect of a 32-bit write at offset `o` of block `b`; what a table does not list is RSV or RO.
DESIGN CHOICE, unsafe: notes/assumptions/64.md. -/
def regEffect (s : State) (w : Agent) (b o v : Nat) : State :=
  if b = 0x01 ∨ b = 0x02 then
    let p : Port := Fin.ofNat 2 (b - 1)
    if o < 0x80000 then writeBox s p o v else writePort s p (o - 0x80000) v
  else if b = 0x03 then writeIrq s w o v
  else if b = 0x04 then writePower s w o v
  else if b = 0x05 then writeSecurity s w o v
  else if 0x08 ≤ b ∧ b ≤ 0x17 then writeDrover s w (b - 0x08) o v
  else if 0x18 ≤ b ∧ b ≤ 0x1F then writeHbm s (b - 0x18) o v
  else if 0x20 ≤ b ∧ b ≤ 0x2B then writeLink s (Fin.ofNat 12 (b - 0x20)) o v
  else if b = 0x30 then relGate s w fun s => writeReliability s o v
  else if b = 0x31 then relGate s w fun s => writeSnapshot s o v
  else if b = 0x38 then writeClock s w o v
  else s

/-- A 32-bit write by agent `w` at offset `o` of block `b`. -/
def regWrite (s : State) (w : Agent) (b o v : Nat) : State := writeGate s w b o fun s => regEffect s w b o v

/-- First byte of the control blocks (Table 0.8). -/
def blockBase : Nat := 0x700000000000

/-- The requester of line accesses that agent `w` is; the sideband reaches registers only (R427). -/
def requesterOf : Agent → Option Requester
  | .melvor => some .melvor
  | .port p => some (.host p)
  | .drover d => some (.drover d)
  | .smbus => none

/-- A 32-bit write of an address in a host window is performed (R374, R379). -/
def hostWord (s : State) (w : Agent) (a v : Nat) : State :=
  match requesterOf w, hostWindow a with
  | some r, some (q, hpa) =>
    let s := beforePages s r a 4
    let p : Port := Fin.ofNat 2 q
    if w = Agent.melvor then melvorStore s p hpa 4 v else hostStore s p (s.hostCoh q hpa 4) hpa 4 v
  | _, _ => s

/-- A 32-bit write of a device address in HBM, which reaches its controller as a line access (R230, R235), or in a host
window, whose region must be registered (R237) and of a world that the requester reaches (R397). -/
def memWrite32 (s : State) (w : Agent) (a v : Nat) : State :=
  let no (s : State) : State := addressFault s w 0 (BitVec.ofNat 48 a)
  match requesterOf w, hostWindow a with
  | none, _ => no s
  | some r, none =>
    match s.reach r true a with
    | .ok =>
      let off := a % 64
      reachTogether s (hbmMap a).1
        [⟨r, BitVec.ofNat 48 a, true, BitVec.ofNat 64 (15 * 2 ^ off), BitVec.ofNat 512 (v * 2 ^ (8 * off))⟩]
    | .world => no (worldRefused s)
    | _ => no s
  | some r, some (q, hpa) =>
    if agentPort w || !s.regionHolds q hpa 4 then no s
    else if !s.windowOpen r q then no (worldRefused s)
    else if s.hostPageWaits a 4 then
      { s with waiting := s.waiting ++ [{ cmd := .registerWrite w (BitVec.ofNat 48 a) 4 (BitVec.ofNat 64 v) }] }
    else hostWord s w a v

/-- A 32-bit write of a device address: a register of a control block, a reserved part of it, a tile window, HBM
or host memory (Table 0.8). -/
def devWrite32 (s : State) (w : Agent) (a v : Nat) : State :=
  if blockBase ≤ a ∧ a < blockBase + 0x40000000 then
    let o := (a - blockBase) % 0x1000000
    if o < 0x100000 then regWrite s w ((a - blockBase) / 0x1000000) o v else s
  else if tileBase ≤ a ∧ a < tileBase + 0x400000000 then tileWrite32 s w a v
  else if a < hbmTop ∨ 0x800000000000 ≤ a then memWrite32 s w a v
  else addressFault s w 0 (BitVec.ofNat 48 a)

/-- REGISTER_WRITE: an aligned 32-bit write, or a 64-bit write performed as two, lower address first (R7). -/
def execRegisterWrite (w : Agent) (a : Addr) (bytes : Nat) (v : BitVec 64) (s : State) : Result :=
  .next <|
    if bytes = 4 ∧ a.toNat % 4 = 0 then devWrite32 s w a.toNat (v.toNat % 2 ^ 32)
    else if bytes = 8 ∧ a.toNat % 8 = 0 then
      devWrite32 (devWrite32 s w a.toNat (v.toNat % 2 ^ 32)) w (a.toNat + 4) (v.toNat / 2 ^ 32)
    else addressFault s w 0 a

/-! ## The sideband (R427, R428) -/

/-- The pointer's block and offset. -/
def State.smbBlock (s : State) : Nat := s.smbPtr.toNat / 2 ^ 20
def State.smbOff (s : State) : Nat := s.smbPtr.toNat % 2 ^ 20

/-- The pointer advances by 4, within the 20 bits of its offset. DEDUCED, unsafe: notes/assumptions/61.md. -/
def smbAdvance (s : State) : State :=
  { s with smbPtr := BitVec.ofNat 28 (s.smbBlock * 2 ^ 20 + (s.smbOff + 4) % 2 ^ 20) }

/-- An SMBus transaction: acknowledged from the end of the boot ROM on. -/
def smbRow (s : State) (f : State → State) : Result := .next <| if s.smbOn then f s else s.emit .smbNack

/-- Command 0x10: not performed with a failing PEC, or with bits [23:20] other than 0. -/
def execSmbSetPointer (v : Word) (pecOk : Bool) (s : State) : Result :=
  smbRow s fun s =>
    if pecOk && decide (bits v.toNat 23 20 = 0) then
      { s with smbPtr := BitVec.ofNat 28 (bits v.toNat 31 24 * 2 ^ 20 + bits v.toNat 19 0) }
    else s

/-- Command 0x11: what is not reached reads 0; a pointer that is not aligned is an address fault of the SMBus (R7), and the
read returns 0. DEDUCED, unsafe: notes/assumptions/61.md. -/
def execSmbReadRegister (s : State) : Result :=
  smbRow s fun s =>
    let b := s.smbBlock
    let o := s.smbOff
    let v := if s.smbReach b o false && decide (o % 4 = 0) then s.regRead .smbus b o else 0
    let s := if o % 4 = 0 then s else s.emit (.addressFault .smbus)
    smbAdvance (s.emit (.smbData (BitVec.ofNat 32 v)))

/-- Command 0x12: a write outside what is reached is not performed; one that is not aligned is an address fault too (R7). -/
def execSmbWriteRegister (v : Word) (pecOk : Bool) (s : State) : Result :=
  smbRow s fun s =>
    if !pecOk then s
    else
      let b := s.smbBlock
      let o := s.smbOff
      let s := smbAdvance s
      if o % 4 ≠ 0 then s.emit (.addressFault .smbus) else regWrite s .smbus b o v.toNat

/-- Command 0x0F: MCTP, from stage 4. The SPDM requests that it carries are commands of their own. -/
def execMctp (msg : List Byte) (s : State) : Result :=
  smbRow s fun s =>
    if s.melvor.fwReady && !s.melvor.lockstepErr then s.emit (.mctp (Config.mctpResponse msg)) else s

/-- SMB_ALERT# is asserted (R428); while the module is unpowered it is high-impedance (R420). -/
def State.smbAlert (s : State) : Bool :=
  s.boot.powerOn && (decide (s.sec.bootErr ≠ 0) || s.rel.fatal || decide (s.power.thermLevel ≥ 1) || s.flash.trip.isSome)

/-- The module's SMBus address: 0x58 + SLOT. -/
def State.smbAddress (s : State) : BitVec 7 := BitVec.ofNat 7 (0x58 + s.grp.slot.toNat)

/-- ALERT_RESPONSE: the module answers with its own address while it asserts SMB_ALERT#. -/
def execAlertResponse (s : State) : Result :=
  smbRow s fun s => if s.smbAlert then s.emit (.smbAddr s.smbAddress) else s.emit .smbNack

end Sys2Proof.Machine
end

