-- ==== Sys2Proof/Machine/HostPorts.lean ====
section
/-! DEFINITION. The host ports (spec 12): requests through the BARs and CXL.mem with the responses of Table 12.4, accesses
that wait (R275, R277, R374), page flips and journal copies, snoops, completions of requests to host memory, and the
removal and return of a port (R286-R288, R412, R415). -/

namespace Sys2Proof.Machine

/-! ## Responses (R273, Table 12.4) -/

/-- The port takes requests: its link is in L0, and its function is neither in D3hot nor in a Function Level Reset. -/
def State.hostOn (s : State) (p : Port) : Bool := (s.port p).linkUp && !(s.port p).d3hot && !(s.port p).inFlr

/-- The host has assigned BAR `2 * i` (R415): its base, in words 4 + 2 * i and 5 + 2 * i, is not 0.
PRESUMED, unsafe: notes/assumptions/98.md. -/
def HostPort.assigned (h : HostPort) (i : Nat) : Bool :=
  decide (Sparse.get 0 h.config (4 + 2 * i) ≠ 0) || decide (Sparse.get 0 h.config (5 + 2 * i) ≠ 0)

/-- A request that is not served: kind 1 an address fault, kind 2 refused. An AtomicOp is not posted: it is completed. -/
def barFail (s : State) (p : Port) (bar kind : Nat) (r : Tlp) : State :=
  let c : Cpl := if kind = 1 then .unsupported else .abort
  (portEvent s p kind bar r.off r.rid).emit (if r.write && r.feature != .atomicOp then .aer p c else .tlp p c false 0)

/-- The request uses a feature or a size that Table 12.1 does not give: an AtomicOp, a translated address, a PASID; a
payload over 512 bytes, a read of more than 4,096 (R267). -/
def unsupportedTlp (r : Tlp) : Bool :=
  r.feature != .plain || (if r.write then decide (r.len > 512) else decide (r.len > 4096))

/-- A refused request, with the counts of its cause. -/
def barRefuse (s : State) (p : Port) (bar : Nat) (r : Tlp) (x : Reach) : State :=
  let s := if x = .world then worldRefused s else s
  let s := if x = .locked then s.modPort p fun h => { h with lockedWr := satAdd h.lockedWr 1 } else s
  barFail s p bar 2 r

/-- The event that `new` has recorded since `old` has requester ID `rid`. -/
def withRid (old : State) (p : Port) (rid : BitVec 16) (new : State) : State :=
  match (old.port p).fault with
  | some _ => new
  | none => new.modPort p fun h => { h with fault := h.fault.map fun f => { f with reqid := rid } }

/-! ## BAR0 (R270) -/

/-- One whole DW, or two whole DWs aligned to 8 bytes. -/
def bar0Form (r : Tlp) : Bool :=
  (decide (r.len = 4) && decide (r.off.toNat % 4 = 0) && decide (r.be = 15)) ||
  (decide (r.len = 8) && decide (r.off.toNat % 8 = 0) && decide (r.be = 255))

/-- Port `p` may read offset `o` of block `b`: the registers of blocks 0x01 and 0x02 lie in the world of their port (R397,
R398); reserved space reads as 0 (R15). -/
def State.portReads (s : State) (p : Port) (b o : Nat) : Bool :=
  !regListed b o || !(((b == 1 && (s.port 0).secure) || (b == 2 && (s.port 1).secure)) && !(s.port p).secure)

/-- Port `p` may write offset `o` of block `b` (R270, R397): the condition of `writeGate`. -/
def State.portWrites (s : State) (p : Port) (b o : Nat) : Bool :=
  !((b == 1 || b == 2) && decide (o ≥ 0x80000) && decide (b ≠ p.val + 1)) &&
  !(s.blockSecure b o && !(s.port p).secure && b != 0x05)

/-- The request is performed: DWs in ascending order; one that fails ends it.
DEDUCED, unsafe: notes/assumptions/29.md. -/
def bar0Do (s : State) (p : Port) (r : Tlp) : State :=
  let b := r.off.toNat / 0x100000
  let o := r.off.toNat % 0x100000
  if r.write then
    if r.ep then portEvent s p 4 0 r.off r.rid
    else
      let s1 := regWrite s (.port p) b o (r.data % 2 ^ 32)
      withRid s p r.rid <|
        if r.len = 8 ∧ s.portWrites p b o then regWrite s1 (.port p) b (o + 4) (r.data / 2 ^ 32) else s1
  else if !s.portReads p b o || (decide (r.len = 8) && !s.portReads p b (o + 4)) then barRefuse s p 0 r .world
  else
    let hi := if r.len = 8 then s.regRead (.port p) b (o + 4) else 0
    s.emit (.tlp p .success false (s.regRead (.port p) b o + hi * 2 ^ 32))

/-! ## BAR2 (R271, R276) -/

/-- The lines of a request. -/
def tlpLines (r : Tlp) : List Nat :=
  (List.range (cdiv (r.off.toNat % 64 + r.len) 64)).map fun i => r.off.toNat / 64 * 64 + 64 * i

/-- The enabled bytes of a request in the line at `a`, and its data there. -/
def tlpMask (r : Tlp) (a : Nat) : BitVec 64 :=
  let be := r.be % 2 ^ r.len
  BitVec.ofNat 64 (if a ≤ r.off.toNat then be * 2 ^ (r.off.toNat - a) else be / 2 ^ (a - r.off.toNat))
def tlpData (r : Tlp) (a : Nat) : Line :=
  BitVec.ofNat 512 (if a ≤ r.off.toNat then r.data * 2 ^ (8 * (r.off.toNat - a)) else r.data / 2 ^ (8 * (a - r.off.toNat)))

/-- The request without its bytes in the line at `a`. -/
def tlpDrop (r : Tlp) (a : Nat) : Tlp :=
  let lo := max a r.off.toNat - r.off.toNat
  let hi := min (a + 64) (r.off.toNat + r.len) - r.off.toNat
  { r with be := r.be - bits r.be (hi - 1) lo * 2 ^ lo }

/-- The VALID placement entry whose requester IDs hold `rid`. -/
def State.adapter (s : State) (p : Port) (rid : BitVec 16) : Option PlaceEntry :=
  ((s.port p).places.find? fun x =>
    x.2.valid && decide (x.2.ridLo ≤ rid) && decide (rid ≤ x.2.ridHi)).map Prod.snd

/-- All the bytes of the request lie in the entry's window. -/
def PlaceEntry.covers (e : PlaceEntry) (r : Tlp) : Bool :=
  decide (e.basePg.toNat * 4096 ≤ r.off.toNat) &&
  decide (r.off.toNat + r.len ≤ (e.basePg.toNat + e.pages.toNat) * 4096)

/-- How the line at `a` of a request answers: the host's under R235 and R397, an adapter's under R276 and the world rules on top
(R269). -/
def State.bar2Reach (s : State) (p : Port) (r : Tlp) (a : Nat) : Reach :=
  match s.adapter p r.rid with
  | none => s.reach (.host p) r.write a
  | some e => if e.covers r && (r.write || e.rdEn) then s.reach (.host p) r.write a else .refused

/-- The request is performed: a read returns the bytes, with EP set where a line is poisoned or the module has met a
fatal error (R368); a write stores its enabled bytes, a poisoned one the poison check pattern.
DEDUCED, unsafe: notes/assumptions/29.md. -/
def bar2Do (s : State) (p : Port) (r : Tlp) : State :=
  if r.write then
    let lines := (tlpLines r).filter fun a => tlpMask r a != 0
    if r.ep then
      forAll lines (portEvent s p 4 1 r.off r.rid) fun s a => writePoisoned s (.host p) a (tlpMask r a) (tlpData r a)
    else forAll lines s fun s a => writeLine s (.host p) a (tlpMask r a) (tlpData r a) 0
  else
    let x := bytesRead s r.off.toNat r.len
    let ep := x.2.1 || s.rel.fatal
    (if ep then portEvent x.1 p 3 1 r.off r.rid else x.1).emit (.tlp p .success ep x.2.2)

/-! ## BAR4 (R272) -/

/-- Whole aligned DWs. -/
def bar4Form (r : Tlp) : Bool :=
  decide (r.off.toNat % 4 = 0) && decide (r.len % 4 = 0) && decide (r.len > 0) && decide (r.be = 2 ^ r.len - 1)

/-- The codes that a read of `n` bytes at `off` of a tile window checks. -/
def windowCodes (off n : Nat) : Nat × Nat :=
  if off < 0x100000 then wmCodes off n else ((amCode ((off - 0x100000) / 6)).1, (amCode ((off - 0x100000 + n - 1) / 6)).1)

/-- The code check of a read of tile memory, finding the error `chk` beside what is stored: a corrected error, or an
uncorrectable one, is charged to the tile. -/
def bar4Check (s : State) (t off n : Nat) (chk : Ecc) : State × Ecc :=
  if off ≥ 0x124000 then (s, .ok)
  else
    let c := windowCodes off n
    let s := if chk = .ok then s else s.modTile t fun x => x.withFlaw c.1 chk
    match (s.tile t).flaw c with
    | .ok => (s, .ok)
    | .ce => (chargeCe s t (decide (off ≥ 0x100000)), .ce)
    | .ue => (chargeUe s t, .ue)

/-- The request is performed, in ascending DWs, in the half `half` that TWSEL selected for it (R272, R277). A DW that
fails R224, or a tile ID that names no tile, makes an address fault and ends it. -/
def bar4Do (s : State) (p : Port) (half : Bool) (bar : Tlp) (chk : Ecc) : State :=
  let r : Tlp := { bar with off := BitVec.ofNat 48 (bar.off.toNat + b2n half * 0x200000000) }
  let s := nightExit s
  if r.write then
    if r.ep then portEvent s p 4 2 bar.off r.rid
    else
      let x := forAll (List.range (r.len / 4)) (s, true) fun (y : State × Bool) i =>
        let a := r.off.toNat + 4 * i
        let t := a / 0x200000
        if !y.2 then y
        else if !y.1.tileOk t then (barFail y.1 p 2 1 bar, false)
        else match (y.1.tile t).write32 (a % 0x200000) (r.data / 2 ^ (32 * i) % 2 ^ 32) with
          | some z => (y.1.setTile t z, true)
          | none => (barFail y.1 p 2 1 bar, false)
      x.1
  else
    let words := (List.range (r.len / 4)).map fun i =>
      let a := r.off.toNat + 4 * i
      if s.tileOk (a / 0x200000) then (s.tile (a / 0x200000)).read32 s.relocks (a / 0x200000) (a % 0x200000) else none
    if words.any (·.isNone) then barFail s p 2 1 bar
    else
      let off := r.off.toNat % 0x200000
      let x := bar4Check s (r.off.toNat / 0x200000) off r.len chk
      let s := x.1
      let ep := decide (x.2 = .ue)
      let data := pack 32 (words.map fun w => w.getD 0)
      (if ep then portEvent s p 3 2 bar.off r.rid else s).emit (.tlp p .success ep data)

/-! ## CXL.mem (R271, R275) -/

/-- A CXL.mem read is served: HELD is set where its MetaValue is Any or Shared. MemInv reads no line and is answered by Cmp.
PRESUMED, unsafe: notes/assumptions/86.md. -/
def memRdDo (s : State) (p : Port) (k : MemOp) (a : Nat) (m : MetaValue) (err : Nat) : State :=
  let held (s : State) : State := if m = .invalid then s
    else s.modPort p fun h => { h with held := Sparse.set false h.held (a / 4096) true }
  if k = .inv then (held s).emit (.memCmp p)
  else
    let x := readLine s a err
    let bad := x.2.1 || s.rel.fatal
    let s := if bad then portEvent x.1 p 3 1 (BitVec.ofNat 48 a) 0 else x.1
    (held s).emit (.memData p bad x.2.2)

/-- A CXL.mem write is performed, and then Cmp is sent. One received with poison sets Mem_Poison_Received of the RAS capability.
PRESUMED, unsafe: notes/assumptions/98.md. -/
def memWrDo (s : State) (p : Port) (a : Nat) (mask : BitVec 64) (d : Line) (poison : Bool) : State :=
  let s := if poison then
      (writePoisoned (portEvent s p 4 1 (BitVec.ofNat 48 a) 0) (.host p) a mask d).modPort p fun h =>
        { h with rasCor := h.rasCor ||| 32 }
    else writeLine s (.host p) a mask d 0
  s.emit (.memCmp p)

/-- What a CXL.mem request that is not served gets: Cmp where no data is due, else all ones with Poison. -/
def memVoid (s : State) (p : Port) (cmp : Bool) : State :=
  s.emit (if cmp then .memCmp p else .memData p true (BitVec.allOnes 512))

/-- A refused CXL.mem access. -/
def memRefuse (s : State) (p : Port) (a : Addr) (x : Reach) (cmp : Bool) : State :=
  let s := if x = .world then worldRefused s else s
  let s := if x = .locked then s.modPort p fun h => { h with lockedWr := satAdd h.lockedWr 1 } else s
  memVoid (portEvent s p 2 1 a 0) p cmp

/-! ## Accesses that wait (R258, R275, R277, R374) -/

/-- A waiting access cannot be performed yet. DEDUCED, unsafe: notes/assumptions/28.md. -/
def accessBlocked (s : State) (c : Instr) : Bool :=
  match c with
  | .bar2Access p r =>
    (tlpLines r).any fun a => (!r.write || tlpMask r a != 0) && s.blocked (.host p) r.write a
  | .memRd p _ a _ _ => s.blocked (.host p) false a.toNat
  | .memWr p a _ _ _ => s.blocked (.host p) true a.toNat
  | .registerWrite _ a _ _ => s.hostPageWaits a.toNat 4
  | _ => false

/-- The port that an access came over: its accesses are performed in order. -/
def accessPort (c : Instr) : Option Port :=
  match c with
  | .bar0Access p _ | .bar2Access p _ | .bar4Access p _ _ | .memRd p _ _ _ _ | .memWr p _ _ _ _ => some p
  | _ => none

/-- `f`, an access of port `p`, is performed under the SECURE bit `sec` that the port had when it received it; the bit itself
stays, unless the access changes it (R396). -/
def underSecure (s : State) (p : Port) (sec : Bool) (f : State → State) : State :=
  let now := (s.port p).secure
  if now = sec then f s
  else
    let t := f (s.modPort p fun h => { h with secure := sec })
    if (t.port p).secure = sec then t.modPort p fun h => { h with secure := now } else t

/-- A waiting access is performed: a BAR0 access under the SECURE bit, a BAR4 access in the half of its receipt (R272,
R396). A write into a slot that has been locked since is not performed (R236). -/
def performAccess (s : State) (w : Wait) : State :=
  match w.cmd with
  | .bar0Access p r => underSecure s p w.secure fun s => bar0Do s p r
  | .bar2Access p r =>
    match (tlpLines r).filter fun a => r.write && s.lockedAt a with
    | [] => bar2Do s p r
    | bad => bar2Do (barRefuse s p 1 r .locked) p (forAll bad r tlpDrop)
  | .bar4Access p r chk => bar4Do s p w.half r chk
  | .memRd p k a m err => memRdDo s p k a.toNat m err
  | .memWr p a mask d poison =>
    if s.lockedAt a.toNat then memRefuse s p a .locked true else memWrDo s p a.toNat mask d poison
  | .registerWrite w a _ v => hostWord s w a.toNat v.toNat
  | _ => s

/-- TWSEL.HALF as port `p` has it after the writes of it that the port has received and not performed (R272). -/
def State.halfAt (s : State) (p : Port) : Bool :=
  s.waiting.foldl (fun half w => match w.cmd with
    | .bar0Access q r =>
      let o := r.off.toNat
      let twsel := (p.val + 1) * 0x100000 + 0x80004
      if q = p ∧ r.write ∧ ¬r.ep ∧ o ≤ twsel ∧ twsel < o + r.len then bit r.data (8 * (twsel - o)) else half
    | _ => half) (s.port p).half

/-- A received access: performed, or it waits, behind an earlier access of its port that waits too.
DEDUCED, unsafe: notes/assumptions/28.md. -/
def hostAccess (s : State) (p : Port) (c : Instr) : State :=
  let w : Wait := { cmd := c, secure := (s.port p).secure, half := s.halfAt p }
  if (s.waiting.any fun x => accessPort x.cmd = some p) || accessBlocked s c then { s with waiting := s.waiting ++ [w] }
  else performAccess s w

/-- Perform what no longer waits, in order; a module reset drops the rest. -/
def retryList : List Wait → List Wait → State → State
  | [], kept, s => { s with waiting := kept }
  | c :: r, kept, s =>
    if s.boot.stage < 3 then { s with waiting := [] }
    else if accessBlocked s c.cmd ||
        ((accessPort c.cmd).isSome && kept.any fun x => accessPort x.cmd = accessPort c.cmd) then retryList r (kept ++ [c]) s
    else retryList r kept (performAccess s c)

/-- A stop that waits for the pages of its undo ends once they do not wait, or once the journal is lost. -/
def finishStop (s : State) : State :=
  if s.melvor.stopDue && (decide (s.rel.jstate = 2) || !s.undoBlocked) then stopFailed s else s

def retry (s : State) : State := finishStop (if s.waiting.isEmpty then s else retryList s.waiting [] s)

/-! ## Line accesses (R230, R235, R255, R256) -/

/-- A line access that its requester may not make (R235, R397): its own address fault, or Table 12.4 for a host. -/
def lineRefused (s : State) (r : Requester) (a : Addr) (x : Reach) : State :=
  let s := if x = .world then worldRefused s else s
  match r with
  | .host p =>
    let s := if x = .locked then s.modPort p fun h => { h with lockedWr := satAdd h.lockedWr 1 } else s
    portEvent s p (if x = .fault then 1 else 2) 1 a 0
  | .melvor => s.emit (.addressFault .melvor)
  | .drover d => s.emit (.addressFault (.drover d))
  | .foldPort _ => exchFault s 3 0xF 0 0
  | .snapshot => snapEnd (s.emit (.lineFault .snapshot a))

/-- HBM_LINE_ACCESS: the accesses that reach controllers in this cycle, and one grant of controller `k`, which finds `err`
symbols in error. -/
def execHbmLineAccess (k : Stack) (reach : List LineReq) (err : Nat) (s : State) : Result :=
  .next <|
    let ok (r : LineReq) : Bool := s.reach r.req r.write r.addr.toNat == .ok
    let s1 := forAll (reach.filter fun r => !ok r) s fun s r => lineRefused s r.req r.addr (s.reach r.req r.write r.addr.toNat)
    let s1 := forAll (List.range 8) s1 fun s j =>
      reachTogether s j (reach.filter fun r => ok r && decide ((hbmMap r.addr.toNat).1 = j))
    publish (retry (grantLine s1 k err))

/-! ## The rows of received requests -/

/-- BAR0_ACCESS: from stage 3 (Table 19.2). -/
def execBar0Access (p : Port) (r : Tlp) (s : State) : Result :=
  .next <|
    if !s.hostOn p || !s.bar0On || !(s.port p).assigned 0 then s
    else if unsupportedTlp r || !bar0Form r || decide (r.off.toNat ≥ 0x4000000) then barFail s p 0 1 r
    else hostAccess s p (.bar0Access p r)

/-- BAR2_ACCESS: a read with a refused line is refused whole; of a write the allowed lines are performed. -/
def execBar2Access (p : Port) (r : Tlp) (s : State) : Result :=
  .next <|
    if !s.hostOn p || !s.bar0On || !(s.port p).assigned 1 then s
    else if unsupportedTlp r || decide (r.off.toNat + r.len > hbmTop) then barFail s p 1 1 r
    else if s.boot.stage < 4 then barFail s p 1 2 r
    else
      let bad := (tlpLines r).filter fun a => s.bar2Reach p r a != .ok
      match bad with
      | [] => hostAccess s p (.bar2Access p r)
      | a :: _ =>
        let s1 := barRefuse s p 1 r (s.bar2Reach p r a)
        if r.write && decide (bad.length < (tlpLines r).length) then
          hostAccess s1 p (.bar2Access p (forAll bad r tlpDrop))
        else s1

/-- BAR4_ACCESS: decoded while SECURE = 1. -/
def execBar4Access (p : Port) (r : Tlp) (chk : Ecc) (s : State) : Result :=
  .next <|
    if !s.hostOn p || !s.bar0On || !(s.port p).assigned 2 then s
    else if s.boot.stage < 4 then barFail s p 2 2 r
    else if !(s.port p).secure || unsupportedTlp r || !bar4Form r || decide (r.off.toNat + r.len > 0x200000000) then barFail s p 2 1 r
    else hostAccess s p (.bar4Access p r chk)

/-- A CXL.mem request arrives: the decoder passes it on once it is committed. PRESUMED, unsafe: notes/assumptions/86.md. -/
def memAccess (s : State) (p : Port) (write cmp : Bool) (a : Addr) (c : Instr) : State :=
  if !s.hostOn p || !(s.port p).cxlMem || !s.bar0On || decide (a.toNat ≥ hbmTop) then s
  else if !(s.port p).hdmCommitted then memVoid s p cmp
  else if s.boot.stage < 4 then memRefuse s p a .refused cmp
  else match s.reach (.host p) write a.toNat with
    | .ok => hostAccess s p c
    | x => memRefuse s p a x cmp

/-- MEM_RD: MemRd, MemRdData, MemInv. -/
def execMemRd (p : Port) (k : MemOp) (a : Addr) (m : MetaValue) (err : Nat) (s : State) : Result :=
  .next (memAccess s p false (decide (k = .inv)) a (.memRd p k a m err))

/-- MEM_WR. -/
def execMemWr (p : Port) (a : Addr) (mask : BitVec 64) (d : Line) (poison : Bool) (s : State) : Result :=
  .next (memAccess s p true true a (.memWr p a mask d poison))

/-! ## Journal copies and page flips (R275, R374) -/

/-- The old contents of a page go into the next free journal page, and its number into the journal index; the running
snapshot has its copy first (R383). A page of the host tier is read from the host: its contents are free values. A page of
either outside every registered region is not accessed, and the journal is lost (R237, R376). DESIGN CHOICE, safe:
notes/assumptions/27.md. -/
def copyPage (s0 : State) (page : Nat) : State :=
  let s := if s0.snap.busy && s0.snap.todo.contains page then snapCopy s0 page else s0
  let n := s.rel.jindex.length
  let dst := s.journalPage n
  let r : Nat × State := match hostWindow (page * 4096) with
    | some (p, hpa) =>
      if s.regionHolds p hpa 4096 then
        let f := s.freshLines 64
        (f.1, hostFetch f.2 (Fin.ofNat 2 p) (s.cohAt (page * 4096)) hpa 4096)
      else (0, setLost (s.emit (.addressFault .melvor)) 2)
    | none => let x := bytesRead s (page * 4096) 4096; (x.2.2, x.1)
  let t := if r.2.rel.jstate = 2 then r.2 else match hostWindow dst with
    | some (p, hpa) =>
      if s.regionHolds p hpa 4096 then
        (hostStore r.2 (Fin.ofNat 2 p) (s.cohAt dst) hpa 4096 r.1).withRel fun x => { x with jpages := Sparse.set 0 x.jpages n r.1 }
      else setLost (r.2.emit (.addressFault .melvor)) 2
    | none => bytesWrite .melvor r.2 dst 4096 r.1
  if t.rel.jstate = 2 then t
  else t.withRel fun x => { x with jindex := x.jindex ++ [page], jstate := if x.jstate = 0 then 1 else x.jstate }

/-- JOURNAL_COPY: the copy that a first write of the step waits for. -/
def execJournalCopy (page : Nat) (s : State) : Result :=
  .next <|
    let a := page * 4096
    let dst := s.journalPage s.rel.jindex.length
    if !s.needsCopy a || ((hostWindow a).isNone && s.bytesBlocked .melvor false a 4096) ||
        ((hostWindow dst).isNone && s.bytesBlocked .melvor true dst 4096) then s
    else retry (copyPage s page)

/-- A line that the host writes back during the flip of its page: it is performed before any access that waits for the flip, the
copies of the journal and of the snapshot among them. DEDUCED, unsafe: notes/assumptions/30.md. -/
def flipWriteback (p : Port) (page : Nat) (s : State) (x : Nat × Line) : State :=
  let a := page * 4096 + x.1 % 64 * 64
  match s.reach (.host p) true a with
  | .ok => storeLine s a (BitVec.allOnes 64) x.2 0
  | y => lineRefused s (.host p) (BitVec.ofNat 48 a) y

/-- PAGE_FLIP: the snoop of every line of a HELD page, the writebacks in the order received; HELD clears, and what waited
for the page goes on. DEDUCED, unsafe: notes/assumptions/30.md. -/
def execPageFlip (p : Port) (page : Nat) (wb : List (Nat × Line)) (s : State) : Result :=
  .next <|
    if !Sparse.get false (s.port p).held page then s
    else
      let s := forAll wb (s.emit (.snoopPage p page)) (flipWriteback p page)
      let s := s.modPort p fun h =>
        { h with held := Sparse.set false h.held page false, flipCnt := satAdd h.flipCnt 1 }
      publish (retry s)

/-- HOST_SNOOP of a host line: answered from the Melvor complex's cache, a modified line with its data; after a snoop for
data the line stays clean, after one that invalidates it is gone, and a snoop of the current value leaves it as it is.
PRESUMED, unsafe: notes/assumptions/31.md. -/
def execHostSnoop (p : Port) (hpa : Nat) (k : Snoop) (s : State) : Result :=
  .next <|
    if !(s.port p).cxlCache then s
    else match Sparse.get none (s.port p).cache (hpa / 64) with
      | none => s.emit (.snoopRsp p false false 0)
      | some c =>
        let v : Option CacheLine := match k with | .inv => none | .data => some { c with modified := false } | .cur => some c
        (s.modPort p fun h => { h with cache := Sparse.set none h.cache (hpa / 64) v }).emit
          (.snoopRsp p true c.modified (if c.modified then c.data else 0))

/-! ## Completions of requests to host memory (R259, R273, R278) -/

/-- The transfer has a request to host memory outstanding. DEDUCED, unsafe: notes/assumptions/32.md. -/
def Xfer.waitsHost (x : Xfer) : Bool := !x.host.isEmpty

/-- The oldest request of transfer `x` of a queue completes: a read with its data, a line of a COH = 1 write with its GO, posted
writes with the data of the zero-length read (R278); or with a host error (R259). -/
def hostServed (s : State) (d : DroverNo) (q : Nat) (x : Xfer) (h : HostReq) (r : HostEnd) : State :=
  let y := (s.drover d).queue q
  let s1 := s.modXfer d q x.id fun z => { z with host := z.host.drop 1 }
  match r with
  | .data v =>
    if h.go then s
    else if oKind y.rcd = 0 then
      memoryDone s1 d q x.id h.line h.n ((List.range h.n).map fun i => BitVec.ofNat 512 (v / 2 ^ (512 * i))) false
    else memoryDone s1 d q x.id h.line h.n [] false
  | .go => if h.go then memoryDone s1 d q x.id h.line h.n [] false else s
  | .unsupported | .abort | .ep | .timeout =>
    queueFault (s1.modQueue d q fun y => { y with stopped := true }) d 5 q (oRow y.rcd) y.lane x.tag.toNat

/-- HOST_COMPLETION, of the request of a transfer since cancelled or dropped (`old`: its data is discarded; an error is
HOST_ERR all the same), of the oldest request of a drover queue, or of the snapshot engine. Those of Melvor firmware come
with the rows of its commands. DEDUCED, unsafe: notes/assumptions/32.md. -/
def execHostCompletion (x : Requester) (q : Fin 32) (old : Bool) (r : HostEnd) (s : State) : Result :=
  .next <|
    let bad := match r with | .data _ | .go => false | _ => true
    match x with
    | .drover d =>
      let y := (s.drover d).queue q
      if old then
        match y.dropHost with
        | [] => s
        | h :: rest =>
          let s := s.modQueue d q fun y => { y with dropHost := rest }
          if bad then queueFault s d 5 q h.row h.lane h.tag.toNat else s
      else match y.xfers.find? Xfer.waitsHost with
        | none => s
        | some f => match f.host with
          | [] => s
          | h :: _ => publish (retry (hostServed s d q f h r))
    | .snapshot => if old then s else if bad then retry (snapEnd s) else snapServed s
    | _ => s

/-! ## Removal (R286-R288, R412) -/

/-- The transfer waits for port `p`'s host. -/
def Xfer.inHost (p : Port) (x : Xfer) : Bool := x.host.any fun h => decide (h.port = p)

/-- Every incomplete drover access to the port's host window ends with an error (R239, R259); those of transfers that have ended
(R261, R263) end too. -/
def endHostXfers (s : State) (p : Port) : State :=
  forAll (List.range 16) s fun s d =>
    forAll (s.drover d).queues s fun s (y : Nat × DQueue) =>
      let s := s.modQueue d y.1 fun z => { z with dropHost := z.dropHost.filter fun h => decide (h.port ≠ p) }
      let s := match y.2.dropHost.find? fun h => decide (h.port = p) with
        | some h => queueFault s d 5 y.1 h.row h.lane h.tag.toNat
        | none => s
      match y.2.xfers.find? (Xfer.inHost p) with
      | none => s
      | some x =>
        queueFault (s.modQueue d y.1 fun z =>
          { z with stopped := true
                   xfers := z.xfers.map fun f => { f with host := f.host.filter fun h => decide (h.port ≠ p) } })
          d 5 y.1 (oRow y.2.rcd) y.2.lane x.tag.toNat

/-- What a removal leaves of the port's own registers: its counters, its first event, its link and pins.
DEDUCED, unsafe: notes/assumptions/34.md. -/
def HostPort.afterRemoval (h : HostPort) : HostPort :=
  { h with removed := true, half := false, cxlCache := false, cxlMem := false
           droppedLines := satAdd h.droppedLines h.cache.length, cache := [], held := [], places := [], regions := []
           msix := [], pba := 0, msixEn := false, funcMask := false, viralEn := false, config := []
           hdmLockOn := false, hdmCommitted := false, hdmLocked := false, doeIn := [], doeOut := []
           rasUnc := 0, rasCor := 0, rasUncMask := 0, rasCorMask := 0 }

/-- What a removal leaves of the port's mailbox: its counters; events that were pending are dropped and counted. -/
def Mailbox.afterRemoval (b : Mailbox) : Mailbox :=
  { qfullCnt := b.qfullCnt, cplDropCnt := satAdd b.cplDropCnt b.events.length, evtMergeCnt := b.evtMergeCnt }

/-- Objects of the job in the port's host window, to be placed again before the job resumes (R239). -/
def State.objectsOn (s : State) (p : Port) : List Nat :=
  (s.objs.filter fun x => match hostWindow x.2.base.toNat with | some (q, _) => decide (q = p.val) | none => false).map Prod.fst

/-- The journal lies in the port's host window. -/
def State.journalOn (s : State) (p : Port) : Bool :=
  match s.journal with
  | some o => (match hostWindow o.base.toNat with | some (q, _) => decide (q = p.val) | none => false)
  | none => false

/-- Ownership and what the job loses with the port. -/
def removeFromJob (s : State) (p : Port) : State :=
  let s := if s.melvor.handover.isSome && decide (s.melvor.owner.toNat = p.val) then endHandovers s 0x11 else s
  let s := setSecure s p false
  let s := if s.melvor.owner.toNat = p.val then vacateOwner s else s
  let s := if s.journalOn p then setLost s 2 else s
  if s.melvor.job.isSome then
    s.withMelvor fun m => { m with replace := (s.objectsOn p ++ m.replace).eraseDups }
  else s

/-- The requests received from the port that are not performed are discarded (R287). -/
def dropRequests (s : State) (p : Port) : State :=
  let s := { s with waiting := s.waiting.filter fun c => decide (accessPort c.cmd ≠ some p) }
  forAll (List.range 8) s fun s k => s.modCtl k fun c => { c with pend := c.pend.filter fun x => decide (x.req.req ≠ .host p) }

/-- The removal of port `p`; one before REMOVED clears counts only. DEDUCED, unsafe: notes/assumptions/34.md. -/
def removePort (s : State) (p : Port) : State :=
  let again := (s.port p).removed
  let s := s.modPort p fun h => { h with removalCnt := satAdd h.removalCnt 1 }
  if again then s
  else
    let s := endHostXfers s p
    let s := s.modPort p HostPort.afterRemoval
    let s := (s.modBox p Mailbox.afterRemoval).withMelvor fun m => m.orphan p
    let s := dropRequests s p
    let s := (dropMessages s p).setSpdm (.doe p) {}
    let s := renewNonce (removeFromJob s p) p
    let onPort := decide (b2n s.snap.tport = p.val) || s.snap.host.any fun h => decide (h.1 = p)
    let s := if s.snap.busy && onPort then snapEnd s else s
    publish (retry s)

/-- The link of the port is down. -/
def HostPort.noLink (h : HostPort) : HostPort :=
  { h with linkUp := false, speed := 0, width := 0, cxlCache := false, cxlMem := false, d3hot := false, inFlr := false }

/-- PERST_ASSERT. -/
def execPerstAssert (p : Port) (s : State) : Result :=
  .next <|
    if (s.port p).perst then s else removePort (s.modPort p fun h => { h.noLink with perst := true }) p

/-- DL_DOWN_TIMEOUT. -/
def execDlDownTimeout (p : Port) (s : State) : Result :=
  .next <| if (s.port p).linkUp then removePort (s.modPort p HostPort.noLink) p else s

/-- D3HOT_ENTRY. -/
def execD3hotEntry (p : Port) (s : State) : Result :=
  .next <| if s.hostOn p then removePort (s.modPort p fun h => { h with d3hot := true }) p else s

/-- FLR. -/
def execFlr (p : Port) (s : State) : Result :=
  .next <| if s.hostOn p then removePort (s.modPort p fun h => { h with inFlr := true }) p else s

/-! ## Return (R268, R408, R415) -/

/-- CXL.cache and CXL.mem are enabled from stage 3 on, when the link qualifies. -/
def cxlEnable (s : State) (p : Port) : State :=
  s.modPort p fun h =>
    let q := decide (s.boot.stage ≥ 3) && h.linkUp && decide (h.speed = 5) && decide (h.width.toNat ≥ 8)
    { h with cxlCache := q, cxlMem := q }

/-- The function's configuration space in its default state. -/
def HostPort.default (h : HostPort) : HostPort :=
  { h with config := [], msix := [], pba := 0, msixEn := false, funcMask := false, viralEn := false
           hdmLockOn := false, hdmCommitted := false, hdmLocked := false, doeIn := [], doeOut := []
           rasUnc := 0, rasCor := 0, rasUncMask := 0, rasCorMask := 0 }

/-- PERST_DEASSERT: the pin rises, and the clock mode of the port is chosen: a reference clock, or SRIS without one
(R425). -/
def execPerstDeassert (p : Port) (refclk : Bool) (s : State) : Result :=
  .next <|
    if (s.port p).perst then s.modPort p fun h => { h.default with perst := false, srisMode := !refclk } else s

/-- DL_ACTIVE_RETURN: the link reaches L0 at a speed and width of Table 12.1. -/
def execDlActiveReturn (p : Port) (speed : BitVec 3) (width : BitVec 5) (s : State) : Result :=
  .next <|
    let h := s.port p
    if h.linkUp || h.perst || decide (s.boot.stage < 1) || !([1, 2, 3, 4, 5] : List Nat).contains speed.toNat ||
        !([1, 4, 8, 16] : List Nat).contains width.toNat then s
    else cxlEnable (s.modPort p fun h => { h.default with linkUp := true, speed := speed, width := width }) p

/-- D0_ENTRY: No_Soft_Reset = 0, so the function is reset. -/
def execD0Entry (p : Port) (s : State) : Result :=
  .next <|
    if (s.port p).d3hot then cxlEnable (s.modPort p fun h => { h.default with d3hot := false }) p else s

/-- FLR_COMPLETE. -/
def execFlrComplete (p : Port) (s : State) : Result :=
  .next <|
    if (s.port p).inFlr then cxlEnable (s.modPort p fun h => { h.default with inFlr := false }) p else s

/-! ## Configuration requests (R267, R408) -/

/-! The DOE mailbox with the CDAT protocol (Table 12.1, Table 12.2). PRESUMED, unsafe: notes/assumptions/87.md. -/

/-- The DWs of an entry of a list of bytes. -/
def wordsOf (l : List Byte) : List Word :=
  (List.range (cdiv l.length 4)).map fun i => BitVec.ofNat 32 (leNat ((l.drop (4 * i)).take 4))

/-- A DSLBIS structure: data type, base unit, value. -/
def dslbis (kind base v : Nat) : List Byte :=
  toBytes (1 + 24 * 2 ^ 16 + kind * 2 ^ 48) 8 ++ toBytes base 8 ++ toBytes v 8

/-- The structures of the CDAT after its header: the HDM range, read latency 600 ns, bandwidth 63 GB/s in each direction. -/
def cdatEntries : List (List Byte) :=
  [toBytes (24 * 2 ^ 16) 8 ++ toBytes 0 8 ++ toBytes hbmTop 8, dslbis 1 1000 600, dslbis 4 1000 63, dslbis 5 1000 63]

/-- The CDAT's header: length, revision 1, a checksum that makes the bytes of the table sum to 0. -/
def cdatHeader : List Byte :=
  let body := cdatEntries.flatten
  let n := 16 + body.length
  let sum := (toBytes n 4 ++ body).foldl (fun t b => t + b.toNat) 1
  toBytes n 4 ++ [1, BitVec.ofNat 8 (256 - sum % 256)] ++ toBytes 0 10

/-- The answer to a CDAT request (vendor 0x1E98, object type 2) for an entry; none to another object or a bad handle. -/
def cdatAnswer (l : List Word) : List Word :=
  match l with
  | [h, n, r] =>
    let k := bits r.toNat 31 16
    let es := cdatHeader :: cdatEntries
    if h = 0x21E98 ∧ bits n.toNat 17 0 = 3 ∧ bits r.toNat 15 0 = 0 ∧ k < es.length then
      let e := wordsOf (es.getD k [])
      let next := if k + 1 < es.length then k + 1 else 0xFFFF
      h :: BitVec.ofNat 32 (3 + e.length) :: BitVec.ofNat 32 (next * 2 ^ 16) :: e
    else []
  | _ => []

/-- A register of the DOE mailbox: 0 control, 1 status, 2 write mailbox, 3 read mailbox. -/
def HostPort.doeRead (h : HostPort) (i : Nat) : Word :=
  match i with
  | 1 => if h.doeOut.isEmpty then 0 else 0x80000000
  | 3 => h.doeOut.headD 0
  | _ => 0

/-- A write of it: GO answers the request written, ABORT drops both; a write of the read mailbox takes the next DW. -/
def HostPort.doeWrite (h : HostPort) (i : Nat) (v : Word) : HostPort :=
  match i with
  | 0 =>
    if bit v.toNat 0 then { h with doeIn := [], doeOut := [] }
    else if bit v.toNat 31 then { h with doeIn := [], doeOut := cdatAnswer h.doeIn }
    else h
  | 2 => { h with doeIn := h.doeIn ++ [v] }
  | 3 => { h with doeOut := h.doeOut.drop 1 }
  | _ => h

/-- The register of the DOE mailbox at word `dw`. -/
def doeReg (dw : Nat) : Option Nat := if Config.doeBase ≤ dw ∧ dw < Config.doeBase + 4 then some (dw - Config.doeBase) else none

/-! Registers of the PCI Express, Advanced Error Reporting and power-management capabilities, and the BARs (Tables 0.11,
12.1, R415): their places are constants of Config, their fields those of the PCI Express Base Specification. PRESUMED,
unsafe: notes/assumptions/98.md. -/

/-- The bits of a base address in words 4 to 9: 64-bit prefetchable BARs of 64 MiB, 1 TiB and 8 GiB. -/
def barMask (dw : Nat) : Word :=
  match dw with
  | 4 => 0xFC000000 | 5 => 0xFFFFFFFF | 7 => 0xFFFFFF00 | 9 => 0xFFFFFFFE | _ => 0

/-- The default of a word: Device Control with payloads of 128 bytes and read requests of 512, Device Control 2 with a
completion timeout of 50 ms, ECRC off, BARs unassigned. -/
def configDefault (p : Port) (dw : Nat) : Word :=
  if 4 ≤ dw ∧ dw ≤ 9 then (if dw % 2 = 0 then 0xC else 0)
  else if dw = Config.pcieCap + 1 then 0x2810
  else if dw = Config.pcieCap + 9 then 0
  else if dw = Config.aerCap then 0xA0
  else Config.configWord p dw

/-- The bits of a word that a host may write: of Device Control the payload and read request sizes, of Device Control 2
the timeout's range and not its disable bit, of the AER control word the two ECRC enables. -/
def configBits (p : Port) (dw : Nat) : Word :=
  if 4 ≤ dw ∧ dw ≤ 9 then barMask dw
  else if dw = Config.pcieCap + 1 then 0x78FF
  else if dw = Config.pcieCap + 9 then 0xF
  else if dw = Config.aerCap then 0x140
  else Config.configMask p dw

/-- A value of a word that Table 12.1 allows: a payload of at most 512 bytes, a read request of at most 4,096. -/
def configFits (dw : Nat) (v : Word) : Bool :=
  decide (dw ≠ Config.pcieCap + 1) || (decide (bits v.toNat 7 5 ≤ 2) && decide (bits v.toNat 14 12 ≤ 5))

/-- The registers of the CXL RAS capability: uncorrectable status and mask, correctable status and mask. -/
def HostPort.rasRead (h : HostPort) (i : Nat) : Option Word :=
  match i with
  | 0 => some h.rasUnc | 1 => some h.rasUncMask | 3 => some h.rasCor | 4 => some h.rasCorMask | _ => none

/-- A write of them: status bits clear on 1. -/
def HostPort.rasWrite (h : HostPort) (i : Nat) (v : Word) : HostPort :=
  match i with
  | 0 => { h with rasUnc := h.rasUnc &&& ~~~v }
  | 1 => { h with rasUncMask := v }
  | 3 => { h with rasCor := h.rasCor &&& ~~~v }
  | 4 => { h with rasCorMask := v }
  | _ => h

/-- Word `dw` of a port's configuration space: the identity of Table 12.1, the capability registers, MSI-X Enable and
Function Mask, the DVSECs' vendor, the HDM decoder of 640 GiB and one way, the RAS capability, the DOE mailbox, and the
words that the host has written, kept as their difference from the default. -/
def State.configRead (s : State) (p : Port) (dw : Nat) : Word :=
  let h := s.port p
  let v := configDefault p dw ^^^ Sparse.get 0 h.config dw
  if dw = 0 then BitVec.ofNat 32 (Config.vendorId.toNat + deviceId s.flash.record.grade * 2 ^ 16)
  else if dw = 2 then BitVec.ofNat 32 (v.toNat % 256 + 0x120000 * 256)
  else if dw = 11 then s.flash.record.subsystem
  else if dw = Config.pcieCap then (v &&& ~~~7#32) ||| 0x10000002
  else if dw = Config.pcieCap + 8 then (v &&& ~~~0x39F#32) ||| 0x3000F
  else if dw = Config.pmCsr then (v &&& ~~~0xB#32) ||| (if h.d3hot then 3 else 0)
  else if dw = Config.msixControl then
    BitVec.ofNat 32 (v.toNat % 2 ^ 30 + b2n h.funcMask * 2 ^ 30 + b2n h.msixEn * 2 ^ 31)
  else if dw = Config.hdmControl then
    BitVec.ofNat 32 (b2n h.hdmLockOn * 2 ^ 8 + b2n h.hdmCommitted * 2 ^ 9 + b2n h.hdmCommitted * 2 ^ 10)
  else if dw + 2 = Config.hdmControl then 0
  else if dw + 1 = Config.hdmControl then 0xA0
  else if (List.finRange 3).any fun i => Config.dvsecAt i = dw then BitVec.ofNat 32 (v.toNat / 2 ^ 16 * 2 ^ 16 + 0x1E98)
  else match doeReg dw, h.rasRead (dw - Config.cxlRas) with
    | some i, _ => h.doeRead i
    | none, some r => if Config.cxlRas ≤ dw then r else v
    | none, none => v

/-- The HDM decoder's control: COMMIT, and the lock that Lock On Commit adds; a locked decoder keeps its state until the
function is reset (R268). PRESUMED, unsafe: notes/assumptions/86.md. -/
def HostPort.hdmWrite (h : HostPort) (v : Word) : HostPort :=
  if h.hdmLocked then h
  else { h with hdmLockOn := bit v.toNat 8, hdmCommitted := bit v.toNat 9, hdmLocked := bit v.toNat 8 && bit v.toNat 9 }

/-- A write of word `dw`: its writable bits change. PRESUMED, unsafe: notes/assumptions/33.md. -/
def configWrite (s : State) (p : Port) (dw : Nat) (v : Word) : State :=
  match doeReg dw with
  | some i => s.modPort p fun h => h.doeWrite i v
  | none =>
    let m := configBits p dw
    let old := configDefault p dw ^^^ Sparse.get 0 (s.port p).config dw
    let new := if configFits dw v then (old &&& ~~~m) ||| (v &&& m) else old
    let s := s.modPort p fun h => { h with config := Sparse.set 0 h.config dw (new ^^^ configDefault p dw) }
    let s := if Config.cxlRas ≤ dw then s.modPort p fun h => h.rasWrite (dw - Config.cxlRas) v else s
    let s := if dw = Config.viralControl then s.modPort p fun h => { h with viralEn := bit v.toNat 14 } else s
    let s := if dw = Config.hdmControl then s.modPort p fun h => h.hdmWrite v else s
    if dw = Config.msixControl then
      flushMsix (s.modPort p fun h => { h with msixEn := bit v.toNat 31, funcMask := bit v.toNat 30 }) p
    else s

/-- CONFIGURATION_REQUEST: Configuration Request Retry Status until PORTS_READY and during an FLR, then served. The DOE
mailbox's SPDM requests, the FLR and the power states are commands of their own.
PRESUMED, unsafe: notes/assumptions/33.md. -/
def execConfigurationRequest (p : Port) (write : Bool) (reg : BitVec 12) (v : Word) (s : State) : Result :=
  .next <|
    let dw := reg.toNat / 4
    if !(s.port p).linkUp then s
    else if !s.boot.portsReady || (s.port p).inFlr then s.emit (.config p .crs 0)
    else if write then (configWrite s p dw v).emit (.config p .success 0)
    else s.emit (.config p .success (s.configRead p dw))

end Sys2Proof.Machine
end

