-- ==== Sys2Proof/Machine/Startup.lean ====
section
/-! DEFINITION. The stages of power-up that Melvor firmware runs (spec 19: R405, R406, R408-R410). -/

namespace Sys2Proof.Machine

/-- Every tile memory is cleared as R226 gives. -/
def clearTileMemories (s : State) : State :=
  let ts : Sparse Tile := s.tiles.map fun x => (x.1, x.2.cleared)
  { s with tiles := ts.filter fun x => decide (x.2 ≠ ({} : Tile)) }

/-- INIT_END: stage 2 ends. HBM is trained, the row maps are set, the tile memories cleared; PORTS_READY, and the overwrite
of HBM begins. -/
def execInitEnd (s : State) : Result :=
  .next <|
    if s.boot.stage ≠ 2 ∨ s.melvor.lockstepErr then s
    else
      let s := clearTileMemories (setRowMaps s)
      let s := forAll (List.range 8) s fun s k => s.modCtl k fun c => { c with ready := true, training := false }
      let s := s.withBoot fun b =>
        { b with stage := 3, portsReady := true, hbmClear := true, tPortsUs := BitVec.ofNat 32 b.sinceUs }
      forAll [0, 1] s cxlEnable

/-- Every line of every stack has been written with zeros and valid check symbols. -/
def overwriteHbm (s : State) : State :=
  let s := { s with hbm := [], poison := [], bad := [] }
  forAll (List.range 8) s fun s k => s.modCtl k fun c => { c with wrLines := satAdd c.wrLines stackLines }

/-- A fold port announces FW_READY = 1, and completes its training if its partner is ready. -/
def announceReady (s : State) (f : FoldPort) : State :=
  let s := if (s.link f).training then s.emit (.linkCtrl f (helloMsg s f)) else s
  linkComplete s f (max 1 (min 3 (s.link f).peerVersion.toNat))

/-- FW_READY: stage 3 ends. The module is at Dawn with no fold loaded; HBM is reached from now on. -/
def execFwReady (s : State) : Result :=
  .next <|
    if s.boot.stage ≠ 3 ∨ s.melvor.lockstepErr then s
    else
      let s := (overwriteHbm s).withBoot fun b =>
        { b with stage := 4, hbmClear := false, tReadyUs := BitVec.ofNat 32 b.sinceUs }
      let s := s.withMelvor fun m => { m with fwReady := true }
      publish (retry (checkTriggers (forAll (List.range 12) s fun s f => announceReady s (Fin.ofNat 12 f))))

end Sys2Proof.Machine
end

