-- ==== Sys2Proof/Machine/Dispatch.lean ====
section
/-! DEFINITION. One arm for each command of spec/opcode_table.json. -/

namespace Sys2Proof.Machine

def exec (i : Instr) (s : State) : Host.Outcome State Fault Refusal :=
  match i with
  | .slot t ret heads => Sys2Proof.Machine.execSlot t ret heads s
  | .entryAdvance t => Sys2Proof.Machine.execEntryAdvance t s
  | .tokenArrival t inp chk => Sys2Proof.Machine.execTokenArrival t inp chk s
  | .noProgress t => Sys2Proof.Machine.execNoProgress t s
  | .meshWdLimit w t v => Sys2Proof.Machine.execMeshWdLimit w t v s
  | .clrStall w t => Sys2Proof.Machine.execClrStall w t s
  | .clrCe w t => Sys2Proof.Machine.execClrCe w t s
  | .faultTreeReport row => Sys2Proof.Machine.execFaultTreeReport row s
  | .foldFreeze => Sys2Proof.Machine.execFoldFreeze s
  | .droopDetect t cycles => Sys2Proof.Machine.execDroopDetect t cycles s
  | .stretchStageEnd t cycles => Sys2Proof.Machine.execStretchStageEnd t cycles s
  | .tileMaintWrite w a v => Sys2Proof.Machine.execTileMaintWrite w a v s
  | .registerWrite w a bytes v => Sys2Proof.Machine.execRegisterWrite w a bytes v s
  | .alu iss => Sys2Proof.Machine.execAlu iss s
  | .addi iss => Sys2Proof.Machine.execAddi iss s
  | .andi iss => Sys2Proof.Machine.execAndi iss s
  | .ori iss => Sys2Proof.Machine.execOri iss s
  | .xori iss => Sys2Proof.Machine.execXori iss s
  | .slli iss => Sys2Proof.Machine.execSlli iss s
  | .srli iss => Sys2Proof.Machine.execSrli iss s
  | .srai iss => Sys2Proof.Machine.execSrai iss s
  | .lui iss => Sys2Proof.Machine.execLui iss s
  | .cmp iss => Sys2Proof.Machine.execCmp iss s
  | .cmpi iss => Sys2Proof.Machine.execCmpi iss s
  | .plog iss => Sys2Proof.Machine.execPlog iss s
  | .ld iss e => Sys2Proof.Machine.execLd iss e s
  | .st iss => Sys2Proof.Machine.execSt iss s
  | .lda iss e => Sys2Proof.Machine.execLda iss e s
  | .sta iss => Sys2Proof.Machine.execSta iss s
  | .br iss => Sys2Proof.Machine.execBr iss s
  | .jr iss => Sys2Proof.Machine.execJr iss s
  | .brl iss => Sys2Proof.Machine.execBrl iss s
  | .send iss e => Sys2Proof.Machine.execSend iss e s
  | .sendUnblock t e => Sys2Proof.Machine.execSendUnblock t e s
  | .recv iss chk => Sys2Proof.Machine.execRecv iss chk s
  | .recvUnblock t chk => Sys2Proof.Machine.execRecvUnblock t chk s
  | .enq iss e => Sys2Proof.Machine.execEnq iss e s
  | .enqUnblock t e => Sys2Proof.Machine.execEnqUnblock t e s
  | .waite iss => Sys2Proof.Machine.execWaite iss s
  | .waiteRetire t => Sys2Proof.Machine.execWaiteRetire t s
  | .summ iss => Sys2Proof.Machine.execSumm iss s
  | .summUnblock t => Sys2Proof.Machine.execSummUnblock t s
  | .endOp iss => Sys2Proof.Machine.execEndOp iss s
  | .trap iss => Sys2Proof.Machine.execTrap iss s
  | .unlistedOpWord iss => Sys2Proof.Machine.execUnlistedOpWord iss s
  | .tilePartComplete t => Sys2Proof.Machine.execTilePartComplete t s
  | .clrCnt w t => Sys2Proof.Machine.execClrCnt w t s
  | .depWaitEnd t eng wm am => Sys2Proof.Machine.execDepWaitEnd t eng wm am s
  | .engineComplete t eng => Sys2Proof.Machine.execEngineComplete t eng s
  | .matmul t => Sys2Proof.Machine.execMatmul t s
  | .accFlush t => Sys2Proof.Machine.execAccFlush t s
  | .accDrop t => Sys2Proof.Machine.execAccDrop t s
  | .pairPartnerTake t => Sys2Proof.Machine.execPairPartnerTake t s
  | .mxeRowBlock t wm am => Sys2Proof.Machine.execMxeRowBlock t wm am s
  | .slotWaitEnd t => Sys2Proof.Machine.execSlotWaitEnd t s
  | .vmap t => Sys2Proof.Machine.execVmap t s
  | .vstep t => Sys2Proof.Machine.execVstep t s
  | .setvl t => Sys2Proof.Machine.execSetvl t s
  | .tload t => Sys2Proof.Machine.execTload t s
  | .vxeVector t wm tab => Sys2Proof.Machine.execVxeVector t wm tab s
  | .ublk t => Sys2Proof.Machine.execUblk t s
  | .upart t => Sys2Proof.Machine.execUpart t s
  | .uapply t => Sys2Proof.Machine.execUapply t s
  | .urows t => Sys2Proof.Machine.execUrows t s
  | .upeUnit t wm => Sys2Proof.Machine.execUpeUnit t wm s
  | .openReq d row lane chk store => Sys2Proof.Machine.execOpenReq d row lane chk store s
  | .closeReq d row lane chk => Sys2Proof.Machine.execCloseReq d row lane chk s
  | .xferReq d row lane chk => Sys2Proof.Machine.execXferReq d row lane chk s
  | .goReq d row lane chk => Sys2Proof.Machine.execGoReq d row lane chk s
  | .cancelReq d row lane chk => Sys2Proof.Machine.execCancelReq d row lane chk s
  | .dataTokenTake d row lane ch chk store => Sys2Proof.Machine.execDataTokenTake d row lane ch chk store s
  | .baleIssue d q => Sys2Proof.Machine.execBaleIssue d q s
  | .baleDeliver d q buf => Sys2Proof.Machine.execBaleDeliver d q buf s
  | .baleWrite d q buf => Sys2Proof.Machine.execBaleWrite d q buf s
  | .xferComplete d q => Sys2Proof.Machine.execXferComplete d q s
  | .sideGateIssue d q => Sys2Proof.Machine.execSideGateIssue d q s
  | .releaseHoldEnd d q => Sys2Proof.Machine.execReleaseHoldEnd d q s
  | .deadlineMiss d q => Sys2Proof.Machine.execDeadlineMiss d q s
  | .timeout d q row lane => Sys2Proof.Machine.execTimeout d q row lane s
  | .droverClrCnt w d => Sys2Proof.Machine.execDroverClrCnt w d s
  | .hbmLineAccess k reach err => Sys2Proof.Machine.execHbmLineAccess k reach err s
  | .clrErr w k => Sys2Proof.Machine.execClrErr w k s
  | .clrTraffic w k => Sys2Proof.Machine.execClrTraffic w k s
  | .hbmScrubRead k line err => Sys2Proof.Machine.execHbmScrubRead k line err s
  | .tileScrubRead t acc word chk => Sys2Proof.Machine.execTileScrubRead t acc word chk s
  | .tileScrubRewrite t => Sys2Proof.Machine.execTileScrubRewrite t s
  | .bar0Access p r => Sys2Proof.Machine.execBar0Access p r s
  | .bar2Access p r => Sys2Proof.Machine.execBar2Access p r s
  | .bar4Access p r chk => Sys2Proof.Machine.execBar4Access p r chk s
  | .memRd p k a m err => Sys2Proof.Machine.execMemRd p k a m err s
  | .memWr p a mask d poison => Sys2Proof.Machine.execMemWr p a mask d poison s
  | .pageFlip p page wb => Sys2Proof.Machine.execPageFlip p page wb s
  | .hostSnoop p hpa k => Sys2Proof.Machine.execHostSnoop p hpa k s
  | .portClrCnt w p => Sys2Proof.Machine.execPortClrCnt w p s
  | .clrFault w p => Sys2Proof.Machine.execClrFault w p s
  | .perstAssert p => Sys2Proof.Machine.execPerstAssert p s
  | .dlDownTimeout p => Sys2Proof.Machine.execDlDownTimeout p s
  | .d3hotEntry p => Sys2Proof.Machine.execD3hotEntry p s
  | .flr p => Sys2Proof.Machine.execFlr p s
  | .perstDeassert p refclk => Sys2Proof.Machine.execPerstDeassert p refclk s
  | .dlActiveReturn p speed width => Sys2Proof.Machine.execDlActiveReturn p speed width s
  | .d0Entry p => Sys2Proof.Machine.execD0Entry p s
  | .flrComplete p => Sys2Proof.Machine.execFlrComplete p s
  | .enable w p cmdCoh cplCoh => Sys2Proof.Machine.execEnable w p cmdCoh cplCoh s
  | .disable w p => Sys2Proof.Machine.execDisable w p s
  | .cmdDoorbell w p v => Sys2Proof.Machine.execCmdDoorbell w p v s
  | .cplDoorbell w p v => Sys2Proof.Machine.execCplDoorbell w p v s
  | .entryFetch p e same mem => Sys2Proof.Machine.execEntryFetch p e same mem s
  | .refetch p e same => Sys2Proof.Machine.execRefetch p e same s
  | .mailboxClrCnt w p => Sys2Proof.Machine.execMailboxClrCnt w p s
  | .hello p => Sys2Proof.Machine.execHello p s
  | .nop p => Sys2Proof.Machine.execNop p s
  | .claim p => Sys2Proof.Machine.execClaim p s
  | .release p => Sys2Proof.Machine.execRelease p s
  | .handover p => Sys2Proof.Machine.execHandover p s
  | .handoverGrant p => Sys2Proof.Machine.execHandoverGrant p s
  | .handoverExpiry => Sys2Proof.Machine.execHandoverExpiry s
  | .status p => Sys2Proof.Machine.execStatus p s
  | .counters p hostErr => Sys2Proof.Machine.execCounters p hostErr s
  | .faultReport p hostErr => Sys2Proof.Machine.execFaultReport p hostErr s
  | .regionAdd p => Sys2Proof.Machine.execRegionAdd p s
  | .regionDel p => Sys2Proof.Machine.execRegionDel p s
  | .pwinSet p => Sys2Proof.Machine.execPwinSet p s
  | .imageStage p => Sys2Proof.Machine.execImageStage p s
  | .imageActivate p => Sys2Proof.Machine.execImageActivate p s
  | .partitionStart allActivated indicesDistinct => Sys2Proof.Machine.execPartitionStart allActivated indicesDistinct s
  | .jobStart p desc hostErr => Sys2Proof.Machine.execJobStart p desc hostErr s
  | .jobPause p => Sys2Proof.Machine.execJobPause p s
  | .jobResume p found w => Sys2Proof.Machine.execJobResume p found w s
  | .jobStop p => Sys2Proof.Machine.execJobStop p s
  | .place p => Sys2Proof.Machine.execPlace p s
  | .group p => Sys2Proof.Machine.execGroup p s
  | .flitReceive f x => Sys2Proof.Machine.execFlitReceive f x s
  | .replayTimeout f => Sys2Proof.Machine.execReplayTimeout f s
  | .ackTimer f => Sys2Proof.Machine.execAckTimer f s
  | .fecLockLoss f lane => Sys2Proof.Machine.execFecLockLoss f lane s
  | .retrain w f => Sys2Proof.Machine.execRetrain w f s
  | .retrainEnd f badLanes over10ms => Sys2Proof.Machine.execRetrainEnd f badLanes over10ms s
  | .holdDown w f v => Sys2Proof.Machine.execHoldDown w f v s
  | .linkHello f version rank pport ready => Sys2Proof.Machine.execLinkHello f version rank pport ready s
  | .credit f stream n => Sys2Proof.Machine.execCredit f stream n s
  | .join f rank kind part key modules => Sys2Proof.Machine.execJoin f rank kind part key modules s
  | .groupFormed links cuts => Sys2Proof.Machine.execGroupFormed links cuts s
  | .joinTimeout => Sys2Proof.Machine.execJoinTimeout s
  | .reduceFrame f level src x => Sys2Proof.Machine.execReduceFrame f level src x s
  | .combine level obj frame micro store => Sys2Proof.Machine.execCombine level obj frame micro store s
  | .gatherFrame f src x store => Sys2Proof.Machine.execGatherFrame f src x store s
  | .exchTimeout => Sys2Proof.Machine.execExchTimeout s
  | .agreeUpSend => Sys2Proof.Machine.execAgreeUpSend s
  | .agreeUp step gnv gsat covered => Sys2Proof.Machine.execAgreeUp step gnv gsat covered s
  | .agreeDown step gnv gsat => Sys2Proof.Machine.execAgreeDown step gnv gsat s
  | .doneSend => Sys2Proof.Machine.execDoneSend s
  | .doneMsg step covered => Sys2Proof.Machine.execDoneMsg step covered s
  | .commit step store => Sys2Proof.Machine.execCommit step store s
  | .freeze down origin step cause => Sys2Proof.Machine.execFreeze down origin step cause s
  | .control down act origin step => Sys2Proof.Machine.execControl down act origin step s
  | .foldPortClrCnt w f => Sys2Proof.Machine.execFoldPortClrCnt w f s
  | .groupClrCnt w => Sys2Proof.Machine.execGroupClrCnt w s
  | .phaseWindow x => Sys2Proof.Machine.execPhaseWindow x s
  | .pointChangeStart => Sys2Proof.Machine.execPointChangeStart s
  | .slewEnd => Sys2Proof.Machine.execSlewEnd s
  | .relockEnd => Sys2Proof.Machine.execRelockEnd s
  | .droopWaitEnd => Sys2Proof.Machine.execDroopWaitEnd s
  | .powerEval => Sys2Proof.Machine.execPowerEval s
  | .inputSample watts valid => Sys2Proof.Machine.execInputSample watts valid s
  | .calibration => Sys2Proof.Machine.execCalibration s
  | .activityWindowEnd t ties => Sys2Proof.Machine.execActivityWindowEnd t ties s
  | .thermalEval die hbm => Sys2Proof.Machine.execThermalEval die hbm s
  | .nightEntry => Sys2Proof.Machine.execNightEntry s
  | .nightReq w v => Sys2Proof.Machine.execNightReq w v s
  | .nightIdleExpiry => Sys2Proof.Machine.execNightIdleExpiry s
  | .powerClrCnt w => Sys2Proof.Machine.execPowerClrCnt w s
  | .messageSend dest => Sys2Proof.Machine.execMessageSend dest s
  | .holdoffExpiry g => Sys2Proof.Machine.execHoldoffExpiry g s
  | .eoi w g => Sys2Proof.Machine.execEoi w g s
  | .setSrc w g bits same => Sys2Proof.Machine.execSetSrc w g bits same s
  | .pend w g bits => Sys2Proof.Machine.execPend w g bits s
  | .route w g r holdoff => Sys2Proof.Machine.execRoute w g r holdoff s
  | .msixUnmask p vec => Sys2Proof.Machine.execMsixUnmask p vec s
  | .irqClrCnt w => Sys2Proof.Machine.execIrqClrCnt w s
  | .lockstepMismatch => Sys2Proof.Machine.execLockstepMismatch s
  | .journalCopy page => Sys2Proof.Machine.execJournalCopy page s
  | .snapshotComplete => Sys2Proof.Machine.execSnapshotComplete s
  | .snapStart w => Sys2Proof.Machine.execSnapStart w s
  | .abort w => Sys2Proof.Machine.execAbort w s
  | .restore w hdr digestOk => Sys2Proof.Machine.execRestore w hdr digestOk s
  | .reliabilityClrCnt w => Sys2Proof.Machine.execReliabilityClrCnt w s
  | .snapshotClrCnt w => Sys2Proof.Machine.execSnapshotClrCnt w s
  | .auth p flashErr => Sys2Proof.Machine.execAuth p flashErr s
  | .drop p flashErr => Sys2Proof.Machine.execDrop p flashErr s
  | .enroll p flashErr => Sys2Proof.Machine.execEnroll p flashErr s
  | .replace p flashErr => Sys2Proof.Machine.execReplace p flashErr s
  | .clearKey p flashErr => Sys2Proof.Machine.execClearKey p flashErr s
  | .svnCommit p flashErr => Sys2Proof.Machine.execSvnCommit p flashErr s
  | .securityClrCnt w => Sys2Proof.Machine.execSecurityClrCnt w s
  | .regionTableWrite w e word v => Sys2Proof.Machine.execRegionTableWrite w e word v s
  | .clearingEnd => Sys2Proof.Machine.execClearingEnd s
  | .tileMapWrite w iss v => Sys2Proof.Machine.execTileMapWrite w iss v s
  | .getVersion x => Sys2Proof.Machine.execGetVersion x s
  | .getCapabilities x => Sys2Proof.Machine.execGetCapabilities x s
  | .negotiateAlgorithms x mldsa shake => Sys2Proof.Machine.execNegotiateAlgorithms x mldsa shake s
  | .getDigests x => Sys2Proof.Machine.execGetDigests x s
  | .getCertificate x slot off len => Sys2Proof.Machine.execGetCertificate x slot off len s
  | .challenge x slot nonce => Sys2Proof.Machine.execChallenge x slot nonce s
  | .getMeasurements x index nonce => Sys2Proof.Machine.execGetMeasurements x index nonce s
  | .inputInRange => Sys2Proof.Machine.execInputInRange s
  | .powerGood => Sys2Proof.Machine.execPowerGood s
  | .romExit b => Sys2Proof.Machine.execRomExit b s
  | .initEnd => Sys2Proof.Machine.execInitEnd s
  | .fwReady => Sys2Proof.Machine.execFwReady s
  | .resetAssert => Sys2Proof.Machine.execResetAssert s
  | .rstReq w key => Sys2Proof.Machine.execRstReq w key s
  | .tripClr w => Sys2Proof.Machine.execTripClr w s
  | .enLow => Sys2Proof.Machine.execEnLow s
  | .inputOutOfRange below => Sys2Proof.Machine.execInputOutOfRange below s
  | .powerStageOff => Sys2Proof.Machine.execPowerStageOff s
  | .smbSetPointer v pecOk => Sys2Proof.Machine.execSmbSetPointer v pecOk s
  | .smbReadRegister => Sys2Proof.Machine.execSmbReadRegister s
  | .smbWriteRegister v pecOk => Sys2Proof.Machine.execSmbWriteRegister v pecOk s
  | .mctp msg => Sys2Proof.Machine.execMctp msg s
  | .alertResponse => Sys2Proof.Machine.execAlertResponse s
  | .bypass => Sys2Proof.Machine.execBypass s
  | .idcode => Sys2Proof.Machine.execIdcode s
  | .samplePreload => Sys2Proof.Machine.execSamplePreload s
  | .extest => Sys2Proof.Machine.execExtest s
  | .extestPulse => Sys2Proof.Machine.execExtestPulse s
  | .extestTrain => Sys2Proof.Machine.execExtestTrain s
  | .clamp => Sys2Proof.Machine.execClamp s
  | .highz => Sys2Proof.Machine.execHighz s
  | .erase w tied => Sys2Proof.Machine.execErase w tied s
  | .program w => Sys2Proof.Machine.execProgram w s
  | .verify w => Sys2Proof.Machine.execVerify w s
  | .flashComplete err => Sys2Proof.Machine.execFlashComplete err s
  | .holderTimeout => Sys2Proof.Machine.execHolderTimeout s
  | .configurationRequest p write reg v => Sys2Proof.Machine.execConfigurationRequest p write reg v s
  | .hostCompletion x q old r => Sys2Proof.Machine.execHostCompletion x q old r s
  | .resetRelease => Sys2Proof.Machine.execResetRelease s

end Sys2Proof.Machine
end

