-- ==== Sys2Proof/Machine/Tick.lean ====
section
/-! DEFINITION. What passes in one microsecond in which no command is waiting (notes/assumptions/6.md): the counters of
microseconds, the heartbeat, and whatever no longer waits. -/

namespace Sys2Proof.Machine

/-! ## What the counters of microseconds count -/

/-- A queue is held under R252. -/
def Drover.holds (x : Drover) : Bool := x.opens.any fun y => y.2.xfers.any fun f => f.held

/-- The head of channel `key` (row × 16 + lane × 8 + channel) has no place in its queue, and its credit is withheld
(R264): a request whose queue has 16 pending or closes, a token without room in a bale buffer or side-gate entry, a token
of a TX queue whose frame cannot go on, a token of an outbound cut without credit or route. DEDUCED, unsafe:
notes/assumptions/24.md. -/
def State.withholds (s : State) (d key : Nat) (toks : List (Nat × Token)) : Bool :=
  let x := s.drover d
  match toks with
  | [] => false
  | k :: _ =>
    let row := key / 16
    let lane := key / 8 % 2
    let ch := key % 8
    match x.outCut row lane ch with
    | some (_, c) => decide (c.credits = 0) || (s.cutRoute c).isNone
    | none =>
      if ch = 0 then
        let y := x.queue (qDq k.2.data)
        y.isOpen && (y.closing || decide (y.xfers.length + y.behind.length ≥ 16))
      else match x.fedBy row lane ch with
        | none => true
        | some (_, y) =>
          if oKind y.rcd = 2 then !s.exchOn || s.txBlocked y k.2.data
          else if oKind y.rcd ≠ 1 then false
          else match y.xfers.find? Xfer.filling with
            | none => true
            | some f => !y.place f

/-- A microsecond of drover `d`. -/
def State.droverTick (s : State) (d : Nat) : Drover :=
  let x := s.drover d
  if x.stopped then x
  else
    { x with relWaitUs := if x.holds then satAdd x.relWaitUs 1 else x.relWaitUs
             bpUs := if x.chans.any fun c => s.withholds d c.1 c.2 then satAdd x.bpUs 1 else x.bpUs }

/-- A combine holds a frame for a source of lower order. -/
def Group.holdsFrame (g : Group) : Bool :=
  g.contribs.any fun c =>
    let me := g.member.toNat
    let need := if c.level = 0 then (List.range g.bb).map fun p => me / g.bb * g.bb + p
      else (List.range g.qq).map fun q => q * g.bb + me % g.bb
    need.any fun m => decide (m < c.src) &&
      !g.contribs.any fun d => d.at_ c.level c.step c.obj c.frame c.micro && decide (d.src = m)

/-- A microsecond of the group registers. -/
def Group.tick (g : Group) : Group :=
  { g with combineWaitUs := if g.holdsFrame then satAdd g.combineWaitUs 1 else g.combineWaitUs
           agreeUs := if g.agreeSent && !g.agreed then g.agreeUs + 1 else g.agreeUs }

/-- A write waits for its page's snapshot copy (R379). -/
def State.snapHolds (s : State) : Bool :=
  (s.hbmCtl.any fun c => c.2.pend.any fun x => x.req.write && s.snapWaits x.req.addr.toNat) ||
  s.waiting.any fun w => match w.cmd with
    | .bar2Access _ r => r.write && (tlpLines r).any s.snapWaits
    | .memWr _ a _ _ _ | .registerWrite _ a _ _ => s.snapWaits a.toNat
    | _ => false

/-- A microsecond of the Melvor complex: HEARTBEAT counts milliseconds since FW_READY,
while no lockstep mismatch has stopped the complex (R290). DEDUCED, unsafe: notes/assumptions/35.md. -/
def Melvor.tick (m : Melvor) : Melvor :=
  if !m.fwReady || m.lockstepErr then m
  else if m.usAcc + 1 = 1000 then { m with usAcc := 0, heartbeat := satAdd m.heartbeat 1 }
  else { m with usAcc := m.usAcc + 1 }

/-! ## One microsecond -/

/-- The times and counters that advance while the module has power. -/
def countUs (s : State) : State :=
  let s := s.withBoot fun b => { b with sinceUs := if b.stage = 0 then b.sinceUs else b.sinceUs + 1 }
  let s := (s.withMelvor Melvor.tick).withGrp Group.tick
  let s := s.withPower fun p => { p with nightBlockUs := p.nightBlockUs - 1 }
  let s := if s.snapHolds then s.withSnap fun x => { x with waitUs := satAdd x.waitUs 1 } else s
  forAll (s.drovers.map Prod.fst) s fun s d => s.modDrover d fun _ => s.droverTick d

/-- Accesses, flits and completions that no longer wait go on. -/
def settle (s : State) : State :=
  let s := if s.boot.stage < 3 then s else retry s
  let s := forAll (List.range 12) s fun s f => if (s.link f).up then pumpAll s (Fin.ofNat 12 f) else s
  publish s

/-- One microsecond without a command. DESIGN CHOICE, unsafe: notes/assumptions/6.md. -/
def tick (s : State) : State :=
  let s := { s with clockUs := s.clockUs + 1 }
  if s.boot.powerOn then settle (countUs s) else s

end Sys2Proof.Machine
end

