-- ==== Sys2Proof/Machine/Step.lean ====
section
/-! DEFINITION. One step of the block: the command at the front of the queue, run on the state with the queue's rest. On
an empty queue one microsecond passes (notes/assumptions/6.md). -/

namespace Sys2Proof.Machine

/-- DESIGN CHOICE, unsafe: notes/assumptions/1.md. DESIGN CHOICE, unsafe: notes/assumptions/6.md. -/
def step (s : State) : Host.Outcome State Fault Refusal :=
  match s.pending with
  | [] => .next (tick s)
  | c :: rest => exec c { s with pending := rest }

/-- The state with the command that a word spells put at the front of its queue; no word spells one.
DESIGN CHOICE, unsafe: notes/assumptions/1.md. -/
def State.withFetchWord (s : State) (nbits w : Nat) : State :=
  match decodeTableWord nbits w with
  | some c => { s with pending := c :: s.pending }
  | none => s

end Sys2Proof.Machine
end

