-- ==== Sys2Proof/Certificates/Slice0/Obligations.lean ====
section
/-! DEFINITION. The statements for the provers. A statement names its next state by the named updates of State (`setTile`,
`setPort`, …), which leave every other field as it was, or says field by field what holds of it. -/

namespace Sys2Proof.Machine

/-! ## Shared hypotheses and results -/

/-- The tile exists and its island is clocked. -/
abbrev OnTile (s : State) (t : TileId) : Prop := s.tileOk t.toNat = true ∧ s.islandsOn = true

/-- The word at CORE_PC. -/
def State.wordAt (s : State) (t : TileId) : Nat := (s.tile t.toNat).core.word (s.tile t.toNat).core.pc.toNat

/-- The word at CORE_PC is offered alone and with a good fetch check; it is a legal word of operation
`op`, its guard gives `g`, and it does not fall through from the last word of instruction memory. -/
abbrev Offers (s : State) (i : Issue) (op : Nat) (g : Bool) : Prop :=
  OnTile s i.tile ∧ i.same = false ∧ i.fetch = .ok ∧ (s.tile i.tile.toNat).canIssue = true ∧
  wOP (s.wordAt i.tile) = op ∧ wIllegal (s.wordAt i.tile) = false ∧
  (s.tile i.tile.toNat).core.guard (s.wordAt i.tile) = g ∧
  (fallsThrough (s.wordAt i.tile) g = true → (s.tile i.tile.toNat).core.pc.toNat < 8191)

abbrev Issues (s : State) (i : Issue) (op : Nat) : Prop := Offers s i op true

/-- The tile after a word that issued alone, or a blocked one, has retired: the core `c`, RETIRED one more, issue at
`next`, nothing blocked, progress for the watchdog, `n` units of activity (6 for the cycle, R335). -/
def retired (x : Tile) (w : Nat) (c : TileCore) (next : Nat) (n : Nat := 6) : Tile :=
  { x with
    core := { c with retired := satAdd c.retired 1, pc := BitVec.ofNat 13 next, blocked := none, first := issueRec w }
    router := { x.router with wdCount := 0 }
    island := { x.island with other := x.island.other + n } }

/-- The word at CORE_PC retires at `next` as command `c`: the next state differs from `s` in this tile only, which is `x`
with the core `f` of the core that has waited for the word's operands (R64), its results on their way (Table 3.6). -/
def RetiresAt (i : Issue) (s : State) (c : Instr) (f : TileCore → Nat → TileCore) (next : Nat) (n : Nat := 6) : Prop :=
  let x := s.tile i.tile.toNat
  let w := s.wordAt i.tile
  exec c s = .next (s.setTile i.tile.toNat (retired x w ((f (x.core.hold w) w).launch w) next n))

/-- The same with issue going on at the next word. -/
def Retires (i : Issue) (s : State) (c : Instr) (f : TileCore → Nat → TileCore) (n : Nat := 6) : Prop :=
  RetiresAt i s c f ((s.tile i.tile.toNat).core.pc.toNat + 1) n

/-- The tile after its core has raised a fault of code 1, 2, 3 or 9, at CORE_PC: the first one is kept, the core stops, and
the router after its current slot. -/
def coreStopped (x : Tile) (w : Nat) (code : BitVec 4) (info : Word) : Tile :=
  { x with
    core := { x.core.hold w with fault := some (x.core.fault.getD ⟨code, 0, 0, false, x.core.pc, info⟩), state := 3 }
    router := { x.router with last := x.router.last || (!x.router.used && !x.router.halted && !x.router.frozen) }
    island := { x.island with other := x.island.other + 6 } }

/-- The tile with its core blocked on `on` (R66): WAIT_CNT counts. -/
def blockedTile (x : Tile) (w : Nat) (on : BitVec 3) : Tile :=
  { x with core := { x.core.hold w with
      first := none, wait := satAdd x.core.wait 1, blocked := some ⟨on, BitVec.ofNat 32 w, x.core.pc⟩ } }

/-- The rows of the Rolia words, with their OP. -/
def wordRows : List (Nat × (Issue → Instr)) :=
  [(0x00, .alu), (0x01, .addi), (0x02, .andi), (0x03, .ori), (0x04, .xori), (0x05, .slli), (0x06, .srli), (0x07, .srai),
   (0x08, .lui), (0x09, .cmp), (0x0A, .cmpi), (0x0B, .plog), (0x10, fun i => .ld i .ok), (0x11, .st),
   (0x12, fun i => .lda i .ok), (0x13, .sta), (0x18, .br), (0x19, .jr), (0x1A, .brl), (0x20, fun i => .send i .ok),
   (0x21, fun i => .recv i .ok), (0x28, fun i => .enq i .ok), (0x29, .waite), (0x2A, .summ), (0x3E, .endOp), (0x3F, .trap)]

/-- The bytes of working memory `m` are those of `old` with the `n` bytes from `a` up replaced by those of `v`. -/
abbrev Stored (m old : Sparse Byte) (a n v : Nat) : Prop :=
  ∀ b, Sparse.get 0 m b = if a ≤ b ∧ b < a + n then BitVec.ofNat 8 (v / 256 ^ (b - a)) else Sparse.get 0 old b

/-- A core blocked on `on`, on a tile that runs: its word is tried again. -/
abbrev BlockedOn (s : State) (t : TileId) (on : BitVec 3) (w : Nat) : Prop :=
  OnTile s t ∧ (s.tile t.toNat).core.state = 1 ∧ (s.tile t.toNat).router.frozen = false ∧
  ∃ b, (s.tile t.toNat).core.blocked = some b ∧ b.on = on ∧ b.word.toNat = w

/-- No access waits, no stop is due and no result is withheld: nothing else moves when a page or a request is done with. -/
abbrev Settled (s : State) : Prop := s.waiting = [] ∧ s.melvor.stopDue = false ∧ s.withheld = false

/-- Agent `w` may write offset `off` of control block `b`: Melvor firmware from stage 2 without a lockstep error; the SMBus
where it reaches the register; a port from stage 3, its own port registers only, and no secure register from the
non-secure world. -/
abbrev MayWrite (s : State) (w : Agent) (b off : Nat) : Prop :=
  match w with
  | .melvor => s.boot.stage ≥ 2 ∧ s.melvor.lockstepErr = false
  | .drover _ => False
  | .smbus => s.smbOn = true ∧ s.smbReach b off true = true
  | .port p => s.boot.stage ≥ 3 ∧ ((b = 0x01 ∨ b = 0x02) → off ≥ 0x80000 → b = p.val + 1) ∧
      (b = 0x05 ∨ s.blockSecure b off = false ∨ (s.port p).secure = true)

end Sys2Proof.Machine

open Sys2Proof Sys2Proof.Machine

/-! ## The block's queue, reset -/

/-- A step takes the command at the front of the queue and runs it on the state with the queue's rest. -/
def Obligations.StepTakesFront : Prop :=
  ∀ (s : State) (c : Instr) (rest : List Instr),
    step { s with pending := c :: rest } = exec c { s with pending := rest }

/-! ## Rolia words (spec 03) -/

/-- Words of class A, X and P: the result goes to RD (g0 discards it), the outcome of CMP, CMPI and PLOG to PD (p0 discards
it), the word retires, and nothing else changes. g0 reads 0 and p0 reads 1; a write to any other register or predicate is what
it reads as from then on, and no other one changes. -/
def Obligations.RegisterAndPredicateWords : Prop :=
  (
    ∀ (s : State) (i : Issue),
      (Issues s i 0x00 → Retires i s (.alu i) fun c w => c.setG (wRD w) (aluFn (wFN w) (c.g (wRA w)) (c.g (wRB w)))) ∧
      (Issues s i 0x01 → Retires i s (.addi i) fun c w => c.setG (wRD w) (c.g (wRA w) + wImm12 w)) ∧
      (Issues s i 0x02 → Retires i s (.andi i) fun c w => c.setG (wRD w) (c.g (wRA w) &&& wImm12 w)) ∧
      (Issues s i 0x03 → Retires i s (.ori i) fun c w => c.setG (wRD w) (c.g (wRA w) ||| wImm12 w)) ∧
      (Issues s i 0x04 → Retires i s (.xori i) fun c w => c.setG (wRD w) (c.g (wRA w) ^^^ wImm12 w)) ∧
      (Issues s i 0x05 → Retires i s (.slli i) fun c w => c.setG (wRD w) (c.g (wRA w) <<< bits w 4 0)) ∧
      (Issues s i 0x06 → Retires i s (.srli i) fun c w => c.setG (wRD w) (c.g (wRA w) >>> bits w 4 0)) ∧
      (Issues s i 0x07 → Retires i s (.srai i) fun c w => c.setG (wRD w) ((c.g (wRA w)).sshiftRight (bits w 4 0))) ∧
      (Issues s i 0x08 → Retires i s (.lui i) fun c w => c.setG (wRD w) (BitVec.ofNat 32 (wImm16 w * 65536)))) ∧
  (
    ∀ (s : State) (i : Issue),
      (Issues s i 0x09 → Retires i s (.cmp i) fun c w => c.setP (wPD w) (condFn (wCond w) (c.g (wCRA w)) (c.g (wCRB w)))) ∧
      (Issues s i 0x0A → Retires i s (.cmpi i) fun c w => c.setP (wPD w) (condFn (wCond w) (c.g (wCRA w)) (wImm11 w))) ∧
      (Issues s i 0x0B → Retires i s (.plog i) fun c w => c.setP (wPD w) (plogFn (wPFN w) (c.p (wPA w)) (c.p (wPB w))))) ∧
  (
    ∀ (c : TileCore) (n k : Nat) (v : Word) (b : Bool),
      c.g 0 = 0 ∧ c.p 0 = true ∧ c.setG 0 v = c ∧ c.setP 0 b = c ∧
      (n ≠ 0 → (c.setG n v).g k = if k = n then v else c.g k) ∧
      (n ≠ 0 → n < 8 → k < 8 → (c.setP n b).p k = if k = n then b else c.p k))

/-- A word whose guard is false retires and has no other effect, whatever its operation. -/
def Obligations.GuardFalse : Prop :=
  ∀ (s : State) (i : Issue), ∀ r ∈ wordRows, Offers s i r.1 false →
    let x := s.tile i.tile.toNat
    let w := s.wordAt i.tile
    exec (r.2 i) s = .next (s.setTile i.tile.toNat (retired x w (x.core.hold w) (x.core.pc.toNat + 1)))

/-- An illegal word raises core fault ILLEGAL with the word in INFO, whatever its guard, and writes nothing: the word of a
listed operation with a reserved field or value, and every word of an unlisted one. That a COND of 7 is reserved is the model's
reading (notes/assumptions/89.md). -/
def Obligations.IllegalWords : Prop :=
  ∀ (s : State) (i : Issue),
    OnTile s i.tile → i.same = false → i.fetch = .ok → (s.tile i.tile.toNat).canIssue = true →
    wIllegal (s.wordAt i.tile) = true →
    let w := s.wordAt i.tile
    let t := s.setTile i.tile.toNat (coreStopped (s.tile i.tile.toNat) w 1 (BitVec.ofNat 32 w))
    (∀ r ∈ wordRows, wOP (s.wordAt i.tile) = r.1 → exec (r.2 i) s = .next t) ∧
    (opListed (wOP (s.wordAt i.tile)) = false → exec (.unlistedOpWord i) s = .next t)

/-- An LDA or STA whose RD is g0 or g31 raises core fault ILLEGAL with the word in FAULT_INFO, whatever its guard; it writes
nothing. -/
def Obligations.LdaStaIllegalPair : Prop :=
  ∀ (s : State) (i : Issue),
    let x := s.tile i.tile.toNat
    let w := s.wordAt i.tile
    let t := s.setTile i.tile.toNat (coreStopped x w 1 (BitVec.ofNat 32 w))
    OnTile s i.tile → i.same = false → i.fetch = .ok → x.canIssue = true → wRD w = 0 ∨ wRD w = 31 →
    (wOP w = 0x12 → exec (.lda i .ok) s = .next t) ∧ (wOP w = 0x13 → exec (.sta i) s = .next t)

/-- LD, ST, LDA and STA: a word at a legal address is read into its registers, or is stored; every byte of working memory
outside the stored ones, every other accumulator word and every other tile stays. A load is that of words whose codes hold no
error; a store writes its codes afresh. An address that is misaligned or outside
raises BAD_ADDR, and nothing is written. -/
def Obligations.LoadsAndStores : Prop :=
  ∀ (s : State) (i : Issue),
    let t := i.tile.toNat
    let x := s.tile t
    let w := s.wordAt i.tile
    let a := (x.core.g (wRA w) + wImm12 w).toNat
    let bad := s.setTile t (coreStopped x w 2 (BitVec.ofNat 32 a))
    let core := (x.core.hold w).launch w
    (Issues s i 0x10 → a % 4 = 0 → a < 0x100000 → x.flaw (wmCodes a 4) = .ok →
      Retires i s (.ld i .ok) (fun c w => c.setG (wRD w) (BitVec.ofNat 32 (readBytes x.wmem a 4))) 14) ∧
    (Issues s i 0x11 → a % 4 = 0 → a < 0x100000 → ∃ m : Sparse Byte,
      exec (.st i) s = .next (s.setTile t
        { retired (x.recode (wmCodes a 4)) w core (x.core.pc.toNat + 1) 14 with
          wmem := m, rel := x.rel.touch (a / 64) (a / 64) }) ∧
      Stored m x.wmem a 4 (x.core.g (wRD w)).toNat) ∧
    (Issues s i 0x12 → a < 24576 → x.flaw (amCode a) = .ok →
      Retires i s (.lda i .ok) fun c w =>
        (c.setG (wRD w) (BitVec.ofNat 32 (Sparse.get 0 x.amem a).toNat)).setG (wRD w + 1)
          (BitVec.ofNat 32 ((Sparse.get 0 x.amem a).toNat / 2 ^ 32))) ∧
    (Issues s i 0x13 → a < 24576 → ∃ m : Sparse (BitVec 48),
      exec (.sta i) s = .next (s.setTile t
        { retired (x.recode (amCode a)) w core (x.core.pc.toNat + 1) with
          amem := m, rel := x.rel.touch (16384 + a) (16384 + a) }) ∧
      ∀ b, Sparse.get 0 m b = if b = a then
        BitVec.ofNat 48 ((x.core.g (wRD w)).toNat + (x.core.g (wRD w + 1)).toNat % 65536 * 2 ^ 32)
        else Sparse.get 0 x.amem b) ∧
    (a % 4 ≠ 0 ∨ a ≥ 0x100000 →
      (Issues s i 0x10 → exec (.ld i .ok) s = .next bad) ∧ (Issues s i 0x11 → exec (.st i) s = .next bad)) ∧
    (a ≥ 24576 → (Issues s i 0x12 → exec (.lda i .ok) s = .next bad) ∧ (Issues s i 0x13 → exec (.sta i) s = .next bad))

/-- BR, BRL and JR go to their target inside instruction memory, BRL with g31 naming the word after it; a target outside
raises BAD_PC, and nothing is written; that INFO shows a target below word 0 as a 32-bit two's complement is the model's choice
(notes/assumptions/75.md). -/
def Obligations.Branches : Prop :=
  ∀ (s : State) (i : Issue),
    let t := i.tile.toNat
    let x := s.tile t
    let w := s.wordAt i.tile
    let pc := x.core.pc.toNat
    let b : Int := pc + wOff22 w
    let j := (x.core.g (wRA w)).toNat
    (0 ≤ b → b ≤ 8191 → (Issues s i 0x18 → RetiresAt i s (.br i) (fun c _ => c) b.toNat) ∧
      (Issues s i 0x1A → RetiresAt i s (.brl i) (fun c _ => c.setG 31 (BitVec.ofNat 32 (pc + 1))) b.toNat)) ∧
    (j < 8192 → Issues s i 0x19 → RetiresAt i s (.jr i) (fun c _ => c) j) ∧
    (b < 0 ∨ b > 8191 →
      let bad := s.setTile t (coreStopped x w 3 (BitVec.ofNat 32 (unsigned 32 b)))
      (Issues s i 0x18 → exec (.br i) s = .next bad) ∧ (Issues s i 0x1A → exec (.brl i) s = .next bad)) ∧
    (j ≥ 8192 → Issues s i 0x19 → exec (.jr i) s = .next (s.setTile t (coreStopped x w 3 (BitVec.ofNat 32 j))))

/-- SEND copies its 64 bytes into the send buffer while that holds fewer than 4 messages, and blocks while it is full;
SEND_UNBLOCK retires the blocked word once there is room. RECV takes the head of a queue that the core consumes: its 64
bytes are stored, its credit goes back, NB = 1 sets PD. Without a token it blocks, or with NB = 1 retires with PD = 0.
RECV_UNBLOCK stores the token that a blocked word waited for. -/
def Obligations.SendAndReceive : Prop :=
  (
    ∀ (s : State) (i : Issue),
      let t := i.tile.toNat
      let x := s.tile t
      let msg (w : Nat) : SendMsg := ⟨BitVec.ofNat 512 (readBytes x.wmem (x.core.g (wSRA w)).toNat 64),
        BitVec.ofNat 3 (wOut w), BitVec.ofNat 9 (wEntry w), wLast w⟩
      let ok (w : Nat) : Prop := (x.core.g (wSRA w)).toNat % 64 = 0 ∧ (x.core.g (wSRA w)).toNat < 0x100000 ∧
        x.flaw (wmCodes (x.core.g (wSRA w)).toNat 64) = .ok
      (Issues s i 0x20 → ok (s.wordAt i.tile) → x.core.sendBuf.length < 4 →
        Retires i s (.send i .ok) (fun c w => { c with sendBuf := c.sendBuf ++ [msg w] }) 14) ∧
      (Issues s i 0x20 → ok (s.wordAt i.tile) → x.core.sendBuf.length ≥ 4 →
        exec (.send i .ok) s = .next (s.setTile t (blockedTile x (s.wordAt i.tile) 2))) ∧
      (∀ w, BlockedOn s i.tile 2 w → ok w → x.core.sendBuf.length < 4 →
        exec (.sendUnblock i.tile .ok) s = .next (s.setTile t
          (retired x w ({ x.core.tick 1 with sendBuf := x.core.sendBuf ++ [msg w] }.launch w) (x.core.pc.toNat + 1) 14)))) ∧
  (
    ∀ (s : State) (i : Issue),
      let t := i.tile.toNat
      let x := s.tile t
      let a (w : Nat) := (x.core.g (wSRA w)).toNat
      let ok (w : Nat) : Prop := a w % 64 = 0 ∧ a w < 0x100000
      let k (w : Nat) := wDir w * 8 + wQueue w
      let told (w : Nat) (c : TileCore) : TileCore := if wNB w then c.setP (wVPD w) true else c
      let taken (w : Nat) (tok : Token) (c : Instr) (core : TileCore) : Prop := ∃ m : Sparse Byte,
        let s1 := popQueue s t (k w)
        let y := { x with router := (s1.tile t).router }
        exec c s = .next (s1.setTile t
          { retired (y.recode (wmCodes (a w) 64)) w core (x.core.pc.toNat + 1) 14 with
            wmem := m, rel := x.rel.touch (a w / 64) (a w / 64) }) ∧
        Stored m x.wmem (a w) 64 tok.data.toNat
      let w0 := s.wordAt i.tile
      (∀ tok, Issues s i 0x21 → ok w0 → x.router.head (k w0) 1 0 = some tok →
        taken w0 tok (.recv i .ok) ((told w0 (x.core.hold w0)).launch w0)) ∧
      (∀ w tok, BlockedOn s i.tile 1 w → ok w → x.router.head (k w) 1 0 = some tok →
        taken w tok (.recvUnblock i.tile .ok) ((told w (x.core.tick 1)).launch w)) ∧
      (Issues s i 0x21 → ok w0 → x.router.head (k w0) 1 0 = none → wNB w0 = true →
        Retires i s (.recv i .ok) fun c w => c.setP (wVPD w) false) ∧
      (Issues s i 0x21 → ok w0 → x.router.head (k w0) 1 0 = none → wNB w0 = false →
        exec (.recv i .ok) s = .next (s.setTile t (blockedTile x w0 1))))

/-- ENQ puts its record, with the next sequence number of the engine, behind fewer than 8 queued ones and returns the
number in RD; it blocks while 8 are queued; ENQ_UNBLOCK retires the blocked word once there is room. WAITE retires once DONE of
its engine has reached the number in RA, compared as a signed difference, and blocks until then; SUMM takes the oldest summary
record into four registers and blocks while there is none. WAITE_RETIRE and SUMM_UNBLOCK retire the blocked words. -/
def Obligations.EnqueueWaitAndSummary : Prop :=
  (∀ (s : State) (i : Issue),
    let t := i.tile.toNat
    let x := s.tile t
    let a (w : Nat) := (x.core.g (wRA w)).toNat
    let ok (w : Nat) : Prop := a w % 64 = 0 ∧ a w < 0x100000 ∧ x.flaw (wmCodes (a w) 64) = .ok
    let done (w : Nat) (c : TileCore) : Tile :=
      let q := x.eng (wEng w)
      let y := x.setEng (wEng w) { q with
        queue := q.queue ++ [⟨BitVec.ofNat 512 (readBytes x.wmem (a w) 64), q.enq + 1, wSumm w, x.core.pc⟩]
        enq := q.enq + 1 }
      retired y w ((c.setG (wRD w) (q.enq + 1)).launch w) (x.core.pc.toNat + 1) 14
    let w0 := s.wordAt i.tile
    (Issues s i 0x28 → ok w0 → (x.eng (wEng w0)).queue.length < 8 →
      exec (.enq i .ok) s = .next (s.setTile t (done w0 (x.core.hold w0)))) ∧
    (Issues s i 0x28 → ok w0 → (x.eng (wEng w0)).queue.length ≥ 8 →
      exec (.enq i .ok) s = .next (s.setTile t (blockedTile x w0 3))) ∧
    (∀ w, BlockedOn s i.tile 3 w → ok w → (x.eng (wEng w)).queue.length < 8 →
      exec (.enqUnblock i.tile .ok) s = .next (s.setTile t (done w (x.core.tick 1))))) ∧
  (
    ∀ (s : State) (i : Issue),
      let t := i.tile.toNat
      let x := s.tile t
      let reached (w : Nat) : Prop := ((x.eng (wEng w)).done - x.core.g (wRA w)).toNat < 2 ^ 31
      let w0 := s.wordAt i.tile
      let next := x.core.pc.toNat + 1
      let summed (w : Nat) (r : BitVec 128) (rest : List (BitVec 128)) (c : TileCore) : Tile :=
        let y := x.setEng (wEng w) { x.eng (wEng w) with summs := rest }
        let g (j : Nat) : Word := BitVec.ofNat 32 (r.toNat / 2 ^ (32 * j))
        retired y w (((((c.setG (wRD w) (g 0)).setG (wRD w + 1) (g 1)).setG (wRD w + 2) (g 2)).setG (wRD w + 3) (g 3)).launch w) next
      (Issues s i 0x29 → reached w0 → Retires i s (.waite i) fun c _ => c) ∧
      (Issues s i 0x29 → ¬ reached w0 → exec (.waite i) s = .next (s.setTile t (blockedTile x w0 5))) ∧
      (∀ w, BlockedOn s i.tile 5 w → reached w →
        exec (.waiteRetire i.tile) s = .next (s.setTile t (retired x w ((x.core.tick 1).launch w) next))) ∧
      (∀ r rest, Issues s i 0x2A → (x.eng (wEng w0)).summs = r :: rest →
        exec (.summ i) s = .next (s.setTile t (summed w0 r rest (x.core.hold w0)))) ∧
      (Issues s i 0x2A → (x.eng (wEng w0)).summs = [] → exec (.summ i) s = .next (s.setTile t (blockedTile x w0 4))) ∧
      (∀ w r rest, BlockedOn s i.tile 4 w → (x.eng (wEng w)).summs = r :: rest →
        exec (.summUnblock i.tile) s = .next (s.setTile t (summed w r rest (x.core.tick 1)))))

/-- END ends issue at its own index; TRAP raises core fault TRAP with IMM16; a tile whose END has retired, whose router is
halted, whose send buffer is empty and whose engines are idle has completed its part: STATE becomes 2. A word that issues
as the second of a pair retires with its result and counts in DUAL_CNT, and a fault it raises has SECOND = 1; one that R63
does not pair, or that waits for an operand, does not issue in that cycle. A fetch check that fails raises IMEM_UE, a
corrected one counts in IMEM_CE; a word that falls through from the last word of instruction memory raises BAD_PC. A load
whose code holds a corrected error charges the tile and goes on; an uncorrectable one raises WMEM_UE or AMEM_UE, charges
the tile and writes nothing. What a first with a false guard leaves of its write set is the model's choice
(notes/assumptions/75.md). -/
def Obligations.IssueEndAndErrors : Prop :=
  (
    ∀ (s : State) (i : Issue),
      let t := i.tile.toNat
      let x := s.tile t
      let w := s.wordAt i.tile
      (Issues s i 0x3E → exec (.endOp i) s =
        .next (s.setTile t (retired x w { x.core.hold w with ended := true } x.core.pc.toNat))) ∧
      (Issues s i 0x3F → exec (.trap i) s = .next (s.setTile t (coreStopped x w 9 (BitVec.ofNat 32 (wImm16 w))))) ∧
      (OnTile s i.tile → x.core.state = 1 → x.core.ended = true → x.router.halted = true → x.core.sendBuf = [] →
        (∀ e < 3, (x.eng e).queue = [] ∧ x.engBusy e = false) →
        exec (.tilePartComplete i.tile) s = .next (s.setTile t { x with core := { x.core with state := 2 } }))) ∧
  (
    ∀ (s : State) (i : Issue),
      let t := i.tile.toNat
      let x := s.tile t
      let w := s.wordAt i.tile
      let pc := x.core.pc.toNat
      let ea := (x.core.g (wRA w) + wImm12 w).toNat
      let guard := x.core.guard w
      let pairs_ := ∃ r, x.core.first = some r ∧ pairs r w = true
      let fault (code : Nat) (second : Bool) (info : Word) : CoreFault := x.core.fault.getD ⟨BitVec.ofNat 4 code, 0, 0, second, x.core.pc, info⟩
      let second (c : TileCore) (n : Nat) : Tile := { x with
        core := { c with retired := satAdd c.retired 1, dual := satAdd c.dual 1, pc := BitVec.ofNat 13 (pc + 1), blocked := none, first := none }
        router := { x.router with wdCount := 0 }
        island := { x.island with other := x.island.other + n } }
      OnTile s i.tile → x.canIssue = true →
      (∀ r ∈ wordRows, wOP w = r.1 → i.same = true → ¬ (pairs_ ∧ x.core.pendingFor (wReads w) = 0) → exec (r.2 i) s = .next s) ∧
      (i.same = true → pairs_ → x.core.pendingFor (wReads w) = 0 → i.fetch = .ok → wIllegal w = false → pc < 8191 →
        (∀ r ∈ wordRows, wOP w = r.1 → guard = false → exec (r.2 i) s = .next (s.setTile t (second x.core 0))) ∧
        (wOP w = 0x01 → guard = true →
          exec (.addi i) s = .next (s.setTile t (second ((x.core.setG (wRD w) (x.core.g (wRA w) + wImm12 w)).launch w) 0))) ∧
        (wOP w = 0x10 → guard = true → ea % 4 = 0 → ea < 0x100000 → x.flaw (wmCodes ea 4) = .ok →
          exec (.ld i .ok) s = .next (s.setTile t
            (second ((x.core.setG (wRD w) (BitVec.ofNat 32 (readBytes x.wmem ea 4))).launch w) 8))) ∧
        (wOP w = 0x10 → guard = true → ea % 4 ≠ 0 →
          ∃ y, exec (.ld i .ok) s = .next (s.setTile t y) ∧ y.core.fault = some (fault 2 true (BitVec.ofNat 32 ea)) ∧ y.core.state = 3 ∧
            y.core.regs = x.core.regs ∧ y.core.dual = satAdd x.core.dual 1)) ∧
      (∀ r ∈ wordRows, wOP w = r.1 → i.same = false → i.fetch = .ue →
        ∃ y, exec (r.2 i) s = .next (chargeUe (s.setTile t y) t) ∧ y.core.fault = some (fault 4 false (BitVec.ofNat 32 pc)) ∧
          y.core.state = 3 ∧ y.core.regs = x.core.regs ∧ y.core.preds = x.core.preds ∧ y.wmem = x.wmem ∧ y.amem = x.amem) ∧
      (∀ r ∈ wordRows, wOP w = r.1 → i.same = false → i.fetch = .ce → wIllegal w = false → guard = false → pc < 8191 →
        exec (r.2 i) s = .next (s.setTile t
          (retired x w { x.core.hold w with imemCe := satAdd x.core.imemCe 1 } (pc + 1)))) ∧
      (∀ r ∈ wordRows, wOP w = r.1 → i.same = false → i.fetch = .ok → wIllegal w = false → pc = 8191 → fallsThrough w guard = true →
        exec (r.2 i) s = .next (s.setTile t (coreStopped x w 3 8192))) ∧
      (Issues s i 0x10 → ea % 4 = 0 → ea < 0x100000 →
        (x.flaw (wmCodes ea 4) = .ce → exec (.ld i .ok) s = .next ((chargeCe s t false).setTile t
          (retired x w (((x.core.hold w).setG (wRD w) (BitVec.ofNat 32 (readBytes x.wmem ea 4))).launch w) (pc + 1) 14))) ∧
        (x.flaw (wmCodes ea 4) = .ue → ∃ y, exec (.ld i .ok) s = .next (chargeUe (s.setTile t y) t) ∧
          y.core.fault = some (fault 5 false (BitVec.ofNat 32 ea)) ∧ y.core.state = 3 ∧ y.core.regs = x.core.regs ∧ y.wmem = x.wmem)) ∧
      (Issues s i 0x12 → ea < 24576 →
        (x.flaw (amCode ea) = .ce → ∃ y, exec (.lda i .ok) s = .next ((chargeCe s t true).setTile t y) ∧
          y.core.fault = x.core.fault ∧ y.core.retired = satAdd x.core.retired 1 ∧ y.amem = x.amem) ∧
        (x.flaw (amCode ea) = .ue → ∃ y, exec (.lda i .ok) s = .next (chargeUe (s.setTile t y) t) ∧
          y.core.fault = some (fault 6 false (BitVec.ofNat 32 ea)) ∧ y.core.state = 3 ∧ y.core.regs = x.core.regs ∧ y.amem = x.amem)))


/-! ## The mesh (spec 02, 08) and register writes -/

/-- A slot in which every owner presents and every output that needs one can take a token completes: each presented
token goes to the receiver's crossing buffer with its TAG, each direct source gives up its head, and the slot counter,
REMAIN and the watchdog move on. Where a source claims an output that it does not own, the slot completes too, the tile
stops with fault 1, and the slot counter keeps that slot's number. Which of a core send and a crook is recorded that claim one
output is the model's choice (notes/assumptions/73.md). -/
def Obligations.SlotCompletes : Prop :=
  ∀ (s : State) (t : TileId),
    let x := s.tile t.toNat
    let r := x.router
    OnTile s t → x.slotDue = true → r.violated = none →
    (∀ o ∈ r.owned, x.present (r.field o) o ≠ .absent ∧
      (x.present (r.field o) o ≠ .null → canTake s t.toNat o = true)) →
    ∃ u, exec (.slot t none []) s = .next u ∧
      (let q := (u.tile t.toNat).router
       q.used = decide (r.remain = 0) ∧ q.wdCount = 0 ∧ q.stalled = false ∧ q.held = false ∧ q.last = false ∧
       q.remain = (if r.remain = 0 then 0 else r.remain - 1) ∧ q.entry = r.entry ∧ q.sched = r.sched ∧
       q.stallOut = r.stallOut ∧ q.stallIn = r.stallIn ∧ q.stallHold = r.stallHold ∧
       match x.violation with
       | none => q.slotCnt = satAdd r.slotCnt 1 ∧ q.fault = r.fault ∧ (u.tile t.toNat).core.state = x.core.state
       | some v => q.slotCnt = r.slotCnt ∧
           q.fault = some (r.fault.getD ⟨1, BitVec.ofNat 3 v.1, BitVec.ofNat 3 v.2, r.entry, r.slotCnt⟩) ∧
           (u.tile t.toNat).core.state = if x.core.state = 0 then 0 else 3) ∧
      (∀ o ∈ r.owned, ∀ d l v i, x.present (r.field o) o = .tok d l → s.beyond t.toNat o = .tile v i →
        Sparse.get [] (u.tile v).router.cross i = Sparse.get [] (s.tile v).router.cross i ++
          [⟨d, BitVec.ofNat 8 (b2n (fieldDirect (r.field o)) * 128 + fieldQueue (r.field o) * 16 + b2n l * 8)⟩]) ∧
      (∀ i < 5, Sparse.get [] (u.tile t.toNat).router.cross i =
        if r.owned.any fun o => fieldKind (r.field o) == 1 && directInput (fieldIndex (r.field o)) == i
        then (Sparse.get [] r.cross i).drop 1 else Sparse.get [] r.cross i) ∧
      (∀ k, (u.tile k).wmem = (s.tile k).wmem ∧ (u.tile k).amem = (s.tile k).amem ∧
        (u.tile k).core.regs = (s.tile k).core.regs ∧ (u.tile k).core.fault = (s.tile k).core.fault) ∧
      u.hbm = s.hbm ∧ u.melvor = s.melvor

/-- A slot that does not complete: exactly one of the three stall counters counts, the router is stalled, and nothing
moves. HOLD is asserted when every reason is a link that carries HOLD or a gateway; the watchdog counts only without
HOLD, and only while the fold runs on the tile. When a gateway lane counts as without a token is the model's choice
(notes/assumptions/91.md). -/
def Obligations.SlotStalls : Prop :=
  ∀ (s : State) (t : TileId),
    let x := s.tile t.toNat
    let r := x.router
    let lackOut := r.owned.filter fun o => x.present (r.field o) o != .null && !canTake s t.toNat o
    let lackIn := r.owned.filter fun o => x.present (r.field o) o == .absent
    let outHeld (o : Nat) : Bool :=
      match s.beyond t.toNat o with
      | .tile u _ => (s.tile u).router.held
      | .gateway _ _ _ => true
      | .none => false
    let held := lackOut.all outHeld && lackIn.all fun o => sourceHeld s t.toNat o
    OnTile s t → x.slotDue = true → x.violation = none → r.violated = none → lackOut ≠ [] ∨ lackIn ≠ [] →
    exec (.slot t none []) s = .next (s.setTile t.toNat { x with router := { r with
      stalled := true, held := held, wdCount := if held then 0 else r.wdCount + if x.core.state = 1 then 1 else 0
      stallHold := if held then satAdd r.stallHold 1 else r.stallHold
      stallOut := if !held && !lackOut.isEmpty then satAdd r.stallOut 1 else r.stallOut
      stallIn := if !held && lackOut.isEmpty then satAdd r.stallIn 1 else r.stallIn } })

/-- ENTRY_ADVANCE: HALT stops the router, WRAP returns to entry 0, and otherwise the next entry follows, entry 0 after
entry 511; REMAIN becomes the new entry's REPEAT. TOKEN_ARRIVAL: a token for a queue with room leaves the crossing buffer,
whose entry goes back to the sender, and is counted in QACCEPT; it stays while the queue is full; one with an
uncorrectable error raises LINK_UE at the tile, and is accepted nowhere. On the edge-facing input each is the next in the
order in which the drover presented the tokens of the two lanes. That tokens enter the queues of a tile that a core fault has
stopped, and no freeze has reached, is the model's choice (notes/assumptions/91.md). -/
def Obligations.EntryAdvanceAndTokenArrival : Prop :=
  (
    ∀ (s : State) (t : TileId),
      let x := s.tile t.toNat
      let r := x.router
      let e := (Sparse.get 0 r.sched r.entry.toNat).toNat
      let n := if bit e 81 then 0 else (r.entry.toNat + 1) % 512
      OnTile s t → x.core.state = 1 → r.used = true → r.halted = false → r.frozen = false →
      let q : Router :=
        if bit e 82 then { r with halted := true, used := false, remain := 0 }
        else { r with
          entry := BitVec.ofNat 9 n, used := false, remain := BitVec.ofNat 16 (bits (Sparse.get 0 r.sched n).toNat 80 65) }
      exec (.entryAdvance t) s = .next (s.setTile t.toNat { x with router := q })) ∧
  (
    ∀ (s : State) (t : TileId) (inp : Fin 5) (k : Token) (rest : List Token),
      let x := s.tile t.toNat
      let r := x.router
      let d := if inp.val = 4 then (s.edgeDir t.toNat).getD 3 else inp.val
      let qk := d * 8 + k.tag.toNat / 16 % 8
      let lanes := if inp.val = 4 ∨ s.edgeDir t.toNat = some inp.val then r.laneOrder.erase (decide (inp.val = 4))
        else r.laneOrder
      OnTile s t → r.frozen = false → Sparse.get [] r.cross inp.val = k :: rest → s.laneNext t.toNat inp.val = true →
      (k.tag.toNat < 128 → (r.queue qk).toks.length < (r.queue qk).depth →
        exec (.tokenArrival t inp .ok) s = .next (returnRoom (s.setTile t.toNat { x with router := { r with
          cross := Sparse.set [] r.cross inp.val rest
          laneOrder := lanes
          queues := Sparse.set {} r.queues qk { r.queue qk with
            toks := (r.queue qk).toks ++ [k], accept := satAdd (r.queue qk).accept 1 } } }) t.toNat inp.val)) ∧
      (k.tag.toNat < 128 → (r.queue qk).toks.length ≥ (r.queue qk).depth → exec (.tokenArrival t inp .ok) s = .next s) ∧
      ∃ u, exec (.tokenArrival t inp .ue) s = .next u ∧ (u.tile t.toNat).router.queues = r.queues ∧
        (u.tile t.toNat).router.fault = some (r.fault.getD ⟨3, BitVec.ofNat 3 inp.val, 0, r.entry, r.slotCnt⟩) ∧
        Sparse.get [] (u.tile t.toNat).router.cross inp.val = rest ∧ (x.core.state ≠ 0 → (u.tile t.toNat).core.state = 3))

/-- NO_PROGRESS stops a running, unheld tile whose watchdog has counted MESH_WD_LIMIT cycles with code 2 and keeps a fault
recorded before; below the limit nothing happens. The row's fault bit then takes the lowest-numbered faulting tile to the
Melvor complex; FOLD_FREEZE freezes every tile of the fold. That STALLED and HELD read 0 after the stop, and that STATE 3
comes before 2 at the freeze, are the model's choices (notes/assumptions/71.md). -/
def Obligations.NoProgressAndFreeze : Prop :=
  ∀ (s : State) (t : TileId),
    let x := s.tile t.toNat
    let r := x.router
    (OnTile s t → x.core.state = 1 → r.held = false → r.halted = false → r.frozen = false → r.wdLimit ≠ 0 →
      (r.wdLimit.toNat ≤ r.wdCount →
        exec (.noProgress t) s = .next (s.setTile t.toNat { x with
          core := { x.core with state := 3 }
          router := { r with stalled := false, held := false, last := false
                             fault := some (r.fault.getD ⟨2, 7, 0, r.entry, r.slotCnt⟩) } })) ∧
      (r.wdCount < r.wdLimit.toNat → exec (.noProgress t) s = .next s)) ∧
    (∀ (row : Fin 64) (c : Nat), c < s.cols → (s.tile (idOf row.val c)).faulted = true →
      (∀ c' < c, (s.tile (idOf row.val c')).faulted = false) →
      ∃ u, exec (.faultTreeReport row) s = .next u ∧
        u.melvor = { s.melvor with rowFaults := Sparse.set 0 s.melvor.rowFaults row.val (idOf row.val c + 1)
                                   firstFault := some (s.melvor.firstFault.getD (idOf row.val c)) } ∧
        (Sparse.get 0 s.melvor.rowFaults row.val ≠ 0 → u.irq = s.irq) ∧
        (Sparse.get 0 s.melvor.rowFaults row.val = 0 → u = fire { s with melvor := u.melvor } 48)) ∧
    (s.fwOn = true → s.melvor.fold.isSome = true → s.melvor.foldFrozen = false →
      (s.melvor.rowFaults.any fun y => decide (y.2 ≠ 0)) = true →
      ∃ u, exec .foldFreeze s = .next u ∧ u.melvor.foldFrozen = true ∧
        (∀ k, (s.tile k).inFold = true → (u.tile k).router.frozen = true ∧ (u.tile k).core.state ≠ 1) ∧
        (∀ k, (u.tile k).wmem = (s.tile k).wmem ∧ (u.tile k).amem = (s.tile k).amem) ∧
        ∀ d < 16, (u.drover d).stopped = true)

/-- Writes of an agent that reaches the tile's window, which take the module out of Night: MESH_WD_LIMIT, the three clear
registers, instruction memory, working memory, the byte range of accumulator memory and the schedule of a tile without a running
fold. While a fold runs on the tile its memories and its schedule are not written, and the agent gets an address fault. -/
def Obligations.MaintenanceWrites : Prop :=
  ∀ (s : State) (w : Agent) (t : TileId) (v : Word) (off : Nat),
    let n := t.toNat
    let x := s.tile n
    let s1 := nightExit s
    let a : Addr := BitVec.ofNat 48 (tileBase + n * 0x200000 + off)
    s.tileOk n = true → maintReach s w n = true → off < 0x200000 → off % 4 = 0 →
    exec (.meshWdLimit w t v) s = .next (s1.setTile n { x with router := { x.router with wdLimit := v, wdCount := 0 } }) ∧
    exec (.clrStall w t) s = .next (s1.setTile n { x with router := { x.router with
      stallOut := 0, stallIn := 0, stallHold := 0, stretchCnt := 0 } }) ∧
    exec (.clrCe w t) s = .next (s1.setTile n { x with router := { x.router with ceN := 0, ceE := 0, ceS := 0, ceW := 0 } }) ∧
    exec (.clrCnt w t) s = .next (s1.setTile n { x with core := { x.core with
      retired := 0, dual := 0, wait := 0, interlock := 0, imemCe := 0 } }) ∧
    (off < 0x100000 → x.core.state ≠ 1 → ∃ m : Sparse Byte,
      exec (.tileMaintWrite w a v) s = .next (s1.setTile n { x.recode (wmCodes off 4) with wmem := m, rel := x.rel.touch (off / 64) (off / 64) }) ∧
      Stored m x.wmem off 4 v.toNat) ∧
    (0x140000 ≤ off → off < 0x148000 → x.core.state ≠ 1 →
      exec (.tileMaintWrite w a v) s = .next (s1.setTile n { x with core := { x.core with
        imem := Sparse.set 0 x.core.imem ((off - 0x140000) / 4) v } })) ∧
    (0x100000 ≤ off → off < 0x124000 → x.core.state ≠ 1 → ∃ y,
      exec (.tileMaintWrite w a v) s = .next (s1.setTile n y) ∧
      (∀ b, y.readAByte b = if off - 0x100000 ≤ b ∧ b < off - 0x100000 + 4 then
        BitVec.ofNat 8 (v.toNat / 256 ^ (b - (off - 0x100000))) else x.readAByte b) ∧
      y.wmem = x.wmem ∧ y.core = x.core ∧ y.router = x.router ∧ y.mxe = x.mxe ∧ y.vxe = x.vxe ∧ y.upe = x.upe) ∧
    (0x181000 ≤ off → off < 0x183000 →
      (x.core.state ≠ 1 → ∃ q : Sparse (BitVec 128),
        exec (.tileMaintWrite w a v) s = .next (s1.setTile n { x with router := { x.router with sched := q } }) ∧
        ∀ k < 512, ∀ j < 128,
          let i := (off - 0x181000) / 4
          (Sparse.get 0 q k).getLsbD j = if k = i / 4 ∧ 32 * (i % 4) ≤ j ∧ j < 32 * (i % 4) + 32 then v.getLsbD (j - 32 * (i % 4))
            else (Sparse.get 0 x.router.sched k).getLsbD j) ∧
      (x.core.state = 1 →
        exec (.tileMaintWrite w a v) s = .next (addressFault s1 w 2 (BitVec.ofNat 48 (n % 4096 * 0x200000 + off))))) ∧
    (off < 0x148000 → x.core.state = 1 →
      exec (.tileMaintWrite w a v) s = .next (addressFault s1 w 2 (BitVec.ofNat 48 (n % 4096 * 0x200000 + off))))

/-- A register takes an aligned 32-bit write, which has its effect for an agent that may write it. A 64-bit write is two 32-bit
ones, the lower address first. Any other width or alignment is not performed, and the requester reports an address fault. -/
def Obligations.RegisterWrite : Prop :=
  ∀ (s : State) (w : Agent) (a : Addr) (v : BitVec 64),
    let lo : BitVec 64 := BitVec.ofNat 64 (v.toNat % 2 ^ 32)
    let hi : BitVec 64 := BitVec.ofNat 64 (v.toNat / 2 ^ 32)
    let reg (b o : Nat) : Addr := BitVec.ofNat 48 (0x700000000000 + b * 0x1000000 + o)
    (∀ b o, regListed b o = true → o < 0x100000 → o % 4 = 0 → MayWrite s w b o →
      exec (.registerWrite w (reg b o) 4 v) s = .next (regEffect s w b o (v.toNat % 2 ^ 32))) ∧
    (a.toNat % 8 = 0 → ∃ u, exec (.registerWrite w a 4 lo) s = .next u ∧
      exec (.registerWrite w a 8 v) s = exec (.registerWrite w (a + 4) 4 hi) u) ∧
    (∀ n, ¬(n = 4 ∧ a.toNat % 4 = 0) → ¬(n = 8 ∧ a.toNat % 8 = 0) →
      exec (.registerWrite w a n v) s = .next (addressFault s w 0 a))

/-- REGISTER_WRITE by address: reserved space takes no write from anybody and raises no fault; a drover may write no
register; an address outside every region is an address fault; and the effect of registers of seven blocks, field by
field. -/
def Obligations.RegisterSpace : Prop :=
  ∀ (s : State) (w : Agent) (a : Addr) (v : BitVec 64),
    let reg (b o : Nat) : Addr := BitVec.ofNat 48 (0x700000000000 + b * 0x1000000 + o)
    let mel (b o : Nat) (t : State) : Prop :=
      s.boot.stage ≥ 2 → s.melvor.lockstepErr = false → exec (.registerWrite .melvor (reg b o) 4 v) s = .next t
    (∀ b o, b < 64 → o < 0x1000000 → o % 4 = 0 → regListed b o = false ∨ o ≥ 0x100000 →
      exec (.registerWrite w (reg b o) 4 v) s = .next s) ∧
    (∀ d b o, regListed b o = true → o < 0x100000 → o % 4 = 0 →
      exec (.registerWrite (.drover d) (reg b o) 4 v) s = .next (s.emit (.addressFault (.drover d)))) ∧
    (a.toNat % 4 = 0 → 0xA000000000 ≤ a.toNat → a.toNat < 0x400000000000 →
      exec (.registerWrite w a 4 v) s = .next (addressFault s w 0 a)) ∧
    (∀ d < 16, mel (8 + d) 0x0004 (s.setDrover d { s.drover d with timeoutUs := BitVec.ofNat 20 v.toNat }) ∧
      mel (8 + d) 0x0008 (s.setDrover d { s.drover d with defDl := BitVec.ofNat 16 v.toNat })) ∧
    (∀ f < 12, mel (0x20 + f) 0x000C (s.setLink f { s.link f with rdl := BitVec.ofNat 16 v.toNat })) ∧
    mel 0x20 0x0810 { s with grp := { s.grp with joinTimeoutS := BitVec.ofNat 16 v.toNat } } ∧
    mel 0x31 0x0008 { s with snap := { s.snap with every := BitVec.ofNat 16 v.toNat } } ∧
    mel 0x04 0x0100 { s with power := { s.power with islSel := BitVec.ofNat 13 v.toNat } } ∧
    mel 0x05 0x0000 { s with sec := { s.sec with regionErr := !v.getLsbD 4 && s.sec.regionErr } }

/-! ## The engines (spec 04 to 07, 09) -/

namespace Sys2Proof.Machine

/-- The rows by which an engine takes a record: engine, OPCODE, row. -/
def takeRows : List (Nat × Nat × (TileId → Instr)) :=
  [(0, 1, .matmul), (0, 2, .accFlush), (0, 3, .accDrop), (1, 1, .vmap), (1, 2, .vstep), (1, 3, .setvl), (1, 4, .tload),
   (2, 1, .ublk), (2, 2, .upart), (2, 3, .uapply), (2, 4, .urows)]

/-- What the check of command `c` by engine `e` finds: 0, or the DETAIL of its ENG_CMD. -/
def Tile.cmdCheck (x : Tile) (e : Nat) (c : Cmd) : Nat :=
  match e with
  | 0 => mxeCheck x.decl x.mxe.held c.rcd c.seq
  | 1 => vxeCheck c.rcd (some c.seq) x.vxe.vl.toNat
  | _ => upeCheck c.rcd (some c.seq)

/-- Engine `e` has taken `c` and started nothing. -/
def Tile.tookCmd (x : Tile) (e : Nat) (c : Cmd) : Tile :=
  match e with
  | 0 => { x with mxe := { x.mxe with run := some { cmd := c } } }
  | 1 => { x with vxe := { x.vxe with run := some { cmd := c } } }
  | _ => { x with upe := { x.upe with run := some { cmd := c } } }

/-- The tile after engine `e` has raised ENG_CMD of detail `k` for command `c`. -/
def engStopped (x : Tile) (e k : Nat) (c : Cmd) : Tile :=
  { x with
    core := { x.core with
      fault := some (x.core.fault.getD ⟨7, BitVec.ofNat 2 e, BitVec.ofNat 8 k, false, c.pc, c.seq⟩), state := 3 }
    router := { x.router with last := x.router.last || (!x.router.used && !x.router.halted && !x.router.frozen) } }

/-- The tile with `n` units of activity more (R335), those that a limit holds. -/
abbrev Tile.spent (x : Tile) (n : Nat) : Tile := { x with island := { x.island with units := x.island.units + n } }

/-- Byte `a` of working memory `m` after the writes `l`, each an address, a number of bytes and their value, first to last. -/
def wrote (m : Sparse Byte) (l : List (Nat × Nat × Nat)) (a : Nat) : Byte :=
  l.foldl (fun v w => if w.1 ≤ a ∧ a < w.1 + w.2.1 then BitVec.ofNat 8 (w.2.2 / 256 ^ (a - w.1)) else v) (Sparse.get 0 m a)

/-- The writes of `vals` at exponent `ein` to unit `u` of `d`, block by block, where no lane keeps its value (R94, R207). -/
def unitWrites (d : TDesc) (u : Nat) (ein : Int) (vals : List SrcVal) (draws : List Nat) : List (Nat × Nat × Nat) :=
  let per := d.f.perBlock
  (List.range (cdiv vals.length per)).flatMap fun b =>
    let vs := (vals.drop (b * per)).take per
    let blk := convBlock d.f (blockE d.f.q ein vs) ein ((draws.drop (b * per)).take per)
      (vs ++ List.replicate (per - vs.length) ⟨some 0, false⟩)
    [(d.at u + b * d.f.blockBytes, d.f.blockBytes, blk.data), (d.sbase + u * d.unitScales + b, 1, unsigned 8 blk.e)]

/-- The values that `unitWrites` stores, as a later conversion reads them, and the exponent of the first block. -/
def unitStored (d : TDesc) (ein : Int) (vals : List SrcVal) (draws : List Nat) : List SrcVal × Int :=
  let per := d.f.perBlock
  let blk (b : Nat) : Block :=
    let vs := (vals.drop (b * per)).take per
    convBlock d.f (blockE d.f.q ein vs) ein ((draws.drop (b * per)).take per) (vs ++ List.replicate (per - vs.length) ⟨some 0, false⟩)
  ((List.range (cdiv vals.length per)).flatMap fun b =>
    ((blk b).elems.take ((vals.drop (b * per)).take per).length).map fun z => ⟨z.1, z.2⟩,
   if vals.isEmpty then 0 else (blk 0).e)

/-- The writes of output tile `o` of a result of `m` rows under record `c` with `n` columns, of the words `word` (R119,
R120, R94). -/
def tileWrites (c : Line) (m n : Nat) (hist : List Int) (o : OutTile) (word : Nat → A44) : List (Nat × Nat × Nat) :=
  let d := mC c
  let cols := min 64 (n - 64 * o.nt)
  (List.range (min 64 (m - 64 * o.mt))).flatMap fun i =>
    let row := d.dbase + (64 * o.mt + i) * d.dstride * 64
    let w (j : Nat) : A44 := word (o.slot * 4096 + i * 64 + j)
    if mOut c = 1 then (List.range cols).map fun j => (row + (64 * o.nt + j) * 8, 8, (w j).toBits.toNat)
    else
      let f := convFmt (mConv c)
      (List.range (cdiv cols 32)).flatMap fun b =>
        let cnt := min 32 (cols - 32 * b)
        let vals : List SrcVal := (List.range cnt).map fun j =>
          ⟨if (w (32 * b + j)).nv then none else some (w (32 * b + j)).v, (w (32 * b + j)).sat⟩
        let e := (Conv.ofNat (mConv c)).scale hist f.q (mEacc c) vals
        let blk := convBlock f e (mEacc c) [] (vals ++ List.replicate (32 - cnt) ⟨some 0, false⟩)
        [(row + (2 * o.nt + b) * f.blockBytes, f.blockBytes, blk.data),
         (d.sbase + (64 * o.mt + i) * d.sstride + (2 * o.nt + b), 1, unsigned 8 blk.e)]

/-- The writes of the lanes `ls` of vector `j` of row `i` to Z (R165). -/
def vecWrites (c : Line) (hist : List Int) (i j : Nat) (ls : List LaneVal) : List (Nat × Nat × Nat) :=
  let d := vZ c
  let f := convFmt (vConv c)
  let row := d.dbase + i * d.dstride * 64
  let vals : List SrcVal := ls.map fun l => ⟨l.v, l.tag⟩
  if f = .f32 then
    (List.range vals.length).map fun k => (row + 4 * (64 * j + k), 4, (exportF32 (vals.getD k ⟨none, false⟩) (vEr c)).1)
  else
    let per := f.perBlock
    (List.range (cdiv vals.length per)).flatMap fun b =>
      let vs := (vals.drop (b * per)).take per
      let e := (Conv.ofNat (vConv c)).scale hist f.q (vEr c) vs
      let blk := convBlock f e (vEr c) [] (vs ++ List.replicate (per - vs.length) ⟨some 0, false⟩)
      let nb := 64 / per * j + b
      [(row + nb * f.blockBytes, f.blockBytes, blk.data), (d.sbase + i * d.sstride + nb, 1, unsigned 8 blk.e)]

/-- A row's reduction word after a vector with the lanes `ls`, of a row whose word so far is `old` and has seen a value or not
(R164). -/
def reduced (mode : Nat) (old : A44) (seen : Bool) (ls : List LaneVal) : A44 :=
  let ords := ls.filterMap LaneVal.v
  let nv := ls.any fun l => l.v.isNone
  let tag := ls.any fun l => l.tag
  if mode = 1 then old.add ⟨ords.foldl (· + ·) 0, nv, tag⟩
  else match ords with
    | [] => { old with nv := old.nv || nv, sat := old.sat || tag }
    | o :: os => ⟨if seen then max old.v (os.foldl max o) else os.foldl max o, old.nv || nv, old.sat || tag⟩

end Sys2Proof.Machine

/-- An engine that is free takes the record at the head of its queue. A record that passes its checks runs; one that fails
raises ENG_CMD with the number of its command and the first failing check, and the tile stops, its router after the current
slot; nothing else changes. -/
def Obligations.TakeCommand : Prop :=
  ∀ (s : State) (t : TileId) (c : Cmd) (rest : List Cmd), ∀ r ∈ takeRows,
    let x := s.tile t.toNat
    let y := x.setEng r.1 { x.eng r.1 with queue := rest }
    OnTile s t → x.engOn = true → x.engBusy r.1 = false → (x.eng r.1).queue = c :: rest → rOpcode c.rcd = r.2.1 →
    (x.cmdCheck r.1 c = 0 → exec (r.2.2 t) s = .next (s.setTile t.toNat (y.tookCmd r.1 c))) ∧
    (x.cmdCheck r.1 c ≠ 0 → exec (r.2.2 t) s = .next (s.setTile t.toNat (engStopped y r.1 (x.cmdCheck r.1 c) c)))

/-- PAIR_PARTNER_TAKE takes the second record of a pair, and a pair that does not fit raises ENG_CMD 0x0B for the first.
SLOT_WAIT_END ends when the slot needed last has been read out. No engine starts a command whose DEP is open; once it is
met SETVL sets VL, a frozen group's UPE command finishes with SKIP and writes nothing, and a MATMUL starts with the
dimensions of its record or shape record, with the words of its slots kept where it accumulates, on a tile whose memories
hold no error. What the island is charged for a slot wait is the model's choice (notes/assumptions/50.md). -/
def Obligations.PairDependAndSlotWaits : Prop :=
  ∀ (s : State) (t : TileId),
    let n := t.toNat
    let x := s.tile n
    OnTile s t → x.engOn = true →
    (∀ r g rest, x.mxe.run = some r → r.started = false → r.partner = none → isMatmul r.cmd.rcd = true →
      mPair r.cmd.rcd = true → x.mxe.q.queue = g :: rest →
      let q : EngQ := { x.mxe.q with queue := rest }
      let ok := mxePairOk x.decl x.mxe.held r.cmd.rcd g.rcd g.seq
      exec (.pairPartnerTake t) s = .next (s.setTile n (
        if ok then { x with mxe := { x.mxe with q := q, run := some { r with partner := some g } } }
        else engStopped { x with mxe := { x.mxe with q := q, run := none } } 0 0x0B r.cmd))) ∧
    (∀ r, x.mxe.run = some r → x.mxe.waiting = true → ∃ k,
      exec (.slotWaitEnd t) s = .next (s.setTile n (Tile.spent { x with mxe := { x.mxe with
        drain := drainBy x.mxe.drain k, waiting := false } } (120 * k))) ∧
      (∀ i ∈ r.block.need, Sparse.get 0 x.mxe.drain i ≤ k) ∧
      (k ≠ 0 → ∃ i ∈ r.block.need, Sparse.get 0 x.mxe.drain i = k)) ∧
    (∀ r wm am, x.mxe.run = some r → x.depOk r.cmd.rcd = false → exec (.depWaitEnd t .mxe wm am) s = .next s) ∧
    (∀ r wm am, x.vxe.run = some r → x.depOk r.cmd.rcd = false → exec (.depWaitEnd t .vxe wm am) s = .next s) ∧
    (∀ r wm am, x.upe.run = some r → x.depOk r.cmd.rcd = false → exec (.depWaitEnd t .upe wm am) s = .next s) ∧
    (∀ r, x.vxe.run = some r → r.started = false → x.depOk r.cmd.rcd = true → rOpcode r.cmd.rcd = 3 →
      ∃ r' : VxeRun, exec (.depWaitEnd t .vxe .ok .ok) s = .next (s.setTile n { x with vxe := { x.vxe with
          run := some r', vl := BitVec.ofNat 7 (setVl r.cmd.rcd) } }) ∧
        r'.cmd = r.cmd ∧ r'.finished = true) ∧
    (∀ r, x.upe.run = some r → r.started = false → x.depOk r.cmd.rcd = true → x.flaws = [] →
      let g : Line := BitVec.ofNat 512 (x.readW (uGsr r.cmd.rcd) 64)
      gFrozen g = true →
      ∃ (r' : UpeRun) (k : Nat),
        exec (.depWaitEnd t .upe .ok .ok) s = .next (s.setTile n { x with
          upe := { x.upe with run := some r' }, island := { x.island with other := x.island.other + k } }) ∧
        r'.cmd = r.cmd ∧ r'.finished = true ∧ r'.acc.skip = true) ∧
    (∀ r, x.mxe.run = some r → r.started = false → isMatmul r.cmd.rcd = true → mPair r.cmd.rcd = false → r.partner = none →
      x.depOk r.cmd.rcd = true → x.flaws = [] →
      let d := x.mxeDims r.cmd.rcd
      x.mxeStartCheck r.cmd.rcd d.1 d.2.1 d.2.2 none = 0 →
      ∃ y, exec (.depWaitEnd t .mxe .ok .ok) s = .next (s.setTile n y) ∧ y.core = x.core ∧ y.router = x.router ∧
        (∃ r', y.mxe.run = some r' ∧ r'.started = true ∧ r'.m = d.1 ∧ r'.n = d.2.1 ∧ r'.k = d.2.2) ∧
        (mAccin r.cmd.rcd = true → y.wmem = x.wmem ∧ y.amem = x.amem))

/-- Work of the engines, on a tile whose memories hold no error and whose island may still issue in the window. A row
block of a MATMUL adds to each accumulator word of its row the aligned dot product of its operand block and of the latch
tile, which the first block to use the tile before it has loaded (the first of a command loads its own), and changes no
other word; a masked one adds nothing. A VXE vector and a UPE unit move the command on by one; a vector without Z and
without a reduction writes no memory, and a UPART unit writes none before the last. Each charges the island its units of
Table 15.2; an island that may not issue holds it to a later window. That a latch tile is read whole at the first block of
the tile before it, and what a row block is charged beside its array cycles, are the model's choices
(notes/assumptions/76.md and notes/assumptions/50.md). -/
def Obligations.EngineWork : Prop :=
  ∀ (s : State) (t : TileId),
    let n := t.toNat
    let x := s.tile n
    let late : State := s.setTile n { x with island := { x.island with held := true } }
    OnTile s t → x.engOn = true → x.flaws = [] →
    (∀ r, x.mxe.run = some r → r.started = true → r.finished = false → x.mxe.waiting = false → r.partner = none →
      r.apart = false →
      let b := r.block
      let c := r.cmd.rcd
      let l := if b.latch then (if r.pos = 0 then x.latchTile c r.n r.k b.nt (b.k / 2) b.p else r.next) else r.latch
      (r.masked b = false → s.mayIssue n = false → exec (.mxeRowBlock t .ok .ok) s = .next late) ∧
      (b.enter = false → b.leave = false → b.out = [] → r.masked b = true ∨ s.mayIssue n = true →
      ∃ y, exec (.mxeRowBlock t .ok .ok) s = .next (s.setTile n y) ∧ y.wmem = x.wmem ∧ y.core = x.core ∧
        y.router = x.router ∧ y.island = { x.island with units := x.island.units + r.units } ∧
        (∃ r', y.mxe.run = some r' ∧ r'.pos = r.pos + 1 ∧ r'.latch = l ∧
          (b.latch = true → r'.next = match r.nextLatch b with
            | some z => x.latchTile c r.n r.k z.nt (z.k / 2) z.p
            | none => [])) ∧
        ∀ k, y.readA k =
          (let base := b.slot * 4096 + b.m % 64 * 64
           let dig := passDigits (mPasses c) b.p
           let a := x.operand (mA c) b.m b.k r.k dig.1
           let w := l.getD (2 * (k - base) + b.k % 2) ([], 0)
           let p := dotBlock a.1 w.1
           if r.masked b = false ∧ base ≤ k ∧ k < base + min 64 (r.n - 64 * b.nt) then
             ((A44.ofBits (x.readA k)).add (A44.align p.1 p.2 (a.2 + w.2 + dig.2.2 - mEacc c))).toBits
           else x.readA k))) ∧
    (∀ r, x.vxe.run = some r → r.started = true → r.finished = false →
      (s.mayIssue n = false → exec (.vxeVector t .ok .ok) s = .next late) ∧
      (s.mayIssue n = true →
      ∃ y, exec (.vxeVector t .ok .ok) s = .next (s.setTile n y) ∧ y.core = x.core ∧ y.router = x.router ∧
        y.mxe = x.mxe ∧ y.upe = x.upe ∧ y.amem = x.amem ∧ y.vxe.vl = x.vxe.vl ∧ y.vxe.base0 = x.vxe.base0 ∧
        y.vxe.slope0 = x.vxe.slope0 ∧ y.vxe.base1 = x.vxe.base1 ∧ y.vxe.slope1 = x.vxe.slope1 ∧
        y.island = { x.island with units := x.island.units + (150 + 8 * r.words) } ∧
        (vZen r.cmd.rcd = false → vRed r.cmd.rcd = 0 → y.wmem = x.wmem) ∧
        ∃ r', y.vxe.run = some r' ∧ r'.pos = r.pos + 1 ∧
          r'.finished = decide (r.pos + 1 ≥ r.rows * ((r.cols + 63) / 64)))) ∧
    (∀ r, x.upe.run = some r → r.started = true → r.finished = false →
      (s.mayIssue n = false → exec (.upeUnit t .ok) s = .next late) ∧
      (s.mayIssue n = true → x.decl.jobRec ≠ 0xFFFFFFFF#32 ∨ s.melvor.job.isSome →
      ∃ y, exec (.upeUnit t .ok) s = .next (s.setTile n y) ∧ y.core = x.core ∧ y.router = x.router ∧
        y.mxe = x.mxe ∧ y.vxe = x.vxe ∧ y.amem = x.amem ∧
        y.island = { x.island with units := x.island.units + r.units } ∧
        (rOpcode r.cmd.rcd = 2 → r.pos + 1 < uUnits r.cmd.rcd (xPitch r.aux) → y.wmem = x.wmem) ∧
        ∃ r', y.upe.run = some r' ∧ r'.pos = r.pos + 1))

/-- What the engines' work leaves, on a tile whose memories hold no error. A row block of a MATMUL or of a pair adds its
row's dot products to the accumulator words, slot 5 filled from its spill place first where a visit begins; where one ends
the words go back to the place and the slot reads 0; where a tile is complete its words are written out, as A44 words or
converted, and read 0. A vector loads its sources, runs its chain, and writes its lanes to Z and its row's reduction word.
A UPART unit adds its lanes to the four partial words, which the last unit writes; a UBLK unit stores W, the enabled
states and the working copy. No other byte or word changes. -/
def Obligations.EngineResults : Prop :=
  ∀ (s : State) (t : TileId),
    let n := t.toNat
    let x := s.tile n
    OnTile s t → x.engOn = true → x.flaws = [] →
    (∀ r, x.mxe.run = some r → r.started = true → r.finished = false → x.mxe.waiting = false → r.waitsD = false →
      (r.apart && decide (r.pos = r.dEnd)) = false → r.masked r.block = true ∨ s.mayIssue n = true →
      let b := r.block
      let sd := r.side b.ofG
      let two := if b.latch then (if r.begins then r.readLatch x b else (r.next, r.nextG)) else (r.latch, r.latchG)
      let l := if b.ofG then two.2 else two.1
      let base := b.slot * 4096 + b.m % 64 * 64
      let old (k : Nat) : BitVec 48 :=
        if b.enter = true ∧ 20480 ≤ k ∧ k < 24576 then
          (A44.ofBits (BitVec.ofNat 48 (x.readW (x.decl.place b.spill + 8 * (k - 20480)) 8))).toBits
        else x.readA k
      let word (k : Nat) : BitVec 48 :=
        let dig := passDigits (mPasses sd.1) b.p
        let a := x.operand (mA sd.1) b.m b.k sd.2.2 dig.1
        let w := l.getD (2 * (k - base) + b.k % 2) ([], 0)
        let p := dotBlock a.1 w.1
        if r.masked b = false ∧ base ≤ k ∧ k < base + min 64 (sd.2.1 - 64 * b.nt) then
          ((A44.ofBits (old k)).add (A44.align p.1 p.2 (a.2 + w.2 + dig.2.2 - mEacc sd.1))).toBits
        else old k
      (b.leave = false → b.out = [] → ∃ y, exec (.mxeRowBlock t .ok .ok) s = .next (s.setTile n y) ∧ y.wmem = x.wmem ∧
        ∀ k, y.readA k = word k) ∧
      (b.leave = true → b.out = [] → ∃ y, exec (.mxeRowBlock t .ok .ok) s = .next (s.setTile n y) ∧
        (∀ a, Sparse.get 0 y.wmem a = wrote x.wmem ((List.range 4096).map fun i =>
          (x.decl.place b.spill + 8 * i, 8, (A44.ofBits (word (20480 + i))).toBits.toNat)) a) ∧
        ∀ k, y.readA k = if 20480 ≤ k ∧ k < 24576 then 0 else word k) ∧
      (∀ o, b.leave = false → b.out = [o] → o.spill = 0 → ∃ y, exec (.mxeRowBlock t .ok .ok) s = .next (s.setTile n y) ∧
        (∀ a, Sparse.get 0 y.wmem a = wrote x.wmem (tileWrites sd.1 r.m sd.2.1 (if b.ofG then r.histG else r.histD).entries o
          fun k => A44.ofBits (word k)) a) ∧
        ∀ k, y.readA k = if o.slot = k / 4096 ∧ k % 4096 / 64 < min 64 (r.m - 64 * o.mt) ∧ k % 64 < min 64 (sd.2.1 - 64 * o.nt)
          then 0 else word k)) ∧
    (∀ r, x.vxe.run = some r → r.started = true → r.finished = false → s.mayIssue n = true →
      let c := r.cmd.rcd
      let er := vEr c
      let i := r.pos / ((r.cols + 63) / 64)
      let j := r.pos % ((r.cols + 63) / 64)
      let m := min 64 (r.cols - 64 * j)
      let ld (d : Desc) (p : Nat × Nat) : LaneVal :=
        let e := x.srcElem d p.1 p.2
        match e.1 with | none => ⟨none, e.2.2⟩ | some v => laneOf (roundNE v (er - e.2.1)) e.2.2
      let src (k l : Nat) : LaneVal :=
        if k = 0 ∧ vXen c then ld (vX c) (i, 64 * j + l)
        else if k = 1 ∧ vYen c then ld (vY c) (match vYb c with | 1 => (0, 64 * j + l) | 2 => (0, i) | _ => (i, 64 * j + l))
        else if k = 2 ∧ vWen c then ld (aW r.aux) (i, 64 * j + l)
        else x.vxe.reg k l
      ∃ y r', exec (.vxeVector t .ok .ok) s = .next (s.setTile n y) ∧ y.vxe.run = some r' ∧
        (vNops c = 0 → ∀ k < 16, ∀ l < m, y.vxe.reg k l = src k l) ∧
        (vNops c = 1 → ∀ l < m,
          let w := aOp r.aux 0
          let d := y.vxe.reg (bits w 11 8) l
          let a := src (bits w 7 4) l
          let b := src (bits w 3 0) l
          (bits w 15 12 = 0 → d = lane2 a b fun u v => u + v) ∧ (bits w 15 12 = 1 → d = lane2 a b fun u v => u - v) ∧
          (bits w 15 12 = 2 → d = lane2 a b fun u v => roundNE (u * v) (-er)) ∧
          (bits w 15 12 = 4 → d = lane2 a b max) ∧ (bits w 15 12 = 5 → d = lane2 a b min) ∧
          (bits w 15 12 = 6 → d = lane1 a fun u => u.natAbs) ∧ (bits w 15 12 = 9 → d = a)) ∧
        (let ls := (List.range m).map fun l => y.vxe.reg (vOreg c) l
         let red := reduced (vRed c) (if j = 0 then {} else A44.ofBits r.red) (j != 0 && r.redSeen) ls
         (vRed c ≤ 2 → ∀ a, Sparse.get 0 y.wmem a = wrote x.wmem ((if vZen c then vecWrites c r.hist.entries i j ls else []) ++
            if vRed c = 0 then [] else [(vRbase c + 8 * i, 8, red.toBits.toNat)]) a) ∧
         (vRed c = 1 ∨ vRed c = 2 → r'.red = red.toBits))) ∧
    (∀ r, x.upe.run = some r → r.started = true → r.finished = false → s.mayIssue n = true →
      x.decl.jobRec ≠ 0xFFFFFFFF#32 ∨ s.melvor.job.isSome →
      let c := r.cmd.rcd
      let m := min 64 (uCount c - 64 * r.pos)
      let regs := r.prog.foldl (uInstr r.gsr m) (x.preload r r.pos 0 m)
      let u (k : Nat) := regs.getD k ⟨0, []⟩
      (rOpcode c = 2 →
        let red := (List.range 4).map fun k => (addPartial (A44.ofBits (r.red.getD k 0)) (u (4 + k)) (xEred r.aux)).toBits
        ∃ y r', exec (.upeUnit t .ok) s = .next (s.setTile n y) ∧ y.upe.run = some r' ∧ r'.red = red ∧
          ∀ a, Sparse.get 0 y.wmem a = wrote x.wmem (if r.pos + 1 ≥ uUnits c (xPitch r.aux) then
            (List.range 4).map fun k => (xRed r.aux + 8 * k, 8, (red.getD k 0).toNat) else []) a) ∧
      (rOpcode c = 1 → (∀ j < m, ((x.loadUnit (uG c) r.pos m 0).l.getD j ⟨some 0, false⟩).v.isSome = true) →
        let draws := if bits (uConv c) 7 6 = 1 then (List.range m).map fun j =>
          draw (jobSeed s n).1 ((xBase r.aux + 64 * r.pos + j) % 2 ^ 48) (xLayer r.aux) (gStep r.gsr) 0 (xStream r.aux) 1 / 256 else []
        let st := unitStored (uW c) (u 0).e (u 0).l draws
        ∃ y, exec (.upeUnit t .ok) s = .next (s.setTile n y) ∧
          ∀ a, Sparse.get 0 y.wmem a = wrote x.wmem (unitWrites (uW c) r.pos (u 0).e (u 0).l draws ++
            (if (uS0 c).en then unitWrites (uS0 c) r.pos (u 2).e (u 2).l [] else []) ++
            (if (uS1 c).en then unitWrites (uS1 c) r.pos (u 3).e (u 3).l [] else []) ++
            if (xWc r.aux).en then unitWrites (xWc r.aux) r.pos st.2 st.1 [] else []) a))

/-- ENGINE_COMPLETE: DONE becomes the command's number, its summary record enters the queue where SUMM asked for one, the
engine is free, the watchdog sees progress (the MXE on a tile whose memories hold no error); no memory is written without
history and statistics, and the MXE holds its result exactly after a MATMUL with OUT = 2. While the summary queue is full
nothing completes. -/
def Obligations.EngineComplete : Prop :=
  ∀ (s : State) (t : TileId) (e : Engine) (c : Cmd),
    let n := t.toNat
    let x := s.tile n
    let k : Nat := match e with | .mxe => 0 | .vxe => 1 | .upe => 2
    let ready : Prop := match e with
      | .mxe => ∃ r, x.mxe.run = some r ∧ r.cmd = c ∧ r.started = true ∧ r.finished = true ∧ r.partner = none ∧ x.flaws = []
      | .vxe => ∃ r, x.vxe.run = some r ∧ r.cmd = c ∧ r.started = true ∧ r.finished = true ∧ (Conv.ofNat (vConv c.rcd)).hrec = false
      | .upe => ∃ r, x.upe.run = some r ∧ r.cmd = c ∧ r.started = true ∧ r.finished = true
    OnTile s t → x.engOn = true → ready →
    (c.summ = true → (x.eng k).summs.length ≥ 4 → exec (.engineComplete t e) s = .next s) ∧
    (c.summ = false ∨ (x.eng k).summs.length < 4 →
      ∃ (y : Tile) (rcd : BitVec 128), exec (.engineComplete t e) s = .next (s.setTile n y) ∧
        y.eng k = { x.eng k with done := c.seq, summs := if c.summ then (x.eng k).summs ++ [rcd] else (x.eng k).summs } ∧
        y.engBusy k = false ∧ y.core = x.core ∧ y.router = { x.router with wdCount := 0 } ∧ y.amem = x.amem ∧
        (∀ j < 3, j ≠ k → y.eng j = x.eng j ∧ y.engBusy j = x.engBusy j) ∧
        (x.decl.mxeStats = 0xFFFFFFFF#32 → (Conv.ofNat (mConv c.rcd)).hrec = false → y.wmem = x.wmem) ∧
        (∀ r, e = .mxe → x.mxe.run = some r → y.mxe.held =
          if rOpcode c.rcd = 1 ∧ mOut c.rcd = 2 then
            some ⟨r.m, r.n, mEacc c.rcd, (r.m + 63) / 64 * ((r.n + 63) / 64)⟩
          else none))

/-! ## Drovers (spec 11) -/

namespace Sys2Proof.Machine

/-- The head of request channel 0 of a row and lane is the good record `r`, for queue `q`, at a drover that works. -/
abbrev Requests (s : State) (d : DroverNo) (row : Fin 8) (lane : Fin 2) (k : Token) : Prop :=
  s.chanHead d row lane 0 = some k ∧ (s.drover d).stopped = false ∧ (s.drover d).outCut row lane 0 = none

/-- Queue `q` is open on this request channel and not closing, with fewer than 16 requests pending and none of them held. -/
abbrev QueueTakes (y : DQueue) (row : Fin 8) (lane : Fin 2) : Prop :=
  y.isOpen = true ∧ y.closing = false ∧ y.reqLane = row.val * 2 + lane.val ∧ y.behind = [] ∧ y.xfers.length < 16 ∧
  (y.xfers.any fun x => x.held) = false

/-- Queue `q` of drover `d` becomes `y`. -/
def State.putQueue (s : State) (d q : Nat) (y : DQueue) : State := s.modDrover d fun x => x.setQueue q y

/-- The number names no other transfer before it. -/
abbrev FirstNamed (pre : List Xfer) (x : Xfer) : Prop := ∀ w ∈ pre, w.id ≠ x.id

/-- The line accesses of one bale or side-gate transfer of `x` that start at address `a`: one for each of its lines. -/
def Xfer.accesses (x : Xfer) (d : DroverNo) (q : Nat) (write : Bool) (a : Nat) : List Access :=
  (List.range x.unit).map fun i => {
    req := ⟨.drover d, BitVec.ofNat 48 (a + 64 * i), write, BitVec.allOnes 64, Sparse.get 0 x.buf (x.issued * x.unit + i)⟩
    due := some x.due, q := q, xid := x.id, line := x.issued * x.unit + i }

/-- `u` is `s` with these accesses at their controllers, in order, and queue `q` of drover `d` as `y`. -/
abbrev SentToHbm (s u : State) (d q : Nat) (y : DQueue) (l : List Access) : Prop :=
  (u.drover d).queue q = y ∧ u.hbm = s.hbm ∧ u.tiles = s.tiles ∧ u.out = s.out ∧
  ∀ k, (u.ctl k).pend = (s.ctl k).pend ++ l.filter fun z => decide ((hbmMap z.req.addr.toNat).1 = k)

end Sys2Proof.Machine

/-- OPEN opens a queue with its record and its request channel; a record that breaks Table 11.1 raises BAD_REQ and opens
nothing, and one for which more than 128 bales would be outstanding raises OPEN's fault 3. Frames that waited for the
queue are delivered to it. CLOSE closes a queue without transfers, at once or, with tokens of its peer still to deliver or
a run of a TX queue still to end, behind them: that it waits for these is the model's reading (notes/assumptions/80.md).
Each takes the head of its channel, whose credit goes back. -/
def Obligations.OpenAndClose : Prop :=
  ∀ (s : State) (d : DroverNo) (row : Fin 8) (lane : Fin 2) (k : Token),
    let r := k.data
    let q := qDq r
    let z := s.drover d
    let y := z.queue q
    let s1 := takeChan s d row lane 0
    let settled (u : State) : State := if s.grp.grouped && s.jobActive && !s.melvor.foldFrozen then gatherSettle .ok u else u
    Requests s d row lane k →
    (qOp r = 1 → y.isOpen = false → openBad r = false → z.taken r = false → z.bales + oOut r ≤ 128 →
      ∃ y' : DQueue, exec (.openReq d row lane .ok .ok) s = .next (settled (s1.putQueue d q y')) ∧ y'.isOpen = true ∧ y'.rcd = r ∧
        y'.reqLane = row.val * 2 + lane.val ∧ y'.xfers = [] ∧ y'.behind = [] ∧ y'.tx = none ∧ y'.stopped = false ∧
        y'.closing = false ∧ y'.dropHost = y.dropHost) ∧
    (qOp r = 1 → y.isOpen = false → z.fault = none →
      ∀ code : BitVec 4, (code = 1 ∧ (openBad r = true ∨ z.taken r = true)) ∨
        (code = 3 ∧ openBad r = false ∧ z.taken r = false ∧ z.bales + oOut r > 128) →
      exec (.openReq d row lane .ok .ok) s = .next (settled (fire (s1.modDrover d fun x => { x with
        fault := some ⟨code, BitVec.ofNat 5 q, BitVec.ofNat 3 row, decide (lane = 1), false, 0⟩ }) (64 + d)))) ∧
    (qOp r = 2 → QueueTakes y row lane → y.xfers = [] → zeroFrom r 2 = true → Line.bytes r 1 1 < 32 →
      exec (.closeReq d row lane .ok) s = .next (s1.putQueue d q
        (if y.rx.isEmpty && y.tx.isNone then { dropHost := y.dropHost } else { y with closing := true })))

/-- XFER, GO and CANCEL complete. XFER adds a transfer of its object's bytes to its queue, held while the release that it
waits for has not been made; an address outside its object, or of a world that the job does not reach, raises BAD_ADDR,
and nothing is added; of a held one the object is looked at when the hold ends. GO releases the staged transfer that it
names, with its deadline from now on, and CANCEL removes it, counting the transfer and the bales fetched; where the queue
has no such transfer, each counts in CANCEL_LATE and does nothing else. -/
def Obligations.XferGoAndCancel : Prop :=
  (
    ∀ (s : State) (d : DroverNo) (row : Fin 8) (lane : Fin 2) (k : Token),
      let r := k.data
      let q := qDq r
      let z := s.drover d
      let y := z.queue q
      let s1 := takeChan s d row lane 0
      let o := s.obj (xObj r)
      let a := o.base.toNat + xOffset r
      let held := !s.released d (xWait r) (xLidx r) (BitVec.ofNat 32 (xStep r))
      Requests s d row lane k → QueueTakes y row lane → qOp r = 3 → xferBad s y r = false →
      (held = true ∨ (o.valid = true ∧ xOffset r + xBytes r ≤ o.bytes ∧
          s.droverReach d (decide (oKind y.rcd = 1)) a (xBytes r) = .ok) →
        ∃ f : Xfer, exec (.xferReq d row lane .ok) s =
            .next ((s1.modDrover d fun x => { x with xfers := x.xfers + 1 }).putQueue d q { y with xfers := y.xfers ++ [f] }) ∧
          f.tag.toNat = qTag r ∧ f.obj = xObj r ∧ f.off = xOffset r ∧ f.bytes = xBytes r ∧ f.notify = xNotify r ∧
          f.held = held ∧ f.staged = xStaged r ∧ f.go = false ∧ f.id = z.xfers + 1 ∧
          f.deadline = (if xDeadline r = 0 then z.defDl.toNat else xDeadline r) ∧ f.due = s.clockUs * 1000 + f.deadline * 64 ∧
          f.issued = 0 ∧ f.moved = 0 ∧ f.buf = []) ∧
      (held = false → o.valid = false ∨ xOffset r + xBytes r > o.bytes → z.fault = none →
        exec (.xferReq d row lane .ok) s = .next (fire (s1.modDrover d fun x => { x with
          fault := some ⟨2, BitVec.ofNat 5 q, BitVec.ofNat 3 row, decide (lane = 1), false, BitVec.ofNat 16 (qTag r)⟩ })
          (64 + d))) ∧
      (held = false → o.valid = true → xOffset r + xBytes r ≤ o.bytes →
        s.droverReach d (decide (oKind y.rcd = 1)) a (xBytes r) = .world → exec (.xferReq d row lane .ok) s =
          .next (queueFault (worldRefused s1) d 2 q row lane (qTag r)))) ∧
  (
    ∀ (s : State) (d : DroverNo) (row : Fin 8) (lane : Fin 2) (k : Token),
      let r := k.data
      let q := qDq r
      let y := (s.drover d).queue q
      let s1 := takeChan s d row lane 0
      let late := s1.modDrover d fun x => { x with cancelLate := satAdd x.cancelLate 1 }
      Requests s d row lane k → QueueTakes y row lane → zeroFrom r 4 = true → Line.bytes r 1 1 < 32 →
      (∀ pre x post, y.xfers = pre ++ x :: post → stagedTag (qTag r) x = true →
        (∀ w ∈ pre, stagedTag (qTag r) w = false ∧ w ≠ x) →
        (qOp r = 4 → exec (.goReq d row lane .ok) s =
          .next (s1.putQueue d q { y with
            xfers := pre ++ { x with go := true, due := s.clockUs * 1000 + x.deadline * 64 } :: post })) ∧
        (qOp r = 5 → exec (.cancelReq d row lane .ok) s =
          .next ((s1.putQueue d q { y with xfers := pre ++ post, dropHost := y.dropHost ++ x.host }).modDrover d fun z =>
            { z with cancelXfers := satAdd z.cancelXfers 1, cancelBales := satAdd z.cancelBales x.issued }))) ∧
      ((∀ w ∈ y.xfers, stagedTag (qTag r) w = false) →
        (qOp r = 4 → exec (.goReq d row lane .ok) s = .next late) ∧
        (qOp r = 5 → exec (.cancelReq d row lane .ok) s = .next late)))

/-- The transfers from memory. The oldest transfer with bales to issue sends the line reads of its next 4,096 bytes, and a
side-gate transfer those of its bytes, to the HBM controllers with its deadline, while fewer than OUTSTANDING bales are in
flight (16 side-gate entries are free); from a host region with COH = 0 it is one read, which waits while 512 requests are
outstanding on the port. A bale that is wholly in the buffer is presented in order, with LAST on the transfer's last
token, as far as credits and ROOM of the lane allow; one with a poisoned line, or an uncorrectable error of its buffer,
stops the queue with fault 4. How reads of the host tier leave the module, and that one check covers the codes of a bale
buffer, are the model's choices (notes/assumptions/79.md and notes/assumptions/90.md). -/
def Obligations.TransfersIn : Prop :=
  ∀ (s : State) (d : DroverNo) (q : Fin 32) (pre post : List Xfer) (x : Xfer),
    let z := s.drover d
    let y := z.queue q
    let a := s.xferBase x + 64 * (x.issued * x.unit)
    let put (x' : Xfer) : DQueue := { y with xfers := pre ++ x' :: post }
    z.stopped = false → y.isOpen = true → y.stopped = false → oKind y.rcd = 0 → y.xfers = pre ++ x :: post → FirstNamed pre x →
    ((∀ w ∈ pre, Xfer.toIssue w = false) → x.toIssue = true → s.npFull x = true → s.xferReach d false x = true →
      exec (.baleIssue d q) s = .next s) ∧
    ((∀ w ∈ pre, Xfer.toIssue w = false) → x.toIssue = true → y.inflight < oOut y.rcd → s.xferReach d false x = true →
      s.npFull x = false →
      (hostWindow a = none → ∃ u, exec (.baleIssue d q) s = .next u ∧
        SentToHbm s u d q (put { x with issued := x.issued + 1 }) (x.accesses d q false a)) ∧
      (∀ p hpa, hostWindow a = some (p, hpa) → (s.obj x.obj).coh = false →
        exec (.baleIssue d q) s = .next ((s.putQueue d q (put { x with
          issued := x.issued + 1
          host := x.host ++ [⟨Fin.ofNat 2 p, x.issued, x.issued * x.unit, x.unit, false, true, oRow y.rcd, y.lane, x.tag⟩] })).emit
            (.hostRead (Fin.ofNat 2 p) .memRead hpa (64 * x.unit))))) ∧
    ((∀ w ∈ pre, Xfer.toGate w = false) → x.toGate = true → z.sideUsed < 16 → s.xferReach d false x = true →
      s.npFull x = false → hostWindow a = none → ∃ u, exec (.sideGateIssue d q) s = .next u ∧ (u.drover d).sideUsed = z.sideUsed + 1 ∧
        SentToHbm s u d q (put { x with issued := x.issued + 1, gate := true }) (x.accesses d q false a)) ∧
    ((∀ w ∈ pre, w.moved ≥ w.tokens) → x.moved < x.tokens → x.held = false → (x.staged = true → x.go = true) → z.cuts = [] →
      let i := x.moved / x.unit
      (∀ buf : Ecc, x.bad.contains i = true ∨ (x.unitDone i = true ∧ buf = .ue) → exec (.baleDeliver d q buf) s =
        .next (queueFault (s.putQueue d q { y with stopped := true }) d 4 q (oRow y.rcd) y.lane x.tag.toNat)) ∧
      (∀ buf : Ecc, x.bad.contains i = false → x.unitDone i = true → oLanes y.rcd = 1 → buf ≠ .ue →
      let stop := min x.tokens ((i + 1) * x.unit)
      let row := oRow y.rcd
      let n := min (stop - x.moved) (min (Sparse.get 0 z.credits (row * 8 + oQueue y.rcd)) (Sparse.get 0 z.room (row * 2)))
      let g := s.gatewayTile d row
      ∃ u, exec (.baleDeliver d q buf) s = .next u ∧
        (u.drover d).queue q = put { x with moved := x.moved + n } ∧
        Sparse.get [] (u.tile g.1).router.cross g.2 = Sparse.get [] (s.tile g.1).router.cross g.2 ++
          (List.range n).map fun i => ⟨Sparse.get 0 x.buf (x.moved + i),
            BitVec.ofNat 8 (16 * oQueue y.rcd + 8 * b2n (decide (x.moved + i + 1 = x.tokens)))⟩))

/-- The transfers to memory. A data token that has a place, and on a queue of both lanes is the next in order of arrival,
enters the buffer of the queue's transfer and its credit goes back; each full bale goes to its addresses as the line
writes of its tokens. A transfer is complete when all its data is presented, or written; with NOTIFY a reply token names
it. An uncorrectable error of the buffer is the drover fault HBM_UE; that one check covers its codes is the model's choice
(notes/assumptions/90.md). -/
def Obligations.TransfersOut : Prop :=
  ∀ (s : State) (d : DroverNo) (q : Fin 32) (pre post : List Xfer) (x : Xfer),
    let z := s.drover d
    let y := z.queue q
    z.stopped = false → y.xfers = pre ++ x :: post →
    (∀ row lane (ch : Fin 8) k, s.chanHead d row.val lane.val ch = some k → z.outCut row.val lane.val ch = none → ch ≠ 0 →
      z.fedBy row.val lane.val ch = some (q.val, y) → oKind y.rcd = 1 → (∀ w ∈ pre, w.moved ≥ w.tokens) → x.moved < x.tokens →
      y.place x = true → (oLanes y.rcd = 3 → z.inOrder row.val lane.val ch = true) →
      ∀ store, exec (.dataTokenTake d row lane ch .ok store) s = .next ((takeChan s d row lane ch).putQueue d q
        { y with xfers := pre ++ { x with buf := Sparse.set 0 x.buf x.moved k.data, moved := x.moved + 1 } :: post })) ∧
    (oKind y.rcd = 1 → y.stopped = false → (∀ w ∈ pre, w.toWrite = false) → x.toWrite = true → FirstNamed pre x →
      s.xferReach d true x = true → s.npFull x = false →
      let a := s.xferBase x + 64 * (x.issued * x.unit)
      hostWindow a = none →
      (∀ buf : Ecc, buf ≠ .ue → ∃ u, exec (.baleWrite d q buf) s = .next u ∧
        SentToHbm s u d q { y with xfers := pre ++ { x with issued := x.issued + 1 } :: post } (x.accesses d q true a)) ∧
      exec (.baleWrite d q .ue) s =
        .next (queueFault (s.putQueue d q { y with stopped := true }) d 4 q (oRow y.rcd) y.lane x.tag.toNat)) ∧
    (pre = [] → y.stopped = false → y.headDone x = true → x.notify = false → x.side = false →
      exec (.xferComplete d q) s = .next (s.putQueue d q { y with xfers := post })) ∧
    (pre = [] → y.stopped = false → y.headDone x = true → x.notify = false → x.side = true →
      exec (.xferComplete d q) s = .next ((s.putQueue d q { y with xfers := post }).modDrover d fun z =>
        { z with sideXfers := satAdd z.sideXfers 1, sideUsed := z.sideUsed - 1 })) ∧
    (pre = [] → y.stopped = false → y.headDone x = true → x.notify = true → x.side = false →
      s.canPresent d (oRow y.rcd) (oReplyLane y.rcd) (oReplyQ y.rcd) = true →
      exec (.xferComplete d q) s = .next ((present s d (oRow y.rcd) (oReplyLane y.rcd)
        ⟨BitVec.ofNat 512 (x.tag.toNat + q.val * 65536), BitVec.ofNat 8 (16 * oReplyQ y.rcd + 8)⟩).putQueue d q
        { y with xfers := post }))

/-- The end of a hold lets its transfer run, with its deadline from now on; a deadline that passes counts every late
transfer of the unfinished XFER whose deadline is the earliest, and fires the drover's source; a transfer without progress
for TIMEOUT_US raises fault 6, the first fault is kept; a stopped drover takes, issues, presents and times out nothing. A
completion from the host brings the lines of the oldest outstanding request of a queue, or with an error stops the queue
and raises fault 5; for a transfer that has ended the data is discarded, and an error raises fault 5. The snapshot
engine's error ends the snapshot. What counts as late, and that one command stands for the completion of the oldest
request, are the model's choices (notes/assumptions/23.md and notes/assumptions/32.md). -/
def Obligations.HoldsMissesAndHostEnds : Prop :=
  ∀ (s : State) (d : DroverNo) (q : Fin 32),
    let z := s.drover d
    let y := z.queue q
    (∀ pre x post, z.stopped = false → s.jobActive = true → y.xfers = pre ++ x :: post → (∀ w ∈ pre, w.held = false) →
      x.held = true → y.behind = [] → (x.wait = 2 → x.lidx < s.groupCount) →
      s.released d x.wait.toNat x.lidx x.step = true → s.xferReach d (decide (oKind y.rcd = 1)) x = true →
      exec (.releaseHoldEnd d q) s = .next (s.putQueue d q { y with
        xfers := pre ++ { x with held := false, due := s.clockUs * 1000 + x.deadline * 64 } :: post })) ∧
    (∀ pre x post, y.xfers = pre ++ x :: post → x.runs = true → FirstNamed pre x →
      (∀ w ∈ pre, w.runs = true → x.due < w.due) → (∀ w ∈ post, w.runs = true → x.due ≤ w.due) →
      exec (.deadlineMiss d q) s = .next (fire ((s.putQueue d q { y with
        xfers := pre ++ { x with missed := x.lateUnits } :: post }).modDrover d fun z =>
          { z with dlMiss := satAdd z.dlMiss x.lateUnits }) (80 + d.val))) ∧
    (∀ x (row : Fin 8) (lane : Fin 2), z.stopped = false → y.stuck = some x →
      (z.fault = none → exec (.timeout d q row lane) s = .next (fire (s.modDrover d fun w => { w with
        fault := some ⟨6, BitVec.ofNat 5 q, BitVec.ofNat 3 (oRow y.rcd), decide (y.lane = 1), false, x.tag⟩ }) (64 + d.val))) ∧
      (z.fault.isSome = true → exec (.timeout d q row lane) s = .next s)) ∧
    (∀ (row : Fin 8) (lane : Fin 2) (ch : Fin 8) (c : Ecc), z.stopped = true →
      exec (.timeout d q row lane) s = .next s ∧ exec (.baleIssue d q) s = .next s ∧ exec (.baleDeliver d q c) s = .next s ∧
      exec (.baleWrite d q c) s = .next s ∧ exec (.xferComplete d q) s = .next s ∧ exec (.sideGateIssue d q) s = .next s ∧
      exec (.dataTokenTake d row lane ch c c) s = .next s ∧ exec (.xferReq d row lane c) s = .next s) ∧
    (∀ pre x post h rest v, y.xfers = pre ++ x :: post → (∀ w ∈ pre, w.host = []) → x.host = h :: rest → FirstNamed pre x →
      (oKind y.rcd = 0 → h.go = false →
        let lines := (List.range h.n).map fun i => BitVec.ofNat 512 (v / 2 ^ (512 * i))
        exec (.hostCompletion (.drover d) q false (.data v)) s = .next (publish (retry (s.putQueue d q { y with
          xfers := pre ++ linesIn h.line h.n lines false { x with host := rest } :: post })))) ∧
      exec (.hostCompletion (.drover d) q false .unsupported) s = .next (publish (retry (queueFault (s.putQueue d q { y with
        stopped := true, xfers := pre ++ { x with host := rest } :: post }) d 5 q (oRow y.rcd) y.lane x.tag.toNat)))) ∧
    (∀ h rest v, y.dropHost = h :: rest →
      exec (.hostCompletion (.drover d) q true (.data v)) s = .next (s.putQueue d q { y with dropHost := rest }) ∧
      exec (.hostCompletion (.drover d) q true .abort) s =
        .next (queueFault (s.putQueue d q { y with dropHost := rest }) d 5 q h.row h.lane h.tag.toNat)) ∧
    (s.snap.busy = true → s.snap.err = false → exec (.hostCompletion .snapshot q false .abort) s =
      .next (retry (fire { s with snap := { s.snap with
        busy := false, restoring := false, err := true, todo := [], host := [], errors := satAdd s.snap.errors 1 } } 161)))

/-! ## HBM and the scrubs (spec 10, 17) -/

/-- HBM_LINE_ACCESS. An access that its requester may make joins its controller's queue, with the deadline of its
requester; one that is refused touches no byte. The access that the controller picks is performed: a clean read delivers
the line's bytes to its requester, or into the buffer of its drover's transfer, and counts; a whole-line write stores its
64 bytes and clears poison; a partial one of a clean line stores the masked bytes; every other byte stays. A line with the
poison pattern is delivered poisoned. In deadline mode no pick has a later deadline than another access that could be
granted; in split mode grant n of a frame of 16 goes to its class while that has an access, oldest first. Who ties, and
the deadline of an access that no transfer makes, are the model's choices (notes/assumptions/17.md). -/
def Obligations.LineAccess : Prop :=
  ∀ (s : State) (k : Stack) (r : LineReq),
    let here := (s.ctl k).pend
    let l := s.grantable [] here
    (Settled s → here = [] → (hbmMap r.addr.toNat).1 ≠ k.val →
      (s.reach r.req r.write r.addr.toNat = .ok → exec (.hbmLineAccess k [r] 0) s =
        .next (s.modCtl (hbmMap r.addr.toNat).1 fun c => { c with pend := c.pend ++ [{ req := r, due := s.reqDue r.req }] })) ∧
      (s.reach r.req r.write r.addr.toNat ≠ .ok → ∃ u, exec (.hbmLineAccess k [r] 0) s = .next u ∧ u.hbm = s.hbm ∧
        u.poison = s.poison ∧ ∀ j, (u.ctl j).pend = (s.ctl j).pend)) ∧
    (∀ x : Access, Settled s → s.pick k l = some x → (hbmMap x.req.addr.toNat).1 = k.val →
      let a := x.req.addr.toNat
      let n := a / 64
      let d : Line := BitVec.ofNat 512 (readBytes s.hbm (n * 64) 64)
      (x.req.write = false → x.xid = 0 → Sparse.get false s.poison n = false → Sparse.get 0 s.bad n = 0 →
        ∃ u, exec (.hbmLineAccess k [] 0) s = .next u ∧ u.hbm = s.hbm ∧ u.poison = s.poison ∧
          u.out = .lineData x.req.req false d :: s.out ∧ (u.ctl k).pend = here.erase x ∧
          (u.ctl k).rdLines = satAdd (s.ctl k).rdLines 1) ∧
      (x.req.write = false → x.xid = 0 → Sparse.get false s.poison n = true → a < userTop ∨ fwTop ≤ a →
        ∃ u, exec (.hbmLineAccess k [] 0) s = .next u ∧ u.hbm = s.hbm ∧ u.out = .lineData x.req.req true d :: s.out ∧
          (u.ctl k).ueCnt = satAdd (s.ctl k).ueCnt 1) ∧
      (∀ (dv : DroverNo) (pre post : List Xfer) (f : Xfer), x.req.req = .drover dv → x.req.write = false → x.xid = f.id → f.id ≠ 0 →
        ((s.drover dv).queue x.q).xfers = pre ++ f :: post → FirstNamed pre f → oKind ((s.drover dv).queue x.q).rcd = 0 →
        Sparse.get false s.poison n = false → Sparse.get 0 s.bad n = 0 →
        ∃ u, exec (.hbmLineAccess k [] 0) s = .next u ∧ u.hbm = s.hbm ∧
          ((u.drover dv).queue x.q).xfers = pre ++ linesIn x.line 1 [d] false f :: post) ∧
      (x.req.write = true → x.xid = 0 →
        x.req.mask = BitVec.allOnes 64 ∨ (Sparse.get false s.poison n = false ∧ Sparse.get 0 s.bad n = 0) →
        ∃ u, exec (.hbmLineAccess k [] 0) s = .next u ∧ Sparse.get false u.poison n = false ∧ Sparse.get 0 u.bad n = 0 ∧
          (u.ctl k).wrLines = satAdd (s.ctl k).wrLines 1 ∧
          ∀ b, Sparse.get 0 u.hbm b = if b / 64 = n ∧ x.req.mask.getLsbD (b % 64) = true then
            BitVec.ofNat 8 (x.req.data.toNat / 256 ^ (b % 64)) else Sparse.get 0 s.hbm b)) ∧
    (∀ (x y : Access), s.pick k l = some x → y ∈ l →
      x ∈ l ∧
      (s.arb.split = false → ∀ dy, y.due = some dy → ∃ dx, x.due = some dx ∧ dx ≤ dy) ∧
      (s.arb.split = true → y.cls = s.arb.turn (s.ctl k).frame →
        x.cls = y.cls ∧ l.find? (fun w => decide (w.cls = y.cls)) = some x))

/-- Who reaches what: no requester of the non-secure world reaches a line of a secure region or of a unit being cleared;
only Melvor firmware reaches its area, only it and the hosts the image store, nobody an address beyond HBM; nobody writes
the image store but a host. -/
def Obligations.LineReach : Prop :=
  ∀ (s : State) (q : Requester) (w : Bool) (a : Nat),
    (a < userTop → s.secureAt a = true → s.worldOf q = false → s.reach q w a = .world) ∧
    (a < userTop → s.clearingAt a = true → s.reach q w a = .world) ∧
    (a < userTop → s.clearingAt a = false → (s.secureAt a = false ∨ s.worldOf q = true) → s.reach q w a = .ok) ∧
    (userTop ≤ a → a < fwTop → (s.reach q w a = .ok ↔ q = .melvor)) ∧
    (fwTop ≤ a → a < hbmTop → s.reach q w a = .ok → (∃ p, q = .host p) ∨ (q = .melvor ∧ w = false)) ∧
    (hbmTop ≤ a → s.reach q w a = .fault)

/-- The patrol scrubs read without changing a byte that reads correctly. The HBM scrub reads a line when no other access of its
stack is pending, and counts the read; a corrected line is rewritten and counted, an uncorrectable one counted and reported by
source 149, where the counter rises; a corrected tile word awaits its rewrite, which the next command makes and counts; an
uncorrectable tile word is counted and reported by source 150. -/
def Obligations.Scrubs : Prop :=
  ∀ (s : State) (k : Stack) (line : Addr) (t : TileId) (acc : Bool) (word : Nat),
    let a := line.toNat / 64 * 64
    let c := s.ctl k
    let n := t.toNat
    let key := if acc then 16384 + word else word
    (s.rel.hbmScrubEn = true → a < hbmTop → (hbmMap a).1 = k.val → c.ready = true → c.pend = [] →
      (∀ err, Sparse.get false s.poison (a / 64) = false →
        let n := c.errors (hbmMap a).2.1 (err ||| Sparse.get 0 s.bad (a / 64))
        n ≤ 2 →
        ∃ u, exec (.hbmScrubRead k line err) s = .next u ∧ (∀ b, Sparse.get 0 u.hbm b = Sparse.get 0 s.hbm b) ∧
          u.poison = s.poison ∧ (0 < n → Sparse.get 0 u.bad (a / 64) = 0) ∧
          (u.ctl k).rdLines = satAdd c.rdLines 1 ∧
          (u.ctl k).wrLines = (if n = 0 then c.wrLines else satAdd c.wrLines 1) ∧
          (u.ctl k).ceCnt = (if n = 0 then c.ceCnt else satAdd c.ceCnt 1) ∧
          u.rel.hbmScrubCe = (if n = 0 then s.rel.hbmScrubCe else satAdd s.rel.hbmScrubCe 1)) ∧
      (∀ err, Sparse.get false s.poison (a / 64) = true →
        ∃ u, exec (.hbmScrubRead k line err) s = .next u ∧ u.hbm = s.hbm ∧ u.poison = s.poison ∧
          (u.ctl k).ueCnt = satAdd c.ueCnt 1 ∧ u.rel.hbmScrubUe = satAdd s.rel.hbmScrubUe 1 ∧
          (s.rel.hbmScrubUe ≠ 0xFFFFFFFF#32 → (u.irqGrp 9).pend.getLsbD 5 = true))) ∧
    (s.rel.hbmScrubEn = false → ∀ err, exec (.hbmScrubRead k line err) s = .next s) ∧
    (s.tileOk n = true → s.islandsOn = true → s.rel.tileScrubEn = true → word < (if acc then 24576 else 16384) →
      ((s.tile n).flaw (if acc then amCode word else wmCodes (64 * word) 64) ≠ .ue →
        ∃ u, exec (.tileScrubRead t acc word .ce) s = .next u ∧ (u.tile n).rel.rewrite = some key ∧
        (u.tile n).wmem = (s.tile n).wmem ∧ (u.tile n).amem = (s.tile n).amem) ∧
      (∃ u, exec (.tileScrubRead t acc word .ue) s = .next u ∧ u.rel.tileScrubUe = satAdd s.rel.tileScrubUe 1 ∧
        (s.rel.tileScrubUe ≠ 0xFFFFFFFF#32 → (u.irqGrp 9).pend.getLsbD 6 = true) ∧ (u.tile n).rel.rewrite = (s.tile n).rel.rewrite)) ∧
    (s.tileOk n = true → s.islandsOn = true → (s.tile n).rel.rewrite = some key →
      exec (.tileScrubRewrite t) s = .next
        { s.setTile n { (s.tile n).recode (if key ≥ 16384 then amCode (key - 16384) else wmCodes (64 * key) 64) with
            rel := { (s.tile n).rel with rewrite := none } } with
          rel := { s.rel with tileScrubCe := satAdd s.rel.tileScrubCe 1 } })

/-! ## Host ports (spec 12) -/

namespace Sys2Proof.Machine

/-- Port `p` serves requests in full: stage 4, its link in L0, no D3hot, no FLR, nothing that waits before them. -/
abbrev HostServes (s : State) (p : Port) : Prop := s.hostOn p = true ∧ s.boot.stage ≥ 4 ∧ s.waiting = []

/-- Every line that holds a byte of `[a, a + n)` is readable and clean. -/
abbrev CleanLines (s : State) (a n : Nat) : Prop :=
  ∀ b, a ≤ b → b < a + n → Sparse.get false s.poison (b / 64) = false ∧ Sparse.get 0 s.bad (b / 64) = 0

end Sys2Proof.Machine

/-- BAR0: an aligned whole DW or pair of DWs is served, a read by the registers' values and a write as the register write
of the port; any other request, one that uses a feature the port does not have, and a write of the other port's registers,
gets an address fault. BAR4 of a secure port reads and writes tile windows in the half that TWSEL selects and brings the
module out of Night; while SECURE = 0 it decodes nothing. A BAR that the host has not assigned takes nothing: that its
base must not be 0 is taken from the PCI Express family (notes/assumptions/98.md). -/
def Obligations.RegisterAndTileBars : Prop :=
  ∀ (s : State) (p : Port) (r : Tlp),
    let b := r.off.toNat / 0x100000
    let o := r.off.toNat % 0x100000
    let fault (bar : Nat) := (portEvent s p 1 bar r.off r.rid).emit (if r.write = true ∧
      r.feature ≠ .atomicOp then .aer p .unsupported
      else .tlp p .unsupported false 0)
    let a := r.off.toNat + (if (s.port p).half then 0x200000000 else 0)
    let t := a / 0x200000
    HostServes s p →
    (s.port p).assigned 0 = true → (s.port p).assigned 2 = true →
    (bar0Form r = true → unsupportedTlp r = false → r.off.toNat < 0x4000000 → r.write = false → s.portReads p b o = true →
      (r.len = 8 → s.portReads p b (o + 4) = true) →
      exec (.bar0Access p r) s = .next (s.emit (.tlp p .success false (s.regRead (.port p) b o +
        (if r.len = 8 then s.regRead (.port p) b (o + 4) else 0) * 2 ^ 32)))) ∧
    (bar0Form r = true → unsupportedTlp r = false → r.off.toNat < 0x4000000 → r.write = true → r.ep = false → r.len = 4 →
      (s.port p).fault.isSome = true →
      exec (.bar0Access p r) s =
        exec (.registerWrite (.port p) (BitVec.ofNat 48 (0x700000000000 + b * 0x1000000 + o)) 4 (BitVec.ofNat 64 (r.data % 2 ^ 32))) s) ∧
    (bar0Form r = true → unsupportedTlp r = false → r.off.toNat < 0x4000000 → r.write = true → r.ep = false → r.len = 4 →
      (b = 1 ∨ b = 2) → o ≥ 0x80000 → regListed b o = true → b ≠ p.val + 1 →
      exec (.bar0Access p r) s = .next ((portEvent s p 1 0 r.off r.rid).emit (.aer p .unsupported))) ∧
    (bar0Form r = false ∨ unsupportedTlp r = true → exec (.bar0Access p r) s = .next (fault 0)) ∧
    (∀ v, (s.port p).secure = true → bar4Form r = true → unsupportedTlp r = false → (s.tile t).flaws = [] → r.len = 4 →
      r.off.toNat + 4 ≤ 0x200000000 → r.write = false →
      s.tileOk t = true → (s.tile t).read32 (nightExit s).relocks t (a % 0x200000) = some v → v < 2 ^ 32 →
      exec (.bar4Access p r .ok) s = .next ((nightExit s).emit (.tlp p .success false v))) ∧
    (∀ z, (s.port p).secure = true → bar4Form r = true → unsupportedTlp r = false → r.len = 4 →
      r.off.toNat + 4 ≤ 0x200000000 → r.write = true →
      r.ep = false → s.tileOk t = true → (s.tile t).write32 (a % 0x200000) (r.data % 2 ^ 32) = some z →
      exec (.bar4Access p r .ok) s = .next ((nightExit s).setTile t z)) ∧
    ((s.port p).secure = false → exec (.bar4Access p r .ok) s = .next (fault 2)) ∧
    (let u := s.setPort p { s.port p with config := [] }
     exec (.bar0Access p r) u = .next u ∧ exec (.bar2Access p r) u = .next u ∧ exec (.bar4Access p r .ok) u = .next u)

/-- BAR2 and CXL.mem, where the requester reaches every line and none waits: a read of clean lines returns their bytes,
and a CXL.mem read through the committed HDM decoder marks its page HELD unless its MetaValue is Invalid; a write stores
exactly its enabled bytes. What the worlds or Table 10.3 refuse changes no byte of memory, is counted and is answered
without data. A poisoned line is read with its poison shown, and a write that arrives with poison stores its bytes and
poisons its lines. How the protocol's messages and capabilities look is taken from the CXL family (notes/assumptions/86.md
and notes/assumptions/98.md). -/
def Obligations.MemoryThroughPorts : Prop :=
  ∀ (s : State) (p : Port) (r : Tlp) (a : Addr) (m : MetaValue) (mask : BitVec 64) (d : Line),
    let n := r.off.toNat
    let k := a.toNat / 64
    HostServes s p → s.rel.fatal = false →
    ((s.port p).assigned 1 = true → unsupportedTlp r = false → n + r.len ≤ hbmTop → 0 < r.len →
      (∀ l post, tlpLines r = l :: post → s.bar2Reach p r l ≠ .ok → (r.write = true → post = []) →
        ∃ u, exec (.bar2Access p r) s = .next u ∧ u.hbm = s.hbm ∧ u.poison = s.poison ∧
          u.out = (if r.write then .aer p .abort else .tlp p .abort false 0) :: s.out ∧
          (u.port p).caCnt = satAdd (s.port p).caCnt 1 ∧
          u.sec.worldRefusedCnt = if s.bar2Reach p r l = .world then satAdd s.sec.worldRefusedCnt 1 else s.sec.worldRefusedCnt) ∧
      ((∀ l ∈ tlpLines r, s.bar2Reach p r l = .ok ∧ s.blocked (.host p) r.write l = false) →
        (r.write = false → (∃ l ∈ tlpLines r, Sparse.get false s.poison (l / 64) = true) →
          ∃ u v, exec (.bar2Access p r) s = .next u ∧ u.hbm = s.hbm ∧ u.out = .tlp p .success true v :: s.out ∧
            (u.port p).epSent = satAdd (s.port p).epSent 1) ∧
        (r.write = true → r.ep = true → CleanLines s n r.len →
          ∃ u, exec (.bar2Access p r) s = .next u ∧ (u.port p).epRcvd = satAdd (s.port p).epRcvd 1 ∧
            (∀ l ∈ tlpLines r, tlpMask r l ≠ 0 → Sparse.get false u.poison (l / 64) = true) ∧
            ∀ b, Sparse.get 0 u.hbm b = if n ≤ b ∧ b < n + r.len ∧ bit r.be (b - n) = true then
              BitVec.ofNat 8 (r.data / 256 ^ (b - n)) else Sparse.get 0 s.hbm b))) ∧
    ((s.port p).assigned 1 = true → unsupportedTlp r = false → n + r.len ≤ hbmTop → 0 < r.len →
      (∀ l ∈ tlpLines r, s.bar2Reach p r l = .ok ∧
      s.blocked (.host p) r.write l = false) →
      CleanLines s n r.len →
      (r.write = false → ∃ u, exec (.bar2Access p r) s = .next u ∧ u.hbm = s.hbm ∧
        u.out = .tlp p .success false (readBytes s.hbm n r.len) :: s.out) ∧
      (r.write = true → r.ep = false → ∃ u, exec (.bar2Access p r) s = .next u ∧
        ∀ b, Sparse.get 0 u.hbm b = if n ≤ b ∧ b < n + r.len ∧ bit r.be (b - n) = true then
          BitVec.ofNat 8 (r.data / 256 ^ (b - n)) else Sparse.get 0 s.hbm b)) ∧
    ((s.port p).cxlMem = true → (s.port p).hdmCommitted = true → a.toNat < hbmTop → a.toNat % 64 = 0 → CleanLines s a.toNat 64 →
      (s.reach (.host p) false a.toNat = .ok → s.blocked (.host p) false a.toNat = false →
        ∃ u, exec (.memRd p .rd a m 0) s = .next u ∧ u.hbm = s.hbm ∧
          u.out = .memData p false (BitVec.ofNat 512 (readBytes s.hbm a.toNat 64)) :: s.out ∧
          Sparse.get false (u.port p).held (a.toNat / 4096) =
            (decide (m ≠ .invalid) || Sparse.get false (s.port p).held (a.toNat / 4096))) ∧
      (s.reach (.host p) true a.toNat = .ok → s.blocked (.host p) true a.toNat = false →
        ∃ u, exec (.memWr p a mask d false) s = .next u ∧ u.out.head? = some (.memCmp p) ∧
          ∀ b, Sparse.get 0 u.hbm b = if b / 64 = k ∧ mask.getLsbD (b % 64) = true then
            BitVec.ofNat 8 (d.toNat / 256 ^ (b % 64)) else Sparse.get 0 s.hbm b) ∧
      (s.reach (.host p) true a.toNat = .ok → s.blocked (.host p) true a.toNat = false →
        ∃ u, exec (.memWr p a mask d true) s = .next u ∧ u.out.head? = some (.memCmp p) ∧
          Sparse.get false u.poison k = true ∧ (u.port p).epRcvd = satAdd (s.port p).epRcvd 1 ∧ (u.port p).rasCor.getLsbD 5 = true) ∧
      (s.reach (.host p) false a.toNat ≠ .ok → ∃ u, exec (.memRd p .rd a m 0) s = .next u ∧ u.hbm = s.hbm ∧
        u.out = .memData p true (BitVec.allOnes 512) :: s.out ∧ (u.port p).held = (s.port p).held) ∧
      (s.reach (.host p) true a.toNat ≠ .ok → ∃ u, exec (.memWr p a mask d false) s = .next u ∧ u.hbm = s.hbm ∧
        u.out = .memCmp p :: s.out))

/-- PAGE_FLIP takes a HELD page back: HELD clears, the flip counts, memory changes only where the host writes back.
HOST_SNOOP answers from the complex's cache, a modified line with its data: a miss changes nothing, an invalidating snoop
drops the line, a snoop for data leaves it clean, and one for the current value leaves it as it is: the snoops are the CXL
family's (notes/assumptions/31.md). That a line written back is stored at once is the model's reading
(notes/assumptions/30.md). -/
def Obligations.PageFlipAndSnoop : Prop :=
  ∀ (s : State) (p : Port) (page hpa : Nat) (l : Line) (i : Nat) (v : CacheLine),
    let snooped (c : Option CacheLine) :=
      (s.setPort p { s.port p with cache := Sparse.set none (s.port p).cache (hpa / 64) c }).emit
        (.snoopRsp p true v.modified (if v.modified then v.data else 0))
    (Settled s → Sparse.get false (s.port p).held page = true →
      (∃ u, exec (.pageFlip p page []) s = .next u ∧ Sparse.get false (u.port p).held page = false ∧ u.hbm = s.hbm ∧
        (u.port p).flipCnt = satAdd (s.port p).flipCnt 1 ∧
        (∀ q, q ≠ page → Sparse.get false (u.port p).held q = Sparse.get false (s.port p).held q)) ∧
      (i < 64 → s.reach (.host p) true (page * 4096 + i * 64) = .ok →
        ∃ u, exec (.pageFlip p page [(i, l)]) s = .next u ∧ Sparse.get false (u.port p).held page = false ∧
          ∀ b, Sparse.get 0 u.hbm b = if b / 64 = page * 64 + i then BitVec.ofNat 8 (l.toNat / 256 ^ (b % 64))
            else Sparse.get 0 s.hbm b)) ∧
    (Sparse.get false (s.port p).held page = false → exec (.pageFlip p page [(i, l)]) s = .next s) ∧
    ((s.port p).cxlCache = true →
      (Sparse.get none (s.port p).cache (hpa / 64) = some v →
        exec (.hostSnoop p hpa .inv) s = .next (snooped none) ∧
        exec (.hostSnoop p hpa .data) s = .next (snooped (some { v with modified := false })) ∧
        exec (.hostSnoop p hpa .cur) s = .next (snooped (some v))) ∧
      (Sparse.get none (s.port p).cache (hpa / 64) = none → ∀ c,
        exec (.hostSnoop p hpa c) s = .next (s.emit (.snoopRsp p false false 0))))

/-- The removal of a port, by PERST#, loss of the link, D3hot or an FLR: its mailbox stops, its regions, placement
windows, HELD pages and vectors are gone, it is non-secure and owns no job; no byte of memory and no tile changes. A
second removal before REMOVED clears counts only. The return of a port: PERST# rises with the clock mode that the pin
gives; the link reaches L0 at a speed and width of Table 12.1, and CXL.cache and CXL.mem are on from stage 3 on a link of
32 GT/s and 8 lanes or more; D0 and the end of an FLR reset the function, its HDM decoder and its DOE mailbox. Until
PORTS_READY a configuration request gets CRS, and then the module's identity is read. What a removal leaves of the port is the
model's reading (notes/assumptions/34.md), and the CXL and configuration forms are taken from the family
(notes/assumptions/86.md). -/
def Obligations.PortRemovalAndReturn : Prop :=
  (
    ∀ (s : State) (p : Port),
      let gone (c : Instr) : Prop :=
        ∃ u, exec c s = .next u ∧ (u.port p).removed = true ∧ (u.port p).secure = false ∧ (u.port p).places = [] ∧
          (u.port p).regions = [] ∧ (u.port p).held = [] ∧ (u.port p).cache = [] ∧ (u.port p).pba = 0 ∧
          (u.port p).removalCnt = satAdd (s.port p).removalCnt 1 ∧ (u.port p).urCnt = (s.port p).urCnt ∧
          (u.box p).enabled = false ∧ u.melvor.owner.toNat ≠ p.val ∧ u.hbm = s.hbm ∧
          (∀ k, (u.tile k).wmem = (s.tile k).wmem ∧ (u.tile k).core = (s.tile k).core)
      let again (f : HostPort → HostPort) := s.modPort p fun h => { f h with removalCnt := satAdd h.removalCnt 1 }
      (Settled s → (s.port p).removed = false →
        ((s.port p).perst = false → gone (.perstAssert p)) ∧ ((s.port p).linkUp = true → gone (.dlDownTimeout p)) ∧
        (s.hostOn p = true → gone (.d3hotEntry p) ∧ gone (.flr p))) ∧
      ((s.port p).removed = true →
        ((s.port p).perst = false → exec (.perstAssert p) s = .next (again fun h => { h.noLink with perst := true })) ∧
        ((s.port p).linkUp = true → exec (.dlDownTimeout p) s = .next (again HostPort.noLink)) ∧
        (s.hostOn p = true → exec (.d3hotEntry p) s = .next (again fun h => { h with d3hot := true }) ∧
          exec (.flr p) s = .next (again fun h => { h with inFlr := true })))) ∧
  (
    ∀ (s : State) (p : Port) (refclk : Bool) (speed : BitVec 3) (width : BitVec 5) (reg : BitVec 12) (v : Word) (w : Bool),
      let h := s.port p
      let reset (h : HostPort) : HostPort :=
        { h with config := [], msix := [], pba := 0, msixEn := false, funcMask := false, viralEn := false
                 hdmLockOn := false, hdmCommitted := false, hdmLocked := false, doeIn := [], doeOut := []
                 rasUnc := 0, rasCor := 0, rasUncMask := 0, rasCorMask := 0 }
      let cxl (h : HostPort) : HostPort :=
        let q := decide (s.boot.stage ≥ 3) && h.linkUp && decide (h.speed = 5) && decide (h.width ≥ 8)
        { h with cxlCache := q, cxlMem := q }
      (h.perst = true → exec (.perstDeassert p refclk) s =
        .next (s.setPort p { reset h with perst := false, srisMode := !refclk })) ∧
      (h.linkUp = false → h.perst = false → s.boot.stage ≥ 1 → 1 ≤ speed → speed ≤ 5 →
        (width = 1 ∨ width = 4 ∨ width = 8 ∨ width = 16) →
        exec (.dlActiveReturn p speed width) s =
          .next (s.setPort p (cxl { reset h with linkUp := true, speed := speed, width := width }))) ∧
      (h.d3hot = true → exec (.d0Entry p) s = .next (s.setPort p (cxl { reset h with d3hot := false }))) ∧
      (h.inFlr = true → exec (.flrComplete p) s = .next (s.setPort p (cxl { reset h with inFlr := false }))) ∧
      (h.linkUp = true → s.boot.portsReady = false → exec (.configurationRequest p w reg v) s = .next (s.emit (.config p .crs 0))) ∧
      (h.linkUp = true → s.boot.portsReady = true → h.inFlr = false →
        exec (.configurationRequest p false 0 v) s = .next (s.emit (.config p .success
          (BitVec.ofNat 32 (Config.vendorId.toNat + (match s.flash.record.grade with | .st70 => 0x5370 | .st68 => 0x5368) * 65536)))) ∧
        ∃ u, exec (.configurationRequest p true reg v) s = .next u ∧ u.out.head? = some (.config p .success 0) ∧
          u.hbm = s.hbm ∧ u.tiles = s.tiles))


/-! ## Mailboxes, ownership and the job (spec 08, 13) -/

namespace Sys2Proof.Machine

/-- Melvor firmware runs, and `e`, of opcode `op`, is the next command of port `p` that it starts. -/
abbrev NextIs (s : State) (p : Port) (op : Nat) (e : Line) : Prop :=
  s.nextCmd p = some e ∧ s.fwOn = true ∧ eOp e = op

/-- The verdict of the intake on a valid entry (R297): status and DETAIL of the first refusal that applies. -/
def intake (s : State) (p : Port) (e : Line) : Option (Nat × Nat) :=
  let b := s.box p
  if s.melvor.fwReady = false then some (1, 0)
  else if s.pendingOf p ≥ 16 then some (2, 0)
  else match opInfo (eOp e) with
    | none => some (4, eOp e)
    | some (own, version) =>
      if b.negotiated = true ∧ b.version.toNat < version then some (4, eOp e)
      else if b.negotiated = false ∧ eOp e ≠ 1 then some (6, 0)
      else if own = true ∧ s.melvor.owner.toNat ≠ p.val then some (7, s.melvor.owner.toNat)
      else (firstBad (argFields s p e)).map fun o => (9, o)

end Sys2Proof.Machine

/-- What ENABLE, the doorbells and a completion do. A mailbox whose rings pass the checks is enabled with its indices at 0
and its sequence numbers at 1, and the port is no longer REMOVED; one whose rings fail them only sets CFG_ERR; DISABLE
drops and counts pending events, and the completions of the commands accepted will be; a doorbell takes the producer's, or
consumer's, index. A completion in an enabled mailbox is one entry written at the ring's producer index, by ItoMWr or a
write that does not pass others: opcode, status, TAG and SEQ of its command, DETAIL, the mailbox's own sequence number,
and the CRC-32C of the 60 bytes before it; source 0 of the port fires unless NOINT is 1. Where the mailbox is not enabled,
the port is removed, or the command was accepted before the mailbox was disabled, the completion is counted as dropped.
What becomes of pending events and of accepted commands at DISABLE is the model's reading (notes/assumptions/37.md,
38.md). -/
def Obligations.MailboxRings : Prop :=
  (∀ (s : State) (w : Agent) (p : Port) (cmd cpl : Bool) (v : Word),
    let b := s.box p
    let b1 := { b with cmdCoh := cmd, cplCoh := cpl }
    (MayWrite s w (p.val + 1) 0 →
      (b.enable = false → b.enabled = false → b1.ringsOk = true →
        exec (.enable w p cmd cpl) s = .next ((s.setBox p { b1 with
          enable := true, enabled := true, negotiated := false, cmdCons := 0, cplProd := 0, cmdProd := 0, cplCons := 0
          expSeq := 1, cplSeq := 1, stale := false, refetches := 0, waitBell := false }).setPort p
            { s.port p with removed := false })) ∧
      (b.enable = false → b.enabled = false → b1.ringsOk = false → b.cfgErr = false →
        exec (.enable w p cmd cpl) s = .next (fire (s.setBox p { b1 with enable := true, cfgErr := true }) (16 * p.val + 1))) ∧
      (b.enable = true → b.enabled = true → ∃ u, exec (.disable w p) s = .next u ∧ u.box p = { b with
          enable := false, enabled := false, cplStall := false, stale := false, refetches := 0, waitBell := false, events := []
          cplDropCnt := satAdd b.cplDropCnt b.events.length } ∧
        u.melvor = { s.melvor with accepted := s.melvor.accepted.map fun a => if a.port = p then { a with dead := true } else a } ∧
        u.out = s.out ∧ u.ports = s.ports)) ∧
    (MayWrite s w (p.val + 1) 0x20 → b.events = [] → ∃ u, exec (.cmdDoorbell w p v) s = .next u ∧
      (u.box p).cmdProd = BitVec.ofNat 12 v.toNat ∧ (u.box p).waitBell = false ∧ u.out = s.out ∧ u.hbm = s.hbm) ∧
    (MayWrite s w (p.val + 1) 0x2C → b.events = [] → ∃ u, exec (.cplDoorbell w p v) s = .next u ∧
      (u.box p).cplCons = BitVec.ofNat 12 v.toNat ∧ (u.box p).cmdProd = b.cmdProd ∧ u.out = s.out ∧ u.hbm = s.hbm)) ∧
  ∀ (s : State) (p : Port) (e : Line) (status detail result : Nat),
    let b := s.box p
    let u := complete s p e status detail result
    let dead := ∃ a ∈ s.melvor.accepted, a.port = p ∧ a.entry = e ∧ a.dead = true
    let at_ := b.cplBaseLo.toNat * 4096 + b.cplBaseHi.toNat * 2 ^ 32 + 64 * b.cplProd.toNat
    b.events = [] → s.melvor.lockstepErr = false →
    (b.enabled = true → (s.port p).removed = false → ¬dead → status < 65536 → detail < 2 ^ 32 →
      (∃ x : Line, u.out = .cplEntry p (if b.cplCoh then .itoMWr else .flag) at_ x :: s.out ∧ Line.bytes x 0 2 = eOp e ∧
        Line.bytes x 2 2 = status ∧
        Line.bytes x 4 4 = eTag e ∧ Line.bytes x 8 4 = eSeq e ∧ Line.bytes x 12 4 = detail ∧
        Line.bytes x 16 40 = result % 2 ^ 320 ∧ Line.bytes x 56 4 = b.cplSeq.toNat ∧
        Line.bytes x 60 4 = crc32c (toBytes x.toNat 60)) ∧
      (u.box p).cplProd = BitVec.ofNat 12 ((b.cplProd.toNat + 1) % 2 ^ b.cplLog2n.toNat) ∧
      (u.box p).cplSeq = b.cplSeq + 1 ∧ (eNoint e = false → (u.irqGrp p.val).pend.getLsbD 0 = true)) ∧
    (b.enabled = false ∨ (s.port p).removed = true ∨ dead → u.out = s.out ∧ (u.box p).cplDropCnt = satAdd b.cplDropCnt 1)

/-- The intake. Each fetch reads 64 bytes at CMD_CONS. A valid entry that the first row of R297 refuses is answered with that
row's status and DETAIL and not acted on; any other is accepted, behind those accepted before, or ahead of the other port's of
the same cycle where the tie token is this port's; both move CMD_CONS and the expected SEQ on. An entry that is not valid is
fetched again, and the eighth stale one posts STALE_DOORBELL and waits for the next doorbell. Two claims of one cycle pass the
tie token on. An uncorrectable error of the complex's memory is fatal: FATAL is set and the journal is lost; that it is met at a
fetch is the model's reading (notes/assumptions/90.md). -/
def Obligations.EntryIntake : Prop :=
  ∀ (s : State) (p : Port) (e : Line),
    let b := s.box p
    let moved (u : State) : Prop :=
      (u.box p).cmdCons = BitVec.ofNat 12 ((b.cmdCons.toNat + 1) % 2 ^ b.cmdLog2n.toNat) ∧ (u.box p).expSeq = b.expSeq + 1
    let read := s.emit (.hostRead p (if b.cmdCoh then .rdCurr else .memRead)
      (b.cmdBaseLo.toNat * 4096 + b.cmdBaseHi.toNat * 2 ^ 32 + 64 * b.cmdCons.toNat) 64)
    let answered (u : State) (st d : Nat) : Prop := ∃ x, u.out = .cplEntry p b.cplOp (b.cplAddr b.cplProd.toNat) x :: read.out ∧
      Line.bytes x 2 2 = st ∧ Line.bytes x 12 4 = d ∧ u.melvor = s.melvor
    let new : Accepted := { port := p, entry := e }
    let joined (u : State) : Prop := u.melvor = { s.melvor with accepted := s.melvor.accepted ++ [new] } ∧ u.out = read.out
    s.fetchDue p = true → b.events = [] →
    (b.stale = false → entryValid e b.expSeq = true →
      (∀ mem, mem ≠ .ue → intake s p e = none → ∃ u, exec (.entryFetch p e false mem) s = .next u ∧ moved u ∧ joined u) ∧
      (∀ l a mem, mem ≠ .ue → intake s p e = none → s.melvor.accepted = l ++ [a] → a.port ≠ p →
        ∃ u, exec (.entryFetch p e true mem) s = .next u ∧ moved u ∧ u.melvor = { s.melvor with
          accepted := if s.melvor.ownerTok = p then l ++ [new, a] else l ++ [a, new]
          ownerTok := if eOp e = 0x10 ∧ eOp a.entry = 0x10 then 1 - s.melvor.ownerTok else s.melvor.ownerTok }) ∧
      (∀ st d same mem, mem ≠ .ue → intake s p e = some (st, d) →
        ∃ u, exec (.entryFetch p e same mem) s = .next u ∧ moved u ∧ answered u st d)) ∧
    (b.stale = false → entryValid e b.expSeq = false → ∀ same mem, mem ≠ .ue →
      exec (.entryFetch p e same mem) s = .next (read.setBox p { b with stale := true, refetches := 0 })) ∧
    (b.stale = false → s.rel.fatal = false → ∀ same, ∃ u, exec (.entryFetch p e same .ue) s = .next u ∧ u.rel.fatal = true ∧
      u.rel.jstate = 2 ∧ u.mbox = s.mbox ∧ u.melvor.accepted = s.melvor.accepted) ∧
    (b.stale = true → entryValid e b.expSeq = true → intake s p e = none →
      ∃ u, exec (.refetch p e false) s = .next u ∧ moved u ∧ joined u ∧ (u.port p).refetchCnt = satAdd (s.port p).refetchCnt 1) ∧
    (b.stale = true → entryValid e b.expSeq = false → b.refetches ≥ 7 →
      ∃ u, exec (.refetch p e false) s = .next u ∧ answered u 3 8 ∧ (u.box p).waitBell = true ∧ (u.box p).stale = false ∧
        (u.box p).cmdCons = b.cmdCons ∧ (u.port p).staleCnt = satAdd (s.port p).staleCnt 1)

/-- The commands that touch no job but its owner. HELLO negotiates the highest version that both sides speak; a vacant
ownership goes to the first claim of the job's world; a claim against another owner is refused with its number, or taken where a
handover names the port; RELEASE by the owner makes it vacant, and a claim that has been taken then gets it; HANDOVER, by the
owner, names a port of the job's world, whose taken claim gets the ownership once nothing older is pending, and which the expiry
forgets. -/
def Obligations.HelloAndOwnership : Prop :=
  ∀ (s : State) (p : Port) (e : Line),
    let o := s.melvor.owner.toNat
    (NextIs s p 0x02 e → exec (.nop p) s = .next (complete s p e 0 0 0)) ∧
    (NextIs s p 0x20 e → exec (.status p) s = .next (complete s p e 0 0 s.statusResult)) ∧
    (∀ v ∈ [0x0203, 0x0202, 0x0201, 0x0200, 0x0103, 0x0102, 0x0101, 0x0100], NextIs s p 0x01 e → s.pendingOf p ≤ 1 →
      Line.bytes e 8 2 ≤ v → v ≤ Line.bytes e 10 2 →
      (∀ v' ∈ [0x0203, 0x0202, 0x0201, 0x0200, 0x0103, 0x0102, 0x0101, 0x0100], v < v' → Line.bytes e 10 2 < v') →
      ∃ r, exec (.hello p) s = .next (complete (s.setBox p { s.box p with
        negotiated := true, version := BitVec.ofNat 16 v }) p e 0 0 r) ∧ r % 65536 = v) ∧
    (NextIs s p 0x10 e → o = p.val → exec (.claim p) s = .next (complete s p e 0 0 o)) ∧
    (NextIs s p 0x10 e → o = 3 ∨ (o ≠ p.val ∧ s.melvor.handover = some p) → s.worldFits p = false →
      exec (.claim p) s = .next (complete s p e 15 0 o)) ∧
    (NextIs s p 0x10 e → o = 3 → s.worldFits p = true →
      ∃ u, exec (.claim p) s = .next u ∧ u.melvor.owner.toNat = p.val ∧ u.hbm = s.hbm) ∧
    (NextIs s p 0x10 e → o ≠ 3 → o ≠ p.val → s.melvor.handover ≠ some p →
      exec (.claim p) s = .next (complete s p e 8 o o)) ∧
    (NextIs s p 0x10 e → o ≠ 3 → o ≠ p.val → s.melvor.handover = some p → s.worldFits p = true →
      ∃ u, exec (.claim p) s = .next u ∧ u.taken p = some e ∧ u.melvor.owner = s.melvor.owner ∧ u.out = s.out) ∧
    (NextIs s p 0x11 e → o ≠ p.val → exec (.release p) s = .next (complete s p e 7 o o)) ∧
    (NextIs s p 0x11 e → o = p.val → (∀ q, s.taken q = none) → ∃ u, exec (.release p) s = .next u ∧ u.melvor.owner = 3 ∧
      u.melvor.jobState = s.melvor.jobState ∧ u.melvor.handover = none) ∧
    (∀ c, NextIs s p 0x11 e → o = p.val → s.taken p = none → s.taken (1 - p) = some c → s.worldFits (1 - p) = true →
      ∃ u, exec (.release p) s = .next u ∧ u.melvor.owner.toNat = (1 - p : Port).val ∧ u.melvor.jobState = s.melvor.jobState ∧
        u.melvor.handover = none) ∧
    (let q : Port := Fin.ofNat 2 (Line.bytes e 8 1)
     (NextIs s p 0x12 e → o ≠ p.val → exec (.handover p) s = .next (complete s p e 7 o 0)) ∧
     (NextIs s p 0x12 e → o = p.val → s.worldFits q = false → exec (.handover p) s = .next (complete s p e 15 0 0)) ∧
     (NextIs s p 0x12 e → o = p.val → s.worldFits q = true → ∃ u, exec (.handover p) s = .next u ∧
      u.melvor.handover = some q ∧ u.melvor.owner = s.melvor.owner ∧ u.out = s.out)) ∧
    (s.taken p = some e → s.fwOn = true → s.melvor.handover = some p → (s.melvor.accepted.any fun a => a.pre) = false →
      if s.worldFits p then ∃ u, exec (.handoverGrant p) s = .next u ∧ u.melvor.owner.toNat = p.val ∧ u.melvor.handover = none
      else exec (.handoverGrant p) s = .next (complete s p e 15 0 o)) ∧
    (∀ q, s.melvor.handover = some q → s.fwOn = true → s.taken q = none →
      ∃ u, exec .handoverExpiry s = .next u ∧ u.melvor.owner = s.melvor.owner ∧ u.melvor.handover = none)

/-- The commands that write buffers and tables: COUNTERS and FAULT_REPORT write their bytes to BUF and nothing else;
a buffer in host memory whose access ends with an error ends them with HOST_ERR; REGION_ADD fills the lowest free entry and
refuses an overlap, with another region or with a ring of the enabled mailbox; REGION_DEL and PWIN_SET change their entry; PLACE
changes a paused job's object, and refuses a table that Table 10.6 does not allow; GROUP changes the pending freeze of a group's
entry. The statuses and DETAILs of a refused region are the model's choices (notes/assumptions/36.md). -/
def Obligations.BufferAndTableCommands : Prop :=
  ∀ (s : State) (p : Port) (e : Line),
    let a := Line.bytes e 8 8
    let n := Line.bytes e 16 4
    let h := s.port p
    let i := Line.bytes e 8 1
    let wrote (c : Instr) (len : Nat) (f : Nat → Byte) : Prop :=
      ∃ v r, exec c s = .next (complete v p e 0 0 r) ∧ v.tiles = s.tiles ∧ v.melvor = s.melvor ∧
        ∀ b, Sparse.get 0 v.hbm b = if a ≤ b ∧ b < a + len then f (b - a) else Sparse.get 0 s.hbm b
    (NextIs s p 0x21 e → hostWindow a = none → s.bufBlocked a n = false → CleanLines s a n →
      wrote (.counters p false) (s.countersLayout.take n).length fun k => (s.countersLayout.take n).getD k 0) ∧
    (NextIs s p 0x22 e → hostWindow a = none → s.bufBlocked a n = false → CleanLines s a n → s.melvor.lastFault = none →
      wrote (.faultReport p false) n fun _ => 0) ∧
    (NextIs s p 0x21 e → (hostWindow a).isSome = true → s.bufBlocked a n = false →
      exec (.counters p true) s = .next (complete s p e 14 0 0)) ∧
    (NextIs s p 0x22 e → (hostWindow a).isSome = true → s.bufBlocked a n = false →
      exec (.faultReport p true) s = .next (complete s p e 14 0 0)) ∧
    (∀ k < 64, NextIs s p 0x30 e → s.worldFits p = true → (∀ j < k, (Sparse.get {} h.regions j).valid = true) →
      (Sparse.get {} h.regions k).valid = false →
      (∀ x ∈ h.regions, x.2.valid = true → x.2.base + x.2.bytes ≤ Line.bytes e 8 8 ∨ Line.bytes e 8 8 + Line.bytes e 16 8 ≤ x.2.base) →
      s.ringMeets p (Line.bytes e 8 8) (Line.bytes e 16 8) = false →
      let new : Region := ⟨Line.bytes e 8 8, Line.bytes e 16 8, bit (Line.bytes e 24 1) 0, true⟩
      exec (.regionAdd p) s = .next (complete (s.setPort p { h with regions := Sparse.set {} h.regions k new }) p e 0 0 k)) ∧
    (∀ x ∈ h.regions, NextIs s p 0x30 e → x.2.valid = true → x.2.base < Line.bytes e 8 8 + Line.bytes e 16 8 →
      Line.bytes e 8 8 < x.2.base + x.2.bytes → ∃ d, exec (.regionAdd p) s = .next (complete s p e 13 d 0)) ∧
    (NextIs s p 0x30 e → s.ringMeets p (Line.bytes e 8 8) (Line.bytes e 16 8) = true →
      ∃ d, exec (.regionAdd p) s = .next (complete s p e 13 d 0)) ∧
    (NextIs s p 0x31 e → (Sparse.get {} h.regions i).valid = true → s.melvor.jobState = 0 →
      exec (.regionDel p) s = .next (complete (s.setPort p { h with regions := Sparse.set {} h.regions i {} }) p e 0 0 0)) ∧
    (NextIs s p 0x32 e → bit (Line.bytes e 9 1) 0 = true → s.melvor.job = none →
      s.ridsMeet p i (Line.bytes e 10 2) (Line.bytes e 12 2) = false →
      (Line.bytes e 20 4 = 0 ∨ s.inWorld h.secure (Line.bytes e 16 4 * 4096) (Line.bytes e 20 4 * 4096) = true) →
      let new : PlaceEntry :=
        { basePg := BitVec.ofNat 28 (Line.bytes e 16 4), pages := BitVec.ofNat 28 (Line.bytes e 20 4), valid := true
          ridLo := BitVec.ofNat 16 (Line.bytes e 10 2), ridHi := BitVec.ofNat 16 (Line.bytes e 12 2), rdEn := bit (Line.bytes e 9 1) 1 }
      exec (.pwinSet p) s = .next (complete (s.setPort p { h with places := Sparse.set {} h.places i new }) p e 0 0 0)) ∧
    (NextIs s p 0x32 e → bit (Line.bytes e 9 1) 0 = false →
      exec (.pwinSet p) s = .next (complete (s.setPort p { h with places := Sparse.set {} h.places i {} }) p e 0 0 0)) ∧
    (∀ j, NextIs s p 0x54 e → s.melvor.job = some j → s.melvor.jobState = 3 →
      let k := Line.bytes e 8 2
      let old := s.obj k
      let o := { ObjEntry.ofNat (Line.bytes e 16 32) with
        first := if old.valid = true ∨ old.first.isSome = true then some old.firstBase else none }
      let others := s.melvor.objects.filter fun x => x.1 ≠ k
      let live := (k, o) :: others.filter fun x => x.2.valid && !s.melvor.replace.contains x.1
      entryClean (Line.bytes e 16 32) = true → s.placeOut others k o = false → o.valid = true →
      ((∀ x ∈ live, kindTier live x.2 = true) → s.placeWorld j.world o = true →
        exec (.place p) s = .next (complete { s with melvor := { s.melvor with
          objects := Sparse.set {} s.melvor.objects k o, replace := s.melvor.replace.filter fun x => x ≠ k } } p e 0 0 0)) ∧
      (∀ x ∈ live, kindTier live x.2 = false → exec (.place p) s = .next (complete s p e 13 k 0))) ∧
    (∀ j, NextIs s p 0x55 e → s.melvor.job = some j →
      let g := Line.bytes e 8 2
      let at_ := j.groupTable.toNat + 64 * g
      g < j.groups → s.melvor.shown.toNat < Line.bytes e 12 4 → s.bytesBlocked .melvor true at_ 16 = false →
      CleanLines s at_ 16 →
      ∃ v, exec (.group p) s = .next (complete v p e 0 0 0) ∧ v.tiles = s.tiles ∧
        ∀ b, Sparse.get 0 v.hbm b =
          if b = at_ + 1 then BitVec.ofNat 8 (Line.bytes e 10 1 % 2)
          else if at_ + 4 ≤ b ∧ b < at_ + 8 then BitVec.ofNat 8 (Line.bytes e (12 + (b - at_ - 4)) 1)
          else Sparse.get 0 s.hbm b)

/-- The loader. Staging leaves fold and tiles as they are and answers LOADER_ERROR with the first failing check's number,
or OK; activating an unpartitioned image on a drained fold replaces it: every tile of the image runs from word 0 with its
slot counter at 0, and LOADER_BUSY is 0. In other job states it is BAD_STATE, and a loader at work is BUSY. A partition
whose set is complete starts the same way, and otherwise no fold is loaded. That BAD_STATE comes before BUSY
(notes/assumptions/38.md), which tiles are cleared (notes/assumptions/21.md) and how a partition learns of its set
(notes/assumptions/68.md) are the model's reading. -/
def Obligations.Loader : Prop :=
  ∀ (s : State) (p : Port) (e : Line),
    let slot := Line.bytes e 8 1
    let st := s.melvor.jobState
    let r := loadImage s slot (s.port p).secure
    let fold (u : State) (img k : Nat) : Prop :=
      u.melvor.fold = some (foldOf img k) ∧ u.melvor.foldFrozen = false ∧ u.melvor.loaderBusy = false ∧
      u.melvor.activations = s.melvor.activations + 1 ∧
      ∀ t ∈ (foldOf img k).tiles, (u.tile t).inFold = true ∧ (u.tile t).core.state = 1 ∧ (u.tile t).core.pc = 0 ∧
        (u.tile t).core.regs = [] ∧ (u.tile t).router.slotCnt = 0 ∧ (u.tile t).router.entry = 0 ∧
        (u.tile t).router.fault = none ∧ (u.tile t).amem = [] ∧ (u.tile t).flaws = []
    let ready (img : Nat) : Prop := s.melvor.rowMapStale = false ∧ s.rel.retirePend = false ∧ s.rel.overflow = [] ∧
      ∀ t ∈ (foldOf img slot).tiles, s.tileOk t = true
    (NextIs s p 0x40 e → s.melvor.loaderBusy = true → exec (.imageStage p) s = .next (complete s p e 11 0 0)) ∧
    (NextIs s p 0x40 e → s.melvor.loaderBusy = false → s.slotBlocked slot = false →
      (s.box p).events = [] → (s.box p).enabled = true → (s.port p).removed = false →
      (∀ a ∈ s.melvor.accepted, a.dead = false) →
      ∃ u x, exec (.imageStage p) s = .next u ∧ u.tiles = s.tiles ∧ u.melvor.fold = s.melvor.fold ∧
        u.out = .cplEntry p (s.box p).cplOp ((s.box p).cplAddr (s.box p).cplProd.toNat) x :: s.out ∧
          Line.bytes x 2 2 = (if r.2.1.isSome then 12 else 0) ∧
        ∀ b, r.2.1 = some b → Line.bytes x 12 4 = b.code % 2 ^ 32) ∧
    (NextIs s p 0x41 e → st ≠ 0 → st ≠ 3 → st ≠ 4 → ∃ v, v.melvor = s.melvor ∧ v.tiles = s.tiles ∧
      exec (.imageActivate p) s = .next (complete v p e 10 s.jobShown.toNat s.statusResult)) ∧
    (NextIs s p 0x41 e → st = 0 ∨ st = 3 ∨ st = 4 → s.melvor.loaderBusy = false → s.slotBlocked slot = false →
      s.power.point ≠ .night → s.power.nightReq = false → s.drained = true → r.2.1 = none → bit (gField r.2.2 6 2) 1 = false →
      ready r.2.2 → ∃ u, exec (.imageActivate p) s = .next u ∧ fold u r.2.2 slot) ∧
    (∀ a b c, s.melvor.pendingAct = some a → s.fwOn = true →
      let img := a.image
      ((b && c) = false → s.melvor.fold = none → ∃ u, exec (.partitionStart b c) s = .next u ∧ u.melvor.fold = none ∧
        u.melvor.loaderBusy = false ∧ u.melvor.pendingAct = none ∧ u.tiles = s.tiles) ∧
      (s.melvor.rowMapStale = false → s.rel.retirePend = false → s.rel.overflow = [] →
        (∀ t ∈ (foldOf img a.fold.slot).tiles, s.tileOk t = true) →
        ∃ u, exec (.partitionStart true true) s = .next u ∧ fold u img a.fold.slot ∧ u.melvor.pendingAct = none))

/-- The life of a job on one module. JOB_START of a job that passes its checks runs it from its first step with its
loss-scale exponent, every release one step behind; JOB_PAUSE names the step in progress as the boundary; JOB_RESUME runs
a paused job on, and a faulted one, after an activation, from its undone step; where the write-back of the journal fails
the job stays faulted and the command ends with FOLD_FAULT, the journal lost where a page of it was; JOB_STOP of a paused
job ends it. What the job's state does not allow is BAD_STATE with the state that hosts see. How a write-back fails, and
the status then, are the model's choices (notes/assumptions/95.md). -/
def Obligations.JobCommands : Prop :=
  ∀ (s : State) (p : Port) (e : Line),
    let st := s.melvor.jobState
    let a := Line.bytes e 8 8
    let n := Line.bytes e 16 4
    let d := readBytes s.hbm a n
    let j := jobOf d n (s.port p).secure
    (NextIs s p 0x50 e → st = 0 → s.melvor.starting = none → s.melvor.loaderBusy = false → s.melvor.fold.isSome = true →
      hostWindow a = none → s.bytesBlocked .melvor false a n = false →
      s.groupsBlocked j = false → startBad s p d n j = none →
      s.snap.held = none → j.modules = 1 →
      ∃ u, exec (.jobStart p [] false) s = .next u ∧ u.melvor.jobState = 1 ∧ u.melvor.job = some j ∧
        u.melvor.step = j.start ∧ u.melvor.shown = j.start ∧ u.melvor.loss = { lse := j.lseInit } ∧ u.grp.grouped = true ∧
          u.grp.top = true ∧
        u.hbm = s.hbm ∧ u.arb.split = false ∧ ∀ k < 16, ∀ l, (u.drover k).lrelAt l = j.start - 1 ∧
          (u.drover k).grelAt l = j.start - 1) ∧
    (NextIs s p 0x51 e → st = 1 → s.grp.top = true → s.grp.modules.toNat ≤ 1 →
      ∃ u, exec (.jobPause p) s = .next u ∧ u.melvor.jobState = 2 ∧ u.grp.boundary = some s.melvor.step ∧ u.out = s.out) ∧
    (NextIs s p 0x51 e → st ≠ 1 → exec (.jobPause p) s = .next (complete s p e 10 s.jobShown.toNat s.statusResult)) ∧
    (∀ found w, NextIs s p 0x52 e → s.melvor.replace = [] → s.melvor.step ≠ 0xFFFFFFFF#32 → s.unreachable = false →
      s.grp.top = true → s.grp.modules = 1 → s.melvor.job.isSome = true →
      (st = 3 → ∃ u, exec (.jobResume p found w) s = .next u ∧ u.melvor.jobState = 1 ∧ u.melvor.step = s.melvor.step ∧
        u.melvor.shown = s.melvor.step ∧ u.grp.boundary = none) ∧
      (st = 4 → s.melvor.activatedSinceFault = true → s.rel.jstate ≠ 2 → s.undoBlocked = false →
        (w = .ok → s.rel.jindex = [] → ∃ u, exec (.jobResume p found w) s = .next u ∧ u.melvor.jobState = 1 ∧
          u.melvor.step = s.melvor.step ∧ u.melvor.shown = s.melvor.step ∧ u.melvor.loss = s.rel.jhead.loss ∧
          u.rel.stepsReplayed = satAdd s.rel.stepsReplayed 1 ∧ ∀ k < 16, ∀ l, (u.drover k).lrelAt l = s.melvor.step - 1 ∧
            (u.drover k).grelAt l = s.melvor.step - 1) ∧
        (w ≠ .ok → ∃ v, exec (.jobResume p found w) s = .next (complete v p e 0x12 0 s.statusResult) ∧ v.melvor = s.melvor ∧
          v.hbm = s.hbm ∧ v.rel.jindex = s.rel.jindex ∧
          v.rel.jstate = (if w = .lost then 2 else if s.rel.jindex = [] then 0 else 1)))) ∧
    (∀ found w, NextIs s p 0x52 e → st ≠ 3 → st ≠ 4 → ∃ v, v.melvor = s.melvor ∧
      exec (.jobResume p found w) s = .next (complete v p e 10 s.jobShown.toNat s.statusResult)) ∧
    (NextIs s p 0x53 e → st = 3 → bit (Line.bytes e 8 1) 0 = false → s.rel.fatal = false →
      ∃ u, exec (.jobStop p) s = .next u ∧ u.melvor.jobState = 0 ∧ u.melvor.job = none ∧ u.rel.jstate = 0 ∧
        u.grp.grouped = false ∧ u.hbm = s.hbm) ∧
    (NextIs s p 0x53 e → st = 0 ∨ st = 5 → exec (.jobStop p) s = .next (complete s p e 10 s.jobShown.toNat s.statusResult))

/-! ## Fold links and the exchange (spec 14) -/

namespace Sys2Proof.Machine

/-- Nothing waits to be sent on the port. -/
abbrev LinkPort.quiet (l : LinkPort) : Prop := l.outMsgs = [] ∧ l.outSlots = []

/-- The contributions of a combine, one for each of its sources in ascending order, where all are in. -/
def combineSources (s : State) (level obj frame micro : Nat) : Option (List Contrib) :=
  let g := s.grp
  let me := g.member.toNat
  let need := if level = 0 then (List.range g.bb).map fun p => me / g.bb * g.bb + p
    else (List.range g.qq).map fun q => q * g.bb + me % g.bb
  need.mapM fun m => (g.contribs.filter fun c => c.at_ level s.melvor.step obj frame micro).find? fun c => c.src = m

/-- A flit as it leaves port `f`: its header with the acknowledgement `ack`, its payload, and the CRC over both. -/
def flitOf (f : FoldPort) (ack : BitVec 12) (nak : Bool) (ftype : Nat) (x : SentFlit) : Out :=
  let hdr := flitHeader x.fseq ack true nak ftype x.sids
  let body := (List.range 4).map fun i => x.body.getD i 0
  .flit f hdr body (flitCrc hdr body) x.tags

/-- An idle flit of port `f`, which carries the last FSEQ sent and the acknowledgement. -/
def idleFlit (f : FoldPort) (l : LinkPort) (nak : Bool) : Out := flitOf f l.ackSeq nak 2 ⟨l.nextFseq - 1, false, [], [], []⟩

/-- Whole, with a CRC that is right. -/
abbrev FlitGood (x : Flit) : Prop := x.fecBad = false ∧ x.crc = flitCrc x.hdr x.payload

end Sys2Proof.Machine

/-- Flits at a port that is up. One in order counts and moves ACKSEQ on, and a token of an inbound cut in one of its slots
joins the cut's queue; one seen before is dropped; the first flit with a bad CRC is discarded and answered with a NAK. An
acknowledgement releases the flits up to its ACKSEQ; a timeout sends every unacknowledged flit again, and the sixteenth in
a row retrains the port; the acknowledgement timer sends ACKSEQ; CREDIT adds to its stream, or goes on towards its sender.
The form of the CRC (notes/assumptions/85.md), the tags beside a flit (notes/assumptions/11.md), the numbers of a link's
streams (notes/assumptions/26.md), a flit out of order (notes/assumptions/44.md) and what a CREDIT names
(notes/assumptions/42.md, 83.md) are the model's choices. -/
def Obligations.Flits : Prop :=
  ∀ (s : State) (f : FoldPort) (x : Flit),
    let l := s.link f
    let sym := satAdd l.fecSym x.fecSym
    let next := fFseq x = l.ackSeq + 1
    l.up = true → l.quiet →
    (FlitGood x → fAckv x = false → fNak x = false →
      (fType x = 1 → (∀ m ∈ fMsgs x, ctlKnown m = true) → next → l.toAck + 1 < 64 →
        exec (.flitReceive f x) s = .next (s.setLink f { l with
          fecSym := sym, ackSeq := fFseq x, flitsRx := satAdd l.flitsRx 1, toAck := l.toAck + 1, discarding := false })) ∧
      (∀ n k st d i c, fType x = 0 → fSlots x = [(n, k)] → next → (s.streamsIn f)[n]? = some st → st.dst = s.rank →
        s.cutOf st = some (d, i, c) →
        ∃ u, exec (.flitReceive f x) s = .next u ∧ (u.link f).ackSeq = fFseq x ∧
          (u.drover d).cuts = (s.drover d).cuts.set i
            { c with toks := c.toks ++ [gwToken k.data c.queue (bit k.tag.toNat 3)] }) ∧
      (fType x < 2 → ¬next → (l.ackSeq - fFseq x).toNat < 2048 →
        exec (.flitReceive f x) s = .next (s.setLink f { l with fecSym := sym }))) ∧
    (x.fecBad = false → x.crc ≠ flitCrc x.hdr x.payload → l.discarding = false →
      exec (.flitReceive f x) s = .next ((s.setLink f { l with
        fecSym := sym, crcErr := satAdd l.crcErr 1, discarding := true, toAck := 0 }).emit (idleFlit f l true))) ∧
    (∀ pre y post, FlitGood x → fAckv x = true → fNak x = false → fType x = 2 →
      l.replayBuf = pre ++ y :: post → y.fseq = fAckseq x → (∀ z ∈ pre, z.fseq ≠ fAckseq x) →
      exec (.flitReceive f x) s = .next (s.setLink f { l with fecSym := sym, replayBuf := post, stuck := 0 })) ∧
    (l.replayBuf ≠ [] → l.stuck + 1 < 16 →
      exec (.replayTimeout f) s = .next { s.setLink f { l with
          replays := satAdd l.replays 1, stuck := l.stuck + 1, toAck := 0 } with
        out := (l.replayBuf.map fun y => flitOf f l.ackSeq false (b2n y.ctrl) y).reverse ++ s.out }) ∧
    (l.replayBuf ≠ [] → l.stuck + 1 ≥ 16 → l.training = false → l.holdDown = false →
      ∃ u, exec (.replayTimeout f) s = .next u ∧ (u.link f).training = true ∧ (u.link f).retrains = satAdd l.retrains 1 ∧
        u.out.head? = some (.retrain f)) ∧
    (l.toAck > 0 → exec (.ackTimer f) s = .next ((s.setLink f { l with toAck := 0 }).emit (idleFlit f l false))) ∧
    (∀ (k : Byte) (n : BitVec 16), ((s.streamsOut f)[k.toNat]? = none → exec (.credit f k n) s = .next s) ∧
      ∀ st, (s.streamsOut f)[k.toNat]? = some st →
        (st.src ≠ s.rank → exec (.credit f k n) s = .next (creditStream s st n.toNat)) ∧
        (st.src = s.rank → ∃ u, exec (.credit f k n) s = .next u ∧
          Sparse.get 0 (u.link f).credits k.toNat = Sparse.get 0 l.credits k.toNat + n.toNat ∧
          (∀ j, j ≠ k.toNat → Sparse.get 0 (u.link f).credits j = Sparse.get 0 l.credits j) ∧ u.out = s.out ∧
          u.grp = (frameBack s st n.toNat).grp))

/-- Links train, and a group forms over them. A lost lane lock or RETRAIN begins a retrain, on which a port that is down
sends its HELLO; its end with every lane whole keeps the port up at full width, with one half whole of a version-3 link at
half width, and any other takes it down, as more than 10 ms does; HOLD_DOWN stops an unrouted port; both sides' HELLO with
FW_READY complete the training at the lower version, and the HELLO of a partner that trains brings a port that is down
into training too. JOIN completes: the module that a matching one names has joined, any other is kept for a start to come,
and each goes on over the other links of version 2, but not to the module it names; a rank taken twice refuses the start.
JOIN_TIMEOUT completes: the start is refused, and its JOB_START is answered with BAD_ARG that names MODULES. GROUP_FORMED
completes: once MODULES modules have joined, each knows its place in the order of the ranks and the job runs from its
first step; a link with too many streams, or boards of different size, refuse it. How a JOIN goes on, and the refusal of a
rank taken twice, are the model's choices (notes/assumptions/43.md), as is the count of the streams
(notes/assumptions/26.md). -/
def Obligations.LinksAndGroups : Prop :=
  (∀ (s : State) (f : FoldPort) (w : Agent),
    let l := s.link f
    let began := (s.setLink f { l with training := true, retrains := satAdd l.retrains 1, stuck := 0
                                       peerReady := l.up && l.peerReady }).emit (.retrain f)
    (l.training = false → l.holdDown = false →
      (l.up = true → ∀ lane, exec (.fecLockLoss f lane) s = .next began) ∧
      (MayWrite s w (0x20 + f.val) 8 →
        exec (.retrain w f) s = .next (if l.up then began else began.emit (.linkCtrl f (helloMsg s f))))) ∧
    (l.training = true → l.up = true → l.quiet →
      exec (.retrainEnd f 0 false) s = .next (s.setLink f { l with half := false, training := false }) ∧
      (∀ bad, bad ≠ 0 → halfWhole bad = true → l.version = 3 → ∃ u, exec (.retrainEnd f bad false) s = .next u ∧
        u.link f = { l with half := true, training := false } ∧ (l.half = true → u.irq = s.irq)) ∧
      (∀ bad late, late = true ∨ halfWhole bad = false → ∃ u, exec (.retrainEnd f bad late) s = .next u ∧
        (u.link f).up = false ∧ (u.link f).training = false ∧ (u.link f).downCnt = satAdd l.downCnt 1 ∧
        (l.routed = true → s.grp.fault = none → u.grp.fault = some ⟨1, BitVec.ofNat 4 f.val, 0, 0⟩))) ∧
    (MayWrite s w (0x20 + f.val) 8 →
      (l.routed = true → exec (.holdDown w f true) s = .next s) ∧
      (l.routed = false → ∃ u, exec (.holdDown w f true) s = .next u ∧ (u.link f).holdDown = true ∧ (u.link f).up = false ∧
        (u.link f).training = false)) ∧
    (∀ (v : BitVec 2) (rank : BitVec 12) (q : BitVec 4), l.training = true → l.up = false → l.holdDown = false → l.half = false →
      s.melvor.fwReady = true → rank.toNat / 8 ≠ s.grp.board.toNat → l.miswired = false →
      exec (.linkHello f v rank q true) s = .next (s.setLink f { l with
        peerSlot := BitVec.ofNat 3 rank.toNat, peerBoard := BitVec.ofNat 9 (rank.toNat / 8), peerPort := q, peerValid := true
        peerReady := true, peerVersion := v, miswired := false, up := true, training := false
        version := if v = 0 then 1 else v, nextFseq := 0, replayBuf := [], ackSeq := 0xFFF#12, toAck := 0
        discarding := false, stuck := 0 })) ∧
    (∀ (v : BitVec 2) (rank : BitVec 12) (q : BitVec 4) (ready : Bool), l.training = false → l.up = false → l.holdDown = false →
      s.boot.stage ≥ 2 → ∃ u, exec (.linkHello f v rank q ready) s = .next u ∧ u.out = .linkCtrl f (helloMsg s f) :: s.out ∧
        (u.link f).retrains = l.retrains ∧ (u.link f).peerReady = ready ∧ (u.link f).peerVersion = v ∧
        (if ready = true ∧ s.melvor.fwReady = true then (u.link f).up = true ∧ (u.link f).training = false
         else (u.link f).up = false ∧ (u.link f).training = true))) ∧
  ∀ (s : State) (f : FoldPort) (rank : BitVec 12) (kind : Byte) (part : BitVec 16) (key : BitVec 64) (modules : BitVec 16),
    let g := s.grp
    let mine := match s.melvor.fold with | some x => b2n x.partitioned | none => 0
    let x : Nat × Nat × Nat × BitVec 64 × Nat := (rank.toNat, kind.toNat, part.toNat, key, modules.toNat)
    let refused (u : State) : Prop := u.melvor.starting = none ∧ u.melvor.jobState = s.melvor.jobState ∧
      u.melvor.job = s.melvor.job ∧ u.hbm = s.hbm ∧ u.tiles = s.tiles
    let msg := ctlMsg 0x10 kind.toNat part.toNat (key.toNat % 2 ^ 32) (key.toNat / 2 ^ 32 + modules.toNat * 2 ^ 32)
    s.fwOn = true →
    (x ∈ g.heard ∨ (s.link f).up = false ∨ (s.link f).miswired = true → exec (.join f rank kind part key modules) s = .next s) ∧
    (x ∉ g.heard → (s.link f).up = true → (s.link f).miswired = false → ∃ u, exec (.join f rank kind part key modules) s = .next u ∧
      (∀ k < 12, let l := s.link k
        (u.link k).outMsgs = l.outMsgs ++
          if k ≠ f.val ∧ l.up = true ∧ l.miswired = false ∧ l.peerValid = true ∧ l.version.toNat ≥ 2 ∧
            l.peerBoard.toNat * 8 + l.peerSlot.toNat ≠ rank.toNat then [msg] else []) ∧
      let kept : Prop := u.melvor = s.melvor ∧ u.grp = { g with heard := g.heard ++ [x] }
      (s.melvor.starting = none → kept) ∧
      ∀ j, s.melvor.starting = some j →
        (key ≠ g.key ∨ modules.toNat ≠ j.modules ∨ kind.toNat ≠ mine → kept) ∧
        (key = g.key → modules.toNat = j.modules → kind.toNat = mine →
          ((∀ y ∈ g.joined, y.1 ≠ rank.toNat ∧ (mine = 1 → y.2 ≠ part.toNat)) → u.melvor = s.melvor ∧
            u.grp = { g with heard := g.heard ++ [x], joined := g.joined ++ [(rank.toNat, part.toNat)] }) ∧
          ((rank.toNat, part.toNat) ∉ g.joined → (∃ y ∈ g.joined, y.1 = rank.toNat ∨ (mine = 1 ∧ y.2 = part.toNat)) → refused u) ∧
          ((rank.toNat, part.toNat) ∈ g.joined → (rank.toNat = s.rank → refused u) ∧ (rank.toNat ≠ s.rank → kept)))) ∧
    (s.melvor.starting = none → exec .joinTimeout s = .next s ∧ ∀ links cuts, exec (.groupFormed links cuts) s = .next s) ∧
    (∀ j, s.melvor.starting = some j →
      (∃ u, exec .joinTimeout s = .next u ∧ refused u ∧
        ∀ a, (s.melvor.accepted.filter fun c => c.started && !c.done && decide (eOp c.entry = 0x50)) = [a] →
          (∀ c ∈ s.melvor.accepted, c.dead = false) → (s.box a.port).events = [] → (s.box a.port).enabled = true →
          (s.port a.port).removed = false →
          ∃ op at_ e, u.out = .cplEntry a.port op at_ e :: s.out ∧ Line.bytes e 2 2 = 9 ∧ Line.bytes e 12 4 = 0x80000030) ∧
      (∀ links cuts, s.groupsBlocked j = true → exec (.groupFormed links cuts) s = .next s) ∧
      (∀ links cuts, g.joined.length = j.modules → s.groupsBlocked j = false →
        let ranks := (sortBy (fun x y => decide (x ≤ y))
          (g.joined.map fun y => if mine = 1 then y.2 * 4096 + y.1 else y.1)).map (· % 4096)
        let graph := s.graphOf links
        let i := ranks.findIdx fun r => r = s.rank
        let linked := ∀ r ∈ ranks, r ≠ s.rank → (nextHop graph r s.rank).isSome = true ∧ (nextHop graph s.rank r).isSome = true
        (¬linked → exec (.groupFormed links cuts) s = .next s) ∧
        (linked → badRoutes graph ranks cuts = true → ∃ u, exec (.groupFormed links cuts) s = .next u ∧ refused u) ∧
        (linked → badRoutes graph ranks cuts = false → s.snap.held = none →
          (∀ c ∈ boardCounts ranks, c = (boardCounts ranks).headD 1) →
          ∃ u, exec (.groupFormed links cuts) s = .next u ∧ u.melvor.jobState = 1 ∧ u.melvor.job = some j ∧
            u.melvor.starting = none ∧ u.melvor.step = j.start ∧ u.melvor.loss = { lse := j.lseInit } ∧ u.grp.grouped = true ∧
            u.grp.member = BitVec.ofNat 12 i ∧ u.grp.modules = BitVec.ofNat 13 j.modules ∧ u.grp.ranks = ranks ∧
            u.grp.bellwether = decide (i % 64 = 0) ∧ u.grp.top = decide (i = 0) ∧ u.hbm = s.hbm)))

/-- The exchange's data. A REDUCE frame becomes one contribution, its words widened and its NV and SAT ORed into the
step's flags; a combine of the first micro-batch puts the sum, clamped to W32, into the accumulator, or sends it on as a
frame where a second level follows; a GATHER frame for memory is written, one for a stream waits, and one of the next step
waits; one that does not fit its object is exchange fault 3 with its source, and from an exchange fault on no frame is
taken; a timeout is exchange fault 4, an uncorrectable error of the exchange store exchange fault 5. Where that error is
met is the model's reading (notes/assumptions/90.md), and the tokens of a frame on a link are its choice
(notes/assumptions/83.md). -/
def Obligations.ExchangeData : Prop :=
  ∀ (s : State) (f : FoldPort) (lvl : Fin 2) (src : Nat) (x : Frame),
    let g := s.grp
    let t := s.melvor.step
    let key := x.obj * 2 ^ 32 + x.frame
    let o := s.obj x.obj
    (g.grouped = true → s.melvor.foldFrozen = false → (s.link f).up = true → (s.link f).miswired = false → x.step = t →
      (∀ c ∈ g.contribs, c.at_ lvl t x.obj x.frame x.micro = true → c.src ≠ src) → Sparse.get 0 g.added key ≤ x.micro →
      ∃ u c, exec (.reduceFrame f lvl src x) s = .next u ∧ u.grp.contribs = g.contribs ++ [c] ∧ c.src = src ∧
        c.at_ lvl t x.obj x.frame x.micro = true ∧ c.words = (widenFrame x).map A44.toBits ∧
        u.grp.flagsOf t = ((g.flagsOf t).1 || anyNv (widenFrame x), (g.flagsOf t).2 || anySat (widenFrame x)) ∧
        (u.link f).redFrames = satAdd (s.link f).redFrames 1 ∧ u.hbm = s.hbm) ∧
    (∀ c cs, combineSources s lvl x.obj x.frame 0 = some (c :: cs) → g.grouped = true → s.jobActive = true →
      s.melvor.foldFrozen = false →
      let n := c.words.length
      let ws := combineWords ((c :: cs).map fun y => y.words.map A44.ofBits) (List.replicate n {})
      let a := o.base.toNat + 8192 * x.frame
      let sc := o.base.toNat + (c.nelem + 63) / 64 * 256 + 32 * x.frame
      let left := g.contribs.filter fun c => !c.at_ lvl t x.obj x.frame 0
      (g.fault = none → exec (.combine lvl x.obj x.frame 0 .ue) s =
        .next (fire { s with grp := { g with fault := some ⟨5, 15, 0, 0⟩ } } 108)) ∧
      (lvl = 1 ∨ g.qq = 1 → Sparse.get 0 g.added key = 0 → s.accBlocked x.obj x.frame c.nelem n = false → o.valid = true →
        objFits o.bytes c.nelem 0 = true → s.unreached xReq true a (4 * n) = false →
        s.unreached xReq true sc ((n + 63) / 64) = false → CleanLines s a (4 * n) → CleanLines s sc ((n + 63) / 64) →
        2048 * x.frame + n ≤ c.nelem → ws.length = n →
        ∀ store, store ≠ .ue → ∃ u, exec (.combine lvl x.obj x.frame 0 store) s = .next u ∧ u.grp.contribs = left ∧
          Sparse.get 0 u.grp.added key = 1 ∧
          ∀ i < n, readBytes u.hbm (a + 4 * i) 4 =
            toW32 (if (ws.getD i {}).nv then none else some (clampTo (2 ^ 31 - 1) (ws.getD i {}).v))) ∧
      (lvl = 0 → g.qq ≠ 1 → g.brd c.nelem x.frame * g.bb + g.member.toNat % g.bb ≠ g.member.toNat →
        s.sendBusy (g.brd c.nelem x.frame * g.bb + g.member.toNat % g.bb) = false →
        s.windowFull 1 (g.brd c.nelem x.frame * g.bb + g.member.toNat % g.bb) = false → ∀ store, store ≠ .ue →
        ∃ u y, exec (.combine lvl x.obj x.frame 0 store) s = .next u ∧ u.grp.contribs = left ∧ u.hbm = s.hbm ∧
          y.obj = x.obj ∧ y.frame = x.frame ∧ y.eg = c.eg ∧ y.nelem = c.nelem ∧
          ∀ p k, s.streamOut (s.streamTo (g.brd c.nelem x.frame * g.bb + g.member.toNat % g.bb)) = some (p, k) →
            (u.link p).outSlots = (s.link p).outSlots ++ (linkFrame 1 y).map fun d => (k, d))) ∧
    (∀ store, g.grouped = true → s.melvor.foldFrozen = false → (s.link f).up = true → (s.link f).miswired = false →
      (x.step = t → g.fault.isSome = true → exec (.gatherFrame f src x store) s = .next s) ∧
      (x.step = t → g.fault = none → s.jobActive = true → x.rx = 0xFF → s.frameBlocked x = false → o.valid = false →
        exec (.gatherFrame f src x store) s =
          .next (fire { s with grp := { g with fault := some ⟨3, 15, 0, BitVec.ofNat 12 src⟩ } } 108)) ∧
      (x.step = t + 1 → exec (.gatherFrame f src x store) s = .next { s with grp := { g with early := g.early ++ [(src, x)] } }) ∧
      (x.step = t → g.fault = none → s.jobActive = true → x.rx ≠ 0xFF → x.layerEnd = false →
        (∀ l < s.layerCount, s.layerEnded l = false) → exec (.gatherFrame f src x store) s = .next { s with grp := { g with
          early := g.early ++ [(src, x)], gathering := if x.lidx ∈ g.gathering then g.gathering else g.gathering ++ [x.lidx] } }) ∧
      (x.step = t → g.fault = none → s.jobActive = true → x.rx = 0xFF → x.dfmt = 1 → s.frameBlocked x = false → o.valid = true →
        (o.kind = 4 ∨ o.kind = 6) → objFits o.bytes x.nelem 1 = true → 2048 * x.frame + x.elems.length ≤ x.nelem →
        let a := o.base.toNat + 2048 * x.frame
        let sc := o.base.toNat + (x.nelem + 31) / 32 * 32 + 64 * x.frame
        let k := (x.elems.length + 31) / 32
        s.unreached xReq true a x.elems.length = false → s.unreached xReq true sc k = false →
        CleanLines s a x.elems.length → CleanLines s sc k →
        ∃ u, exec (.gatherFrame f src x store) s = .next u ∧ ∀ i < x.elems.length,
          Sparse.get 0 u.hbm (a + i) = BitVec.ofNat 8 (x.elems.getD i 0).toNat)) ∧
    (s.exchOn = true → s.exchWaits = true → exec .exchTimeout s =
      .next (fire { s with grp := { g with fault := some ⟨4, 0xF, 0, 0⟩ } } 108))

/-- Agreement and commit of the step in progress. A member whose reduction is complete counts its flags once; a bellwether
adds what it receives; the agreed flags set the loss scale by its rule and release every parameter group in every drover;
DONE counts the same way; COMMIT makes the next step the one in progress with an empty journal, or pauses or ends the job at its
boundary, where STEP stays that of the last completed step, or where the step index has run out. -/
def Obligations.AgreeAndCommit : Prop :=
  ∀ (s : State) (j : Job),
    let g := s.grp
    let t := s.melvor.step
    s.melvor.job = some j → s.fwOn = true → s.exchOn = true →
    (g.agreeSent = false → (∀ q ∈ s.txQueues 1, q.final = t.toNat + 1) →
      s.reduced j = true →
      ∃ u, exec .agreeUpSend s = .next u ∧ u.grp.agreeSent = true ∧ u.grp.covered = g.covered + 1 ∧
        u.grp.gnv = (g.gnv || (s.gradFlags t).1) ∧ u.grp.gsat = (g.gsat || (s.gradFlags t).2) ∧ u.melvor = s.melvor) ∧
    (∀ nv sat n, g.bellwether = true → g.covered + n ≤ g.gathers →
      ∃ u, exec (.agreeUp t nv sat n) s = .next u ∧ u.grp.covered = g.covered + n ∧ u.grp.gnv = (g.gnv || nv) ∧
        u.grp.gsat = (g.gsat || sat) ∧ u.melvor = s.melvor) ∧
    (∀ nv sat, (g.top = true → g.covered ≥ g.modules.toNat) → g.agreeSent = true → g.agreed = false → s.groupsBlocked j = false →
      ∃ u, exec (.agreeDown t nv sat) s = .next u ∧ u.grp.agreed = true ∧ u.melvor.step = t ∧
        (let nv := if g.top then g.gnv else nv
         let sat := if g.top then g.gsat else sat
         let l := s.melvor.loss
         u.melvor.loss =
          if (nv || sat) = true then { l with
            lse := max (l.lse - 1) j.lsMin, clean := 0, halvings := satAdd l.halvings 1
            skipped := if j.lsMode then satAdd l.skipped 1 else l.skipped }
          else if l.clean + 1 = j.lsN then { l with lse := min (l.lse + 1) j.lsMax, clean := 0 }
          else { l with clean := l.clean + 1 }) ∧
        ∀ d < 16, ∀ k < j.groups, (u.drover d).grelAt k = t) ∧
    (g.agreed = true → g.doneSent = false → s.stepDone j = true →
      ∃ u, exec .doneSend s = .next u ∧ u.grp.doneSent = true ∧ u.grp.doneCovered = g.doneCovered + 1 ∧ u.melvor = s.melvor) ∧
    (∀ n, g.bellwether = true → g.doneCovered + n ≤ g.gathers →
      ∃ u, exec (.doneMsg t n) s = .next u ∧ u.grp.doneCovered = g.doneCovered + n ∧ u.melvor = s.melvor) ∧
    (g.doneSent = true → (g.top = true → g.doneCovered ≥ g.modules.toNat) → s.tableBlocked = false → s.earlyBlocked = false → ∀ store,
      (t + 1 = 0xFFFFFFFF#32 →
        (s.melvor.jobState = 1 ∨ s.melvor.jobState = 2 → ∃ u, exec (.commit t store) s = .next u ∧ u.melvor.step = t + 1 ∧
          u.melvor.shown = t ∧ u.melvor.jobState = 3) ∧
        (s.melvor.jobState = 5 → ∃ u, exec (.commit t store) s = .next u ∧ u.melvor.jobState = 0 ∧ u.melvor.job = none)) ∧
      (s.melvor.jobState = 5 → g.boundary = some t → ∃ u, exec (.commit t store) s = .next u ∧ u.melvor.shown = t ∧
        u.melvor.jobState = 0 ∧ u.melvor.job = none) ∧
      (t + 1 ≠ 0xFFFFFFFF#32 → s.melvor.jobState = 1 → ∃ u, exec (.commit t store) s = .next u ∧
        u.melvor.step = t + 1 ∧ u.melvor.jobState = 1 ∧
        u.melvor.shown = t + 1 ∧ ((∀ y ∈ g.early, y.2.step ≠ t + 1) → u.rel.jindex = []) ∧ u.rel.jstep = t + 1 ∧
        u.grp.agreeSent = false ∧ u.grp.doneSent = false) ∧
      (s.melvor.jobState = 2 → g.boundary = some t → ∃ u, exec (.commit t store) s = .next u ∧ u.melvor.step = t + 1 ∧
        u.melvor.shown = t ∧ u.melvor.jobState = 3 ∧ u.grp.boundary = none))

/-- FREEZE of a step already frozen only counts; the first one freezes the fold and faults a running job with cause 3; one
that a bellwether below the top receives from its flock goes up; a partition without a job freezes too. CONTROL pauses,
stops or resumes the job of a member that is no bellwether at the step named; from the flock of a bellwether below the top
it goes up, and the top names the boundary. A bellwether whose own job has ended passes both on: one of the flock goes up, and a
FREEZE of the top to the flock. A CONTROL ends Night. What a partition without a job does, and what a control message names, are
the model's choices (notes/assumptions/68.md, 42.md). -/
def Obligations.FreezeAndControl : Prop :=
  ∀ (s : State) (down : Bool) (act : Action) (origin : BitVec 16) (t : Word) (cause : Byte),
    let g := s.grp
    let st := s.melvor.jobState
    let relays := g.bellwether = true ∧ g.top = false ∧ down = false
    let merged : State := { s with grp := { g with freezeMerged := satAdd g.freezeMerged 1 } }
    let frozen (u : State) : Prop := u.melvor.foldFrozen = true ∧ (u.melvor.lastFault.map FoldFault.cause) = some 3 ∧
      ∀ k, (s.tile k).inFold = true → (u.tile k).router.frozen = true
    s.fwOn = true →
    (g.grouped = true → st ≠ 0 →
      (relays → g.freezeUp = some t → exec (.freeze down origin t cause) s = .next merged) ∧
      (relays → g.freezeUp ≠ some t → ∃ u, exec (.freeze down origin t cause) s = .next u ∧ u.grp.freezeUp = some t ∧
        u.out = .ctrl (ctlMsg 0x15 0 origin.toNat t.toNat cause.toNat) :: s.out ∧ u.melvor = s.melvor ∧ u.tiles = s.tiles) ∧
      (¬relays → g.frozenStep = some t → exec (.freeze down origin t cause) s = .next merged) ∧
      (¬relays → g.frozenStep ≠ some t → st = 1 → s.melvor.foldFrozen = false → s.melvor.fold.isSome = true →
        ∃ u, exec (.freeze down origin t cause) s = .next u ∧ frozen u ∧ u.melvor.jobState = 4 ∧
          u.grp.frozenStep = some t ∧ u.hbm = s.hbm)) ∧
    (g.relays = true → st = 0 → ∃ u, exec (.freeze down origin t cause) s = .next u ∧ u.melvor = s.melvor ∧ u.tiles = s.tiles ∧
      u.grp = { g with relays := !down } ∧ (down = false → g.top = false →
        u.out = .ctrl (ctlMsg 0x15 0 origin.toNat t.toNat cause.toNat) :: s.out)) ∧
    (g.grouped = false ∨ st = 0 → g.relays = false ∨ st ≠ 0 → s.melvor.foldFrozen = false →
      (∀ x, s.melvor.fold = some x → x.partitioned = true → ∃ u, exec (.freeze down origin t cause) s = .next u ∧ frozen u) ∧
      ((∀ x, s.melvor.fold = some x → x.partitioned = false) → exec (.freeze down origin t cause) s = .next s)) ∧
    (g.grouped = true → st ≠ 0 →
      (relays → ∃ u, exec (.control down act origin t) s = .next u ∧ u.melvor = s.melvor ∧ u.grp = g ∧
        u.out = .ctrl (ctlMsg 0x16 (match act with | .pause => 1 | .resume => 2 | .stop => 3 | .stopNow => 4)
          origin.toNat t.toNat) :: s.out) ∧
      (g.top = true → st = 1 → ∃ u, exec (.control down .pause origin t) s = .next u ∧ u.melvor.jobState = 2 ∧
        u.grp.boundary = some s.melvor.step) ∧
      (g.top = false → g.bellwether = false →
        (st = 1 ∨ st = 2 → exec (.control down .pause origin t) s = .next { nightExit s with
          melvor := { s.melvor with jobState := 2 }, grp := { g with boundary := some t } }) ∧
        (st = 1 ∨ st = 2 → exec (.control down .stop origin t) s = .next { nightExit s with
          melvor := { s.melvor with jobState := 5 }, grp := { g with boundary := some t } }) ∧
        (st = 3 → s.rel.fatal = false → ∃ u, exec (.control down .stopNow origin t) s = .next u ∧ u.melvor.jobState = 0 ∧
          u.melvor.job = none ∧ u.rel.jstate = 0) ∧
        (st = 3 → s.melvor.job.isSome = true → s.melvor.replace = [] → s.melvor.step ≠ 0xFFFFFFFF#32 →
          ∃ u, exec (.control down .resume origin t) s = .next u ∧ u.melvor.jobState = 1 ∧
            u.melvor.step = s.melvor.step ∧ u.grp.boundary = none)))

/-! ## Clear registers -/

/-- The clear registers: each of them, written by an agent that reaches it, sets the counters of its own table to 0
(CLR_ERR and CLR_FAULT also the first record kept), and changes nothing else. Those of blocks 0x30 and 0x31 are Melvor
firmware's, the SMBus's and the owning port's; IRQ's is Melvor firmware's, and any other agent's is counted; POWER's is
every agent's that reaches it. The last two are the model's reading (notes/assumptions/51.md, 49.md). -/
def Obligations.ClearCounters : Prop :=
  ∀ (s : State) (w : Agent) (p : Port) (d : DroverNo) (k : Stack) (f : FoldPort),
    (MayWrite s w (p.val + 1) 0x44 → exec (.mailboxClrCnt w p) s = .next (s.setBox p { s.box p with
      qfullCnt := 0, cplDropCnt := 0, evtMergeCnt := 0 })) ∧
    (MayWrite s w (p.val + 1) 0x8003C →
      exec (.portClrCnt w p) s = .next (s.setPort p { s.port p with
        urCnt := 0, caCnt := 0, epSent := 0, epRcvd := 0, lockedWr := 0, staleCnt := 0, refetchCnt := 0, flipCnt := 0
        removalCnt := 0, droppedLines := 0 }) ∧
      exec (.clrFault w p) s = .next (s.setPort p { s.port p with fault := none })) ∧
    (MayWrite s w (0x08 + d.val) 0x48 → exec (.droverClrCnt w d) s = .next (s.setDrover d { s.drover d with
      balesIn := 0, balesOut := 0, sideXfers := 0, dlMiss := 0, cancelXfers := 0, cancelBales := 0, cancelLate := 0
      discBales := 0, discTokens := 0, cutDisc := 0, relWaitUs := 0, bpUs := 0 })) ∧
    (MayWrite s w (0x18 + k.val) 0x28 →
      exec (.clrErr w k) s = .next (s.setCtl k { s.ctl k with ceCnt := 0, ueCnt := 0, poisonCnt := 0, ue := none }) ∧
      exec (.clrTraffic w k) s = .next (s.setCtl k { s.ctl k with rdLines := 0, wrLines := 0 })) ∧
    (MayWrite s w (0x20 + f.val) 0x3C → exec (.foldPortClrCnt w f) s = .next (s.setLink f { s.link f with
      flitsTx := 0, flitsRx := 0, crcErr := 0, replays := 0, retrains := 0, fecSym := 0, fecUncorr := 0, downCnt := 0
      redFrames := 0 })) ∧
    (MayWrite s w 0x20 0x082C → exec (.groupClrCnt w) s = .next { s with grp := { s.grp with
      combineWaitUs := 0, agreeLastUs := 0, freezeMerged := 0, gatherDrop := 0 } }) ∧
    (MayWrite s w 0x04 0x4C → exec (.powerClrCnt w) s = .next { s with power := { s.power with
      pointChgCnt := 0, chgDeferCnt := 0, droopEvents := 0, capEvents := 0, thermEvents := 0, rampHoldCnt := 0
      fillCnt := 0, pwrWrRefused := 0 } }) ∧
    (MayWrite s .melvor 0x03 0x208 → ∃ u, exec (.irqClrCnt .melvor) s = .next u ∧ u.irq.wrRefused = 0 ∧
      u.irq.insvc = s.irq.insvc ∧ u.power = s.power ∧ u.melvor = s.melvor ∧
      ∀ g < 16, u.irqGrp g = { s.irqGrp g with mergeCnt := 0, msgCnt := 0 }) ∧
    (w ≠ .melvor → MayWrite s w 0x03 0x208 → exec (.irqClrCnt w) s =
      .next { s with irq := { s.irq with wrRefused := satAdd s.irq.wrRefused 1 } }) ∧
    (s.mayControl w = true →
      (MayWrite s w 0x30 0x38 → exec (.reliabilityClrCnt w) s = .next { s with rel := { s.rel with
        stepsReplayed := 0, hbmScrubPasses := 0, hbmScrubCe := 0, hbmScrubUe := 0, tileScrubCe := 0, tileScrubUe := 0
        tilesRetired := 0, pinsRetired := 0 } }) ∧
      (MayWrite s w 0x31 0x34 → exec (.snapshotClrCnt w) s = .next { s with snap := { s.snap with
        snapshots := 0, skipped := 0, errors := 0, waitUs := 0 } })) ∧
    (MayWrite s w 0x05 0x18 → exec (.securityClrCnt w) s = .next { s with sec := { s.sec with
      authFailCnt := 0, worldRefusedCnt := 0 } })

/-! ## Power (spec 15) -/

/-- The operating point. A due change starts with the supply upward, and with the frequency downward; while an island is
stretched by droop it is deferred, and counts once. Slew and relock carry it through to its point, at which it counts; a
relock adds its cycles to every tile's STRETCH_CNT. Night is entered where no job runs and left by a write of 0. The phase
that two windows in a row show sets the target. Droop: the detector puts its island into Hold, counts an event only from
the nominal clock or the last stage, and halts a slew; the stages, also one that a droop cuts short, follow each other
with their cycles counted, and leaving the last one clears the island's droop. A change counts as deferred once, however
often it is. Before stage 4 no change starts. That the moves to and from Night count as changes, and the 128 cycles of a
relock, are the model's reading (notes/assumptions/45.md). -/
def Obligations.OperatingPointAndDroop : Prop :=
  (
    ∀ (s : State),
      let p := s.power
      let on (q : Power) : State := { s with power := q }
      (s.boot.stage < 4 → exec .pointChangeStart s = .next s) ∧
      (s.boot.stage ≥ 4 → p.chg = .idle → p.point ≠ .night → p.target ≠ p.point →
        (p.droopActive = false → p.droopWait = false →
          (p.point.rank < p.target.rank → exec .pointChangeStart s = .next (on { p with
            changing := true, chgTo := p.target, deferred := false, deferEvals := 0, chg := .slewing })) ∧
          (p.target.rank < p.point.rank → exec .pointChangeStart s = .next (on { p with
            changing := true, chgTo := p.target, deferred := false, deferEvals := 0, point := p.target, chg := .relocking }))) ∧
        (p.droopActive = true → p.deferred = false → exec .pointChangeStart s = .next (on { p with
          deferred := true, deferSeen := true, deferEvals := 0
          chgDeferCnt := if p.deferSeen then p.chgDeferCnt else satAdd p.chgDeferCnt 1 }))) ∧
      (p.chg = .slewing → exec .slewEnd s = .next (on { p with
        supply := p.mv p.chgTo, point := p.chgTo, chg := .relocking })) ∧
      (p.chg = .slewingDown → exec .slewEnd s = .next (on { p with
        supply := p.mv p.point, chg := .idle, changing := false, deferred := false, deferSeen := false, deferEvals := 0
        pointChgCnt := satAdd p.pointChgCnt 1 })) ∧
      (p.chg = .relocking → ∃ u, exec .relockEnd s = .next u ∧
        u.power = (if p.supply > p.mv p.point then { p with chg := .slewingDown } else { p with
          chg := .idle, changing := false, deferred := false, deferSeen := false, deferEvals := 0
          pointChgCnt := satAdd p.pointChgCnt 1 }) ∧
        (∀ t, s.tileOk t = true → (u.tile t).router.stretchCnt = satAdd (s.tile t).router.stretchCnt 128) ∧
        ∀ t, (u.tile t).wmem = (s.tile t).wmem ∧ (u.tile t).core = (s.tile t).core) ∧
      (p.droopWait = true → p.chg = .halted → exec .droopWaitEnd s = .next (on { p with
        droopWait := false, chg := p.resumeStage, deferred := false, deferEvals := 0 })) ∧
      (∀ (x : WindowFacts), x.upeBusy = false → x.mxeLow = false →
        let ph : BitVec 2 := if x.mxePairT then 1 else 0
        (p.lastPhase = ph → exec (.phaseWindow x) s = .next (on (Power.aim { p with phase := ph }))) ∧
        (p.lastPhase ≠ ph → exec (.phaseWindow x) s = .next (on (Power.aim { p with lastPhase := ph })))) ∧
      (∀ x : WindowFacts, x.upeBusy = true → ∃ q, exec (.phaseWindow x) s = .next (on q) ∧ q.lastPhase = 2 ∧
        q.phase = (if p.lastPhase = 2 then 2 else p.phase)) ∧
      (p.nightReq = true → s.melvor.jobState = 0 → s.melvor.loaderBusy = false → p.point ≠ .night → p.chg = .idle →
        (∀ d, s.droverIdle d = true) → exec .nightEntry s = .next (on { p with
          point := .night, target := .night, deferred := false, deferSeen := false, deferEvals := 0, droopWait := false
          pointChgCnt := satAdd p.pointChgCnt 1 })) ∧
      (∀ w, MayWrite s w 0x04 0x0C →
        (s.mayControl w = true → exec (.nightReq w true) s = .next (on { p with nightReq := true })) ∧
        (s.mayControl w = true → p.point ≠ .night → exec (.nightReq w false) s = .next (on { p with nightReq := false })) ∧
        (s.mayControl w = true → p.point = .night → ∃ q, exec (.nightReq w false) s = .next (on q) ∧ q.point = .dawn ∧
          q.nightReq = false ∧ q.supply = p.dawnMv) ∧
        (s.mayControl w = false → ∀ v, exec (.nightReq w v) s = .next (on { p with
          pwrWrRefused := satAdd p.pwrWrRefused 1 }))) ∧
      (p.nightIdleMs ≠ 0 → p.nightBlockUs = 0 → p.point ≠ .night → s.melvor.fold = none →
        exec .nightIdleExpiry s = .next (on { p with nightReq := true }))) ∧
  (
    ∀ (s : State) (t : TileId) (cycles : Nat),
      let p := s.power
      let x := s.tile t.toNat
      let i := x.island
      let hold (q : Power) : State := { s.setTile t.toNat { x with
        island := { i with stage := 1, droop := true }
        router := { x.router with stretchCnt := if i.stage = 0 then x.router.stretchCnt else satAdd x.router.stretchCnt cycles } } with
        power := q }
      OnTile s t →
      (p.chg = .idle → p.droopWait = false → i.stage ≠ 1 → exec (.droopDetect t cycles) s = .next (hold { p with
        droopActive := true, droopEvents := if i.stage = 0 ∨ i.stage = 4 then satAdd p.droopEvents 1 else p.droopEvents })) ∧
      (p.chg = .slewing → p.droopWait = false → p.deferred = false → i.stage = 0 → exec (.droopDetect t cycles) s = .next (hold { p with
        droopActive := true, droopEvents := satAdd p.droopEvents 1, chg := .halted, resumeStage := .slewing
        deferred := true, deferSeen := true, deferEvals := 0
        chgDeferCnt := if p.deferSeen then p.chgDeferCnt else satAdd p.chgDeferCnt 1 })) ∧
      (p.chg = .relocking → exec (.droopDetect t cycles) s = .next s) ∧
      (∀ k : BitVec 3, i.stage = k → 1 ≤ k → k ≤ 4 →
        let y : Tile := { x with
          island := { i with stage := if k = 4 then 0 else k + 1, droop := if k = 4 then false else i.droop }
          router := { x.router with stretchCnt := satAdd x.router.stretchCnt cycles } }
        let active := (s.setTile t.toNat y).droops
        exec (.stretchStageEnd t cycles) s = .next { s.setTile t.toNat y with power := { p with
          droopActive := active
          droopWait := p.droopWait || (p.droopActive && !active && (p.deferred || decide (p.chg = .halted))) } }))

/-- The cap. An evaluation above PCAP lowers the cap's limit of the point by one, or at Dawn ACT_CEIL by 4,096 with 16,384
as its floor, and counts; the tenth in a row at or below 0.95 × PCAP raises ACT_CEIL first and then the limit; one between
starts the count anew; the target follows. A calibration without valid samples sets CAL_GAIN to 1.25, and clears
CAL_VALID; its energy and P_meas are the samples' mean; one above PCAP steps the cap too, and leaves that count. Samples:
the newest ten. An activity window of an island lets its engines' units rise by at most the STEP of the point at its
start, and not above ACT_CEIL unless they fall there by one STEP; the units that no limit holds come on top; it never lets
the activity fall by more than the STEP, filling the rest; what the window could not take of the engines is charged to the
next, and a held issue counts. Ties at the memory banks pass their tokens on. Which of PCAP's limits gives way first
(notes/assumptions/46.md), the samples kept and the energy of a millisecond (notes/assumptions/70.md, 48.md), and how a
window is limited, filled and counted (notes/assumptions/50.md), are the model's choices. -/
def Obligations.CapAndActivity : Prop :=
  (
    ∀ (s : State),
      let p := s.power
      let num := s.estNum
      let cap := p.pcap.toNat * 1000 * estDen
      let eval (u : State) : Prop := exec .powerEval s = .next u ∧ u.power.units10 = 0 ∧ u.melvor = s.melvor ∧ u.tiles = s.tiles ∧
        u.power.target = (u.power.pref.lower u.power.capLimit).lower u.power.thermLimit
      (p.deferred = false →
        (num > cap → p.capLimit ≠ .dawn → p.point ≠ .dawn → ∃ u, eval u ∧ u.power.capLimit = p.capLimit.fall ∧
          u.power.actCeil = p.actCeil ∧ u.power.capEvents = satAdd p.capEvents 1 ∧ u.power.lowEvals = 0 ∧
          (p.capLimit = .noon → p.actCeil.toNat ≥ 65536 → (u.irqGrp 8).pend.getLsbD 3 = true)) ∧
        (num > cap → p.point = .dawn → ∃ u, eval u ∧ u.power.actCeil = BitVec.ofNat 17 (max 16384 (p.actCeil.toNat - 4096)) ∧
          u.power.capLimit = p.capLimit ∧ u.power.capEvents = satAdd p.capEvents 1) ∧
        (num ≤ cap → 95 * cap < num * 100 → ∃ u, eval u ∧ u.power.actCeil = p.actCeil ∧ u.power.capLimit = p.capLimit ∧
          u.power.lowEvals = 0 ∧ u.power.capEvents = p.capEvents ∧ u.irq = s.irq) ∧
        (num * 100 ≤ 95 * cap → p.lowEvals < 9 → ∃ u, eval u ∧ u.power.actCeil = p.actCeil ∧
          u.power.capLimit = p.capLimit ∧ u.power.lowEvals = p.lowEvals + 1) ∧
        (num * 100 ≤ 95 * cap → p.lowEvals = 9 → p.thermLevel ≠ 3 → ∃ u, eval u ∧ u.power.lowEvals = 0 ∧
          (p.actCeil.toNat < 65536 → u.power.actCeil.toNat = min 65536 (p.actCeil.toNat + 4096) ∧ u.power.capLimit = p.capLimit) ∧
          (p.actCeil.toNat = 65536 → u.power.capLimit = p.capLimit.rise ∧ u.power.actCeil = p.actCeil))) ∧
      (∀ n, exec (.inputSample n true) s = .next { s with power := { p with
        sampleValid := true, samples := (n :: p.samples).take 10 } }) ∧
      (∀ n, exec (.inputSample n false) s = .next { s with power := { p with sampleValid := false } }) ∧
      (p.sampleValid = false → ∀ n, p.samples = List.replicate 10 n → n ≤ p.pcap.toNat →
        ∃ u, exec .calibration s = .next u ∧ u.power.calGain = 0x5000#16 ∧ u.power.calValid = false ∧
          u.power.pMeas.toNat = n ∧ u.power.act1ms = 0 ∧ u.power.baseCnt = 0 ∧ u.power.energyAcc = (p.energyAcc + n) % 1000 ∧
          u.power.energyJ = satAdd p.energyJ ((p.energyAcc + n) / 1000) ∧
          (p.calValid = true → (u.irqGrp 8).pend.getLsbD 5 = true) ∧ u.melvor = s.melvor ∧ u.tiles = s.tiles) ∧
      (∀ n, p.samples = List.replicate 10 n → n > p.pcap.toNat → ∃ u, exec .calibration s = .next u ∧
        u.power.capEvents = satAdd p.capEvents 1 ∧ u.power.lowEvals = p.lowEvals ∧
        (p.point = .dawn → u.power.actCeil = BitVec.ofNat 17 (max 16384 (p.actCeil.toNat - 4096))))) ∧
  (
    ∀ (s : State) (t : TileId) (ties : List (Fin 16 × List (Fin 5))),
      let i := (s.tile t.toNat).island
      let a := i.act
      let ceil := s.power.actCeil.toNat
      let step := match i.stepAt with | 0 => 104 | 1 => 67 | 2 => 83 | _ => 0
      let eng := min i.units (min (a + step) (max ceil (a - step)) - i.other)
      let bank (u : State) (b : Nat) : Nat := Sparse.get 0 (u.tile t.toNat).bankTok b
      OnTile s t →
      ∃ u, exec (.activityWindowEnd t ties) s = .next u ∧
        (let n := (u.tile t.toNat).island.act
         n = max (eng + i.other) (a - step) ∧ a ≤ n + step ∧ (i.other = 0 → n ≤ a + step ∧ (n > a → n ≤ max ceil a)) ∧
         (i.units + i.other ≤ a + step → a ≤ i.units + i.other + step → i.units + i.other ≤ ceil → n = i.units + i.other ∧
           (u.tile t.toNat).island.units = 0 ∧ u.power.fillCnt = satAdd s.power.fillCnt 0) ∧
         (u.tile t.toNat).island.units = i.units - eng ∧ (u.tile t.toNat).island.other = 0 ∧
         (u.tile t.toNat).island.stepAt = (match s.power.point with | .dawn => 0 | .noon => 1 | .dusk => 2 | .night => 3) ∧
         (eng + i.other + step < a → n = a - step ∧
           u.power.fillCnt = satAdd s.power.fillCnt ((a - step - (eng + i.other) + 879) / 880)) ∧
         u.power.units10 = s.power.units10 + n ∧
         u.power.act1ms = s.power.act1ms + n * (s.power.mv s.power.point) ^ 2) ∧
        (∀ b, (∀ x ∈ ties, x.1.val ≠ b) → bank u b = bank s b) ∧
        (∀ b l, ties = [(b, l)] → bank u b = (tiePass 5 (bank s b) (l.map Fin.val)).2) ∧
        (u.tile t.toNat).island.held = false ∧
        (u.tile t.toNat).island.hold = (if i.held then satAdd i.hold 1 else i.hold) ∧
        u.power.rampHoldCnt = (if i.held then satAdd s.power.rampHoldCnt 1 else s.power.rampHoldCnt) ∧
        (u.tile t.toNat).core = (s.tile t.toNat).core ∧ (u.tile t.toNat).router = (s.tile t.toNat).router ∧
        ∀ k, k ≠ t.toNat → u.tile k = s.tile k)

/-- An evaluation of the sensors. The hottest good die sensor gives the level, with 3 °C of hysteresis, and the limit of
the point; a die or HBM sensor at 105 °C stops every island clock, asserts THERMTRIP# and leaves the trip's record in
module flash; an HBM stack from 95 °C is throttled; every good sensor's reading is kept. That a trip of both kinds is
recorded as the die's is the model's reading (notes/assumptions/48.md). -/
def Obligations.ThermalLevels : Prop :=
  ∀ (s : State) (die : List (BitVec 8 × Bool)) (hbm : List (BitVec 8)) (c : Nat),
    let p := s.power
    let th := p.tjThrottle.toNat
    die.length = 64 → hbm.length = 8 → (∀ x ∈ die, x.2 = true ∧ x.1.toNat ≤ c) → (∃ x ∈ die, x.1.toNat = c) →
    ∃ u, exec (.thermalEval die hbm) s = .next u ∧ u.power.tjMax.toNat = c ∧ u.power.sensorFault = false ∧
      u.power.thermLimitDawn = false ∧
      (∀ i < 64, (die.getD i (0, false)).1.toNat = (Sparse.get 0 u.power.temps i).toNat) ∧
      (p.thermLevel = 0 → u.power.thermLevel =
        (if c < th then 0 else if c < th + 5 then 1 else if c < th + 8 then 2 else 3)) ∧
      (u.power.thermLevel ≤ 3 ∧ (p.thermLevel ≤ 3 → u.power.thermLevel < p.thermLevel →
        c + 3 ≤ th + (match p.thermLevel with | 1 => 0 | 2 => 5 | _ => 8))) ∧
      (∀ k < 8, (u.ctl k).throttled = decide ((hbm.getD k 0).toNat ≥ 95) ∧
        (u.ctl k).refresh2 = decide ((hbm.getD k 0).toNat ≥ 85)) ∧
      ((∀ x ∈ hbm, x.toNat < 105) → c < 105 → u.boot = s.boot ∧ u.flash = s.flash ∧
        u.power.clocksStopped = p.clocksStopped) ∧
      ((∃ x ∈ hbm, x.toNat ≥ 105) ∨ c ≥ 105 → u.boot = { s.boot with thermtrip := true } ∧ u.power.clocksStopped = true ∧
        u.flash.trip.isSome = true) ∧
      (c ≥ 105 → u.flash.trip = some ⟨1, BitVec.ofNat 8 u.power.tjSensor.toNat, BitVec.ofNat 8 c⟩) ∧
      u.tiles = s.tiles ∧ u.hbm = s.hbm

/-! ## Interrupts (spec 16) -/

/-- The controller. A destination without a group in service gets the lowest-numbered ready group that is routed to it and
whose holdoff does not run: its message goes out, or is held where the vector is masked; EOI, and a write of ROUTE, end
the service; SET fires each source, merging into one that is pending, but for those that the hardware has fired in the
same cycle; PEND clears the bits written as 1; an agent that may not write is counted. Unmasking sends what was held, to
the address and with the data of its vector, while MSI-X Enable is 1. What a write of ROUTE does in groups 0 and 1, and
where the destination stays the same, is the model's reading (notes/assumptions/51.md). -/
def Obligations.InterruptController : Prop :=
  ∀ (s : State) (dest : Fin 3) (g : IrqGroup) (w : Agent) (b : BitVec 16) (r : BitVec 3) (h : BitVec 16),
    let x := s.irqGrp g
    let off := s.irq.wrRefused
    let refused : State := { s with irq := { s.irq with wrRefused := satAdd off 1 } }
    let free (u : State) : Prop := ∀ d, Sparse.get none u.irq.insvc d =
      if d < 3 ∧ Sparse.get none s.irq.insvc d = some g.val then none else Sparse.get none s.irq.insvc d
    (s.inService dest = none → s.destOn dest = true → s.destOf g = some dest.val → x.ready = true → x.run = false →
      (∀ k < g.val, ¬(s.destOf k = some dest.val ∧ (s.irqGrp k).ready = true ∧ (s.irqGrp k).run = false)) →
      ∃ u, exec (.messageSend dest) s = .next u ∧ u.inService dest = some g.val ∧
        u.irqGrp g = { x with run := decide (x.holdoff ≠ 0), msgCnt := satAdd x.msgCnt 1 } ∧
        (dest.val = 2 → u.out = .melvorIrq g.val :: s.out) ∧
        (∀ p : Port, p.val = dest.val →
          ((s.port p).funcMask = false → (Sparse.get {} (s.port p).msix g).mask = false → u.out = .msix p g.val
            (Sparse.get {} (s.port p).msix g).addr (Sparse.get {} (s.port p).msix g).data :: s.out) ∧
          ((s.port p).funcMask = true ∨ (Sparse.get {} (s.port p).msix g).mask = true → u.out = s.out ∧
            (u.port p).pba = (s.port p).pba ||| BitVec.ofNat 16 (2 ^ g.val)))) ∧
    (s.inService dest ≠ none ∨ s.destOn dest = false → exec (.messageSend dest) s = .next s) ∧
    exec (.holdoffExpiry g) s = .next (s.setIrqGrp g { x with run := false }) ∧
    (MayWrite s w 0x03 (32 * g.val + 0x14) →
      (s.irqMay w .eoi g = true → ∃ u, exec (.eoi w g) s = .next u ∧ free u ∧ u.irq.groups = s.irq.groups ∧ u.out = s.out) ∧
      (s.irqMay w .eoi g = false → exec (.eoi w g) s = .next refused)) ∧
    (∀ same, MayWrite s w 0x03 (32 * g.val + 8) →
      ∃ u, exec (.setSrc w g b same) s = .next u ∧ (u.irqGrp g).pend = x.pend ||| (b &&& ~~~same) ∧
        (u.irqGrp g).enable = x.enable ∧ (x.pend &&& (b &&& ~~~same) = 0 → (u.irqGrp g).mergeCnt = x.mergeCnt) ∧
        ∀ k, k ≠ g.val → u.irqGrp k = s.irqGrp k) ∧
    (MayWrite s w 0x03 (32 * g.val) →
      (s.irqMay w .pend g = true → exec (.pend w g b) s = .next (s.setIrqGrp g { x with pend := x.pend &&& ~~~b })) ∧
      (s.irqMay w .pend g = false → exec (.pend w g b) s = .next refused)) ∧
    (MayWrite s w 0x03 (32 * g.val + 0x0C) →
      (s.irqMay w .route g = true → g.val < 2 → exec (.route w g r h) s = .next (s.setIrqGrp g { x with holdoff := h })) ∧
      (s.irqMay w .route g = true → g.val ≥ 2 → ∃ u, exec (.route w g r h) s = .next u ∧ free u ∧
        u.irqGrp g = { x with route := r, holdoff := h }) ∧
      (s.irqMay w .route g = false → exec (.route w g r h) s = .next refused)) ∧
    (∀ (p : Port) (v : Fin 16), ∃ u, exec (.msixUnmask p (some v)) s = .next u ∧
      (Sparse.get {} (u.port p).msix v).mask = false ∧
      (∀ k, k ≠ v.val → Sparse.get {} (u.port p).msix k = Sparse.get {} (s.port p).msix k) ∧
      ((s.port p).funcMask = true ∨ (s.port p).msixEn = false → u.out = s.out) ∧
      ((s.port p).funcMask = false → (s.port p).msixEn = true → (u.port p).pba.getLsbD v = false ∧
        ((s.port p).pba.getLsbD v = true →
          .msix p v.val (Sparse.get {} (s.port p).msix v).addr (Sparse.get {} (s.port p).msix v).data ∈ u.out)))

/-! ## Reliability and snapshots (spec 17) -/

/-- A lockstep mismatch stops the Melvor complex with the fatal-error handling: fold and drovers stop, the journal is
lost, a running snapshot ends, ports with Viral_Enable go viral, memory stays. A journal copy puts the page's old bytes
into the next free journal page and its number into the index, and changes no other byte. A snapshot starts at START while
the job is paused, and counts as skipped while one runs; its pages and its object table come first, then, every write
being complete, its header as the last write to the target, whose completion ends it; ABORT ends it with ERR; RESTORE
takes the header that it finds, if the magic, the version and the digest are right, and ends with an error where the
target does not lie in its registered region or in a world of the job. The commands that carry a snapshot to its end are
the model's reading (notes/assumptions/52.md), and that a transfer's packets are not shown is its choice
(notes/assumptions/79.md). -/
def Obligations.JournalAndSnapshots : Prop :=
  ∀ (s : State) (w : Agent),
    let x := s.snap
    let p : Port := Fin.ofNat 2 (b2n x.tport)
    let region := Sparse.get {} (s.port p).regions x.tregion.toNat
    let toff := x.toffLo.toNat * 4096 + x.toffHi.toNat * 2 ^ 32
    let reaches (n : Nat) : Bool := region.valid && !(s.port p).removed && decide (toff + n ≤ region.bytes) && s.windowOpen .snapshot p
    (s.melvor.lockstepErr = false → s.rel.fatal = false →
      ∃ u, exec .lockstepMismatch s = .next u ∧ u.melvor.lockstepErr = true ∧ u.rel.fatal = true ∧ u.rel.jstate = 2 ∧
        u.melvor.foldFrozen = (s.melvor.foldFrozen || s.melvor.fold.isSome) ∧ (u.irqGrp 9).pend.getLsbD 0 = true ∧
        u.snap.busy = false ∧ u.hbm = s.hbm ∧ (∀ d < 16, (u.drover d).stopped = true) ∧
        (∀ q : Port, (s.port q).viralEn = true → u.rel.viral = true) ∧
        ∀ t, (u.tile t).wmem = (s.tile t).wmem ∧ (u.tile t).amem = (s.tile t).amem) ∧
    (s.melvor.lockstepErr = false → s.rel.fatal = true →
      exec .lockstepMismatch s = .next (fire { s with melvor := { s.melvor with lockstepErr := true } } 144)) ∧
    (s.melvor.lockstepErr = true → exec .lockstepMismatch s = .next s) ∧
    (∀ page, let a := page * 4096
      let dst := s.journalPage s.rel.jindex.length
      s.waiting = [] → s.melvor.stopDue = false → s.needsCopy a = true → hostWindow a = none → hostWindow dst = none → dst % 64 = 0 →
      s.bytesBlocked .melvor false a 4096 = false → s.bytesBlocked .melvor true dst 4096 = false → CleanLines s a 4096 →
      (∀ b, dst ≤ b → b < dst + 4096 → s.inKinds journaledKinds b = false) →
      ∃ u, exec (.journalCopy page) s = .next u ∧ u.rel.jindex = s.rel.jindex ++ [page] ∧
        u.rel.jstate = (if s.rel.jstate = 0 then 1 else s.rel.jstate) ∧
        ∀ b, Sparse.get 0 u.hbm b = if dst ≤ b ∧ b < dst + 4096 then Sparse.get 0 s.hbm (a + (b - dst)) else Sparse.get 0 s.hbm b) ∧
    (s.mayControl w = true → MayWrite s w 0x31 4 →
      (s.melvor.jobState ≠ 3 → exec (.snapStart w) s = .next { s with snap := { x with request := true } }) ∧
      (s.melvor.jobState = 3 → x.busy = true → exec (.snapStart w) s =
        .next (fireIf (decide (satAdd x.skipped 1 ≠ x.skipped))
          { s with snap := { x with skipped := satAdd x.skipped 1, request := false } } 162)) ∧
      (s.melvor.jobState = 3 → x.busy = false → s.melvor.job.isSome = true → region.valid = true → (s.port p).removed = false →
        ∃ u, exec (.snapStart w) s = .next u ∧ u.snap.busy = true ∧ u.snap.err = false ∧
          u.snap.curStep = s.melvor.step - 1 ∧ u.snap.copied = [] ∧ u.hbm = s.hbm ∧ u.melvor = s.melvor ∧
          ∀ o ∈ s.objs, snapKinds.contains o.2.kind.toNat = true → ∀ i < cdiv o.2.bytes 4096,
            o.2.base.toNat / 4096 + i ∈ u.snap.todo) ∧
      (x.busy = true → x.err = false → exec (.abort w) s = .next (fire { s with snap := { x with
        busy := false, restoring := false, err := true, todo := [], host := [], errors := satAdd x.errors 1 } } 161)) ∧
      (x.busy = false → exec (.abort w) s = .next s) ∧
      (∀ hdr digestOk, s.melvor.jobState = 0 → x.busy = false → x.restoring = false →
        let good := digestOk && decide (leNat (hdr.take 4) = 0x5350524F) && decide (leNat ((hdr.drop 4).take 2) = 1)
        (reaches 4096 = false → ∃ u, exec (.restore w hdr digestOk) s = .next u ∧ u.snap = { x with
          err := true, todo := [], host := [], errors := satAdd x.errors 1 } ∧
          (x.err = false → (u.irqGrp 10).pend.getLsbD 1 = true) ∧ u.melvor = s.melvor ∧ u.hbm = s.hbm) ∧
        (reaches 4096 = true → hdr.length ≥ 8 →
        (good = true → ∃ u, exec (.restore w hdr digestOk) s = .next u ∧ u.snap = { x with err := false, held := some hdr } ∧
          (x.held = none → (u.irqGrp 10).pend.getLsbD 3 = true) ∧ u.melvor = s.melvor ∧ u.hbm = s.hbm) ∧
        (good = false → ∃ u, exec (.restore w hdr digestOk) s = .next u ∧ u.snap = { x with err := true } ∧
          (x.err = false → (u.irqGrp 10).pend.getLsbD 1 = true) ∧ u.melvor = s.melvor ∧ u.hbm = s.hbm))) ∧
      (∀ hdr digestOk, s.melvor.jobState ≠ 0 → x.restoring = false → exec (.restore w hdr digestOk) s = .next s)) ∧
    (x.busy = true → x.restoring = false → s.rel.fatal = false → region.valid = true → (s.port p).removed = false →
      s.windowOpen .snapshot p = true →
      (∀ q ∈ x.todo, hostWindow (q * 4096) = none ∧ s.bytesBlocked .snapshot false (q * 4096) 4096 = false ∧
        CleanLines s (q * 4096) 4096) →
      let table := x.objs.flatMap fun o => toBytes o.2.toNat 32
      (x.phase = 0 → x.todo = [] → toff + 4096 + table.length ≤ region.bytes →
        ∃ u, exec .snapshotComplete s = .next u ∧ u.snap.busy = true ∧ u.snap.phase = 1 ∧ u.snap.snapStep = x.snapStep ∧
          u.hbm = s.hbm ∧ u.melvor = s.melvor ∧
          (region.coh = false → u.snap.host = x.host ++ [(p, true)] ∧ u.out = .hostRead p .zeroRead (region.base + toff + 4096) 0 ::
            .hostWrite p .data (region.base + toff + 4096) table.length (leNat table) :: s.out)) ∧
      (x.phase = 0 → ∃ u, exec .snapshotComplete s = .next u ∧ u.snap.todo = [] ∧ u.snap.snapStep = x.snapStep ∧
        u.hbm = s.hbm ∧ u.melvor = s.melvor ∧ (u.snap.busy = true → u.snap.phase = 1) ∧
        (u.snap.busy = false → u.snap.err = true)) ∧
      (x.phase = 1 → x.host ≠ [] → exec .snapshotComplete s = .next s) ∧
      (x.phase = 1 → x.host = [] → toff + 4096 ≤ region.bytes →
        ∃ u v, exec .snapshotComplete s = .next u ∧ u.snap.busy = true ∧ u.snap.phase = 2 ∧ u.snap.snapStep = x.snapStep ∧
          v % 2 ^ 32 = 0x5350524F ∧ u.hbm = s.hbm ∧ u.melvor = s.melvor ∧
          (region.coh = false → u.snap.host = [(p, true)] ∧ u.out = .hostRead p .zeroRead (region.base + toff) 0 ::
            .hostWrite p .data (region.base + toff) 4096 v :: s.out)) ∧
      (∀ q v, x.phase = 2 → x.host.length = 1 → ∃ u, exec (.hostCompletion .snapshot q false (.data v)) s = .next u ∧
        u.snap.busy = false ∧ u.snap.snapStep = x.curStep ∧ u.snap.snapshots = satAdd x.snapshots 1 ∧
        (u.irqGrp 10).pend.getLsbD 0 = true ∧ u.hbm = s.hbm ∧ u.melvor = s.melvor))

/-! ## Security (spec 18) -/

namespace Sys2Proof.Machine

/-- The rows of port requests, with their CMD. -/
def requestRows : List (Nat × (Port → Instr)) :=
  [(1, fun p => .auth p false), (2, fun p => .drop p false), (3, fun p => .enroll p false), (4, fun p => .replace p false),
   (5, fun p => .clearKey p false), (6, fun p => .svnCommit p false)]

/-- The window's signature verifies under key `k`: over the port's NONCE, its number, window bytes 0–63 and the new key
where the action carries one (R395). -/
def signatureOk (s : State) (p : Port) (c : Nat) (k : List Byte) : Bool :=
  let x := s.secPort p
  Config.mldsaVerify k "ORV-REQ" (toBytes x.nonce.toNat 64 ++ [BitVec.ofNat 8 p.val] ++ winBytes x.window 0 64 ++
    (if c = 3 ∨ c = 4 then winBytes x.window 3376 1952 else [])) (winBytes x.window 64 3309)

/-- Nothing keeps a write of the region table or the pending tile map from being performed (R400). -/
abbrev State.tablesOpen (s : State) : Prop :=
  s.melvor.jobState = 0 ∧ s.melvor.starting = none ∧ s.melvor.loaderBusy = false ∧ s.sec.clearing = false

/-- A secure requester of the region table. -/
abbrev SecureAgent (s : State) (w : Agent) : Prop :=
  (w = .melvor ∧ s.boot.stage ≥ 2 ∧ s.melvor.lockstepErr = false) ∨
    ∃ p, w = .port p ∧ s.boot.stage ≥ 3 ∧ (s.port p).secure = true

end Sys2Proof.Machine

/-- Port requests. While BUSY = 1 a CMD is only counted. A request is answered BAD_ARG for a wrong window, NO_KEY for a
signed one without a key, BAD_SIG for a signature that does not verify, with the count and source 176 and no other effect;
one that passes has RESULT 0 and the effect of Table 18.4: AUTH and DROP set the port's SECURE, ENROLL and REPLACE the
operator key (REPLACE clears both SECURE bits), CLEAR_KEY begins the overwrite, SVN_COMMIT raises MIN_SVN to the
firmware's SVN; a write of the replay-protected area counts and stores the tag under the replay key. Every completed
request has a fresh NONCE. The region table and the pending tile map: from a secure agent, with nothing in progress, BASE
and SIZE change and the flag word puts the entry into effect, after the overwrite of what leaves the secure world; an
entry that overlaps another or leaves the user area only sets REGION_ERR; from any other requester, or with something in
progress, the write is counted and nothing changes. At the end of an overwrite the units hold zeros and valid codes, every
other byte stays, and what waited takes effect: after CLEAR_KEY no key, no region and no secure port is left, and no tile
memory holds a byte; where REPLAY_ERR has been set meanwhile the key stays and the RESULT is 5, and a second CLEAR_KEY
finds no key. The order of the results and of a refused request's effects (notes/assumptions/56.md), and what BUSY and
CLEARING cover (notes/assumptions/53.md), are the model's choices. -/
def Obligations.PortRequestsAndTables : Prop :=
  (∀ (s : State) (p : Port),
    let x := s.secPort p
    let key := winBytes x.window 3376 1952
    let nonce : Line := BitVec.ofNat 512 (shake256 (s.sec.nonceKey ++
      toBytes (s.flash.bootCount.toNat * 2 ^ 32 + s.sec.nonces.toNat) 8 ++ [BitVec.ofNat 8 p.val]) 64)
    let written (f : Flash) : Flash := { f with
      writeCount := f.writeCount + 1
      tag := areaTag s.sec.replayKey (f.writeCount + 1) f.minSvn f.bootCount f.operatorKey f.service }
    let ended (u : State) (r : Nat) : Prop := (u.secPort p).busy = false ∧ (u.secPort p).result.toNat = r ∧
      (u.secPort p).nonce = nonce ∧ (u.secPort p).window = x.window ∧ u.sec.nonces = s.sec.nonces + 1 ∧ u.hbm = s.hbm ∧
      u.tiles = s.tiles
    let fails (c : Instr) (r : Nat) : Prop := ∃ u, exec c s = .next u ∧ ended u r ∧
      u.sec.authFailCnt = satAdd s.sec.authFailCnt 1 ∧ (u.irqGrp 11).pend.getLsbD 0 = true ∧ u.flash = s.flash ∧
      u.ports = s.ports ∧ u.melvor = s.melvor
    let signed (c : Nat) (i : Instr) (passes : Prop) : Prop := x.busy = false → windowBad c x.window = false →
      ∀ k, s.flash.operatorKey = some k → if signatureOk s p c k then passes else fails i 1
    let good (c : Nat) : Prop := x.busy = false ∧ windowBad c x.window = false
    s.boot.stage ≥ 3 →
    (∀ r ∈ requestRows,
      (x.busy = true → exec (r.2 p) s = .next { s with sec := { s.sec with authFailCnt := satAdd s.sec.authFailCnt 1 } }) ∧
      (x.busy = false → windowBad r.1 x.window = true → fails (r.2 p) 4) ∧
      (good r.1 → r.1 ≠ 2 → r.1 ≠ 3 → s.flash.operatorKey = none → fails (r.2 p) 2)) ∧
    (signed 1 (.auth p false) <| ∃ u, exec (.auth p false) s = .next u ∧ ended u 0 ∧ (u.port p).secure = true ∧ u.flash = s.flash ∧
      u.sec.authFailCnt = s.sec.authFailCnt) ∧
    (good 2 → ∃ u, exec (.drop p false) s = .next u ∧ ended u 0 ∧ (u.port p).secure = false ∧ u.flash = s.flash) ∧
    (good 3 → s.flash.operatorKey = none → s.sec.replayErr = false →
      (s.melvor.jobState = 0 → s.melvor.fold = none → (s.port 0).secure = false → (s.port 1).secure = false →
        ∃ u, exec (.enroll p false) s = .next u ∧ ended u 0 ∧ u.flash = written { s.flash with operatorKey := some key }) ∧
      (s.melvor.jobState ≠ 0 → fails (.enroll p false) 3)) ∧
    (signed 4 (.replace p false) <| s.sec.replayErr = false → ∃ u, exec (.replace p false) s = .next u ∧ ended u 0 ∧
      u.flash = written { s.flash with operatorKey := some key } ∧
      (u.port 0).secure = false ∧ (u.port 1).secure = false) ∧
    (signed 5 (.clearKey p false) <| s.sec.replayErr = false → s.melvor.jobState = 0 → s.melvor.loaderBusy = false →
      ∃ u, exec (.clearKey p false) s = .next u ∧ u.sec.clearing = true ∧ (u.secPort p).busy = true ∧ u.flash = s.flash ∧
        u.hbm = s.hbm ∧ u.tiles = s.tiles ∧ u.sec.clearKey = s.sec.clearKey ++ [p] ∧ ∀ a < userTop, u.clearingAt a = true) ∧
    (signed 6 (.svnCommit p false) <| s.sec.replayErr = false → ∃ u, exec (.svnCommit p false) s = .next u ∧ ended u 0 ∧
      u.flash = written { s.flash with minSvn := if s.flash.minSvn < s.sec.fwSvn then s.sec.fwSvn else s.flash.minSvn })) ∧
  ∀ (s : State) (w : Agent) (e : Fin 64) (v : Word),
    let x := Sparse.get {} s.sec.regions e
    let put (y : RegionEntry) : State := { s with sec := { s.sec with regions := Sparse.set {} s.sec.regions e y } }
    let flags (t : State) : Prop := exec (.regionTableWrite w e 2 v) s = .next t
    let n : RegionEntry := { x with valid := v.getLsbD 0, secure := v.getLsbD 1 }
    (SecureAgent s w → s.tablesOpen →
      exec (.regionTableWrite w e 0 v) s = .next (put { x with base := BitVec.ofNat 19 v.toNat }) ∧
      exec (.regionTableWrite w e 1 v) s = .next (put { x with size := BitVec.ofNat 19 v.toNat }) ∧
      (n.valid = true → (x.base.toNat + x.size.toNat) * 0x200000 > userTop →
        flags { s with sec := { s.sec with regionErr := true } }) ∧
      (∀ k y, k ≠ e.val → (k, y) ∈ s.sec.regions → y.effValid = true → n.valid = true →
        y.effBase.toNat < x.base.toNat + x.size.toNat → x.base.toNat < y.effBase.toNat + y.effSize.toNat →
        flags { s with sec := { s.sec with regionErr := true } }) ∧
      (s.entryBad e n = false → (x.effValid && x.effSecure) = false → ∃ u, flags u ∧
        Sparse.get {} u.sec.regions e = { n with
          effBase := x.base, effSize := x.size, effValid := n.valid, effSecure := n.secure } ∧
        (∀ k, k ≠ e.val → Sparse.get {} u.sec.regions k = Sparse.get {} s.sec.regions k) ∧ u.hbm = s.hbm ∧
        u.sec.clearing = false) ∧
      (n.valid = false → x.effValid = true → x.effSecure = true → 0 < x.effSize.toNat → ∃ u, flags u ∧
        u.sec.clearing = true ∧ (Sparse.get {} u.sec.regions e).effValid = true ∧ u.hbm = s.hbm ∧
        ∀ a < userTop, u.clearingAt a = decide (x.effBase.toNat ≤ a / 0x200000 ∧
          a / 0x200000 < x.effBase.toNat + x.effSize.toNat)) ∧
      (∀ i : Fin 256, ∃ u, exec (.tileMapWrite w i v) s = .next u ∧ u.tiles = s.tiles ∧ u.sec.regions = s.sec.regions ∧
        (∀ j < 32, s.tileOk (32 * i.val + j) = true → Sparse.get false u.sec.tileMap (32 * i.val + j) = v.getLsbD j) ∧
        ∀ t, t / 32 ≠ i.val ∨ s.tileOk t = false → Sparse.get false u.sec.tileMap t = Sparse.get false s.sec.tileMap t)) ∧
    (SecureAgent s w → ¬s.tablesOpen → ∀ (k : Fin 3) (i : Fin 256),
      let counted : State := { s with sec := { s.sec with worldRefusedCnt := satAdd s.sec.worldRefusedCnt 1 } }
      exec (.regionTableWrite w e k v) s = .next counted ∧ exec (.tileMapWrite w i v) s = .next counted) ∧
    (∀ (p : Port) (k : Fin 3), s.boot.stage ≥ 3 → (s.port p).secure = false →
      ∃ u, exec (.regionTableWrite (.port p) e k v) s = .next u ∧ u.out = .aer p .abort :: s.out ∧
        u.sec = { s.sec with worldRefusedCnt := satAdd s.sec.worldRefusedCnt 1 }) ∧
    (s.sec.clearing = true → s.unitsHeld s.sec.clearingUnits = false →
      ∃ u, exec .clearingEnd s = .next u ∧ u.sec.clearing = false ∧ (u.irqGrp 11).pend.getLsbD 3 = true ∧
        (∀ b, Sparse.get 0 u.hbm b = if inUnits s.sec.clearingUnits b = true then 0 else Sparse.get 0 s.hbm b) ∧
        (∀ k, inUnits s.sec.clearingUnits (k * 64) = true → Sparse.get false u.poison k = false ∧ Sparse.get 0 u.bad k = 0) ∧
        (s.sec.clearingEntry = some e.val → s.sec.clearKey = [] → Sparse.get {} u.sec.regions e = { x with
          effBase := x.base, effSize := x.size, effValid := x.valid, effSecure := x.secure }) ∧
        (∀ p : Port, s.sec.clearKey = [p] → (u.secPort p).busy = false ∧
          (∀ t, (u.tile t).wmem = [] ∧ (u.tile t).amem = [] ∧ (u.tile t).flaws = []) ∧
          (s.sec.replayErr = false → u.flash.operatorKey = none ∧ u.sec.regions = [] ∧ u.sec.tileMap = [] ∧
            (u.port 0).secure = false ∧ (u.port 1).secure = false ∧ (u.secPort p).result = 0) ∧
          (s.sec.replayErr = true → u.flash = s.flash ∧ (u.secPort p).result = 5)) ∧
        (∀ p q : Port, p ≠ q → s.sec.clearKey = [p, q] → s.sec.replayErr = false → windowBad 5 (s.secPort q).window = false →
          (u.secPort p).result = 0 ∧ (u.secPort q).busy = false ∧ (u.secPort q).result = 2 ∧ u.flash.operatorKey = none))

/-- SPDM 1.2. GET_VERSION answers with version 1.2; capabilities, algorithms and every later request answer only in their
order, with ERROR UnexpectedRequest before it; a signed response carries the signature of the alias key, the requester's
nonce and a fresh one; nothing answers while the transport's stage has not been reached. The codes and the form of a
response are presumed, those of DSP0274 (notes/assumptions/57.md). -/
def Obligations.SpdmResponder : Prop :=
  ∀ (s : State) (x : Transport) (nonce : BitVec 256),
    let y := s.spdm x
    let put (z : Spdm) : State := { s with sec := { s.sec with spdm := Sparse.set {} s.sec.spdm (transportNum x) z } }
    let reply (t : State) (code : Nat) (content : List Byte) : State := t.emit (.spdm x (Config.spdmResponse code content))
    let chain := s.flash.record.issCert ++ s.flash.record.idCert ++ s.sec.aliasCert
    let meas (i : Nat) : List Byte := BitVec.ofNat 8 i :: toBytes (Sparse.get 0 s.sec.meas (i - 1)).toNat 64
    let fresh := toBytes (BitVec.ofNat 512 (shake256 (s.sec.nonceKey ++
      toBytes (s.flash.bootCount.toNat * 2 ^ 32 + s.sec.nonces.toNat) 8 ++ [2]) 64)).toNat 64
    let signed (c : Instr) (code : Nat) (content : List Byte) : Prop :=
      let b := Config.spdmResponse code (content ++ toBytes nonce.toNat 32 ++ fresh)
      exec c s = .next { s with out := .spdm x (b ++ Config.spdmSign s.sec.aliasKey b) :: s.out, sec := { s.sec with nonces := s.sec.nonces + 1 } }
    ((∃ q, x = .doe q ∧ s.boot.portsReady = true) ∨ (x = .smbus ∧ s.melvor.fwReady = true) → s.melvor.lockstepErr = false →
      exec (.getVersion x) s = .next (reply (put { version := true }) 0x04 [0x12]) ∧
      (y.version = true → exec (.getCapabilities x) s = .next (reply (put { version := true, caps := true }) 0x61 [0x16, 0, 0, 0])) ∧
      (y.version = false → exec (.getCapabilities x) s = .next (reply s 0x7F [4])) ∧
      (y.version = true → y.caps = true →
        exec (.negotiateAlgorithms x true true) s =
          .next (reply (put { version := true, caps := true, algs := true }) 0x63 [1, 1])) ∧
      (y.algs = true →
        exec (.getDigests x) s = .next (reply s 0x01 chain) ∧
        (∀ off len, exec (.getCertificate x 0 off len) s = .next (reply s 0x02 (chain ++ toBytes off 4 ++ toBytes len 4))) ∧
        (∀ (slot : Byte) off len, slot ≠ 0 → exec (.getCertificate x slot off len) s = .next (reply s 0x7F [1]) ∧
          exec (.challenge x slot nonce) s = .next (reply s 0x7F [1])) ∧
        signed (.challenge x 0 nonce) 0x03 (chain ++ [1, 2, 3, 4, 5, 6, 7].flatMap meas) ∧
        (∀ i : Byte, 1 ≤ i.toNat → i.toNat ≤ 7 → signed (.getMeasurements x i nonce) 0x60 ([i, 7] ++ meas i.toNat)) ∧
        (∀ i : Byte, 7 < i.toNat → i.toNat ≠ 255 → exec (.getMeasurements x i nonce) s = .next (reply s 0x7F [1]))) ∧
      (y.algs = false → exec (.getDigests x) s = .next (reply s 0x7F [4]) ∧
        exec (.challenge x 0 nonce) s = .next (reply s 0x7F [4]) ∧
        exec (.getMeasurements x 1 nonce) s = .next (reply s 0x7F [4]))) ∧
    (s.melvor.lockstepErr = true ∨ (x = .smbus ∧ s.melvor.fwReady = false) ∨ (∃ q, x = .doe q ∧ s.boot.portsReady = false) →
      exec (.getVersion x) s = .next s ∧ exec (.getDigests x) s = .next s ∧ exec (.challenge x 0 nonce) s = .next s)

/-! ## Start, reset and the module's signals (spec 18, 19, 20) -/

namespace Sys2Proof.Machine

/-- Every register, tile, queue, buffer and memory of `u` is at its Reset value, the port pins and the straps stay. `stop`: the
drovers are stopped. -/
def Fresh (s u : State) (stop : Bool) : Prop :=
  u.tiles = [] ∧ (∀ d, u.drover d = if stop = true ∧ d < 16 then { stopped := true } else {}) ∧ u.arb = {} ∧
  u.hbm = [] ∧ u.poison = [] ∧ u.bad = [] ∧ u.hbmCtl = [] ∧ u.waiting = [] ∧
  u.mbox = [] ∧ u.melvor = {} ∧ u.links = [] ∧ u.irq = {} ∧ u.rel = {} ∧ u.snap = {} ∧ u.sec = {} ∧ u.flashIf = {} ∧
  u.smbPtr = 0 ∧ (∀ p : Port, u.port p = { perst := (s.port p).perst, srisMode := (s.port p).srisMode }) ∧
  u.out = s.out ∧ u.pending = s.pending

/-- `c` resets the module with the cause `k`; what a trip or a shut-off has stopped stays stopped. -/
def Resets (s : State) (c : Instr) (k : Nat) : Prop :=
  ∃ u, exec c s = .next u ∧ Fresh s u s.power.clocksStopped ∧ u.tap = s.tap ∧ u.power = {
      supply := s.flash.record.dawnMv, dawnMv := s.flash.record.dawnMv, duskMv := s.flash.record.duskMv
      clocksStopped := s.power.clocksStopped } ∧ u.flash = s.flash ∧ u.boot.stage = 1 ∧ u.boot.resetCause.toNat = k ∧
    u.boot.portsReady = false ∧ u.boot.rstWrRefused = 0 ∧ u.boot.romHalted = false ∧
    u.grp = { slot := s.grp.slot, board := s.grp.board }

/-- `c` turns the power stage off. -/
def TurnsOff (s : State) (c : Instr) (en : Bool) : Prop :=
  ∃ u, exec c s = .next u ∧ Fresh s u false ∧ u.boot.stage = 0 ∧ u.boot.powerOn = false ∧ u.boot.en = en ∧
    u.boot.thermtrip = s.boot.thermtrip ∧ u.power.clocksStopped = true ∧
    u.flash = if s.flashIf.busy = true ∧ (s.flashIf.cmd = 1 ∨ s.flashIf.cmd = 2) then
      { s.flash with cut := some (!s.sec.fwSlot) } else s.flash

end Sys2Proof.Machine

/-- Start. The input in range turns the power stage on, unless a trip holds it off; power good is a cold reset, unless the
input has left its range since; in stage 1 the straps are sampled, and the boot ROM recovers S, verifies the device
record, derives the keys, checks the replay-protected area, starts the valid slot of the higher SVN, A on a tie, measures
it, and erases S, and it halts with BOOT_ERR where none is valid or a step before has failed; the end of stage 2 has every
stack ready, every tile memory clear and PORTS_READY; the end of stage 3 has all of HBM zero, and FW_READY. That the steps
are one command, and when the straps are sampled, are the model's reading (notes/assumptions/59.md), as are the digests of
the measurements (notes/assumptions/58.md); what record and slot hold as bytes is its choice (notes/assumptions/93.md). -/
def Obligations.PowerUp : Prop :=
  ∀ (s : State) (slot : BitVec 3) (board : BitVec 9),
    let f := s.flash
    let boot : Instr := .romExit ⟨0, slot, board⟩
    let secret := Config.deviceSecret f.record.helper
    let key (l : String) : List Byte := deriveKey l secret []
    let tag (f : Flash) : BitVec 256 := areaTag (key "ORV replay") f.writeCount f.minSvn f.bootCount f.operatorKey f.service
    let booted : Flash := { f with bootCount := f.bootCount + 1, writeCount := f.writeCount + 1 }
    let extended (i : Nat) (d : Line) : Line :=
      BitVec.ofNat 512 (shake256 (toBytes (Sparse.get 0 s.sec.meas i).toNat 64 ++ toBytes d.toNat 64) 64)
    let digest (l : List Byte) : Line := BitVec.ofNat 512 (shake256 l 64)
    let strapped : State := { s with grp := { s.grp with slot := slot, board := board } }
    let rom : Prop := s.boot.powerOn = true ∧ s.boot.stage = 1 ∧ s.boot.romHalted = false
    let starts (c : Instr) (b : Bool) (v : BitVec 16) (image : List Byte) : Prop := ∃ u, exec c s = .next u ∧
      u.boot = { s.boot with stage := 2 } ∧ u.sec.fwSlot = b ∧ u.sec.fwSvn = v ∧ u.sec.bootErr = 0 ∧
      u.flash = { booted with tag := tag booted } ∧
      (∀ k < 8, (u.ctl k).training = true) ∧ (∀ k < 12, (s.link k).holdDown = false → (u.link k).training = true) ∧
      Sparse.get 0 u.sec.meas 0 = extended 0 Config.romDigest ∧
      Sparse.get 0 u.sec.meas 1 = extended 1 (digest (Config.recordBytes f.record)) ∧
      Sparse.get 0 u.sec.meas 2 = extended 2 (digest image) ∧
      Sparse.get 0 u.sec.meas 3 = extended 3 (Config.policyDigest f.minSvn.toNat (f.operatorKey.getD [])) ∧
      u.sec.nonceKey = key "ORV nonce" ∧ u.sec.replayKey = key "ORV replay" ∧
      u.sec.identity = Config.mldsaPublic (key "ORV identity") ∧
      u.sec.aliasKey = deriveKey "ORV alias" secret (toBytes (Sparse.get 0 u.sec.meas 2).toNat 64) ∧
      u.sec.secret = none ∧ u.sec.identityKey = none ∧ u.hbm = s.hbm ∧ u.tiles = s.tiles ∧ u.grp = strapped.grp
    let halts (c : Instr) (e : BitVec 3) (g : Flash) : Prop := ∃ u, exec c s = .next u ∧ u.boot = { s.boot with romHalted := true } ∧
      u.sec.bootErr = e ∧ u.flash = g ∧ u.grp = strapped.grp ∧ u.tiles = s.tiles ∧ u.hbm = s.hbm
    (s.boot.powerOn = false → s.boot.thermtrip = false → ∃ u, exec .inputInRange s = .next u ∧ Fresh s u false ∧ u.flash = f ∧
      u.boot.powerOn = true ∧ u.boot.stage = 0 ∧ u.boot.en = true ∧ u.boot.pgood = false) ∧
    (s.boot.thermtrip = true → exec .inputInRange s = .next s) ∧
    (s.boot.powerOn = true → s.boot.stage = 0 → s.boot.holdUp = true → exec .powerGood s = .next s) ∧
    (s.boot.powerOn = true → s.boot.stage = 0 → s.boot.holdUp = false →
      ∃ u, exec .powerGood s = .next u ∧ Fresh s u false ∧ u.flash = f ∧
      u.boot = { en := s.boot.en, resetLow := s.boot.resetLow } ∧ u.boot.resetCause = 1 ∧
      u.grp = { slot := s.grp.slot, board := s.grp.board } ∧
      u.tap = .idcode ∧ u.power = {
        supply := f.record.dawnMv, dawnMv := f.record.dawnMv, duskMv := f.record.duskMv }) ∧
    (rom → if recordVerifies f.record then
        (if f.tag = tag f then
          (match s.slotValid false, s.slotValid true with
            | some (v, x), some (w, y) => if v < w then starts boot true w y else starts boot false v x
            | some (v, x), none => starts boot false v x
            | none, some (w, y) => starts boot true w y
            | none, none => halts boot 4 { booted with tag := tag booted }) ∧
          halts (.romExit ⟨4, slot, board⟩) 4 { booted with tag := tag booted }
        else halts boot 5 f) ∧
        halts (.romExit ⟨5, slot, board⟩) 5 f
      else halts boot 3 f) ∧
    (rom → halts (.romExit ⟨3, slot, board⟩) 3 f ∧
      ∀ e : BitVec 3, e = 1 ∨ e = 2 → exec (.romExit ⟨e, slot, board⟩) s = .next
        { strapped with boot := { s.boot with romHalted := true }, sec := { s.sec with bootErr := e } }) ∧
    (s.boot.stage = 2 → s.melvor.lockstepErr = false → ∃ u, exec .initEnd s = .next u ∧ u.boot = { s.boot with
        stage := 3, portsReady := true, hbmClear := true, tPortsUs := BitVec.ofNat 32 s.boot.sinceUs } ∧
      (∀ t, (u.tile t).wmem = [] ∧ (u.tile t).amem = [] ∧ (u.tile t).core.imem = [] ∧ (u.tile t).router.sched = []) ∧
      (∀ k < 8, (u.ctl k).ready = true ∧ (u.ctl k).training = false) ∧ u.hbm = s.hbm ∧ u.melvor.rowMapStale = false) ∧
    (s.boot.stage = 3 → s.melvor.lockstepErr = false → Settled s → ∃ u, exec .fwReady s = .next u ∧
      u.boot = { s.boot with stage := 4, hbmClear := false, tReadyUs := BitVec.ofNat 32 s.boot.sinceUs } ∧
      u.melvor.fwReady = true ∧ u.melvor.fold = s.melvor.fold ∧ u.hbm = [] ∧ u.poison = [] ∧ u.bad = [])

/-- Resets and the power stage. RESET# low for 1 ms, its release after boundary scan, and RST_REQ with the key from an
agent that may are module resets: everything but module flash, straps and pins is at its Reset value, with the cause of
each, and what a trip or a shut-off has stopped stays stopped; a boundary-scan instruction that is loaded when RESET#
falls has scanned; a wrong key or agent is counted. EN low and the end of a shut-off turn the stage off, and cut the flash
command in progress; the input out of range stops the clocks; TRIP_CLR clears the trip record. What a write of RST_REQ and
RESET# do in stage 0 is the model's reading (notes/assumptions/59.md). -/
def Obligations.ResetsAndPowerOff : Prop :=
  ∀ (s : State) (w : Agent) (key : BitVec 16),
    let refused : State := { s with boot := { s.boot with rstWrRefused := satAdd s.boot.rstWrRefused 1 } }
    (s.boot.stage ≠ 0 → Resets s .resetAssert 2) ∧
    (∃ u, exec .resetAssert s = .next u ∧ u.boot.resetLow = true ∧ u.boot.scanned = s.tap.scans) ∧
    (s.boot.stage = 0 → exec .resetAssert s = .next { s with boot := { s.boot with resetLow := true, scanned := s.tap.scans } }) ∧
    (s.boot.resetLow = true → s.boot.scanned = false → exec .resetRelease s =
      .next { s with boot := { s.boot with resetLow := false } }) ∧
    (s.boot.resetLow = true → s.boot.scanned = true → s.boot.stage ≠ 0 → Resets s .resetRelease 2) ∧
    (MayWrite s w 0x38 0x10 → s.boot.stage ≠ 0 →
      (s.mayControl w = true → Resets s (.rstReq w 0xA5C3#16)
        (match w with | .port p => 3 + p.val | .smbus => 5 | _ => 6)) ∧
      (key ≠ 0xA5C3#16 ∨ s.mayControl w = false → exec (.rstReq w key) s = .next refused)) ∧
    (MayWrite s w 0x38 0x14 →
      (s.mayControl w = true → exec (.tripClr w) s = .next { s with flash := { s.flash with trip := none } }) ∧
      (s.mayControl w = false → exec (.tripClr w) s = .next refused)) ∧
    (s.boot.powerOn = true → TurnsOff s .enLow false) ∧
    (s.boot.powerOn = false → exec .enLow s = .next { s with boot := { s.boot with en := false } }) ∧
    (s.boot.powerOn = true → ∀ below, ∃ u, exec (.inputOutOfRange below) s = .next u ∧
      u.boot = { s.boot with holdUp := true, thermtrip := !below && s.boot.thermtrip } ∧ u.power.clocksStopped = true ∧
      (∀ d < 16, (u.drover d).stopped = true) ∧ u.tiles = s.tiles ∧ u.hbm = s.hbm ∧ u.melvor = s.melvor) ∧
    (s.boot.powerOn = true → s.boot.holdUp = true ∨ s.boot.thermtrip = true → TurnsOff s .powerStageOff s.boot.en)

/-- The firmware flash interface, the sideband and the test access port. ERASE, PROGRAM and VERIFY of an agent that may
write, while no other holds it and BUSY = 0, set BUSY, and ERASE makes the agent the holder; any other write is counted.
ERASE leaves an empty, invalid inactive slot; PROGRAM writes its page where it is erased, and is RESULT 2 elsewhere;
VERIFY ends the holding and takes over the SVN of a slot that verifies, RESULT 2 for one that does not; a flash error is
RESULT 3, and what a page then holds is free (notes/assumptions/60.md). Two agents that ERASE in one cycle go by the tie
token. SET_POINTER takes a pointer with a good PEC; a register that the SMBus reaches is read, with the pointer moved on
by 4, and any other reads 0; a write goes to the pointer's register; a pointer that is not aligned is an address fault of
the SMBus; ALERT_RESPONSE answers with the address 0x58 + SLOT while SMB_ALERT# is asserted; before the end of the boot
ROM nothing is acknowledged. How the pointer moves and what an access outside the reach does are the model's reading
(notes/assumptions/61.md). An instruction of boundary scan acts only while RESET# is low, and as BYPASS otherwise; IDCODE
gives its word; what a scan does to the pins is presumed (notes/assumptions/62.md). -/
def Obligations.FlashSidebandAndTap : Prop :=
  (∀ (s : State) (w : Agent),
    let x := s.flashIf
    let f := s.flash
    let b := !s.sec.fwSlot
    let mine : Prop := s.mayControl w = true ∧ (x.held = false ∨ x.holder.toNat = holderCode w)
    let ends (err : Bool) (g : Flash) (y : FlashIf) (r : BitVec 2) : Prop :=
      exec (.flashComplete err) s = .next { s with flash := g, flashIf := { y with busy := false, result := r, cmd := 0 } }
    (MayWrite s w 0x38 0x104 →
      (mine → x.busy = false →
        exec (.erase w []) s = .next { s with flashIf := { x with
          busy := true, cmd := 1, held := true, holder := BitVec.ofNat 2 (holderCode w) } } ∧
        exec (.program w) s = .next { s with flashIf := { x with busy := true, cmd := 2, cmdPage := x.page } } ∧
        exec (.verify w) s = .next { s with flashIf := { x with busy := true, cmd := 3, cmdPage := x.page } }) ∧
      (¬mine ∨ x.busy = true → ∀ c ∈ [Instr.erase w [], .program w, .verify w], exec c s = .next { s with flashIf := { x with
        refused := satAdd x.refused 1 } })) ∧
    (∀ p : Port, s.melvor.owner.toNat = p.val → MayWrite s (.port p) 0x38 0x104 → MayWrite s .smbus 0x38 0x104 → x.held = false →
      x.busy = false → ∀ win, (tiePass 3 x.tok [p.val, 2]).1 = some win → exec (.erase (.port p) [.smbus]) s = .next { s with flashIf :=
        { x with busy := true, cmd := 1, held := true, holder := BitVec.ofNat 2 win, tok := (win + 1) % 3
                 refused := satAdd x.refused 1 } }) ∧
    (x.busy = true → x.cmd = 1 → ends true f x 3 ∧
      ends false { (if b = true then { f with slotB := [] } else { f with slotA := [] }) with
        cut := if f.cut = some b then none else f.cut } x 1) ∧
    (x.busy = true → x.cmd = 2 →
      let k := x.cmdPage.toNat
      let pages := if b = true then f.slotB else f.slotA
      let put (d : List Byte) : Flash :=
        if b = true then { f with slotB := Sparse.set [] pages k d } else { f with slotA := Sparse.set [] pages k d }
      (k < 2304 → (∀ y ∈ pages, y.1 ≠ k) → ends false (put (winBytes x.data 0 4096)) x 1 ∧
        ∃ u d, exec (.flashComplete true) s = .next u ∧ u.flash = put d ∧ u.flashIf.result = 3 ∧ u.flashIf.busy = false) ∧
      (k ≥ 2304 ∨ (∃ y ∈ pages, y.1 = k) → ∀ err, ends err f x 2)) ∧
    (x.busy = true → x.cmd = 3 → ends true f { x with held := false } 3 ∧
      match s.slotValid b with
      | none => ends false f { x with held := false } 2
      | some v => ends false f { x with held := false, slotSvn := v.1 } 1) ∧
    exec .holderTimeout s = .next { s with flashIf := { x with held := false } }) ∧
  ∀ (s : State) (v : Word) (msg : List Byte),
    let b := s.smbPtr.toNat / 2 ^ 20
    let o := s.smbPtr.toNat % 2 ^ 20
    let moved : BitVec 28 := BitVec.ofNat 28 (b * 2 ^ 20 + (o + 4) % 2 ^ 20)
    (s.smbOn = true →
      (v.toNat / 2 ^ 20 % 16 = 0 → exec (.smbSetPointer v true) s = .next { s with
        smbPtr := BitVec.ofNat 28 (v.toNat / 2 ^ 24 * 2 ^ 20 + v.toNat % 2 ^ 20) }) ∧
      (exec (.smbSetPointer v false) s = .next s ∧ exec (.smbWriteRegister v false) s = .next s) ∧
      (o % 4 = 0 → s.smbReach b o false = true → exec .smbReadRegister s = .next { s with
        smbPtr := moved, out := .smbData (BitVec.ofNat 32 (s.regRead .smbus b o)) :: s.out }) ∧
      (s.smbReach b o false = false → o % 4 = 0 →
        exec .smbReadRegister s = .next { s with smbPtr := moved, out := .smbData 0 :: s.out }) ∧
      (o % 4 ≠ 0 → exec .smbReadRegister s = .next { s with smbPtr := moved, out := .smbData 0 :: .addressFault .smbus :: s.out } ∧
        exec (.smbWriteRegister v true) s = .next { s with smbPtr := moved, out := .addressFault .smbus :: s.out }) ∧
      (b = 0x38 → o = 0x14 → v.getLsbD 0 = true → exec (.smbWriteRegister v true) s = .next { s with
        smbPtr := moved, flash := { s.flash with trip := none } }) ∧
      (s.smbReach b o true = false → o % 4 = 0 → exec (.smbWriteRegister v true) s = .next { s with smbPtr := moved }) ∧
      (s.melvor.fwReady = true → s.melvor.lockstepErr = false →
        exec (.mctp msg) s = .next (s.emit (.mctp (Config.mctpResponse msg)))) ∧
      (s.melvor.fwReady = false → exec (.mctp msg) s = .next s) ∧
      (s.power.thermLevel ≥ 1 ∨ s.rel.fatal = true ∨ s.sec.bootErr ≠ 0 ∨ s.flash.trip.isSome = true →
        exec .alertResponse s = .next (s.emit (.smbAddr (BitVec.ofNat 7 (0x58 + s.grp.slot.toNat)))))) ∧
    (s.smbOn = false → ∀ c ∈ [Instr.smbSetPointer v true, .smbReadRegister, .smbWriteRegister v true, .mctp msg, .alertResponse],
      exec c s = .next (s.emit .smbNack)) ∧
    (s.boot.powerOn = true →
      exec .bypass s = .next { s with tap := .bypass } ∧ exec .samplePreload s = .next { s with tap := .samplePreload } ∧
      (∃ d : Word, exec .idcode s = .next { s with tap := .idcode, out := .tdo d :: s.out } ∧ d.toNat % 2 = 1 ∧
        d.toNat / 2 ^ 12 % 65536 = (match s.flash.record.grade with | .st70 => 0x5370 | .st68 => 0x5368)) ∧
      (∀ r ∈ [(Tap.extest, Instr.extest), (.extestPulse, .extestPulse), (.extestTrain, .extestTrain), (.clamp, .clamp),
          (.highz, .highz)],
        (s.boot.resetLow = true → exec r.2 s = .next { s with tap := r.1, boot := { s.boot with scanned := true } }) ∧
        (s.boot.resetLow = false → exec r.2 s = .next { s with tap := r.1 } ∧ State.tapActs { s with tap := r.1 } = .bypass)))

/-! ## The whole module -/

namespace Sys2Proof.Machine

/-- Working and accumulator memory of every tile are in their canonical form. -/
def TileForms (s : State) : Prop := ∀ x ∈ s.tiles, Sparse.wf 0 x.2.wmem = true ∧ Sparse.wf 0 x.2.amem = true

/-- The depths that the spec gives hold: engine command queues of 8 and summary queues of 4 entries (R71, R76), a send
buffer of 4 (R67), replay buffers of 512 flits (R306), a service record of 64 tiles (R372), 10 samples (R337); the tie
token of a controller names one of its parties, the place in a frame of 16 grants is one of 16, and the grants since the
scrub's last are counted up to 255 (R285, R256, R369). -/
def Bounded (s : State) : Prop :=
  (∀ x ∈ s.tiles, x.2.core.sendBuf.length ≤ 4 ∧
    ∀ q ∈ [x.2.mxe.q, x.2.vxe.q, x.2.upe.q], q.queue.length ≤ 8 ∧ q.summs.length ≤ 4) ∧
  (∀ c ∈ s.hbmCtl, c.2.tok < 32 ∧ c.2.frame < 16 ∧ c.2.sinceScrub ≤ 255) ∧
  (∀ l ∈ s.links, l.2.replayBuf.length ≤ 512) ∧ s.flash.service.length ≤ 64 ∧ s.power.samples.length ≤ 10

end Sys2Proof.Machine

/-- Right after reset: stage 1 of the boot, cold, no port removed or ready, no fold and no job, ownership vacant, the
module at Dawn with nothing measured, every memory empty in its canonical form, every queue within its depth, no command
waiting. The values of its tables are the spec's; the instant of the reset and what a memory reads before a write are the
model's choice (notes/assumptions/4.md, 5.md). -/
def Obligations.ResetValues : Prop :=
  let s := State.reset
  TileForms s ∧ Bounded s ∧ s.pending = [] ∧ s.waiting = [] ∧ s.out = [] ∧ Sparse.wf 0 s.hbm = true ∧ Sparse.wf false s.poison = true ∧
  (∀ a, Sparse.get 0 s.hbm a = 0) ∧ s.boot.stage = 1 ∧ s.boot.resetCause = 1 ∧ s.boot.portsReady = false ∧
  s.melvor.fwReady = false ∧ s.melvor.jobState = 0 ∧ s.melvor.owner = 3 ∧ s.melvor.fold = none ∧ s.melvor.job = none ∧
  s.power.point = .dawn ∧ s.power.pcap = 2400 ∧ s.power.actCeil = 65536 ∧ s.power.calGain = 0x4000 ∧
  s.power.tjThrottle = 95 ∧ s.power.droopTh = 40 ∧ s.rel.scrubPeriodH = 12 ∧ s.rel.serviceWindowH = 72 ∧
  s.rel.tileCeTh = 1024 ∧ s.rel.hbmScrubEn = true ∧ s.rel.tileScrubEn = true ∧ s.sec.regions = [] ∧ s.sec.tileMap = [] ∧
  (∀ p : Port, (s.port p).secure = false ∧ (s.box p).enable = false ∧ (s.secPort p).busy = false) ∧
  (∀ g, (s.irqGrp g).pend = 0 ∧ (s.irqGrp g).enable = 0) ∧
  (∀ t, (s.tile t).core.state = 0 ∧ (s.tile t).world = false ∧ (s.tile t).wmem = [] ∧ (s.tile t).core.fault = none ∧
    ∀ n, (s.tile t).core.g n = 0)

/-- HBM keeps its canonical form: whatever command a step runs, and on an empty queue. -/
def Obligations.HbmCanonicalStep : Prop :=
  ∀ (s t : State), Sparse.wf 0 s.hbm = true → step s = .next t → Sparse.wf 0 t.hbm = true

/-- The tile memories keep their canonical form: whatever command a step runs, and on an empty queue. -/
def Obligations.TileMemoryFormsStep : Prop :=
  ∀ (s t : State), TileForms s → step s = .next t → TileForms t

/-- Queues, buffers and counts stay within the bounds that the spec gives them: whatever command a step runs, and on an empty
queue. -/
def Obligations.BoundsStep : Prop :=
  ∀ (s t : State), Bounded s → step s = .next t → Bounded t
end

