-- ==== Sys2Proof/Laws/Sparse.lean ====
section
/-! SUPPORT. Sparse storage and byte access: a read after a write, the canonical form, and the bytes of wider accesses. -/

namespace Sys2Proof.Machine

variable {α : Type}

/-! ## One entry -/

theorem Sparse.get_filter_ne (d : α) (m : Sparse α) (a b : Nat) :
    Sparse.get d (m.filter fun x => x.1 ≠ a) b = if b = a then d else Sparse.get d m b := by
  induction m with
  | nil => simp [Sparse.get]
  | cons x r ih =>
    obtain ⟨k, v⟩ := x
    by_cases hk : k = a <;> simp_all [Sparse.get]
    split <;> simp_all

theorem Sparse.get_ins (d : α) (m : Sparse α) (a b : Nat) (v : α) (hm : ∀ x ∈ m, x.1 ≠ a) :
    Sparse.get d (Sparse.ins m a v) b = if b = a then v else Sparse.get d m b := by
  induction m with
  | nil => simp [Sparse.ins, Sparse.get]
  | cons x r ih =>
    obtain ⟨k, w⟩ := x
    have hk : k ≠ a := hm (k, w) (by simp)
    have ih := ih fun x hx => hm x (by simp [hx])
    simp only [Sparse.ins]
    split
    · simp [Sparse.get]
    · simp only [Sparse.get, ih]
      by_cases hb : b = k
      · subst hb; simp [hk]
      · simp [hb]

/-- A read after a write. -/
@[simp] theorem Sparse.get_set [DecidableEq α] (d : α) (m : Sparse α) (a b : Nat) (v : α) :
    Sparse.get d (Sparse.set d m a v) b = if b = a then v else Sparse.get d m b := by
  simp only [Sparse.set]
  split
  · next h => rw [Sparse.get_filter_ne, h]
  · rw [Sparse.get_ins d _ a b v (by simp), Sparse.get_filter_ne]
    split <;> rfl

theorem Sparse.filter_ins (m : Sparse α) (a : Nat) (v : α) (hm : ∀ x ∈ m, x.1 ≠ a) :
    (Sparse.ins m a v).filter (fun x => x.1 ≠ a) = m := by
  induction m with
  | nil => simp [Sparse.ins]
  | cons x r ih =>
    have hk : x.1 ≠ a := hm x (by simp)
    have ih := ih fun x hx => hm x (by simp [hx])
    have hr : r.filter (fun x => x.1 ≠ a) = r := List.filter_eq_self.mpr fun x hx => by simpa using hm x (by simp [hx])
    simp only [Sparse.ins]
    split
    · rw [List.filter_cons_of_neg (by simp), List.filter_cons_of_pos (by simpa using hk), hr]
    · rw [List.filter_cons_of_pos (by simpa using hk), ih]

/-- The second of two writes of one key stands. -/
@[simp] theorem Sparse.set_set [DecidableEq α] (d : α) (m : Sparse α) (a : Nat) (v w : α) :
    Sparse.set d (Sparse.set d m a v) a w = Sparse.set d m a w := by
  have h : (Sparse.set d m a v).filter (fun x => x.1 ≠ a) = m.filter fun x => x.1 ≠ a := by
    simp only [Sparse.set]
    split
    · simp
    · rw [Sparse.filter_ins _ _ _ (by simp)]
  simp only [Sparse.set] at h ⊢
  rw [h]

@[simp] theorem Sparse.get_nil (d : α) (a : Nat) : Sparse.get d ([] : Sparse α) a = d := rfl

theorem Sparse.get_mod [DecidableEq α] (d : α) (m : Sparse α) (a b : Nat) (f : α → α) :
    Sparse.get d (Sparse.mod d m a f) b = if b = a then f (Sparse.get d m a) else Sparse.get d m b := by
  simp [Sparse.mod]

/-! ## The canonical form -/

theorem Sparse.wf_nil [DecidableEq α] (d : α) : Sparse.wf d ([] : Sparse α) = true := by simp [Sparse.wf]

theorem Sparse.pairwise_ins (m : Sparse α) (a : Nat) (v : α) (h : m.Pairwise fun x y => x.1 < y.1) (hm : ∀ x ∈ m, x.1 ≠ a) :
    (Sparse.ins m a v).Pairwise (fun x y => x.1 < y.1) ∧ ∀ x ∈ Sparse.ins m a v, x = (a, v) ∨ x ∈ m := by
  induction m with
  | nil => simp [Sparse.ins]
  | cons x r ih =>
    obtain ⟨k, w⟩ := x
    have hk : k ≠ a := hm (k, w) (by simp)
    have h' := List.pairwise_cons.mp h
    have ih := ih h'.2 fun x hx => hm x (by simp [hx])
    simp only [Sparse.ins]
    split
    · next hlt =>
      refine ⟨List.pairwise_cons.mpr ⟨?_, h⟩, by simp⟩
      intro y hy
      rcases List.mem_cons.mp hy with rfl | hy
      · exact hlt
      · exact Nat.lt_trans hlt (h'.1 y hy)
    · refine ⟨List.pairwise_cons.mpr ⟨?_, ih.1⟩, ?_⟩
      · intro y hy
        rcases ih.2 y hy with rfl | hy
        · simp only; omega
        · exact h'.1 y hy
      · intro y hy
        rcases List.mem_cons.mp hy with rfl | hy
        · simp
        · rcases ih.2 y hy with h | h <;> simp [h]

/-- A write keeps the canonical form. -/
theorem Sparse.wf_set [DecidableEq α] (d : α) (m : Sparse α) (a : Nat) (v : α) (h : Sparse.wf d m = true) :
    Sparse.wf d (Sparse.set d m a v) = true := by
  simp only [Sparse.wf, Bool.and_eq_true, decide_eq_true_eq, List.all_eq_true, bne_iff_ne] at *
  have hf : (m.filter fun x => x.1 ≠ a).Pairwise fun x y => x.1 < y.1 := h.1.sublist List.filter_sublist
  simp only [Sparse.set]
  split
  · exact ⟨hf, fun x hx => h.2 x (List.mem_of_mem_filter hx)⟩
  · next hv =>
    have hi := Sparse.pairwise_ins (m.filter fun x => x.1 ≠ a) a v hf (by simp)
    refine ⟨hi.1, fun x hx => ?_⟩
    rcases hi.2 x hx with rfl | hx
    · exact hv
    · exact h.2 x (List.mem_of_mem_filter hx)

/-! ## Bytes -/

theorem writeBytes_wf (n : Nat) : ∀ (m : Sparse Byte) (a v : Nat), Sparse.wf 0 m = true →
    Sparse.wf 0 (writeBytes m a v n) = true := by
  induction n with
  | zero => intro m a v h; exact h
  | succ n ih => intro m a v h; exact ih _ _ _ (Sparse.wf_set 0 m a _ h)

theorem writeMasked_wf (n : Nat) : ∀ (m : Sparse Byte) (a mask v : Nat), Sparse.wf 0 m = true →
    Sparse.wf 0 (writeMasked m a mask v n) = true := by
  induction n with
  | zero => intro m a mask v h; exact h
  | succ n ih =>
    intro m a mask v h
    refine ih _ _ _ _ ?_
    split
    · exact Sparse.wf_set 0 m a _ h
    · exact h

/-- A byte after a write of `n` bytes: the byte of the value inside the written bytes, the old byte outside. -/
theorem get_writeBytes (n : Nat) : ∀ (m : Sparse Byte) (a v b : Nat),
    Sparse.get 0 (writeBytes m a v n) b =
      if a ≤ b ∧ b < a + n then BitVec.ofNat 8 (v / 256 ^ (b - a)) else Sparse.get 0 m b := by
  induction n with
  | zero => intro m a v b; simp only [writeBytes]; split <;> [omega; rfl]
  | succ n ih =>
    intro m a v b
    simp only [writeBytes, ih, Sparse.get_set]
    by_cases h1 : b = a
    · subst h1; simp
    · by_cases h2 : a + 1 ≤ b ∧ b < a + 1 + n
      · have h3 : a ≤ b ∧ b < a + (n + 1) := by omega
        have h4 : b - a = (b - (a + 1)) + 1 := by omega
        rw [if_pos h2, if_pos h3, h4, Nat.div_div_eq_div_mul, pow_succ, Nat.mul_comm]
      · have h3 : ¬ (a ≤ b ∧ b < a + (n + 1)) := by omega
        rw [if_neg h2, if_neg h1, if_neg h3]

/-- A byte after a masked write. -/
theorem get_writeMasked (n : Nat) : ∀ (m : Sparse Byte) (a mask v b : Nat),
    Sparse.get 0 (writeMasked m a mask v n) b =
      if a ≤ b ∧ b < a + n ∧ mask / 2 ^ (b - a) % 2 = 1 then BitVec.ofNat 8 (v / 256 ^ (b - a)) else Sparse.get 0 m b := by
  induction n with
  | zero => intro m a mask v b; simp only [writeMasked]; split <;> [omega; rfl]
  | succ n ih =>
    intro m a mask v b
    simp only [writeMasked, ih]
    by_cases h1 : b = a
    · subst h1
      have : ¬ (b + 1 ≤ b ∧ b < b + 1 + n ∧ mask / 2 / 2 ^ (b - (b + 1)) % 2 = 1) := by omega
      rw [if_neg this]
      by_cases hm : mask % 2 = 1 <;> simp [hm]
    · have hs : Sparse.get 0 (if mask % 2 = 1 then Sparse.set 0 m a (BitVec.ofNat 8 v) else m) b = Sparse.get 0 m b := by
        split <;> simp [h1]
      rw [hs]
      by_cases h2 : a + 1 ≤ b ∧ b < a + 1 + n
      · have h4 : b - a = (b - (a + 1)) + 1 := by omega
        have e1 : mask / 2 / 2 ^ (b - (a + 1)) = mask / 2 ^ (b - a) := by
          rw [h4, Nat.div_div_eq_div_mul, pow_succ, Nat.mul_comm]
        have e2 : v / 256 / 256 ^ (b - (a + 1)) = v / 256 ^ (b - a) := by
          rw [h4, Nat.div_div_eq_div_mul, pow_succ, Nat.mul_comm]
        rw [e1, e2]
        congr 1
        apply propext; constructor <;> intro h <;> refine ⟨by omega, by omega, by tauto⟩
      · rw [if_neg (by omega), if_neg (by omega)]

/-- What is read depends on the bytes read only. -/
theorem readBytes_congr (n : Nat) : ∀ (m m' : Sparse Byte) (a : Nat),
    (∀ b, a ≤ b → b < a + n → Sparse.get 0 m b = Sparse.get 0 m' b) → readBytes m a n = readBytes m' a n := by
  induction n with
  | zero => intros; rfl
  | succ n ih =>
    intro m m' a h
    simp only [readBytes, h a (Nat.le_refl a) (by omega)]
    rw [ih m m' (a + 1) fun b h1 h2 => h b (by omega) (by omega)]

theorem readBytes_lt (n : Nat) : ∀ (m : Sparse Byte) (a : Nat), readBytes m a n < 256 ^ n := by
  induction n with
  | zero => intros; simp [readBytes]
  | succ n ih =>
    intro m a
    have h1 := ih m (a + 1)
    have h2 := (Sparse.get 0 m a).isLt
    simp only [readBytes, pow_succ]
    omega

/-! ## Counters -/

@[simp] theorem satAdd_zero {n : Nat} (x : BitVec n) : satAdd x 0 = x := by
  have := x.isLt
  simp only [satAdd, Nat.add_zero]
  rw [Nat.min_eq_left (by omega)]
  simp

/-- A counter never falls. -/
theorem satAdd_le {n : Nat} (x : BitVec n) (k : Nat) : x.toNat ≤ (satAdd x k).toNat := by
  have h := x.isLt
  have h1 : min (x.toNat + k) (2 ^ n - 1) < 2 ^ n := by omega
  simp only [satAdd, BitVec.toNat_ofNat, Nat.mod_eq_of_lt h1]
  omega

/-- Putting an element into its place adds that element and nothing else. -/
theorem insertBy_perm {α : Type} (le : α → α → Bool) (x : α) (l : List α) : (insertBy le x l).Perm (x :: l) := by
  induction l with
  | nil => exact .refl _
  | cons y r ih =>
    simp only [insertBy]
    split
    · exact .refl _
    · exact (ih.cons y).trans (.swap x y r)

/-- Sorting only moves elements. -/
theorem sortBy_perm {α : Type} (le : α → α → Bool) (l : List α) : (sortBy le l).Perm l := by
  induction l with
  | nil => exact .refl _
  | cons x r ih => exact (insertBy_perm le x _).trans (ih.cons x)

/-- The root found bit by bit is one: its square does not exceed the number. -/
theorem rootFrom_sq_le (n : Nat) : ∀ i r, r * r ≤ n → rootFrom n i r * rootFrom n i r ≤ n
  | 0, _, h => h
  | i + 1, r, h => by
    simp only [rootFrom]
    split
    · exact rootFrom_sq_le n i _ ‹_›
    · exact rootFrom_sq_le n i _ h

theorem floorRoot_sq_le (n : Nat) : floorRoot n * floorRoot n ≤ n := rootFrom_sq_le n _ 0 (Nat.zero_le _)

end Sys2Proof.Machine
end

