-- ==== Sys2Proof/Laws/State.lean ====
section
/-! SUPPORT. The updates of State: what each leaves of every field, and what each unit reads as after it. A `mod` of a
unit is rewritten into its `set`. -/

namespace Sys2Proof.Machine

/-! ## setTile -/

@[simp] theorem State.modTile_eq (s : State) (t : Nat) (h : Tile → Tile) :
    s.modTile t h = s.setTile t (h (s.tile t)) := rfl
@[simp] theorem State.setTile_tile (s : State) (t : Nat) (x : Tile) (u : Nat) :
    (s.setTile t x).tile u = if u = t then x else s.tile u := Sparse.get_set _ _ _ _ _
@[simp] theorem State.setTile_setTile (s : State) (t : Nat) (x y : Tile) : (s.setTile t x).setTile t y = s.setTile t y := by
  simp [State.setTile]
@[simp] theorem State.setTile_drover (s : State) (t : Nat) (x : Tile) (u : Nat) : (s.setTile t x).drover u = s.drover u := rfl
@[simp] theorem State.setTile_ctl (s : State) (t : Nat) (x : Tile) (u : Nat) : (s.setTile t x).ctl u = s.ctl u := rfl
@[simp] theorem State.setTile_port (s : State) (t : Nat) (x : Tile) (u : Nat) : (s.setTile t x).port u = s.port u := rfl
@[simp] theorem State.setTile_box (s : State) (t : Nat) (x : Tile) (u : Nat) : (s.setTile t x).box u = s.box u := rfl
@[simp] theorem State.setTile_link (s : State) (t : Nat) (x : Tile) (u : Nat) : (s.setTile t x).link u = s.link u := rfl
@[simp] theorem State.setTile_irqGrp (s : State) (t : Nat) (x : Tile) (u : Nat) : (s.setTile t x).irqGrp u = s.irqGrp u := rfl
@[simp] theorem State.setTile_secPort (s : State) (t : Nat) (x : Tile) (u : Nat) : (s.setTile t x).secPort u = s.secPort u := rfl
@[simp] theorem State.setTile_pending (s : State) (t : Nat) (x : Tile) : (s.setTile t x).pending = s.pending := rfl
@[simp] theorem State.setTile_out (s : State) (t : Nat) (x : Tile) : (s.setTile t x).out = s.out := rfl
@[simp] theorem State.setTile_free (s : State) (t : Nat) (x : Tile) : (s.setTile t x).free = s.free := rfl
@[simp] theorem State.setTile_drovers (s : State) (t : Nat) (x : Tile) : (s.setTile t x).drovers = s.drovers := rfl
@[simp] theorem State.setTile_arb (s : State) (t : Nat) (x : Tile) : (s.setTile t x).arb = s.arb := rfl
@[simp] theorem State.setTile_hbm (s : State) (t : Nat) (x : Tile) : (s.setTile t x).hbm = s.hbm := rfl
@[simp] theorem State.setTile_poison (s : State) (t : Nat) (x : Tile) : (s.setTile t x).poison = s.poison := rfl
@[simp] theorem State.setTile_bad (s : State) (t : Nat) (x : Tile) : (s.setTile t x).bad = s.bad := rfl
@[simp] theorem State.setTile_hbmCtl (s : State) (t : Nat) (x : Tile) : (s.setTile t x).hbmCtl = s.hbmCtl := rfl
@[simp] theorem State.setTile_waiting (s : State) (t : Nat) (x : Tile) : (s.setTile t x).waiting = s.waiting := rfl
@[simp] theorem State.setTile_ports (s : State) (t : Nat) (x : Tile) : (s.setTile t x).ports = s.ports := rfl
@[simp] theorem State.setTile_mbox (s : State) (t : Nat) (x : Tile) : (s.setTile t x).mbox = s.mbox := rfl
@[simp] theorem State.setTile_melvor (s : State) (t : Nat) (x : Tile) : (s.setTile t x).melvor = s.melvor := rfl
@[simp] theorem State.setTile_links (s : State) (t : Nat) (x : Tile) : (s.setTile t x).links = s.links := rfl
@[simp] theorem State.setTile_grp (s : State) (t : Nat) (x : Tile) : (s.setTile t x).grp = s.grp := rfl
@[simp] theorem State.setTile_power (s : State) (t : Nat) (x : Tile) : (s.setTile t x).power = s.power := rfl
@[simp] theorem State.setTile_irq (s : State) (t : Nat) (x : Tile) : (s.setTile t x).irq = s.irq := rfl
@[simp] theorem State.setTile_rel (s : State) (t : Nat) (x : Tile) : (s.setTile t x).rel = s.rel := rfl
@[simp] theorem State.setTile_snap (s : State) (t : Nat) (x : Tile) : (s.setTile t x).snap = s.snap := rfl
@[simp] theorem State.setTile_sec (s : State) (t : Nat) (x : Tile) : (s.setTile t x).sec = s.sec := rfl
@[simp] theorem State.setTile_flash (s : State) (t : Nat) (x : Tile) : (s.setTile t x).flash = s.flash := rfl
@[simp] theorem State.setTile_boot (s : State) (t : Nat) (x : Tile) : (s.setTile t x).boot = s.boot := rfl
@[simp] theorem State.setTile_flashIf (s : State) (t : Nat) (x : Tile) : (s.setTile t x).flashIf = s.flashIf := rfl
@[simp] theorem State.setTile_smbPtr (s : State) (t : Nat) (x : Tile) : (s.setTile t x).smbPtr = s.smbPtr := rfl
@[simp] theorem State.setTile_tap (s : State) (t : Nat) (x : Tile) : (s.setTile t x).tap = s.tap := rfl
@[simp] theorem State.setTile_clockUs (s : State) (t : Nat) (x : Tile) : (s.setTile t x).clockUs = s.clockUs := rfl

/-! ## setDrover -/

@[simp] theorem State.modDrover_eq (s : State) (d : Nat) (h : Drover → Drover) :
    s.modDrover d h = s.setDrover d (h (s.drover d)) := rfl
@[simp] theorem State.setDrover_drover (s : State) (d : Nat) (x : Drover) (u : Nat) :
    (s.setDrover d x).drover u = if u = d then x else s.drover u := Sparse.get_set _ _ _ _ _
@[simp] theorem State.setDrover_setDrover (s : State) (d : Nat) (x y : Drover) : (s.setDrover d x).setDrover d y = s.setDrover d y := by
  simp [State.setDrover]
@[simp] theorem State.setDrover_tile (s : State) (d : Nat) (x : Drover) (u : Nat) : (s.setDrover d x).tile u = s.tile u := rfl
@[simp] theorem State.setDrover_ctl (s : State) (d : Nat) (x : Drover) (u : Nat) : (s.setDrover d x).ctl u = s.ctl u := rfl
@[simp] theorem State.setDrover_port (s : State) (d : Nat) (x : Drover) (u : Nat) : (s.setDrover d x).port u = s.port u := rfl
@[simp] theorem State.setDrover_box (s : State) (d : Nat) (x : Drover) (u : Nat) : (s.setDrover d x).box u = s.box u := rfl
@[simp] theorem State.setDrover_link (s : State) (d : Nat) (x : Drover) (u : Nat) : (s.setDrover d x).link u = s.link u := rfl
@[simp] theorem State.setDrover_irqGrp (s : State) (d : Nat) (x : Drover) (u : Nat) : (s.setDrover d x).irqGrp u = s.irqGrp u := rfl
@[simp] theorem State.setDrover_secPort (s : State) (d : Nat) (x : Drover) (u : Nat) : (s.setDrover d x).secPort u = s.secPort u := rfl
@[simp] theorem State.setDrover_pending (s : State) (d : Nat) (x : Drover) : (s.setDrover d x).pending = s.pending := rfl
@[simp] theorem State.setDrover_out (s : State) (d : Nat) (x : Drover) : (s.setDrover d x).out = s.out := rfl
@[simp] theorem State.setDrover_free (s : State) (d : Nat) (x : Drover) : (s.setDrover d x).free = s.free := rfl
@[simp] theorem State.setDrover_tiles (s : State) (d : Nat) (x : Drover) : (s.setDrover d x).tiles = s.tiles := rfl
@[simp] theorem State.setDrover_arb (s : State) (d : Nat) (x : Drover) : (s.setDrover d x).arb = s.arb := rfl
@[simp] theorem State.setDrover_hbm (s : State) (d : Nat) (x : Drover) : (s.setDrover d x).hbm = s.hbm := rfl
@[simp] theorem State.setDrover_poison (s : State) (d : Nat) (x : Drover) : (s.setDrover d x).poison = s.poison := rfl
@[simp] theorem State.setDrover_bad (s : State) (d : Nat) (x : Drover) : (s.setDrover d x).bad = s.bad := rfl
@[simp] theorem State.setDrover_hbmCtl (s : State) (d : Nat) (x : Drover) : (s.setDrover d x).hbmCtl = s.hbmCtl := rfl
@[simp] theorem State.setDrover_waiting (s : State) (d : Nat) (x : Drover) : (s.setDrover d x).waiting = s.waiting := rfl
@[simp] theorem State.setDrover_ports (s : State) (d : Nat) (x : Drover) : (s.setDrover d x).ports = s.ports := rfl
@[simp] theorem State.setDrover_mbox (s : State) (d : Nat) (x : Drover) : (s.setDrover d x).mbox = s.mbox := rfl
@[simp] theorem State.setDrover_melvor (s : State) (d : Nat) (x : Drover) : (s.setDrover d x).melvor = s.melvor := rfl
@[simp] theorem State.setDrover_links (s : State) (d : Nat) (x : Drover) : (s.setDrover d x).links = s.links := rfl
@[simp] theorem State.setDrover_grp (s : State) (d : Nat) (x : Drover) : (s.setDrover d x).grp = s.grp := rfl
@[simp] theorem State.setDrover_power (s : State) (d : Nat) (x : Drover) : (s.setDrover d x).power = s.power := rfl
@[simp] theorem State.setDrover_irq (s : State) (d : Nat) (x : Drover) : (s.setDrover d x).irq = s.irq := rfl
@[simp] theorem State.setDrover_rel (s : State) (d : Nat) (x : Drover) : (s.setDrover d x).rel = s.rel := rfl
@[simp] theorem State.setDrover_snap (s : State) (d : Nat) (x : Drover) : (s.setDrover d x).snap = s.snap := rfl
@[simp] theorem State.setDrover_sec (s : State) (d : Nat) (x : Drover) : (s.setDrover d x).sec = s.sec := rfl
@[simp] theorem State.setDrover_flash (s : State) (d : Nat) (x : Drover) : (s.setDrover d x).flash = s.flash := rfl
@[simp] theorem State.setDrover_boot (s : State) (d : Nat) (x : Drover) : (s.setDrover d x).boot = s.boot := rfl
@[simp] theorem State.setDrover_flashIf (s : State) (d : Nat) (x : Drover) : (s.setDrover d x).flashIf = s.flashIf := rfl
@[simp] theorem State.setDrover_smbPtr (s : State) (d : Nat) (x : Drover) : (s.setDrover d x).smbPtr = s.smbPtr := rfl
@[simp] theorem State.setDrover_tap (s : State) (d : Nat) (x : Drover) : (s.setDrover d x).tap = s.tap := rfl
@[simp] theorem State.setDrover_clockUs (s : State) (d : Nat) (x : Drover) : (s.setDrover d x).clockUs = s.clockUs := rfl

/-! ## setCtl -/

@[simp] theorem State.modCtl_eq (s : State) (k : Nat) (h : HbmCtl → HbmCtl) :
    s.modCtl k h = s.setCtl k (h (s.ctl k)) := rfl
@[simp] theorem State.setCtl_ctl (s : State) (k : Nat) (x : HbmCtl) (u : Nat) :
    (s.setCtl k x).ctl u = if u = k then x else s.ctl u := Sparse.get_set _ _ _ _ _
@[simp] theorem State.setCtl_setCtl (s : State) (k : Nat) (x y : HbmCtl) : (s.setCtl k x).setCtl k y = s.setCtl k y := by
  simp [State.setCtl]
@[simp] theorem State.setCtl_tile (s : State) (k : Nat) (x : HbmCtl) (u : Nat) : (s.setCtl k x).tile u = s.tile u := rfl
@[simp] theorem State.setCtl_drover (s : State) (k : Nat) (x : HbmCtl) (u : Nat) : (s.setCtl k x).drover u = s.drover u := rfl
@[simp] theorem State.setCtl_port (s : State) (k : Nat) (x : HbmCtl) (u : Nat) : (s.setCtl k x).port u = s.port u := rfl
@[simp] theorem State.setCtl_box (s : State) (k : Nat) (x : HbmCtl) (u : Nat) : (s.setCtl k x).box u = s.box u := rfl
@[simp] theorem State.setCtl_link (s : State) (k : Nat) (x : HbmCtl) (u : Nat) : (s.setCtl k x).link u = s.link u := rfl
@[simp] theorem State.setCtl_irqGrp (s : State) (k : Nat) (x : HbmCtl) (u : Nat) : (s.setCtl k x).irqGrp u = s.irqGrp u := rfl
@[simp] theorem State.setCtl_secPort (s : State) (k : Nat) (x : HbmCtl) (u : Nat) : (s.setCtl k x).secPort u = s.secPort u := rfl
@[simp] theorem State.setCtl_pending (s : State) (k : Nat) (x : HbmCtl) : (s.setCtl k x).pending = s.pending := rfl
@[simp] theorem State.setCtl_out (s : State) (k : Nat) (x : HbmCtl) : (s.setCtl k x).out = s.out := rfl
@[simp] theorem State.setCtl_free (s : State) (k : Nat) (x : HbmCtl) : (s.setCtl k x).free = s.free := rfl
@[simp] theorem State.setCtl_tiles (s : State) (k : Nat) (x : HbmCtl) : (s.setCtl k x).tiles = s.tiles := rfl
@[simp] theorem State.setCtl_drovers (s : State) (k : Nat) (x : HbmCtl) : (s.setCtl k x).drovers = s.drovers := rfl
@[simp] theorem State.setCtl_arb (s : State) (k : Nat) (x : HbmCtl) : (s.setCtl k x).arb = s.arb := rfl
@[simp] theorem State.setCtl_hbm (s : State) (k : Nat) (x : HbmCtl) : (s.setCtl k x).hbm = s.hbm := rfl
@[simp] theorem State.setCtl_poison (s : State) (k : Nat) (x : HbmCtl) : (s.setCtl k x).poison = s.poison := rfl
@[simp] theorem State.setCtl_bad (s : State) (k : Nat) (x : HbmCtl) : (s.setCtl k x).bad = s.bad := rfl
@[simp] theorem State.setCtl_waiting (s : State) (k : Nat) (x : HbmCtl) : (s.setCtl k x).waiting = s.waiting := rfl
@[simp] theorem State.setCtl_ports (s : State) (k : Nat) (x : HbmCtl) : (s.setCtl k x).ports = s.ports := rfl
@[simp] theorem State.setCtl_mbox (s : State) (k : Nat) (x : HbmCtl) : (s.setCtl k x).mbox = s.mbox := rfl
@[simp] theorem State.setCtl_melvor (s : State) (k : Nat) (x : HbmCtl) : (s.setCtl k x).melvor = s.melvor := rfl
@[simp] theorem State.setCtl_links (s : State) (k : Nat) (x : HbmCtl) : (s.setCtl k x).links = s.links := rfl
@[simp] theorem State.setCtl_grp (s : State) (k : Nat) (x : HbmCtl) : (s.setCtl k x).grp = s.grp := rfl
@[simp] theorem State.setCtl_power (s : State) (k : Nat) (x : HbmCtl) : (s.setCtl k x).power = s.power := rfl
@[simp] theorem State.setCtl_irq (s : State) (k : Nat) (x : HbmCtl) : (s.setCtl k x).irq = s.irq := rfl
@[simp] theorem State.setCtl_rel (s : State) (k : Nat) (x : HbmCtl) : (s.setCtl k x).rel = s.rel := rfl
@[simp] theorem State.setCtl_snap (s : State) (k : Nat) (x : HbmCtl) : (s.setCtl k x).snap = s.snap := rfl
@[simp] theorem State.setCtl_sec (s : State) (k : Nat) (x : HbmCtl) : (s.setCtl k x).sec = s.sec := rfl
@[simp] theorem State.setCtl_flash (s : State) (k : Nat) (x : HbmCtl) : (s.setCtl k x).flash = s.flash := rfl
@[simp] theorem State.setCtl_boot (s : State) (k : Nat) (x : HbmCtl) : (s.setCtl k x).boot = s.boot := rfl
@[simp] theorem State.setCtl_flashIf (s : State) (k : Nat) (x : HbmCtl) : (s.setCtl k x).flashIf = s.flashIf := rfl
@[simp] theorem State.setCtl_smbPtr (s : State) (k : Nat) (x : HbmCtl) : (s.setCtl k x).smbPtr = s.smbPtr := rfl
@[simp] theorem State.setCtl_tap (s : State) (k : Nat) (x : HbmCtl) : (s.setCtl k x).tap = s.tap := rfl
@[simp] theorem State.setCtl_clockUs (s : State) (k : Nat) (x : HbmCtl) : (s.setCtl k x).clockUs = s.clockUs := rfl

/-! ## setPort -/

@[simp] theorem State.modPort_eq (s : State) (p : Nat) (h : HostPort → HostPort) :
    s.modPort p h = s.setPort p (h (s.port p)) := rfl
@[simp] theorem State.setPort_port (s : State) (p : Nat) (x : HostPort) (u : Nat) :
    (s.setPort p x).port u = if u = p then x else s.port u := Sparse.get_set _ _ _ _ _
@[simp] theorem State.setPort_setPort (s : State) (p : Nat) (x y : HostPort) : (s.setPort p x).setPort p y = s.setPort p y := by
  simp [State.setPort]
@[simp] theorem State.setPort_tile (s : State) (p : Nat) (x : HostPort) (u : Nat) : (s.setPort p x).tile u = s.tile u := rfl
@[simp] theorem State.setPort_drover (s : State) (p : Nat) (x : HostPort) (u : Nat) : (s.setPort p x).drover u = s.drover u := rfl
@[simp] theorem State.setPort_ctl (s : State) (p : Nat) (x : HostPort) (u : Nat) : (s.setPort p x).ctl u = s.ctl u := rfl
@[simp] theorem State.setPort_box (s : State) (p : Nat) (x : HostPort) (u : Nat) : (s.setPort p x).box u = s.box u := rfl
@[simp] theorem State.setPort_link (s : State) (p : Nat) (x : HostPort) (u : Nat) : (s.setPort p x).link u = s.link u := rfl
@[simp] theorem State.setPort_irqGrp (s : State) (p : Nat) (x : HostPort) (u : Nat) : (s.setPort p x).irqGrp u = s.irqGrp u := rfl
@[simp] theorem State.setPort_secPort (s : State) (p : Nat) (x : HostPort) (u : Nat) : (s.setPort p x).secPort u = s.secPort u := rfl
@[simp] theorem State.setPort_pending (s : State) (p : Nat) (x : HostPort) : (s.setPort p x).pending = s.pending := rfl
@[simp] theorem State.setPort_out (s : State) (p : Nat) (x : HostPort) : (s.setPort p x).out = s.out := rfl
@[simp] theorem State.setPort_free (s : State) (p : Nat) (x : HostPort) : (s.setPort p x).free = s.free := rfl
@[simp] theorem State.setPort_tiles (s : State) (p : Nat) (x : HostPort) : (s.setPort p x).tiles = s.tiles := rfl
@[simp] theorem State.setPort_drovers (s : State) (p : Nat) (x : HostPort) : (s.setPort p x).drovers = s.drovers := rfl
@[simp] theorem State.setPort_arb (s : State) (p : Nat) (x : HostPort) : (s.setPort p x).arb = s.arb := rfl
@[simp] theorem State.setPort_hbm (s : State) (p : Nat) (x : HostPort) : (s.setPort p x).hbm = s.hbm := rfl
@[simp] theorem State.setPort_poison (s : State) (p : Nat) (x : HostPort) : (s.setPort p x).poison = s.poison := rfl
@[simp] theorem State.setPort_bad (s : State) (p : Nat) (x : HostPort) : (s.setPort p x).bad = s.bad := rfl
@[simp] theorem State.setPort_hbmCtl (s : State) (p : Nat) (x : HostPort) : (s.setPort p x).hbmCtl = s.hbmCtl := rfl
@[simp] theorem State.setPort_waiting (s : State) (p : Nat) (x : HostPort) : (s.setPort p x).waiting = s.waiting := rfl
@[simp] theorem State.setPort_mbox (s : State) (p : Nat) (x : HostPort) : (s.setPort p x).mbox = s.mbox := rfl
@[simp] theorem State.setPort_melvor (s : State) (p : Nat) (x : HostPort) : (s.setPort p x).melvor = s.melvor := rfl
@[simp] theorem State.setPort_links (s : State) (p : Nat) (x : HostPort) : (s.setPort p x).links = s.links := rfl
@[simp] theorem State.setPort_grp (s : State) (p : Nat) (x : HostPort) : (s.setPort p x).grp = s.grp := rfl
@[simp] theorem State.setPort_power (s : State) (p : Nat) (x : HostPort) : (s.setPort p x).power = s.power := rfl
@[simp] theorem State.setPort_irq (s : State) (p : Nat) (x : HostPort) : (s.setPort p x).irq = s.irq := rfl
@[simp] theorem State.setPort_rel (s : State) (p : Nat) (x : HostPort) : (s.setPort p x).rel = s.rel := rfl
@[simp] theorem State.setPort_snap (s : State) (p : Nat) (x : HostPort) : (s.setPort p x).snap = s.snap := rfl
@[simp] theorem State.setPort_sec (s : State) (p : Nat) (x : HostPort) : (s.setPort p x).sec = s.sec := rfl
@[simp] theorem State.setPort_flash (s : State) (p : Nat) (x : HostPort) : (s.setPort p x).flash = s.flash := rfl
@[simp] theorem State.setPort_boot (s : State) (p : Nat) (x : HostPort) : (s.setPort p x).boot = s.boot := rfl
@[simp] theorem State.setPort_flashIf (s : State) (p : Nat) (x : HostPort) : (s.setPort p x).flashIf = s.flashIf := rfl
@[simp] theorem State.setPort_smbPtr (s : State) (p : Nat) (x : HostPort) : (s.setPort p x).smbPtr = s.smbPtr := rfl
@[simp] theorem State.setPort_tap (s : State) (p : Nat) (x : HostPort) : (s.setPort p x).tap = s.tap := rfl
@[simp] theorem State.setPort_clockUs (s : State) (p : Nat) (x : HostPort) : (s.setPort p x).clockUs = s.clockUs := rfl

/-! ## setBox -/

@[simp] theorem State.modBox_eq (s : State) (p : Nat) (h : Mailbox → Mailbox) :
    s.modBox p h = s.setBox p (h (s.box p)) := rfl
@[simp] theorem State.setBox_box (s : State) (p : Nat) (x : Mailbox) (u : Nat) :
    (s.setBox p x).box u = if u = p then x else s.box u := Sparse.get_set _ _ _ _ _
@[simp] theorem State.setBox_setBox (s : State) (p : Nat) (x y : Mailbox) : (s.setBox p x).setBox p y = s.setBox p y := by
  simp [State.setBox]
@[simp] theorem State.setBox_tile (s : State) (p : Nat) (x : Mailbox) (u : Nat) : (s.setBox p x).tile u = s.tile u := rfl
@[simp] theorem State.setBox_drover (s : State) (p : Nat) (x : Mailbox) (u : Nat) : (s.setBox p x).drover u = s.drover u := rfl
@[simp] theorem State.setBox_ctl (s : State) (p : Nat) (x : Mailbox) (u : Nat) : (s.setBox p x).ctl u = s.ctl u := rfl
@[simp] theorem State.setBox_port (s : State) (p : Nat) (x : Mailbox) (u : Nat) : (s.setBox p x).port u = s.port u := rfl
@[simp] theorem State.setBox_link (s : State) (p : Nat) (x : Mailbox) (u : Nat) : (s.setBox p x).link u = s.link u := rfl
@[simp] theorem State.setBox_irqGrp (s : State) (p : Nat) (x : Mailbox) (u : Nat) : (s.setBox p x).irqGrp u = s.irqGrp u := rfl
@[simp] theorem State.setBox_secPort (s : State) (p : Nat) (x : Mailbox) (u : Nat) : (s.setBox p x).secPort u = s.secPort u := rfl
@[simp] theorem State.setBox_pending (s : State) (p : Nat) (x : Mailbox) : (s.setBox p x).pending = s.pending := rfl
@[simp] theorem State.setBox_out (s : State) (p : Nat) (x : Mailbox) : (s.setBox p x).out = s.out := rfl
@[simp] theorem State.setBox_free (s : State) (p : Nat) (x : Mailbox) : (s.setBox p x).free = s.free := rfl
@[simp] theorem State.setBox_tiles (s : State) (p : Nat) (x : Mailbox) : (s.setBox p x).tiles = s.tiles := rfl
@[simp] theorem State.setBox_drovers (s : State) (p : Nat) (x : Mailbox) : (s.setBox p x).drovers = s.drovers := rfl
@[simp] theorem State.setBox_arb (s : State) (p : Nat) (x : Mailbox) : (s.setBox p x).arb = s.arb := rfl
@[simp] theorem State.setBox_hbm (s : State) (p : Nat) (x : Mailbox) : (s.setBox p x).hbm = s.hbm := rfl
@[simp] theorem State.setBox_poison (s : State) (p : Nat) (x : Mailbox) : (s.setBox p x).poison = s.poison := rfl
@[simp] theorem State.setBox_bad (s : State) (p : Nat) (x : Mailbox) : (s.setBox p x).bad = s.bad := rfl
@[simp] theorem State.setBox_hbmCtl (s : State) (p : Nat) (x : Mailbox) : (s.setBox p x).hbmCtl = s.hbmCtl := rfl
@[simp] theorem State.setBox_waiting (s : State) (p : Nat) (x : Mailbox) : (s.setBox p x).waiting = s.waiting := rfl
@[simp] theorem State.setBox_ports (s : State) (p : Nat) (x : Mailbox) : (s.setBox p x).ports = s.ports := rfl
@[simp] theorem State.setBox_melvor (s : State) (p : Nat) (x : Mailbox) : (s.setBox p x).melvor = s.melvor := rfl
@[simp] theorem State.setBox_links (s : State) (p : Nat) (x : Mailbox) : (s.setBox p x).links = s.links := rfl
@[simp] theorem State.setBox_grp (s : State) (p : Nat) (x : Mailbox) : (s.setBox p x).grp = s.grp := rfl
@[simp] theorem State.setBox_power (s : State) (p : Nat) (x : Mailbox) : (s.setBox p x).power = s.power := rfl
@[simp] theorem State.setBox_irq (s : State) (p : Nat) (x : Mailbox) : (s.setBox p x).irq = s.irq := rfl
@[simp] theorem State.setBox_rel (s : State) (p : Nat) (x : Mailbox) : (s.setBox p x).rel = s.rel := rfl
@[simp] theorem State.setBox_snap (s : State) (p : Nat) (x : Mailbox) : (s.setBox p x).snap = s.snap := rfl
@[simp] theorem State.setBox_sec (s : State) (p : Nat) (x : Mailbox) : (s.setBox p x).sec = s.sec := rfl
@[simp] theorem State.setBox_flash (s : State) (p : Nat) (x : Mailbox) : (s.setBox p x).flash = s.flash := rfl
@[simp] theorem State.setBox_boot (s : State) (p : Nat) (x : Mailbox) : (s.setBox p x).boot = s.boot := rfl
@[simp] theorem State.setBox_flashIf (s : State) (p : Nat) (x : Mailbox) : (s.setBox p x).flashIf = s.flashIf := rfl
@[simp] theorem State.setBox_smbPtr (s : State) (p : Nat) (x : Mailbox) : (s.setBox p x).smbPtr = s.smbPtr := rfl
@[simp] theorem State.setBox_tap (s : State) (p : Nat) (x : Mailbox) : (s.setBox p x).tap = s.tap := rfl
@[simp] theorem State.setBox_clockUs (s : State) (p : Nat) (x : Mailbox) : (s.setBox p x).clockUs = s.clockUs := rfl

/-! ## setLink -/

@[simp] theorem State.modLink_eq (s : State) (f : Nat) (h : LinkPort → LinkPort) :
    s.modLink f h = s.setLink f (h (s.link f)) := rfl
@[simp] theorem State.setLink_link (s : State) (f : Nat) (x : LinkPort) (u : Nat) :
    (s.setLink f x).link u = if u = f then x else s.link u := Sparse.get_set _ _ _ _ _
@[simp] theorem State.setLink_setLink (s : State) (f : Nat) (x y : LinkPort) : (s.setLink f x).setLink f y = s.setLink f y := by
  simp [State.setLink]
@[simp] theorem State.setLink_tile (s : State) (f : Nat) (x : LinkPort) (u : Nat) : (s.setLink f x).tile u = s.tile u := rfl
@[simp] theorem State.setLink_drover (s : State) (f : Nat) (x : LinkPort) (u : Nat) : (s.setLink f x).drover u = s.drover u := rfl
@[simp] theorem State.setLink_ctl (s : State) (f : Nat) (x : LinkPort) (u : Nat) : (s.setLink f x).ctl u = s.ctl u := rfl
@[simp] theorem State.setLink_port (s : State) (f : Nat) (x : LinkPort) (u : Nat) : (s.setLink f x).port u = s.port u := rfl
@[simp] theorem State.setLink_box (s : State) (f : Nat) (x : LinkPort) (u : Nat) : (s.setLink f x).box u = s.box u := rfl
@[simp] theorem State.setLink_irqGrp (s : State) (f : Nat) (x : LinkPort) (u : Nat) : (s.setLink f x).irqGrp u = s.irqGrp u := rfl
@[simp] theorem State.setLink_secPort (s : State) (f : Nat) (x : LinkPort) (u : Nat) : (s.setLink f x).secPort u = s.secPort u := rfl
@[simp] theorem State.setLink_pending (s : State) (f : Nat) (x : LinkPort) : (s.setLink f x).pending = s.pending := rfl
@[simp] theorem State.setLink_out (s : State) (f : Nat) (x : LinkPort) : (s.setLink f x).out = s.out := rfl
@[simp] theorem State.setLink_free (s : State) (f : Nat) (x : LinkPort) : (s.setLink f x).free = s.free := rfl
@[simp] theorem State.setLink_tiles (s : State) (f : Nat) (x : LinkPort) : (s.setLink f x).tiles = s.tiles := rfl
@[simp] theorem State.setLink_drovers (s : State) (f : Nat) (x : LinkPort) : (s.setLink f x).drovers = s.drovers := rfl
@[simp] theorem State.setLink_arb (s : State) (f : Nat) (x : LinkPort) : (s.setLink f x).arb = s.arb := rfl
@[simp] theorem State.setLink_hbm (s : State) (f : Nat) (x : LinkPort) : (s.setLink f x).hbm = s.hbm := rfl
@[simp] theorem State.setLink_poison (s : State) (f : Nat) (x : LinkPort) : (s.setLink f x).poison = s.poison := rfl
@[simp] theorem State.setLink_bad (s : State) (f : Nat) (x : LinkPort) : (s.setLink f x).bad = s.bad := rfl
@[simp] theorem State.setLink_hbmCtl (s : State) (f : Nat) (x : LinkPort) : (s.setLink f x).hbmCtl = s.hbmCtl := rfl
@[simp] theorem State.setLink_waiting (s : State) (f : Nat) (x : LinkPort) : (s.setLink f x).waiting = s.waiting := rfl
@[simp] theorem State.setLink_ports (s : State) (f : Nat) (x : LinkPort) : (s.setLink f x).ports = s.ports := rfl
@[simp] theorem State.setLink_mbox (s : State) (f : Nat) (x : LinkPort) : (s.setLink f x).mbox = s.mbox := rfl
@[simp] theorem State.setLink_melvor (s : State) (f : Nat) (x : LinkPort) : (s.setLink f x).melvor = s.melvor := rfl
@[simp] theorem State.setLink_grp (s : State) (f : Nat) (x : LinkPort) : (s.setLink f x).grp = s.grp := rfl
@[simp] theorem State.setLink_power (s : State) (f : Nat) (x : LinkPort) : (s.setLink f x).power = s.power := rfl
@[simp] theorem State.setLink_irq (s : State) (f : Nat) (x : LinkPort) : (s.setLink f x).irq = s.irq := rfl
@[simp] theorem State.setLink_rel (s : State) (f : Nat) (x : LinkPort) : (s.setLink f x).rel = s.rel := rfl
@[simp] theorem State.setLink_snap (s : State) (f : Nat) (x : LinkPort) : (s.setLink f x).snap = s.snap := rfl
@[simp] theorem State.setLink_sec (s : State) (f : Nat) (x : LinkPort) : (s.setLink f x).sec = s.sec := rfl
@[simp] theorem State.setLink_flash (s : State) (f : Nat) (x : LinkPort) : (s.setLink f x).flash = s.flash := rfl
@[simp] theorem State.setLink_boot (s : State) (f : Nat) (x : LinkPort) : (s.setLink f x).boot = s.boot := rfl
@[simp] theorem State.setLink_flashIf (s : State) (f : Nat) (x : LinkPort) : (s.setLink f x).flashIf = s.flashIf := rfl
@[simp] theorem State.setLink_smbPtr (s : State) (f : Nat) (x : LinkPort) : (s.setLink f x).smbPtr = s.smbPtr := rfl
@[simp] theorem State.setLink_tap (s : State) (f : Nat) (x : LinkPort) : (s.setLink f x).tap = s.tap := rfl
@[simp] theorem State.setLink_clockUs (s : State) (f : Nat) (x : LinkPort) : (s.setLink f x).clockUs = s.clockUs := rfl

/-! ## setIrqGrp -/

@[simp] theorem State.modIrqGrp_eq (s : State) (g : Nat) (h : IrqGrp → IrqGrp) :
    s.modIrqGrp g h = s.setIrqGrp g (h (s.irqGrp g)) := rfl
@[simp] theorem State.setIrqGrp_irqGrp (s : State) (g : Nat) (x : IrqGrp) (u : Nat) :
    (s.setIrqGrp g x).irqGrp u = if u = g then x else s.irqGrp u := Sparse.get_set _ _ _ _ _
@[simp] theorem State.setIrqGrp_setIrqGrp (s : State) (g : Nat) (x y : IrqGrp) : (s.setIrqGrp g x).setIrqGrp g y = s.setIrqGrp g y := by
  simp [State.setIrqGrp]
@[simp] theorem State.setIrqGrp_tile (s : State) (g : Nat) (x : IrqGrp) (u : Nat) : (s.setIrqGrp g x).tile u = s.tile u := rfl
@[simp] theorem State.setIrqGrp_drover (s : State) (g : Nat) (x : IrqGrp) (u : Nat) : (s.setIrqGrp g x).drover u = s.drover u := rfl
@[simp] theorem State.setIrqGrp_ctl (s : State) (g : Nat) (x : IrqGrp) (u : Nat) : (s.setIrqGrp g x).ctl u = s.ctl u := rfl
@[simp] theorem State.setIrqGrp_port (s : State) (g : Nat) (x : IrqGrp) (u : Nat) : (s.setIrqGrp g x).port u = s.port u := rfl
@[simp] theorem State.setIrqGrp_box (s : State) (g : Nat) (x : IrqGrp) (u : Nat) : (s.setIrqGrp g x).box u = s.box u := rfl
@[simp] theorem State.setIrqGrp_link (s : State) (g : Nat) (x : IrqGrp) (u : Nat) : (s.setIrqGrp g x).link u = s.link u := rfl
@[simp] theorem State.setIrqGrp_secPort (s : State) (g : Nat) (x : IrqGrp) (u : Nat) : (s.setIrqGrp g x).secPort u = s.secPort u := rfl
@[simp] theorem State.setIrqGrp_pending (s : State) (g : Nat) (x : IrqGrp) : (s.setIrqGrp g x).pending = s.pending := rfl
@[simp] theorem State.setIrqGrp_out (s : State) (g : Nat) (x : IrqGrp) : (s.setIrqGrp g x).out = s.out := rfl
@[simp] theorem State.setIrqGrp_free (s : State) (g : Nat) (x : IrqGrp) : (s.setIrqGrp g x).free = s.free := rfl
@[simp] theorem State.setIrqGrp_tiles (s : State) (g : Nat) (x : IrqGrp) : (s.setIrqGrp g x).tiles = s.tiles := rfl
@[simp] theorem State.setIrqGrp_drovers (s : State) (g : Nat) (x : IrqGrp) : (s.setIrqGrp g x).drovers = s.drovers := rfl
@[simp] theorem State.setIrqGrp_arb (s : State) (g : Nat) (x : IrqGrp) : (s.setIrqGrp g x).arb = s.arb := rfl
@[simp] theorem State.setIrqGrp_hbm (s : State) (g : Nat) (x : IrqGrp) : (s.setIrqGrp g x).hbm = s.hbm := rfl
@[simp] theorem State.setIrqGrp_poison (s : State) (g : Nat) (x : IrqGrp) : (s.setIrqGrp g x).poison = s.poison := rfl
@[simp] theorem State.setIrqGrp_bad (s : State) (g : Nat) (x : IrqGrp) : (s.setIrqGrp g x).bad = s.bad := rfl
@[simp] theorem State.setIrqGrp_hbmCtl (s : State) (g : Nat) (x : IrqGrp) : (s.setIrqGrp g x).hbmCtl = s.hbmCtl := rfl
@[simp] theorem State.setIrqGrp_waiting (s : State) (g : Nat) (x : IrqGrp) : (s.setIrqGrp g x).waiting = s.waiting := rfl
@[simp] theorem State.setIrqGrp_ports (s : State) (g : Nat) (x : IrqGrp) : (s.setIrqGrp g x).ports = s.ports := rfl
@[simp] theorem State.setIrqGrp_mbox (s : State) (g : Nat) (x : IrqGrp) : (s.setIrqGrp g x).mbox = s.mbox := rfl
@[simp] theorem State.setIrqGrp_melvor (s : State) (g : Nat) (x : IrqGrp) : (s.setIrqGrp g x).melvor = s.melvor := rfl
@[simp] theorem State.setIrqGrp_links (s : State) (g : Nat) (x : IrqGrp) : (s.setIrqGrp g x).links = s.links := rfl
@[simp] theorem State.setIrqGrp_grp (s : State) (g : Nat) (x : IrqGrp) : (s.setIrqGrp g x).grp = s.grp := rfl
@[simp] theorem State.setIrqGrp_power (s : State) (g : Nat) (x : IrqGrp) : (s.setIrqGrp g x).power = s.power := rfl
@[simp] theorem State.setIrqGrp_rel (s : State) (g : Nat) (x : IrqGrp) : (s.setIrqGrp g x).rel = s.rel := rfl
@[simp] theorem State.setIrqGrp_snap (s : State) (g : Nat) (x : IrqGrp) : (s.setIrqGrp g x).snap = s.snap := rfl
@[simp] theorem State.setIrqGrp_sec (s : State) (g : Nat) (x : IrqGrp) : (s.setIrqGrp g x).sec = s.sec := rfl
@[simp] theorem State.setIrqGrp_flash (s : State) (g : Nat) (x : IrqGrp) : (s.setIrqGrp g x).flash = s.flash := rfl
@[simp] theorem State.setIrqGrp_boot (s : State) (g : Nat) (x : IrqGrp) : (s.setIrqGrp g x).boot = s.boot := rfl
@[simp] theorem State.setIrqGrp_flashIf (s : State) (g : Nat) (x : IrqGrp) : (s.setIrqGrp g x).flashIf = s.flashIf := rfl
@[simp] theorem State.setIrqGrp_smbPtr (s : State) (g : Nat) (x : IrqGrp) : (s.setIrqGrp g x).smbPtr = s.smbPtr := rfl
@[simp] theorem State.setIrqGrp_tap (s : State) (g : Nat) (x : IrqGrp) : (s.setIrqGrp g x).tap = s.tap := rfl
@[simp] theorem State.setIrqGrp_clockUs (s : State) (g : Nat) (x : IrqGrp) : (s.setIrqGrp g x).clockUs = s.clockUs := rfl

/-! ## setSecPort -/

@[simp] theorem State.modSecPort_eq (s : State) (p : Nat) (h : SecPort → SecPort) :
    s.modSecPort p h = s.setSecPort p (h (s.secPort p)) := rfl
@[simp] theorem State.setSecPort_secPort (s : State) (p : Nat) (x : SecPort) (u : Nat) :
    (s.setSecPort p x).secPort u = if u = p then x else s.secPort u := Sparse.get_set _ _ _ _ _
@[simp] theorem State.setSecPort_setSecPort (s : State) (p : Nat) (x y : SecPort) : (s.setSecPort p x).setSecPort p y = s.setSecPort p y := by
  simp [State.setSecPort]
@[simp] theorem State.setSecPort_tile (s : State) (p : Nat) (x : SecPort) (u : Nat) : (s.setSecPort p x).tile u = s.tile u := rfl
@[simp] theorem State.setSecPort_drover (s : State) (p : Nat) (x : SecPort) (u : Nat) : (s.setSecPort p x).drover u = s.drover u := rfl
@[simp] theorem State.setSecPort_ctl (s : State) (p : Nat) (x : SecPort) (u : Nat) : (s.setSecPort p x).ctl u = s.ctl u := rfl
@[simp] theorem State.setSecPort_port (s : State) (p : Nat) (x : SecPort) (u : Nat) : (s.setSecPort p x).port u = s.port u := rfl
@[simp] theorem State.setSecPort_box (s : State) (p : Nat) (x : SecPort) (u : Nat) : (s.setSecPort p x).box u = s.box u := rfl
@[simp] theorem State.setSecPort_link (s : State) (p : Nat) (x : SecPort) (u : Nat) : (s.setSecPort p x).link u = s.link u := rfl
@[simp] theorem State.setSecPort_irqGrp (s : State) (p : Nat) (x : SecPort) (u : Nat) : (s.setSecPort p x).irqGrp u = s.irqGrp u := rfl
@[simp] theorem State.setSecPort_pending (s : State) (p : Nat) (x : SecPort) : (s.setSecPort p x).pending = s.pending := rfl
@[simp] theorem State.setSecPort_out (s : State) (p : Nat) (x : SecPort) : (s.setSecPort p x).out = s.out := rfl
@[simp] theorem State.setSecPort_free (s : State) (p : Nat) (x : SecPort) : (s.setSecPort p x).free = s.free := rfl
@[simp] theorem State.setSecPort_tiles (s : State) (p : Nat) (x : SecPort) : (s.setSecPort p x).tiles = s.tiles := rfl
@[simp] theorem State.setSecPort_drovers (s : State) (p : Nat) (x : SecPort) : (s.setSecPort p x).drovers = s.drovers := rfl
@[simp] theorem State.setSecPort_arb (s : State) (p : Nat) (x : SecPort) : (s.setSecPort p x).arb = s.arb := rfl
@[simp] theorem State.setSecPort_hbm (s : State) (p : Nat) (x : SecPort) : (s.setSecPort p x).hbm = s.hbm := rfl
@[simp] theorem State.setSecPort_poison (s : State) (p : Nat) (x : SecPort) : (s.setSecPort p x).poison = s.poison := rfl
@[simp] theorem State.setSecPort_bad (s : State) (p : Nat) (x : SecPort) : (s.setSecPort p x).bad = s.bad := rfl
@[simp] theorem State.setSecPort_hbmCtl (s : State) (p : Nat) (x : SecPort) : (s.setSecPort p x).hbmCtl = s.hbmCtl := rfl
@[simp] theorem State.setSecPort_waiting (s : State) (p : Nat) (x : SecPort) : (s.setSecPort p x).waiting = s.waiting := rfl
@[simp] theorem State.setSecPort_ports (s : State) (p : Nat) (x : SecPort) : (s.setSecPort p x).ports = s.ports := rfl
@[simp] theorem State.setSecPort_mbox (s : State) (p : Nat) (x : SecPort) : (s.setSecPort p x).mbox = s.mbox := rfl
@[simp] theorem State.setSecPort_melvor (s : State) (p : Nat) (x : SecPort) : (s.setSecPort p x).melvor = s.melvor := rfl
@[simp] theorem State.setSecPort_links (s : State) (p : Nat) (x : SecPort) : (s.setSecPort p x).links = s.links := rfl
@[simp] theorem State.setSecPort_grp (s : State) (p : Nat) (x : SecPort) : (s.setSecPort p x).grp = s.grp := rfl
@[simp] theorem State.setSecPort_power (s : State) (p : Nat) (x : SecPort) : (s.setSecPort p x).power = s.power := rfl
@[simp] theorem State.setSecPort_irq (s : State) (p : Nat) (x : SecPort) : (s.setSecPort p x).irq = s.irq := rfl
@[simp] theorem State.setSecPort_rel (s : State) (p : Nat) (x : SecPort) : (s.setSecPort p x).rel = s.rel := rfl
@[simp] theorem State.setSecPort_snap (s : State) (p : Nat) (x : SecPort) : (s.setSecPort p x).snap = s.snap := rfl
@[simp] theorem State.setSecPort_flash (s : State) (p : Nat) (x : SecPort) : (s.setSecPort p x).flash = s.flash := rfl
@[simp] theorem State.setSecPort_boot (s : State) (p : Nat) (x : SecPort) : (s.setSecPort p x).boot = s.boot := rfl
@[simp] theorem State.setSecPort_flashIf (s : State) (p : Nat) (x : SecPort) : (s.setSecPort p x).flashIf = s.flashIf := rfl
@[simp] theorem State.setSecPort_smbPtr (s : State) (p : Nat) (x : SecPort) : (s.setSecPort p x).smbPtr = s.smbPtr := rfl
@[simp] theorem State.setSecPort_tap (s : State) (p : Nat) (x : SecPort) : (s.setSecPort p x).tap = s.tap := rfl
@[simp] theorem State.setSecPort_clockUs (s : State) (p : Nat) (x : SecPort) : (s.setSecPort p x).clockUs = s.clockUs := rfl

/-! ## withMelvor -/

@[simp] theorem State.withMelvor_melvor (s : State) (h : Melvor → Melvor) : (s.withMelvor h).melvor = h s.melvor := rfl
@[simp] theorem State.withMelvor_tile (s : State) (h : Melvor → Melvor) (u : Nat) : (s.withMelvor h).tile u = s.tile u := rfl
@[simp] theorem State.withMelvor_drover (s : State) (h : Melvor → Melvor) (u : Nat) : (s.withMelvor h).drover u = s.drover u := rfl
@[simp] theorem State.withMelvor_ctl (s : State) (h : Melvor → Melvor) (u : Nat) : (s.withMelvor h).ctl u = s.ctl u := rfl
@[simp] theorem State.withMelvor_port (s : State) (h : Melvor → Melvor) (u : Nat) : (s.withMelvor h).port u = s.port u := rfl
@[simp] theorem State.withMelvor_box (s : State) (h : Melvor → Melvor) (u : Nat) : (s.withMelvor h).box u = s.box u := rfl
@[simp] theorem State.withMelvor_link (s : State) (h : Melvor → Melvor) (u : Nat) : (s.withMelvor h).link u = s.link u := rfl
@[simp] theorem State.withMelvor_irqGrp (s : State) (h : Melvor → Melvor) (u : Nat) : (s.withMelvor h).irqGrp u = s.irqGrp u := rfl
@[simp] theorem State.withMelvor_secPort (s : State) (h : Melvor → Melvor) (u : Nat) : (s.withMelvor h).secPort u = s.secPort u := rfl
@[simp] theorem State.withMelvor_pending (s : State) (h : Melvor → Melvor) : (s.withMelvor h).pending = s.pending := rfl
@[simp] theorem State.withMelvor_out (s : State) (h : Melvor → Melvor) : (s.withMelvor h).out = s.out := rfl
@[simp] theorem State.withMelvor_free (s : State) (h : Melvor → Melvor) : (s.withMelvor h).free = s.free := rfl
@[simp] theorem State.withMelvor_tiles (s : State) (h : Melvor → Melvor) : (s.withMelvor h).tiles = s.tiles := rfl
@[simp] theorem State.withMelvor_drovers (s : State) (h : Melvor → Melvor) : (s.withMelvor h).drovers = s.drovers := rfl
@[simp] theorem State.withMelvor_arb (s : State) (h : Melvor → Melvor) : (s.withMelvor h).arb = s.arb := rfl
@[simp] theorem State.withMelvor_hbm (s : State) (h : Melvor → Melvor) : (s.withMelvor h).hbm = s.hbm := rfl
@[simp] theorem State.withMelvor_poison (s : State) (h : Melvor → Melvor) : (s.withMelvor h).poison = s.poison := rfl
@[simp] theorem State.withMelvor_bad (s : State) (h : Melvor → Melvor) : (s.withMelvor h).bad = s.bad := rfl
@[simp] theorem State.withMelvor_hbmCtl (s : State) (h : Melvor → Melvor) : (s.withMelvor h).hbmCtl = s.hbmCtl := rfl
@[simp] theorem State.withMelvor_waiting (s : State) (h : Melvor → Melvor) : (s.withMelvor h).waiting = s.waiting := rfl
@[simp] theorem State.withMelvor_ports (s : State) (h : Melvor → Melvor) : (s.withMelvor h).ports = s.ports := rfl
@[simp] theorem State.withMelvor_mbox (s : State) (h : Melvor → Melvor) : (s.withMelvor h).mbox = s.mbox := rfl
@[simp] theorem State.withMelvor_links (s : State) (h : Melvor → Melvor) : (s.withMelvor h).links = s.links := rfl
@[simp] theorem State.withMelvor_grp (s : State) (h : Melvor → Melvor) : (s.withMelvor h).grp = s.grp := rfl
@[simp] theorem State.withMelvor_power (s : State) (h : Melvor → Melvor) : (s.withMelvor h).power = s.power := rfl
@[simp] theorem State.withMelvor_irq (s : State) (h : Melvor → Melvor) : (s.withMelvor h).irq = s.irq := rfl
@[simp] theorem State.withMelvor_rel (s : State) (h : Melvor → Melvor) : (s.withMelvor h).rel = s.rel := rfl
@[simp] theorem State.withMelvor_snap (s : State) (h : Melvor → Melvor) : (s.withMelvor h).snap = s.snap := rfl
@[simp] theorem State.withMelvor_sec (s : State) (h : Melvor → Melvor) : (s.withMelvor h).sec = s.sec := rfl
@[simp] theorem State.withMelvor_flash (s : State) (h : Melvor → Melvor) : (s.withMelvor h).flash = s.flash := rfl
@[simp] theorem State.withMelvor_boot (s : State) (h : Melvor → Melvor) : (s.withMelvor h).boot = s.boot := rfl
@[simp] theorem State.withMelvor_flashIf (s : State) (h : Melvor → Melvor) : (s.withMelvor h).flashIf = s.flashIf := rfl
@[simp] theorem State.withMelvor_smbPtr (s : State) (h : Melvor → Melvor) : (s.withMelvor h).smbPtr = s.smbPtr := rfl
@[simp] theorem State.withMelvor_tap (s : State) (h : Melvor → Melvor) : (s.withMelvor h).tap = s.tap := rfl
@[simp] theorem State.withMelvor_clockUs (s : State) (h : Melvor → Melvor) : (s.withMelvor h).clockUs = s.clockUs := rfl

/-! ## withPower -/

@[simp] theorem State.withPower_power (s : State) (h : Power → Power) : (s.withPower h).power = h s.power := rfl
@[simp] theorem State.withPower_tile (s : State) (h : Power → Power) (u : Nat) : (s.withPower h).tile u = s.tile u := rfl
@[simp] theorem State.withPower_drover (s : State) (h : Power → Power) (u : Nat) : (s.withPower h).drover u = s.drover u := rfl
@[simp] theorem State.withPower_ctl (s : State) (h : Power → Power) (u : Nat) : (s.withPower h).ctl u = s.ctl u := rfl
@[simp] theorem State.withPower_port (s : State) (h : Power → Power) (u : Nat) : (s.withPower h).port u = s.port u := rfl
@[simp] theorem State.withPower_box (s : State) (h : Power → Power) (u : Nat) : (s.withPower h).box u = s.box u := rfl
@[simp] theorem State.withPower_link (s : State) (h : Power → Power) (u : Nat) : (s.withPower h).link u = s.link u := rfl
@[simp] theorem State.withPower_irqGrp (s : State) (h : Power → Power) (u : Nat) : (s.withPower h).irqGrp u = s.irqGrp u := rfl
@[simp] theorem State.withPower_secPort (s : State) (h : Power → Power) (u : Nat) : (s.withPower h).secPort u = s.secPort u := rfl
@[simp] theorem State.withPower_pending (s : State) (h : Power → Power) : (s.withPower h).pending = s.pending := rfl
@[simp] theorem State.withPower_out (s : State) (h : Power → Power) : (s.withPower h).out = s.out := rfl
@[simp] theorem State.withPower_free (s : State) (h : Power → Power) : (s.withPower h).free = s.free := rfl
@[simp] theorem State.withPower_tiles (s : State) (h : Power → Power) : (s.withPower h).tiles = s.tiles := rfl
@[simp] theorem State.withPower_drovers (s : State) (h : Power → Power) : (s.withPower h).drovers = s.drovers := rfl
@[simp] theorem State.withPower_arb (s : State) (h : Power → Power) : (s.withPower h).arb = s.arb := rfl
@[simp] theorem State.withPower_hbm (s : State) (h : Power → Power) : (s.withPower h).hbm = s.hbm := rfl
@[simp] theorem State.withPower_poison (s : State) (h : Power → Power) : (s.withPower h).poison = s.poison := rfl
@[simp] theorem State.withPower_bad (s : State) (h : Power → Power) : (s.withPower h).bad = s.bad := rfl
@[simp] theorem State.withPower_hbmCtl (s : State) (h : Power → Power) : (s.withPower h).hbmCtl = s.hbmCtl := rfl
@[simp] theorem State.withPower_waiting (s : State) (h : Power → Power) : (s.withPower h).waiting = s.waiting := rfl
@[simp] theorem State.withPower_ports (s : State) (h : Power → Power) : (s.withPower h).ports = s.ports := rfl
@[simp] theorem State.withPower_mbox (s : State) (h : Power → Power) : (s.withPower h).mbox = s.mbox := rfl
@[simp] theorem State.withPower_melvor (s : State) (h : Power → Power) : (s.withPower h).melvor = s.melvor := rfl
@[simp] theorem State.withPower_links (s : State) (h : Power → Power) : (s.withPower h).links = s.links := rfl
@[simp] theorem State.withPower_grp (s : State) (h : Power → Power) : (s.withPower h).grp = s.grp := rfl
@[simp] theorem State.withPower_irq (s : State) (h : Power → Power) : (s.withPower h).irq = s.irq := rfl
@[simp] theorem State.withPower_rel (s : State) (h : Power → Power) : (s.withPower h).rel = s.rel := rfl
@[simp] theorem State.withPower_snap (s : State) (h : Power → Power) : (s.withPower h).snap = s.snap := rfl
@[simp] theorem State.withPower_sec (s : State) (h : Power → Power) : (s.withPower h).sec = s.sec := rfl
@[simp] theorem State.withPower_flash (s : State) (h : Power → Power) : (s.withPower h).flash = s.flash := rfl
@[simp] theorem State.withPower_boot (s : State) (h : Power → Power) : (s.withPower h).boot = s.boot := rfl
@[simp] theorem State.withPower_flashIf (s : State) (h : Power → Power) : (s.withPower h).flashIf = s.flashIf := rfl
@[simp] theorem State.withPower_smbPtr (s : State) (h : Power → Power) : (s.withPower h).smbPtr = s.smbPtr := rfl
@[simp] theorem State.withPower_tap (s : State) (h : Power → Power) : (s.withPower h).tap = s.tap := rfl
@[simp] theorem State.withPower_clockUs (s : State) (h : Power → Power) : (s.withPower h).clockUs = s.clockUs := rfl

/-! ## withRel -/

@[simp] theorem State.withRel_rel (s : State) (h : Reliability → Reliability) : (s.withRel h).rel = h s.rel := rfl
@[simp] theorem State.withRel_tile (s : State) (h : Reliability → Reliability) (u : Nat) : (s.withRel h).tile u = s.tile u := rfl
@[simp] theorem State.withRel_drover (s : State) (h : Reliability → Reliability) (u : Nat) : (s.withRel h).drover u = s.drover u := rfl
@[simp] theorem State.withRel_ctl (s : State) (h : Reliability → Reliability) (u : Nat) : (s.withRel h).ctl u = s.ctl u := rfl
@[simp] theorem State.withRel_port (s : State) (h : Reliability → Reliability) (u : Nat) : (s.withRel h).port u = s.port u := rfl
@[simp] theorem State.withRel_box (s : State) (h : Reliability → Reliability) (u : Nat) : (s.withRel h).box u = s.box u := rfl
@[simp] theorem State.withRel_link (s : State) (h : Reliability → Reliability) (u : Nat) : (s.withRel h).link u = s.link u := rfl
@[simp] theorem State.withRel_irqGrp (s : State) (h : Reliability → Reliability) (u : Nat) : (s.withRel h).irqGrp u = s.irqGrp u := rfl
@[simp] theorem State.withRel_secPort (s : State) (h : Reliability → Reliability) (u : Nat) : (s.withRel h).secPort u = s.secPort u := rfl
@[simp] theorem State.withRel_pending (s : State) (h : Reliability → Reliability) : (s.withRel h).pending = s.pending := rfl
@[simp] theorem State.withRel_out (s : State) (h : Reliability → Reliability) : (s.withRel h).out = s.out := rfl
@[simp] theorem State.withRel_free (s : State) (h : Reliability → Reliability) : (s.withRel h).free = s.free := rfl
@[simp] theorem State.withRel_tiles (s : State) (h : Reliability → Reliability) : (s.withRel h).tiles = s.tiles := rfl
@[simp] theorem State.withRel_drovers (s : State) (h : Reliability → Reliability) : (s.withRel h).drovers = s.drovers := rfl
@[simp] theorem State.withRel_arb (s : State) (h : Reliability → Reliability) : (s.withRel h).arb = s.arb := rfl
@[simp] theorem State.withRel_hbm (s : State) (h : Reliability → Reliability) : (s.withRel h).hbm = s.hbm := rfl
@[simp] theorem State.withRel_poison (s : State) (h : Reliability → Reliability) : (s.withRel h).poison = s.poison := rfl
@[simp] theorem State.withRel_bad (s : State) (h : Reliability → Reliability) : (s.withRel h).bad = s.bad := rfl
@[simp] theorem State.withRel_hbmCtl (s : State) (h : Reliability → Reliability) : (s.withRel h).hbmCtl = s.hbmCtl := rfl
@[simp] theorem State.withRel_waiting (s : State) (h : Reliability → Reliability) : (s.withRel h).waiting = s.waiting := rfl
@[simp] theorem State.withRel_ports (s : State) (h : Reliability → Reliability) : (s.withRel h).ports = s.ports := rfl
@[simp] theorem State.withRel_mbox (s : State) (h : Reliability → Reliability) : (s.withRel h).mbox = s.mbox := rfl
@[simp] theorem State.withRel_melvor (s : State) (h : Reliability → Reliability) : (s.withRel h).melvor = s.melvor := rfl
@[simp] theorem State.withRel_links (s : State) (h : Reliability → Reliability) : (s.withRel h).links = s.links := rfl
@[simp] theorem State.withRel_grp (s : State) (h : Reliability → Reliability) : (s.withRel h).grp = s.grp := rfl
@[simp] theorem State.withRel_power (s : State) (h : Reliability → Reliability) : (s.withRel h).power = s.power := rfl
@[simp] theorem State.withRel_irq (s : State) (h : Reliability → Reliability) : (s.withRel h).irq = s.irq := rfl
@[simp] theorem State.withRel_snap (s : State) (h : Reliability → Reliability) : (s.withRel h).snap = s.snap := rfl
@[simp] theorem State.withRel_sec (s : State) (h : Reliability → Reliability) : (s.withRel h).sec = s.sec := rfl
@[simp] theorem State.withRel_flash (s : State) (h : Reliability → Reliability) : (s.withRel h).flash = s.flash := rfl
@[simp] theorem State.withRel_boot (s : State) (h : Reliability → Reliability) : (s.withRel h).boot = s.boot := rfl
@[simp] theorem State.withRel_flashIf (s : State) (h : Reliability → Reliability) : (s.withRel h).flashIf = s.flashIf := rfl
@[simp] theorem State.withRel_smbPtr (s : State) (h : Reliability → Reliability) : (s.withRel h).smbPtr = s.smbPtr := rfl
@[simp] theorem State.withRel_tap (s : State) (h : Reliability → Reliability) : (s.withRel h).tap = s.tap := rfl
@[simp] theorem State.withRel_clockUs (s : State) (h : Reliability → Reliability) : (s.withRel h).clockUs = s.clockUs := rfl

/-! ## withSnap -/

@[simp] theorem State.withSnap_snap (s : State) (h : Snapshot → Snapshot) : (s.withSnap h).snap = h s.snap := rfl
@[simp] theorem State.withSnap_tile (s : State) (h : Snapshot → Snapshot) (u : Nat) : (s.withSnap h).tile u = s.tile u := rfl
@[simp] theorem State.withSnap_drover (s : State) (h : Snapshot → Snapshot) (u : Nat) : (s.withSnap h).drover u = s.drover u := rfl
@[simp] theorem State.withSnap_ctl (s : State) (h : Snapshot → Snapshot) (u : Nat) : (s.withSnap h).ctl u = s.ctl u := rfl
@[simp] theorem State.withSnap_port (s : State) (h : Snapshot → Snapshot) (u : Nat) : (s.withSnap h).port u = s.port u := rfl
@[simp] theorem State.withSnap_box (s : State) (h : Snapshot → Snapshot) (u : Nat) : (s.withSnap h).box u = s.box u := rfl
@[simp] theorem State.withSnap_link (s : State) (h : Snapshot → Snapshot) (u : Nat) : (s.withSnap h).link u = s.link u := rfl
@[simp] theorem State.withSnap_irqGrp (s : State) (h : Snapshot → Snapshot) (u : Nat) : (s.withSnap h).irqGrp u = s.irqGrp u := rfl
@[simp] theorem State.withSnap_secPort (s : State) (h : Snapshot → Snapshot) (u : Nat) : (s.withSnap h).secPort u = s.secPort u := rfl
@[simp] theorem State.withSnap_pending (s : State) (h : Snapshot → Snapshot) : (s.withSnap h).pending = s.pending := rfl
@[simp] theorem State.withSnap_out (s : State) (h : Snapshot → Snapshot) : (s.withSnap h).out = s.out := rfl
@[simp] theorem State.withSnap_free (s : State) (h : Snapshot → Snapshot) : (s.withSnap h).free = s.free := rfl
@[simp] theorem State.withSnap_tiles (s : State) (h : Snapshot → Snapshot) : (s.withSnap h).tiles = s.tiles := rfl
@[simp] theorem State.withSnap_drovers (s : State) (h : Snapshot → Snapshot) : (s.withSnap h).drovers = s.drovers := rfl
@[simp] theorem State.withSnap_arb (s : State) (h : Snapshot → Snapshot) : (s.withSnap h).arb = s.arb := rfl
@[simp] theorem State.withSnap_hbm (s : State) (h : Snapshot → Snapshot) : (s.withSnap h).hbm = s.hbm := rfl
@[simp] theorem State.withSnap_poison (s : State) (h : Snapshot → Snapshot) : (s.withSnap h).poison = s.poison := rfl
@[simp] theorem State.withSnap_bad (s : State) (h : Snapshot → Snapshot) : (s.withSnap h).bad = s.bad := rfl
@[simp] theorem State.withSnap_hbmCtl (s : State) (h : Snapshot → Snapshot) : (s.withSnap h).hbmCtl = s.hbmCtl := rfl
@[simp] theorem State.withSnap_waiting (s : State) (h : Snapshot → Snapshot) : (s.withSnap h).waiting = s.waiting := rfl
@[simp] theorem State.withSnap_ports (s : State) (h : Snapshot → Snapshot) : (s.withSnap h).ports = s.ports := rfl
@[simp] theorem State.withSnap_mbox (s : State) (h : Snapshot → Snapshot) : (s.withSnap h).mbox = s.mbox := rfl
@[simp] theorem State.withSnap_melvor (s : State) (h : Snapshot → Snapshot) : (s.withSnap h).melvor = s.melvor := rfl
@[simp] theorem State.withSnap_links (s : State) (h : Snapshot → Snapshot) : (s.withSnap h).links = s.links := rfl
@[simp] theorem State.withSnap_grp (s : State) (h : Snapshot → Snapshot) : (s.withSnap h).grp = s.grp := rfl
@[simp] theorem State.withSnap_power (s : State) (h : Snapshot → Snapshot) : (s.withSnap h).power = s.power := rfl
@[simp] theorem State.withSnap_irq (s : State) (h : Snapshot → Snapshot) : (s.withSnap h).irq = s.irq := rfl
@[simp] theorem State.withSnap_rel (s : State) (h : Snapshot → Snapshot) : (s.withSnap h).rel = s.rel := rfl
@[simp] theorem State.withSnap_sec (s : State) (h : Snapshot → Snapshot) : (s.withSnap h).sec = s.sec := rfl
@[simp] theorem State.withSnap_flash (s : State) (h : Snapshot → Snapshot) : (s.withSnap h).flash = s.flash := rfl
@[simp] theorem State.withSnap_boot (s : State) (h : Snapshot → Snapshot) : (s.withSnap h).boot = s.boot := rfl
@[simp] theorem State.withSnap_flashIf (s : State) (h : Snapshot → Snapshot) : (s.withSnap h).flashIf = s.flashIf := rfl
@[simp] theorem State.withSnap_smbPtr (s : State) (h : Snapshot → Snapshot) : (s.withSnap h).smbPtr = s.smbPtr := rfl
@[simp] theorem State.withSnap_tap (s : State) (h : Snapshot → Snapshot) : (s.withSnap h).tap = s.tap := rfl
@[simp] theorem State.withSnap_clockUs (s : State) (h : Snapshot → Snapshot) : (s.withSnap h).clockUs = s.clockUs := rfl

/-! ## withSec -/

@[simp] theorem State.withSec_sec (s : State) (h : Security → Security) : (s.withSec h).sec = h s.sec := rfl
@[simp] theorem State.withSec_tile (s : State) (h : Security → Security) (u : Nat) : (s.withSec h).tile u = s.tile u := rfl
@[simp] theorem State.withSec_drover (s : State) (h : Security → Security) (u : Nat) : (s.withSec h).drover u = s.drover u := rfl
@[simp] theorem State.withSec_ctl (s : State) (h : Security → Security) (u : Nat) : (s.withSec h).ctl u = s.ctl u := rfl
@[simp] theorem State.withSec_port (s : State) (h : Security → Security) (u : Nat) : (s.withSec h).port u = s.port u := rfl
@[simp] theorem State.withSec_box (s : State) (h : Security → Security) (u : Nat) : (s.withSec h).box u = s.box u := rfl
@[simp] theorem State.withSec_link (s : State) (h : Security → Security) (u : Nat) : (s.withSec h).link u = s.link u := rfl
@[simp] theorem State.withSec_irqGrp (s : State) (h : Security → Security) (u : Nat) : (s.withSec h).irqGrp u = s.irqGrp u := rfl
@[simp] theorem State.withSec_pending (s : State) (h : Security → Security) : (s.withSec h).pending = s.pending := rfl
@[simp] theorem State.withSec_out (s : State) (h : Security → Security) : (s.withSec h).out = s.out := rfl
@[simp] theorem State.withSec_free (s : State) (h : Security → Security) : (s.withSec h).free = s.free := rfl
@[simp] theorem State.withSec_tiles (s : State) (h : Security → Security) : (s.withSec h).tiles = s.tiles := rfl
@[simp] theorem State.withSec_drovers (s : State) (h : Security → Security) : (s.withSec h).drovers = s.drovers := rfl
@[simp] theorem State.withSec_arb (s : State) (h : Security → Security) : (s.withSec h).arb = s.arb := rfl
@[simp] theorem State.withSec_hbm (s : State) (h : Security → Security) : (s.withSec h).hbm = s.hbm := rfl
@[simp] theorem State.withSec_poison (s : State) (h : Security → Security) : (s.withSec h).poison = s.poison := rfl
@[simp] theorem State.withSec_bad (s : State) (h : Security → Security) : (s.withSec h).bad = s.bad := rfl
@[simp] theorem State.withSec_hbmCtl (s : State) (h : Security → Security) : (s.withSec h).hbmCtl = s.hbmCtl := rfl
@[simp] theorem State.withSec_waiting (s : State) (h : Security → Security) : (s.withSec h).waiting = s.waiting := rfl
@[simp] theorem State.withSec_ports (s : State) (h : Security → Security) : (s.withSec h).ports = s.ports := rfl
@[simp] theorem State.withSec_mbox (s : State) (h : Security → Security) : (s.withSec h).mbox = s.mbox := rfl
@[simp] theorem State.withSec_melvor (s : State) (h : Security → Security) : (s.withSec h).melvor = s.melvor := rfl
@[simp] theorem State.withSec_links (s : State) (h : Security → Security) : (s.withSec h).links = s.links := rfl
@[simp] theorem State.withSec_grp (s : State) (h : Security → Security) : (s.withSec h).grp = s.grp := rfl
@[simp] theorem State.withSec_power (s : State) (h : Security → Security) : (s.withSec h).power = s.power := rfl
@[simp] theorem State.withSec_irq (s : State) (h : Security → Security) : (s.withSec h).irq = s.irq := rfl
@[simp] theorem State.withSec_rel (s : State) (h : Security → Security) : (s.withSec h).rel = s.rel := rfl
@[simp] theorem State.withSec_snap (s : State) (h : Security → Security) : (s.withSec h).snap = s.snap := rfl
@[simp] theorem State.withSec_flash (s : State) (h : Security → Security) : (s.withSec h).flash = s.flash := rfl
@[simp] theorem State.withSec_boot (s : State) (h : Security → Security) : (s.withSec h).boot = s.boot := rfl
@[simp] theorem State.withSec_flashIf (s : State) (h : Security → Security) : (s.withSec h).flashIf = s.flashIf := rfl
@[simp] theorem State.withSec_smbPtr (s : State) (h : Security → Security) : (s.withSec h).smbPtr = s.smbPtr := rfl
@[simp] theorem State.withSec_tap (s : State) (h : Security → Security) : (s.withSec h).tap = s.tap := rfl
@[simp] theorem State.withSec_clockUs (s : State) (h : Security → Security) : (s.withSec h).clockUs = s.clockUs := rfl

/-! ## withGrp -/

@[simp] theorem State.withGrp_grp (s : State) (h : Group → Group) : (s.withGrp h).grp = h s.grp := rfl
@[simp] theorem State.withGrp_tile (s : State) (h : Group → Group) (u : Nat) : (s.withGrp h).tile u = s.tile u := rfl
@[simp] theorem State.withGrp_drover (s : State) (h : Group → Group) (u : Nat) : (s.withGrp h).drover u = s.drover u := rfl
@[simp] theorem State.withGrp_ctl (s : State) (h : Group → Group) (u : Nat) : (s.withGrp h).ctl u = s.ctl u := rfl
@[simp] theorem State.withGrp_port (s : State) (h : Group → Group) (u : Nat) : (s.withGrp h).port u = s.port u := rfl
@[simp] theorem State.withGrp_box (s : State) (h : Group → Group) (u : Nat) : (s.withGrp h).box u = s.box u := rfl
@[simp] theorem State.withGrp_link (s : State) (h : Group → Group) (u : Nat) : (s.withGrp h).link u = s.link u := rfl
@[simp] theorem State.withGrp_irqGrp (s : State) (h : Group → Group) (u : Nat) : (s.withGrp h).irqGrp u = s.irqGrp u := rfl
@[simp] theorem State.withGrp_secPort (s : State) (h : Group → Group) (u : Nat) : (s.withGrp h).secPort u = s.secPort u := rfl
@[simp] theorem State.withGrp_pending (s : State) (h : Group → Group) : (s.withGrp h).pending = s.pending := rfl
@[simp] theorem State.withGrp_out (s : State) (h : Group → Group) : (s.withGrp h).out = s.out := rfl
@[simp] theorem State.withGrp_free (s : State) (h : Group → Group) : (s.withGrp h).free = s.free := rfl
@[simp] theorem State.withGrp_tiles (s : State) (h : Group → Group) : (s.withGrp h).tiles = s.tiles := rfl
@[simp] theorem State.withGrp_drovers (s : State) (h : Group → Group) : (s.withGrp h).drovers = s.drovers := rfl
@[simp] theorem State.withGrp_arb (s : State) (h : Group → Group) : (s.withGrp h).arb = s.arb := rfl
@[simp] theorem State.withGrp_hbm (s : State) (h : Group → Group) : (s.withGrp h).hbm = s.hbm := rfl
@[simp] theorem State.withGrp_poison (s : State) (h : Group → Group) : (s.withGrp h).poison = s.poison := rfl
@[simp] theorem State.withGrp_bad (s : State) (h : Group → Group) : (s.withGrp h).bad = s.bad := rfl
@[simp] theorem State.withGrp_hbmCtl (s : State) (h : Group → Group) : (s.withGrp h).hbmCtl = s.hbmCtl := rfl
@[simp] theorem State.withGrp_waiting (s : State) (h : Group → Group) : (s.withGrp h).waiting = s.waiting := rfl
@[simp] theorem State.withGrp_ports (s : State) (h : Group → Group) : (s.withGrp h).ports = s.ports := rfl
@[simp] theorem State.withGrp_mbox (s : State) (h : Group → Group) : (s.withGrp h).mbox = s.mbox := rfl
@[simp] theorem State.withGrp_melvor (s : State) (h : Group → Group) : (s.withGrp h).melvor = s.melvor := rfl
@[simp] theorem State.withGrp_links (s : State) (h : Group → Group) : (s.withGrp h).links = s.links := rfl
@[simp] theorem State.withGrp_power (s : State) (h : Group → Group) : (s.withGrp h).power = s.power := rfl
@[simp] theorem State.withGrp_irq (s : State) (h : Group → Group) : (s.withGrp h).irq = s.irq := rfl
@[simp] theorem State.withGrp_rel (s : State) (h : Group → Group) : (s.withGrp h).rel = s.rel := rfl
@[simp] theorem State.withGrp_snap (s : State) (h : Group → Group) : (s.withGrp h).snap = s.snap := rfl
@[simp] theorem State.withGrp_sec (s : State) (h : Group → Group) : (s.withGrp h).sec = s.sec := rfl
@[simp] theorem State.withGrp_flash (s : State) (h : Group → Group) : (s.withGrp h).flash = s.flash := rfl
@[simp] theorem State.withGrp_boot (s : State) (h : Group → Group) : (s.withGrp h).boot = s.boot := rfl
@[simp] theorem State.withGrp_flashIf (s : State) (h : Group → Group) : (s.withGrp h).flashIf = s.flashIf := rfl
@[simp] theorem State.withGrp_smbPtr (s : State) (h : Group → Group) : (s.withGrp h).smbPtr = s.smbPtr := rfl
@[simp] theorem State.withGrp_tap (s : State) (h : Group → Group) : (s.withGrp h).tap = s.tap := rfl
@[simp] theorem State.withGrp_clockUs (s : State) (h : Group → Group) : (s.withGrp h).clockUs = s.clockUs := rfl

/-! ## withBoot -/

@[simp] theorem State.withBoot_boot (s : State) (h : Boot → Boot) : (s.withBoot h).boot = h s.boot := rfl
@[simp] theorem State.withBoot_tile (s : State) (h : Boot → Boot) (u : Nat) : (s.withBoot h).tile u = s.tile u := rfl
@[simp] theorem State.withBoot_drover (s : State) (h : Boot → Boot) (u : Nat) : (s.withBoot h).drover u = s.drover u := rfl
@[simp] theorem State.withBoot_ctl (s : State) (h : Boot → Boot) (u : Nat) : (s.withBoot h).ctl u = s.ctl u := rfl
@[simp] theorem State.withBoot_port (s : State) (h : Boot → Boot) (u : Nat) : (s.withBoot h).port u = s.port u := rfl
@[simp] theorem State.withBoot_box (s : State) (h : Boot → Boot) (u : Nat) : (s.withBoot h).box u = s.box u := rfl
@[simp] theorem State.withBoot_link (s : State) (h : Boot → Boot) (u : Nat) : (s.withBoot h).link u = s.link u := rfl
@[simp] theorem State.withBoot_irqGrp (s : State) (h : Boot → Boot) (u : Nat) : (s.withBoot h).irqGrp u = s.irqGrp u := rfl
@[simp] theorem State.withBoot_secPort (s : State) (h : Boot → Boot) (u : Nat) : (s.withBoot h).secPort u = s.secPort u := rfl
@[simp] theorem State.withBoot_pending (s : State) (h : Boot → Boot) : (s.withBoot h).pending = s.pending := rfl
@[simp] theorem State.withBoot_out (s : State) (h : Boot → Boot) : (s.withBoot h).out = s.out := rfl
@[simp] theorem State.withBoot_free (s : State) (h : Boot → Boot) : (s.withBoot h).free = s.free := rfl
@[simp] theorem State.withBoot_tiles (s : State) (h : Boot → Boot) : (s.withBoot h).tiles = s.tiles := rfl
@[simp] theorem State.withBoot_drovers (s : State) (h : Boot → Boot) : (s.withBoot h).drovers = s.drovers := rfl
@[simp] theorem State.withBoot_arb (s : State) (h : Boot → Boot) : (s.withBoot h).arb = s.arb := rfl
@[simp] theorem State.withBoot_hbm (s : State) (h : Boot → Boot) : (s.withBoot h).hbm = s.hbm := rfl
@[simp] theorem State.withBoot_poison (s : State) (h : Boot → Boot) : (s.withBoot h).poison = s.poison := rfl
@[simp] theorem State.withBoot_bad (s : State) (h : Boot → Boot) : (s.withBoot h).bad = s.bad := rfl
@[simp] theorem State.withBoot_hbmCtl (s : State) (h : Boot → Boot) : (s.withBoot h).hbmCtl = s.hbmCtl := rfl
@[simp] theorem State.withBoot_waiting (s : State) (h : Boot → Boot) : (s.withBoot h).waiting = s.waiting := rfl
@[simp] theorem State.withBoot_ports (s : State) (h : Boot → Boot) : (s.withBoot h).ports = s.ports := rfl
@[simp] theorem State.withBoot_mbox (s : State) (h : Boot → Boot) : (s.withBoot h).mbox = s.mbox := rfl
@[simp] theorem State.withBoot_melvor (s : State) (h : Boot → Boot) : (s.withBoot h).melvor = s.melvor := rfl
@[simp] theorem State.withBoot_links (s : State) (h : Boot → Boot) : (s.withBoot h).links = s.links := rfl
@[simp] theorem State.withBoot_grp (s : State) (h : Boot → Boot) : (s.withBoot h).grp = s.grp := rfl
@[simp] theorem State.withBoot_power (s : State) (h : Boot → Boot) : (s.withBoot h).power = s.power := rfl
@[simp] theorem State.withBoot_irq (s : State) (h : Boot → Boot) : (s.withBoot h).irq = s.irq := rfl
@[simp] theorem State.withBoot_rel (s : State) (h : Boot → Boot) : (s.withBoot h).rel = s.rel := rfl
@[simp] theorem State.withBoot_snap (s : State) (h : Boot → Boot) : (s.withBoot h).snap = s.snap := rfl
@[simp] theorem State.withBoot_sec (s : State) (h : Boot → Boot) : (s.withBoot h).sec = s.sec := rfl
@[simp] theorem State.withBoot_flash (s : State) (h : Boot → Boot) : (s.withBoot h).flash = s.flash := rfl
@[simp] theorem State.withBoot_flashIf (s : State) (h : Boot → Boot) : (s.withBoot h).flashIf = s.flashIf := rfl
@[simp] theorem State.withBoot_smbPtr (s : State) (h : Boot → Boot) : (s.withBoot h).smbPtr = s.smbPtr := rfl
@[simp] theorem State.withBoot_tap (s : State) (h : Boot → Boot) : (s.withBoot h).tap = s.tap := rfl
@[simp] theorem State.withBoot_clockUs (s : State) (h : Boot → Boot) : (s.withBoot h).clockUs = s.clockUs := rfl

/-! ## withFlash -/

@[simp] theorem State.withFlash_flash (s : State) (h : Flash → Flash) : (s.withFlash h).flash = h s.flash := rfl
@[simp] theorem State.withFlash_tile (s : State) (h : Flash → Flash) (u : Nat) : (s.withFlash h).tile u = s.tile u := rfl
@[simp] theorem State.withFlash_drover (s : State) (h : Flash → Flash) (u : Nat) : (s.withFlash h).drover u = s.drover u := rfl
@[simp] theorem State.withFlash_ctl (s : State) (h : Flash → Flash) (u : Nat) : (s.withFlash h).ctl u = s.ctl u := rfl
@[simp] theorem State.withFlash_port (s : State) (h : Flash → Flash) (u : Nat) : (s.withFlash h).port u = s.port u := rfl
@[simp] theorem State.withFlash_box (s : State) (h : Flash → Flash) (u : Nat) : (s.withFlash h).box u = s.box u := rfl
@[simp] theorem State.withFlash_link (s : State) (h : Flash → Flash) (u : Nat) : (s.withFlash h).link u = s.link u := rfl
@[simp] theorem State.withFlash_irqGrp (s : State) (h : Flash → Flash) (u : Nat) : (s.withFlash h).irqGrp u = s.irqGrp u := rfl
@[simp] theorem State.withFlash_secPort (s : State) (h : Flash → Flash) (u : Nat) : (s.withFlash h).secPort u = s.secPort u := rfl
@[simp] theorem State.withFlash_pending (s : State) (h : Flash → Flash) : (s.withFlash h).pending = s.pending := rfl
@[simp] theorem State.withFlash_out (s : State) (h : Flash → Flash) : (s.withFlash h).out = s.out := rfl
@[simp] theorem State.withFlash_free (s : State) (h : Flash → Flash) : (s.withFlash h).free = s.free := rfl
@[simp] theorem State.withFlash_tiles (s : State) (h : Flash → Flash) : (s.withFlash h).tiles = s.tiles := rfl
@[simp] theorem State.withFlash_drovers (s : State) (h : Flash → Flash) : (s.withFlash h).drovers = s.drovers := rfl
@[simp] theorem State.withFlash_arb (s : State) (h : Flash → Flash) : (s.withFlash h).arb = s.arb := rfl
@[simp] theorem State.withFlash_hbm (s : State) (h : Flash → Flash) : (s.withFlash h).hbm = s.hbm := rfl
@[simp] theorem State.withFlash_poison (s : State) (h : Flash → Flash) : (s.withFlash h).poison = s.poison := rfl
@[simp] theorem State.withFlash_bad (s : State) (h : Flash → Flash) : (s.withFlash h).bad = s.bad := rfl
@[simp] theorem State.withFlash_hbmCtl (s : State) (h : Flash → Flash) : (s.withFlash h).hbmCtl = s.hbmCtl := rfl
@[simp] theorem State.withFlash_waiting (s : State) (h : Flash → Flash) : (s.withFlash h).waiting = s.waiting := rfl
@[simp] theorem State.withFlash_ports (s : State) (h : Flash → Flash) : (s.withFlash h).ports = s.ports := rfl
@[simp] theorem State.withFlash_mbox (s : State) (h : Flash → Flash) : (s.withFlash h).mbox = s.mbox := rfl
@[simp] theorem State.withFlash_melvor (s : State) (h : Flash → Flash) : (s.withFlash h).melvor = s.melvor := rfl
@[simp] theorem State.withFlash_links (s : State) (h : Flash → Flash) : (s.withFlash h).links = s.links := rfl
@[simp] theorem State.withFlash_grp (s : State) (h : Flash → Flash) : (s.withFlash h).grp = s.grp := rfl
@[simp] theorem State.withFlash_power (s : State) (h : Flash → Flash) : (s.withFlash h).power = s.power := rfl
@[simp] theorem State.withFlash_irq (s : State) (h : Flash → Flash) : (s.withFlash h).irq = s.irq := rfl
@[simp] theorem State.withFlash_rel (s : State) (h : Flash → Flash) : (s.withFlash h).rel = s.rel := rfl
@[simp] theorem State.withFlash_snap (s : State) (h : Flash → Flash) : (s.withFlash h).snap = s.snap := rfl
@[simp] theorem State.withFlash_sec (s : State) (h : Flash → Flash) : (s.withFlash h).sec = s.sec := rfl
@[simp] theorem State.withFlash_boot (s : State) (h : Flash → Flash) : (s.withFlash h).boot = s.boot := rfl
@[simp] theorem State.withFlash_flashIf (s : State) (h : Flash → Flash) : (s.withFlash h).flashIf = s.flashIf := rfl
@[simp] theorem State.withFlash_smbPtr (s : State) (h : Flash → Flash) : (s.withFlash h).smbPtr = s.smbPtr := rfl
@[simp] theorem State.withFlash_tap (s : State) (h : Flash → Flash) : (s.withFlash h).tap = s.tap := rfl
@[simp] theorem State.withFlash_clockUs (s : State) (h : Flash → Flash) : (s.withFlash h).clockUs = s.clockUs := rfl

/-! ## withFlashIf -/

@[simp] theorem State.withFlashIf_flashIf (s : State) (h : FlashIf → FlashIf) : (s.withFlashIf h).flashIf = h s.flashIf := rfl
@[simp] theorem State.withFlashIf_tile (s : State) (h : FlashIf → FlashIf) (u : Nat) : (s.withFlashIf h).tile u = s.tile u := rfl
@[simp] theorem State.withFlashIf_drover (s : State) (h : FlashIf → FlashIf) (u : Nat) : (s.withFlashIf h).drover u = s.drover u := rfl
@[simp] theorem State.withFlashIf_ctl (s : State) (h : FlashIf → FlashIf) (u : Nat) : (s.withFlashIf h).ctl u = s.ctl u := rfl
@[simp] theorem State.withFlashIf_port (s : State) (h : FlashIf → FlashIf) (u : Nat) : (s.withFlashIf h).port u = s.port u := rfl
@[simp] theorem State.withFlashIf_box (s : State) (h : FlashIf → FlashIf) (u : Nat) : (s.withFlashIf h).box u = s.box u := rfl
@[simp] theorem State.withFlashIf_link (s : State) (h : FlashIf → FlashIf) (u : Nat) : (s.withFlashIf h).link u = s.link u := rfl
@[simp] theorem State.withFlashIf_irqGrp (s : State) (h : FlashIf → FlashIf) (u : Nat) : (s.withFlashIf h).irqGrp u = s.irqGrp u := rfl
@[simp] theorem State.withFlashIf_secPort (s : State) (h : FlashIf → FlashIf) (u : Nat) : (s.withFlashIf h).secPort u = s.secPort u := rfl
@[simp] theorem State.withFlashIf_pending (s : State) (h : FlashIf → FlashIf) : (s.withFlashIf h).pending = s.pending := rfl
@[simp] theorem State.withFlashIf_out (s : State) (h : FlashIf → FlashIf) : (s.withFlashIf h).out = s.out := rfl
@[simp] theorem State.withFlashIf_free (s : State) (h : FlashIf → FlashIf) : (s.withFlashIf h).free = s.free := rfl
@[simp] theorem State.withFlashIf_tiles (s : State) (h : FlashIf → FlashIf) : (s.withFlashIf h).tiles = s.tiles := rfl
@[simp] theorem State.withFlashIf_drovers (s : State) (h : FlashIf → FlashIf) : (s.withFlashIf h).drovers = s.drovers := rfl
@[simp] theorem State.withFlashIf_arb (s : State) (h : FlashIf → FlashIf) : (s.withFlashIf h).arb = s.arb := rfl
@[simp] theorem State.withFlashIf_hbm (s : State) (h : FlashIf → FlashIf) : (s.withFlashIf h).hbm = s.hbm := rfl
@[simp] theorem State.withFlashIf_poison (s : State) (h : FlashIf → FlashIf) : (s.withFlashIf h).poison = s.poison := rfl
@[simp] theorem State.withFlashIf_bad (s : State) (h : FlashIf → FlashIf) : (s.withFlashIf h).bad = s.bad := rfl
@[simp] theorem State.withFlashIf_hbmCtl (s : State) (h : FlashIf → FlashIf) : (s.withFlashIf h).hbmCtl = s.hbmCtl := rfl
@[simp] theorem State.withFlashIf_waiting (s : State) (h : FlashIf → FlashIf) : (s.withFlashIf h).waiting = s.waiting := rfl
@[simp] theorem State.withFlashIf_ports (s : State) (h : FlashIf → FlashIf) : (s.withFlashIf h).ports = s.ports := rfl
@[simp] theorem State.withFlashIf_mbox (s : State) (h : FlashIf → FlashIf) : (s.withFlashIf h).mbox = s.mbox := rfl
@[simp] theorem State.withFlashIf_melvor (s : State) (h : FlashIf → FlashIf) : (s.withFlashIf h).melvor = s.melvor := rfl
@[simp] theorem State.withFlashIf_links (s : State) (h : FlashIf → FlashIf) : (s.withFlashIf h).links = s.links := rfl
@[simp] theorem State.withFlashIf_grp (s : State) (h : FlashIf → FlashIf) : (s.withFlashIf h).grp = s.grp := rfl
@[simp] theorem State.withFlashIf_power (s : State) (h : FlashIf → FlashIf) : (s.withFlashIf h).power = s.power := rfl
@[simp] theorem State.withFlashIf_irq (s : State) (h : FlashIf → FlashIf) : (s.withFlashIf h).irq = s.irq := rfl
@[simp] theorem State.withFlashIf_rel (s : State) (h : FlashIf → FlashIf) : (s.withFlashIf h).rel = s.rel := rfl
@[simp] theorem State.withFlashIf_snap (s : State) (h : FlashIf → FlashIf) : (s.withFlashIf h).snap = s.snap := rfl
@[simp] theorem State.withFlashIf_sec (s : State) (h : FlashIf → FlashIf) : (s.withFlashIf h).sec = s.sec := rfl
@[simp] theorem State.withFlashIf_flash (s : State) (h : FlashIf → FlashIf) : (s.withFlashIf h).flash = s.flash := rfl
@[simp] theorem State.withFlashIf_boot (s : State) (h : FlashIf → FlashIf) : (s.withFlashIf h).boot = s.boot := rfl
@[simp] theorem State.withFlashIf_smbPtr (s : State) (h : FlashIf → FlashIf) : (s.withFlashIf h).smbPtr = s.smbPtr := rfl
@[simp] theorem State.withFlashIf_tap (s : State) (h : FlashIf → FlashIf) : (s.withFlashIf h).tap = s.tap := rfl
@[simp] theorem State.withFlashIf_clockUs (s : State) (h : FlashIf → FlashIf) : (s.withFlashIf h).clockUs = s.clockUs := rfl

/-! ## emit, fire -/

@[simp] theorem State.emit_out (s : State) (y : Out) : (s.emit y).out = y :: s.out := rfl
@[simp] theorem State.emit_tile (s : State) (y : Out) (u : Nat) : (s.emit y).tile u = s.tile u := rfl
@[simp] theorem State.emit_drover (s : State) (y : Out) (u : Nat) : (s.emit y).drover u = s.drover u := rfl
@[simp] theorem State.emit_ctl (s : State) (y : Out) (u : Nat) : (s.emit y).ctl u = s.ctl u := rfl
@[simp] theorem State.emit_port (s : State) (y : Out) (u : Nat) : (s.emit y).port u = s.port u := rfl
@[simp] theorem State.emit_box (s : State) (y : Out) (u : Nat) : (s.emit y).box u = s.box u := rfl
@[simp] theorem State.emit_link (s : State) (y : Out) (u : Nat) : (s.emit y).link u = s.link u := rfl
@[simp] theorem State.emit_irqGrp (s : State) (y : Out) (u : Nat) : (s.emit y).irqGrp u = s.irqGrp u := rfl
@[simp] theorem State.emit_secPort (s : State) (y : Out) (u : Nat) : (s.emit y).secPort u = s.secPort u := rfl
@[simp] theorem State.emit_pending (s : State) (y : Out) : (s.emit y).pending = s.pending := rfl
@[simp] theorem State.emit_free (s : State) (y : Out) : (s.emit y).free = s.free := rfl
@[simp] theorem State.emit_tiles (s : State) (y : Out) : (s.emit y).tiles = s.tiles := rfl
@[simp] theorem State.emit_drovers (s : State) (y : Out) : (s.emit y).drovers = s.drovers := rfl
@[simp] theorem State.emit_arb (s : State) (y : Out) : (s.emit y).arb = s.arb := rfl
@[simp] theorem State.emit_hbm (s : State) (y : Out) : (s.emit y).hbm = s.hbm := rfl
@[simp] theorem State.emit_poison (s : State) (y : Out) : (s.emit y).poison = s.poison := rfl
@[simp] theorem State.emit_bad (s : State) (y : Out) : (s.emit y).bad = s.bad := rfl
@[simp] theorem State.emit_hbmCtl (s : State) (y : Out) : (s.emit y).hbmCtl = s.hbmCtl := rfl
@[simp] theorem State.emit_waiting (s : State) (y : Out) : (s.emit y).waiting = s.waiting := rfl
@[simp] theorem State.emit_ports (s : State) (y : Out) : (s.emit y).ports = s.ports := rfl
@[simp] theorem State.emit_mbox (s : State) (y : Out) : (s.emit y).mbox = s.mbox := rfl
@[simp] theorem State.emit_melvor (s : State) (y : Out) : (s.emit y).melvor = s.melvor := rfl
@[simp] theorem State.emit_links (s : State) (y : Out) : (s.emit y).links = s.links := rfl
@[simp] theorem State.emit_grp (s : State) (y : Out) : (s.emit y).grp = s.grp := rfl
@[simp] theorem State.emit_power (s : State) (y : Out) : (s.emit y).power = s.power := rfl
@[simp] theorem State.emit_irq (s : State) (y : Out) : (s.emit y).irq = s.irq := rfl
@[simp] theorem State.emit_rel (s : State) (y : Out) : (s.emit y).rel = s.rel := rfl
@[simp] theorem State.emit_snap (s : State) (y : Out) : (s.emit y).snap = s.snap := rfl
@[simp] theorem State.emit_sec (s : State) (y : Out) : (s.emit y).sec = s.sec := rfl
@[simp] theorem State.emit_flash (s : State) (y : Out) : (s.emit y).flash = s.flash := rfl
@[simp] theorem State.emit_boot (s : State) (y : Out) : (s.emit y).boot = s.boot := rfl
@[simp] theorem State.emit_flashIf (s : State) (y : Out) : (s.emit y).flashIf = s.flashIf := rfl
@[simp] theorem State.emit_smbPtr (s : State) (y : Out) : (s.emit y).smbPtr = s.smbPtr := rfl
@[simp] theorem State.emit_tap (s : State) (y : Out) : (s.emit y).tap = s.tap := rfl
@[simp] theorem State.emit_clockUs (s : State) (y : Out) : (s.emit y).clockUs = s.clockUs := rfl
@[simp] theorem fire_tile (s : State) (n u : Nat) : (fire s n).tile u = s.tile u := rfl
@[simp] theorem fire_drover (s : State) (n u : Nat) : (fire s n).drover u = s.drover u := rfl
@[simp] theorem fire_ctl (s : State) (n u : Nat) : (fire s n).ctl u = s.ctl u := rfl
@[simp] theorem fire_port (s : State) (n u : Nat) : (fire s n).port u = s.port u := rfl
@[simp] theorem fire_box (s : State) (n u : Nat) : (fire s n).box u = s.box u := rfl
@[simp] theorem fire_link (s : State) (n u : Nat) : (fire s n).link u = s.link u := rfl
@[simp] theorem fire_secPort (s : State) (n u : Nat) : (fire s n).secPort u = s.secPort u := rfl
@[simp] theorem fire_pending (s : State) (n : Nat) : (fire s n).pending = s.pending := rfl
@[simp] theorem fire_out (s : State) (n : Nat) : (fire s n).out = s.out := rfl
@[simp] theorem fire_free (s : State) (n : Nat) : (fire s n).free = s.free := rfl
@[simp] theorem fire_tiles (s : State) (n : Nat) : (fire s n).tiles = s.tiles := rfl
@[simp] theorem fire_drovers (s : State) (n : Nat) : (fire s n).drovers = s.drovers := rfl
@[simp] theorem fire_arb (s : State) (n : Nat) : (fire s n).arb = s.arb := rfl
@[simp] theorem fire_hbm (s : State) (n : Nat) : (fire s n).hbm = s.hbm := rfl
@[simp] theorem fire_poison (s : State) (n : Nat) : (fire s n).poison = s.poison := rfl
@[simp] theorem fire_bad (s : State) (n : Nat) : (fire s n).bad = s.bad := rfl
@[simp] theorem fire_hbmCtl (s : State) (n : Nat) : (fire s n).hbmCtl = s.hbmCtl := rfl
@[simp] theorem fire_waiting (s : State) (n : Nat) : (fire s n).waiting = s.waiting := rfl
@[simp] theorem fire_ports (s : State) (n : Nat) : (fire s n).ports = s.ports := rfl
@[simp] theorem fire_mbox (s : State) (n : Nat) : (fire s n).mbox = s.mbox := rfl
@[simp] theorem fire_melvor (s : State) (n : Nat) : (fire s n).melvor = s.melvor := rfl
@[simp] theorem fire_links (s : State) (n : Nat) : (fire s n).links = s.links := rfl
@[simp] theorem fire_grp (s : State) (n : Nat) : (fire s n).grp = s.grp := rfl
@[simp] theorem fire_power (s : State) (n : Nat) : (fire s n).power = s.power := rfl
@[simp] theorem fire_rel (s : State) (n : Nat) : (fire s n).rel = s.rel := rfl
@[simp] theorem fire_snap (s : State) (n : Nat) : (fire s n).snap = s.snap := rfl
@[simp] theorem fire_sec (s : State) (n : Nat) : (fire s n).sec = s.sec := rfl
@[simp] theorem fire_flash (s : State) (n : Nat) : (fire s n).flash = s.flash := rfl
@[simp] theorem fire_boot (s : State) (n : Nat) : (fire s n).boot = s.boot := rfl
@[simp] theorem fire_flashIf (s : State) (n : Nat) : (fire s n).flashIf = s.flashIf := rfl
@[simp] theorem fire_smbPtr (s : State) (n : Nat) : (fire s n).smbPtr = s.smbPtr := rfl
@[simp] theorem fire_tap (s : State) (n : Nat) : (fire s n).tap = s.tap := rfl
@[simp] theorem fire_clockUs (s : State) (n : Nat) : (fire s n).clockUs = s.clockUs := rfl
@[simp] theorem fireIf_tile (c : Bool) (s : State) (n u : Nat) : (fireIf c s n).tile u = s.tile u := by cases c <;> rfl
@[simp] theorem fireIf_drover (c : Bool) (s : State) (n u : Nat) : (fireIf c s n).drover u = s.drover u := by cases c <;> rfl
@[simp] theorem fireIf_ctl (c : Bool) (s : State) (n u : Nat) : (fireIf c s n).ctl u = s.ctl u := by cases c <;> rfl
@[simp] theorem fireIf_port (c : Bool) (s : State) (n u : Nat) : (fireIf c s n).port u = s.port u := by cases c <;> rfl
@[simp] theorem fireIf_box (c : Bool) (s : State) (n u : Nat) : (fireIf c s n).box u = s.box u := by cases c <;> rfl
@[simp] theorem fireIf_link (c : Bool) (s : State) (n u : Nat) : (fireIf c s n).link u = s.link u := by cases c <;> rfl
@[simp] theorem fireIf_secPort (c : Bool) (s : State) (n u : Nat) : (fireIf c s n).secPort u = s.secPort u := by cases c <;> rfl
@[simp] theorem fireIf_pending (c : Bool) (s : State) (n : Nat) : (fireIf c s n).pending = s.pending := by cases c <;> rfl
@[simp] theorem fireIf_out (c : Bool) (s : State) (n : Nat) : (fireIf c s n).out = s.out := by cases c <;> rfl
@[simp] theorem fireIf_free (c : Bool) (s : State) (n : Nat) : (fireIf c s n).free = s.free := by cases c <;> rfl
@[simp] theorem fireIf_tiles (c : Bool) (s : State) (n : Nat) : (fireIf c s n).tiles = s.tiles := by cases c <;> rfl
@[simp] theorem fireIf_drovers (c : Bool) (s : State) (n : Nat) : (fireIf c s n).drovers = s.drovers := by cases c <;> rfl
@[simp] theorem fireIf_arb (c : Bool) (s : State) (n : Nat) : (fireIf c s n).arb = s.arb := by cases c <;> rfl
@[simp] theorem fireIf_hbm (c : Bool) (s : State) (n : Nat) : (fireIf c s n).hbm = s.hbm := by cases c <;> rfl
@[simp] theorem fireIf_poison (c : Bool) (s : State) (n : Nat) : (fireIf c s n).poison = s.poison := by cases c <;> rfl
@[simp] theorem fireIf_bad (c : Bool) (s : State) (n : Nat) : (fireIf c s n).bad = s.bad := by cases c <;> rfl
@[simp] theorem fireIf_hbmCtl (c : Bool) (s : State) (n : Nat) : (fireIf c s n).hbmCtl = s.hbmCtl := by cases c <;> rfl
@[simp] theorem fireIf_waiting (c : Bool) (s : State) (n : Nat) : (fireIf c s n).waiting = s.waiting := by cases c <;> rfl
@[simp] theorem fireIf_ports (c : Bool) (s : State) (n : Nat) : (fireIf c s n).ports = s.ports := by cases c <;> rfl
@[simp] theorem fireIf_mbox (c : Bool) (s : State) (n : Nat) : (fireIf c s n).mbox = s.mbox := by cases c <;> rfl
@[simp] theorem fireIf_melvor (c : Bool) (s : State) (n : Nat) : (fireIf c s n).melvor = s.melvor := by cases c <;> rfl
@[simp] theorem fireIf_links (c : Bool) (s : State) (n : Nat) : (fireIf c s n).links = s.links := by cases c <;> rfl
@[simp] theorem fireIf_grp (c : Bool) (s : State) (n : Nat) : (fireIf c s n).grp = s.grp := by cases c <;> rfl
@[simp] theorem fireIf_power (c : Bool) (s : State) (n : Nat) : (fireIf c s n).power = s.power := by cases c <;> rfl
@[simp] theorem fireIf_rel (c : Bool) (s : State) (n : Nat) : (fireIf c s n).rel = s.rel := by cases c <;> rfl
@[simp] theorem fireIf_snap (c : Bool) (s : State) (n : Nat) : (fireIf c s n).snap = s.snap := by cases c <;> rfl
@[simp] theorem fireIf_sec (c : Bool) (s : State) (n : Nat) : (fireIf c s n).sec = s.sec := by cases c <;> rfl
@[simp] theorem fireIf_flash (c : Bool) (s : State) (n : Nat) : (fireIf c s n).flash = s.flash := by cases c <;> rfl
@[simp] theorem fireIf_boot (c : Bool) (s : State) (n : Nat) : (fireIf c s n).boot = s.boot := by cases c <;> rfl
@[simp] theorem fireIf_flashIf (c : Bool) (s : State) (n : Nat) : (fireIf c s n).flashIf = s.flashIf := by cases c <;> rfl
@[simp] theorem fireIf_smbPtr (c : Bool) (s : State) (n : Nat) : (fireIf c s n).smbPtr = s.smbPtr := by cases c <;> rfl
@[simp] theorem fireIf_tap (c : Bool) (s : State) (n : Nat) : (fireIf c s n).tap = s.tap := by cases c <;> rfl
@[simp] theorem fireIf_clockUs (c : Bool) (s : State) (n : Nat) : (fireIf c s n).clockUs = s.clockUs := by cases c <;> rfl

/-- A source that fires sets its bit in PEND (R354). -/
theorem fire_pend (s : State) (n : Nat) : ((fire s n).irqGrp (n / 16)).pend.getLsbD (n % 16) = true := by
  have hn : n % 16 < 16 := Nat.mod_lt _ (by decide)
  simp only [fire, State.modIrqGrp_eq, State.setIrqGrp_irqGrp]
  rw [if_true]
  by_cases h : (s.irqGrp (n / 16)).pend.getLsbD (n % 16) = true
  · rw [if_pos h]; exact h
  · rw [if_neg h]; simp only [BitVec.getLsbD_or, BitVec.getLsbD_ofNat, hn, Nat.testBit_two_pow_self, decide_true, Bool.and_self, Bool.or_true]

end Sys2Proof.Machine
end

