-- ==== Sys2Proof/Laws/Hbm.lean ====
section
/-! SUPPORT. HBM as a memory: what precedes or counts an access leaves its bytes as they are, and every operation that
writes HBM keeps its canonical form. -/

namespace Sys2Proof.Machine

/-- A fold keeps what each of its steps keeps. -/
theorem forAll_inv {α β : Type} (P : β → Prop) (f : β → α → β) (hf : ∀ s x, P s → P (f s x)) :
    ∀ (l : List α) (s : β), P s → P (forAll l s f)
  | [], _, h => h
  | x :: l, s, h => forAll_inv P f hf l (f s x) (hf s x h)

/-- A fold whose steps leave the bytes of HBM leaves them. -/
theorem forAll_hbm {α : Type} (l : List α) (s : State) (f : State → α → State) (hf : ∀ s x, (f s x).hbm = s.hbm) :
    (forAll l s f).hbm = s.hbm :=
  forAll_inv (fun t => t.hbm = s.hbm) f (fun t x h => (hf t x).trans h) l s rfl

/-! ## What leaves the bytes of HBM -/

@[simp] theorem setLost_hbm (s : State) (c : Nat) : (setLost s c).hbm = s.hbm := by
  unfold setLost; split <;> rfl
@[simp] theorem queueMsg_hbm (s : State) (x : BitVec 128) (m : Nat) : (queueMsg s x m).hbm = s.hbm := by
  unfold queueMsg; split <;> rfl
@[simp] theorem sendCtl_hbm (s : State) (x : BitVec 128) : (sendCtl s x).hbm = s.hbm := by
  unfold sendCtl sendUp sendDown
  dsimp only
  split <;> split
  · rfl
  · exact forAll_hbm _ _ _ fun s k => queueMsg_hbm s x k
  · rfl
  · exact queueMsg_hbm _ _ _
@[simp] theorem stopDrovers_hbm (s : State) : (stopDrovers s).hbm = s.hbm := forAll_hbm _ _ _ fun _ _ => rfl
@[simp] theorem freezeTiles_hbm (s : State) : (freezeTiles s).hbm = s.hbm := rfl
@[simp] theorem freezeFold_hbm (s : State) : (freezeFold s).hbm = s.hbm := by
  unfold freezeFold; split
  · rfl
  · exact (fire_hbm _ _).trans ((State.withMelvor_hbm _ _).trans ((stopDrovers_hbm _).trans (freezeTiles_hbm s)))
@[simp] theorem snapEnd_hbm (s : State) : (snapEnd s).hbm = s.hbm := by
  unfold snapEnd; split <;> simp
@[simp] theorem fatalError_hbm (s : State) (n : Nat) : (fatalError s n).hbm = s.hbm := by
  unfold fatalError
  split
  · rfl
  · simp only [snapEnd_hbm, setLost_hbm]
    rw [forAll_hbm _ _ _ fun s p => by split <;> rfl]
    simp
@[simp] theorem foundPoison_hbm (s : State) (a : Nat) : (foundPoison s a).hbm = s.hbm := by
  unfold foundPoison; split <;> split <;> simp
@[simp] theorem countRead_hbm (s : State) (a : Nat) : (countRead s a).hbm = s.hbm := rfl
@[simp] theorem countWrite_hbm (s : State) (a : Nat) : (countWrite s a).hbm = s.hbm := rfl
@[simp] theorem countHbmCe_hbm (s : State) (a : Nat) : (countHbmCe s a).hbm = s.hbm := rfl
@[simp] theorem countUe_hbm (s : State) (a : Nat) (p : Bool) : (countUe s a p).hbm = s.hbm := by
  unfold countUe; simp only [foundPoison_hbm]; split <;> rfl
@[simp] theorem decodeLine_hbm (s : State) (a e : Nat) : (decodeLine s a e).1.hbm = s.hbm := by
  unfold decodeLine; simp only; repeat' split
  all_goals rfl
@[simp] theorem readLine_hbm (s : State) (a e : Nat) : (readLine s a e).1.hbm = s.hbm := by
  unfold readLine; simp only; split <;> simp
@[simp] theorem bytesRead_hbm (s : State) (a n : Nat) : (bytesRead s a n).1.hbm = s.hbm :=
  forAll_inv (fun x : State × Bool × Nat => x.1.hbm = s.hbm) _ (fun x _ h => (readLine_hbm x.1 _ _).trans h) _ _ rfl
theorem freshLines_succ (s : State) (n : Nat) : (s.freshLines (n + 1)).2 = (s.fresh.2.freshLines n).2 := by
  rw [State.freshLines]
@[simp] theorem freshLines_hbm (n : Nat) : ∀ s : State, (s.freshLines n).2.hbm = s.hbm := by
  induction n with
  | zero => intro s; rw [State.freshLines]
  | succ n ih => intro s; rw [freshLines_succ, ih]; rfl
@[simp] theorem hostFetch_hbm (s : State) (p : Port) (c : Bool) (a n : Nat) : (hostFetch s p c a n).hbm = s.hbm := by
  unfold hostFetch; split
  · exact forAll_hbm _ _ _ fun _ _ => rfl
  · rfl
@[simp] theorem hostStore_hbm (s : State) (p : Port) (c : Bool) (a n v : Nat) : (hostStore s p c a n v).hbm = s.hbm := by
  unfold hostStore; split
  · exact forAll_hbm _ _ _ fun _ _ => by split <;> rfl
  · rfl
@[simp] theorem worldRefused_hbm (s : State) : (worldRefused s).hbm = s.hbm := rfl
/-- What the snapshot engine does at its target leaves HBM, if what it does there leaves it. -/
theorem snapAt_hbm (s : State) (o n : Nat) (k : State → Port → Nat → State) (hk : ∀ s p a, (k s p a).hbm = s.hbm) :
    (snapAt s o n k).hbm = s.hbm := by
  unfold snapAt; dsimp only; split
  · simp
  · split
    · simp
    · exact hk _ _ _
@[simp] theorem snapStore_hbm (s : State) (o n v : Nat) : (snapStore s o n v).hbm = s.hbm :=
  snapAt_hbm s o n _ fun _ _ _ => by simp
/-- What a page read for the snapshot leaves of HBM. -/
theorem snapPage_hbm (s t : State) (page o n v : Nat) (h : t.hbm = s.hbm) :
    (if t.snap.busy then
      snapStore (t.withSnap fun y => { y with copied := Sparse.set 0 y.copied page v }) o n v else t).hbm = s.hbm := by
  split
  · rw [snapStore_hbm]; exact h
  · exact h
@[simp] theorem snapCopy_hbm (s : State) (page : Nat) : (snapCopy s page).hbm = s.hbm := by
  unfold snapCopy; dsimp only; split
  · rfl
  · refine snapPage_hbm s _ page _ _ _ ?_
    split
    · split
      · simp
      · simp only [snapEnd_hbm, State.emit_hbm]; split <;> rfl
    · simp
@[simp] theorem beforeWrite_hbm (s : State) (r : Requester) (a : Nat) : (beforeWrite s r a).hbm = s.hbm := by
  unfold beforeWrite; simp only; split <;> repeat' split
  all_goals simp

/-! ## What writes HBM keeps the canonical form -/

theorem storeLine_wf (s : State) (a : Nat) (m : BitVec 64) (d : Line) (e : Nat) (h : Sparse.wf 0 s.hbm = true) :
    Sparse.wf 0 (storeLine s a m d e).hbm = true := by
  unfold storeLine; simp only; split
  · exact writeBytes_wf _ _ _ _ (by simpa using h)
  · split
    all_goals exact writeMasked_wf _ _ _ _ _ (writeBytes_wf _ _ _ _ (by simpa using h))

theorem writeLine_wf (s : State) (r : Requester) (a : Nat) (m : BitVec 64) (d : Line) (e : Nat)
    (h : Sparse.wf 0 s.hbm = true) : Sparse.wf 0 (writeLine s r a m d e).hbm = true :=
  storeLine_wf _ _ _ _ _ (by simpa using h)

theorem writePoisoned_wf (s : State) (r : Requester) (a : Nat) (m : BitVec 64) (d : Line)
    (h : Sparse.wf 0 s.hbm = true) : Sparse.wf 0 (writePoisoned s r a m d).hbm = true :=
  writeMasked_wf _ _ _ _ _ (by simp only [countWrite_hbm]; split <;> simpa using h)

theorem bytesWrite_wf (r : Requester) (s : State) (a n v : Nat) (h : Sparse.wf 0 s.hbm = true) :
    Sparse.wf 0 (bytesWrite r s a n v).hbm = true :=
  forAll_inv (fun t : State => Sparse.wf 0 t.hbm = true) _ (fun _ _ h => writeLine_wf _ _ _ _ _ _ h) _ _ h

theorem Sparse.wf_filter {α : Type} [DecidableEq α] (d : α) (m : Sparse α) (p : Nat × α → Bool) (h : Sparse.wf d m = true) :
    Sparse.wf d (m.filter p) = true := by
  simp only [Sparse.wf, Bool.and_eq_true, decide_eq_true_eq, List.all_eq_true] at h ⊢
  exact ⟨h.1.filter _, fun x hx => h.2 x (List.mem_of_mem_filter hx)⟩

theorem zeroUnits_wf (s : State) (u : List (Nat × Nat)) (h : Sparse.wf 0 s.hbm = true) :
    Sparse.wf 0 (zeroUnits s u).hbm = true := by
  have e : (zeroUnits s u).hbm = (forAll (s.snap.todo.filter fun q => inUnits u (q * 4096)) s snapCopy).hbm.filter
      fun x => !inUnits u x.1 := forAll_hbm _ _ _ fun _ _ => rfl
  rw [e, forAll_hbm _ _ _ snapCopy_hbm]
  exact Sparse.wf_filter _ _ _ h

theorem overwriteHbm_wf (s : State) : Sparse.wf 0 (overwriteHbm s).hbm = true := by
  have e : (overwriteHbm s).hbm = [] := forAll_hbm _ _ _ fun _ _ => rfl
  rw [e]
  exact Sparse.wf_nil 0

theorem reset_hbm_wf : Sparse.wf 0 State.reset.hbm = true := Sparse.wf_nil 0

end Sys2Proof.Machine
end

