-- ==== Sys2Proof/Laws/Rolia.lean ====
section
/-! SUPPORT. The commands of a tile: when they are taken, and what the issue of a Rolia word comes to. -/

namespace Sys2Proof.Machine

/-- A command of an ID that names no tile (R11) does nothing. -/
theorem atTile_of_not {t : TileId} {s : State} (f : State → State) (h : s.tileOk t.toNat = false) :
    atTile t s f = .next s := by
  simp [atTile, h]

theorem atTile_of_ok {t : TileId} {s : State} (f : State → State) (h : s.tileOk t.toNat = true) :
    atTile t s f = .next (f s) := by
  simp [atTile, h]

theorem atIsland_of_on {t : TileId} {s : State} (f : State → State) (h : s.tileOk t.toNat = true) (hi : s.islandsOn = true) :
    atIsland t s f = .next (f s) := by
  simp [atIsland, atTile, h, hi]

/-- A row that is not the word's, and a core that cannot issue: nothing happens. -/
theorem issue_not_due (i : Issue) (mine : Nat → Bool) (op : Nat → State → OpEnd) (s : State)
    (h : (s.tile i.tile.toNat).canIssue = false ∨
      mine (wOP ((s.tile i.tile.toNat).core.word (s.tile i.tile.toNat).core.pc.toNat)) = false) :
    issue i mine op s = s := by
  unfold issue
  rcases h with h | h <;> simp [h]

/-- The state in which word `w` of tile `t` takes effect: the cycles that it was held for its operands are counted (R64). -/
def issued (t w : Nat) (s : State) : State := s.modCore t fun c => c.hold w

/-- What the issue of a due word, first of its pair and fetched without error, comes to: ILLEGAL for an illegal word
(R60), IADDR for a fall-through out of instruction memory (R62), its operation where the guard holds, and else only its
retirement (R60). -/
theorem issue_due (i : Issue) (mine : Nat → Bool) (op : Nat → State → OpEnd) (s : State)
    (hc : (s.tile i.tile.toNat).canIssue = true) (hs : i.same = false) (hf : i.fetch = .ok)
    (hm : mine (wOP ((s.tile i.tile.toNat).core.word (s.tile i.tile.toNat).core.pc.toNat)) = true) :
    let x := s.tile i.tile.toNat
    let pc := x.core.pc.toNat
    let w := x.core.word pc
    let u := issued i.tile.toNat w s
    issue i mine op s = finish i.tile.toNat pc w false
      (if wIllegal w then .fault u 1 w
       else if pc = 8191 ∧ fallsThrough w (x.core.guard w) then .fault u 3 8192
       else if x.core.guard w then (op w u).launch i.tile.toNat w
       else .retire u (pc + 1)) u := by
  intro x pc w u
  unfold issue
  simp only [hc, hs, hf, hm, Bool.not_true, Bool.false_and, Bool.or_self, Bool.false_eq_true, reduceCtorEq, ↓reduceIte]
  by_cases h1 : wIllegal w = true
  · simp only [x, pc, w] at h1
    simp only [x, pc, w, if_pos h1]; rfl
  · by_cases h2 : pc = 8191 ∧ fallsThrough w (x.core.guard w) = true
    · simp only [x, pc, w] at h1 h2
      simp only [x, pc, w, if_neg h1, if_pos h2]; rfl
    · by_cases h3 : x.core.guard w = true <;> simp only [x, pc, w] at h1 h2 h3
      · simp only [x, pc, w, if_neg h1, if_neg h2, if_pos h3]; rfl
      · simp only [x, pc, w, if_neg h1, if_neg h2, if_neg h3]; rfl

end Sys2Proof.Machine
end

