-- ==== Sys2Proof/Safety.lean ====
section
/-! DEFINITION. What counts as a safe command: it is taken, and the module goes on. -/

namespace Sys2Proof

/-- The command is taken from `s`: neither a fault nor a refusal. -/
def Taken (i : Instr) (s : Machine.State) : Prop := ∃ t, Machine.exec i s = .next t

end Sys2Proof
end

