-- ==== Sys2Proof/Tests/Samples.lean ====
section
/-! SUPPORT. Small states, records, frames and images that the tests and witnesses use. Every value is written out from the
layouts of the spec; `base` is the module in service, and each helper changes what its name says. -/

open Sys2Proof Sys2Proof.Machine

namespace Sys2Proof.Tests

/-- The module in service: stage 4, Melvor firmware runs, port 0 owns. -/
def base : State := { State.reset with boot := { stage := 4, portsReady := true }, melvor := { fwReady := true, owner := 0 } }

/-- `u` before port 0's completion entry was written. -/
def unC (o u : State) : State := { u.setBox 0 (o.box 0) with out := u.out.drop 1, irq := o.irq, melvor := o.melvor }

/-- Tile 5 runs at word 3, which is `w`; g1 = 0x40, g2 = 7, g3 = 2^20, p1 = 1. -/
def running (w : Nat) (f : Tile → Tile := fun x => x) : State :=
  base.setTile 5 (f { core := { state := 1, imem := [(3, BitVec.ofNat 32 w)], pc := 3
                                regs := [(1, 0x40#32), (2, 7#32), (3, 0x100000#32)], preds := 0x3#8 } })

/-- A word: OP, RD, RA, the low 12 bits. -/
def op (o rd ra imm : Nat) : Nat := o * 2 ^ 22 + rd * 2 ^ 17 + ra * 2 ^ 12 + imm

def issue : Issue := ⟨5, false, .ok⟩
def tok (v : Nat) (tag : Nat := 0) : Token := ⟨BitVec.ofNat 512 v, BitVec.ofNat 8 tag⟩
/-- A fold of tile 5. -/
def fold0 : Fold := ⟨0, false, false, 0, 0x10000#32, 0, 0, 1, 0, 384, [], [], [5]⟩
/-- A record of 64 bytes: (byte, value) pairs of 32-bit words. -/
def rcd (l : List (Nat × Nat)) : Line := BitVec.ofNat 512 ((l.map fun x => x.2 * 256 ^ x.1).sum)
/-- MATMUL 1 × 64 × 32 on B8 operands at 0x1000 and 0x2000, held (OUT = 2). -/
def matmulRcd : Line := rcd [(0, 1), (8, 1 + 64 * 65536), (12, 32 + 65536 + 2^18 + 2 * 2^22), (16, 0x1000 + 2^24 + 2^20), (20, 1), (28, 0x2000 + 2^24 + 2^20), (32, 1)]
def cmd (r : Line) (summ : Bool := false) : Cmd := ⟨r, 7, summ, 2⟩

def s0 : State := State.reset
def s1 : State := { State.reset with boot := { stage := 4 }, melvor := { fwReady := true, owner := 0 } }

def mem (x : Tile) : Tile := { x with wmem := [(0x44, 0x12#8), (0x45, 0x34#8), (0x80, 1#8), (0x9F, 7#8)], amem := [(0x40, 0x123456789ABC#48)] }
def sw : Nat := 0x20*2^22+1*2^17+1*2^14+2^13+5*16
def full (x : Tile) : Tile := { x with core := { x.core with sendBuf := List.replicate 4 ⟨1,0,0,false⟩ } }
def blk (w : Nat) (on : BitVec 3) (x : Tile) : Tile := { x with core := { x.core with blocked := some ⟨on, BitVec.ofNat 32 w, 3⟩ } }
def rw_ (nb : Nat) : Nat := 0x21*2^22+1*2^17+2*2^15+3*2^12+nb*2^11 + nb*2*2^8
def q (x : Tile) : Tile := { x with router := { x.router with queues := [(19, { toks := [tok 77 0x30], cfg := 0x44#32 })] } }
def q2 (x : Tile) : Tile := { x with router := { x.router with queues := [(19, { cfg := 0x44#32 })] } }
def ew : Nat := op 0x28 4 1 0x600
def eng (n : Nat) (x : Tile) : Tile := x.setEng 1 { queue := List.replicate n ⟨5, 3, false, 0⟩, enq := 9, done := 6, summs := List.replicate (n % 8) 0x0004000000030000000200000001#128 }
def ww : Nat := op 0x29 0 2 0x400
def zw : Nat := op 0x2A 28 0 0x400
def halted (x : Tile) : Tile := { x with core := { x.core with ended := true }, router := { x.router with halted := true } }

def fld (kind idx : Nat) (direct : Nat := 0) (q : Nat := 0) : Nat := direct * 2^12 + q * 2^9 + kind * 2^6 + idx
def ent (fs : List (Nat × Nat)) (rep : Nat := 0) (wrap halt : Nat := 0) : BitVec 128 :=
  BitVec.ofNat 128 ((fs.map fun x => x.2 * 2^(13*x.1)).sum + rep * 2^65 + wrap*2^81 + halt*2^82)
def rt (f : Router → Router) (x : Tile) : Tile := { x with router := f x.router }
def sl (l : List (Nat × BitVec 128)) (room : Sparse Nat := [(1,1)]) (cr : Sparse Nat := [(11, 1)]) : State :=
  running 0 (rt fun r => { r with sched := l, room := room, credit := cr, cross := [(3, [tok 9 0x88])], queues := [(24, { cfg := 4#32, toks := [tok 5 0x08, tok 6]})] })
def used (x : Tile) : Tile := { x with router := { x.router with used := true } }
def fz : State := { (running 0 (fun x => {x with inFold := true})) with melvor := { base.melvor with fold := some fold0 } }
def fault (x : Tile) : Tile := { x with router := { x.router with fault := some ⟨2,7,0,0,0⟩ } }

def vmapRcd : Line := rcd [(0,1),(8, 1 + 64*65536), (12, 0x1000 + 2^24 + 2^20), (16, 1), (52, 2^18)]
def setvlRcd (n : Nat) : Line := rcd [(0,3),(8,n)]
def upartRcd : Line := rcd [(0,2),(8,128),(12, 0x3000),(48,0x4000),(52,3),(56,0x5000)]
def bb (op : Nat) : Line := rcd [(0, op), (8, 2^31), (12,2^31)]
def q3 (e : Nat) (r : Line) : State := running 0 (fun x => x.setEng e { queue := [cmd r] })

def dR : Line := rcd [(0,1),(8,1+64*65536),(12,32+2^16+2^19+2^22+2^25),(16,0x1000+2^24+2^20),(20,1),(28,0x2000+2^24+2^20),(32,1),(40,0x8000),(44,8)]
def gR : Line := rcd [(0,1),(8,1+32*65536),(12,64+2^16+2^19+2^22),(16,0x6000+2^24+2^20),(20,1),(28,0x2000+2^24+2^20+2^25),(32,1),(40,0x9000),(44,4)]
def mx (f : Mxe → Mxe) (x : Tile) : Tile := { x with mxe := f x.mxe }
def vx (f : Vxe → Vxe) (x : Tile) : Tile := { x with vxe := f x.vxe }
def up (f : Upe → Upe) (x : Tile) : Tile := { x with upe := f x.upe }
def rD : MxeRun := { cmd := cmd dR }
def rM : MxeRun := { cmd := cmd matmulRcd }
def rS : MxeRun := { cmd := cmd matmulRcd, started := true, m := 1, n := 64, k := 32 }
def dep (r : Line) : Line := r ||| BitVec.ofNat 512 (256 + 512 + 5 * 2^32)
def vR (r : Line) : VxeRun := { cmd := cmd r }
def vS : VxeRun := { cmd := cmd (rcd [(0,1),(8, 2 + 64*65536), (12, 0x1000 + 2^24 + 2^20), (16, 1), (52, 2^18)]), started := true, rows := 2, cols := 64 }
def uR (r : Line) : UpeRun := { cmd := cmd r }
def frozenG (x : Tile) : Tile := { x with wmem := [(0x4002, 1#8)] }
def setvl : Line := rcd [(0,3),(8,9)]

def rF : MxeRun := { rS with pos := 1, finished := true }
def ops (x : Tile) : Tile := { x with wmem := (List.range 32).map (fun i => (0x1000 + i, 3#8)) ++ (List.range 32).map (fun i => (0x2000 + i, 5#8)) ++ (List.range 32).map (fun i => (0x2040 + i, 0x85#8)), amem := [(1, 9#48)] }
def rS2 : MxeRun := { rS with k := 96, pos := 1, cmd := cmd (rcd [(0, 1), (8, 1 + 64 * 65536), (12, 96 + 65536 + 2^18 + 2 * 2^22), (16, 0x1000 + 2^24 + 2^20), (20, 2), (28, 0x2000 + 2^24 + 2^20), (32, 2)]) }
def hot (x : Tile) : Tile := { x with island := { x.island with units := 1000000 } }
def su (c : Cmd) : Cmd := { c with summ := true }
def uS : UpeRun := {uR upartRcd with started := true, finished := true}
def vF : VxeRun := {vS with finished := true}
def four : List (BitVec 128) := List.replicate 4 5

def openIn (q : Nat) : Line := rcd [(0, 1 + q * 256), (4, 4 * 256 + 2 * 65536 + 9 * 2^24)]
def openOut (q : Nat) : Line := rcd [(0, 1 + q * 256), (4, 1 + 2 * 256 + 2 * 65536 + 21 * 2^24), (8, 9)]
/-- Drover 1 with this at the head of row 2's request channel, this queue 3. -/
def dq (ch : List Token) (y : DQueue) (f : Drover → Drover := id) : State :=
  { base with
    melvor := { base.melvor with jobState := 1, objects := [(7, { base := 0x10000#48, bytes := 8192, valid := true }), (8, { base := 0x800000000000#48, bytes := 8192, valid := true })] }
    ports := [(0, { linkUp := true, perst := false, regions := [(0, ⟨0, 0x10000, false, true⟩)] })] }.modDrover 1 fun x =>
    f { x with chans := Sparse.set [] [] 32 (ch.map fun k => (0, k)), queues := Sparse.set {} [] 3 y, credits := [(17, 4), (18, 4)], room := [(4, 5)] }
def qi (l : List Xfer := []) : DQueue := { isOpen := true, rcd := openIn 3, reqLane := 4, xfers := l }
def qo (l : List Xfer := []) : DQueue := { isOpen := true, rcd := openOut 3, reqLane := 4, xfers := l }
def rq (r : Line) : Token := ⟨r, 0⟩
def xferR (bytes flags off : Nat) : Line := rcd [(0, 3 + 3 * 256 + 5 * 65536), (4, 7 + flags * 65536), (8, off), (16, bytes)]
def xfl (o : Nat) : Line := rcd [(0, o + 3 * 256 + 5 * 65536)]
def xf0 : Xfer := { id := 1, tag := 5, obj := 7, bytes := 8192, side := false }
def xfs : Xfer := { id := 5, tag := 6, obj := 7, bytes := 256, side := true }
def xfStaged : Xfer := { xf0 with staged := true }

/-- Every HBM controller ready, memory as given, drover 1 as `dq` makes it. -/
def ready (s : State) : State := { s with hbmCtl := (List.range 8).map fun i => (i, { ready := true }) }
def di (l : List Xfer) (f : Drover → Drover := id) : State := ready (dq [] (qi l) f)
def dOut (l : List Xfer) (f : Drover → Drover := id) : State := ready (dq [] (qo l) f)
def xdone : Xfer := { xf0 with id := 2, issued := 2, moved := 128, done := [(0, 64), (1, 64)] }
def xload : Xfer := { xf0 with id := 3, issued := 2, moved := 126, done := [(0, 64), (1, 64)], buf := [(126, 7), (127, 8)] }
def xbad : Xfer := { xload with bad := [1] }
def xfull : Xfer := { xf0 with id := 6, moved := 64, buf := (List.range 64).map fun i => (i, 9) }
def xwr : Xfer := { xf0 with id := 7, moved := 128, issued := 2, done := [(0, 64), (1, 64)] }
def xh0 : Xfer := { xf0 with id := 4, obj := 8 }
def xhost : Xfer := { xh0 with issued := 1, host := [⟨0, 0, 0, 64, false, true, 2, 0, 5⟩] }
def xtok : Xfer := { xf0 with moved := 1, buf := [(0, 3)] }
def xgate : Xfer := { xfs with issued := 1, moved := 4, done := [(0, 4)], gate := true }
def xgate3 : Xfer := { xfs with gate := true, moved := 3 }
def job0 : Job := ⟨0, 0, 1, false, 0, 0, 0, 0, 0, 0, 1, 0, 0, 1, false, []⟩
def withJob (s : State) : State := { s with melvor := { s.melvor with job := some job0 } }

def xw0 : Xfer := { xf0 with wait := 1, lidx := 3, step := 5, held := true }
def xstuck : Xfer := { xf0 with issued := 1 }
def dlrel (s : State) : State := s.modDrover 1 fun x => { x with lrel := [(3, 4#32)] }
def stopD (s : State) : State := s.modDrover 1 fun x => { x with stopped := true }
def faulted (s : State) : State := s.modDrover 1 fun x => { x with fault := some ⟨1,0,0,false,false,0⟩ }
def dropped (s : State) : State := s.modDrover 1 fun x => x.setQueue 3 { x.queue 3 with dropHost := [⟨0, 0, 0, 4, false, true, 2, 0, 5⟩, ⟨1, 0, 0, 4, false, true, 2, 0, 5⟩] }
def snapBusy : State := { base with snap := { base.snap with busy := true } }

/- Every controller ready; bytes at 0x1000; lines 0x41 poisoned and 0x42 bad; port 0 up, CXL.mem on; a journaled and a working object. -/
def bars : Sparse Word := [(4, 1), (6, 2), (8, 3)]
def hmem (f : State → State := id) : State := f { ready base with
  hbm := [(0x1000, 5), (0x1041, 7), (0x9FE0000000, 9)], poison := [(0x41, true), (0x27F7FFFFFF, true)], bad := [(0x42, 4)]
  melvor := { base.melvor with objects := [(1, { base := 0x1000#48, bytes := 0x200000, kind := 1, valid := true }), (2, { base := 0x400000#48, bytes := 4096, kind := 4, valid := true })] }
  sec := { base.sec with regions := [(0, { effBase := 5, effSize := 1, effSecure := true, effValid := true })], clearingUnits := [(7, 1)] }
  ports := [(0, { linkUp := true, perst := false, cxlMem := true, hdmCommitted := true, config := bars }), (1, { linkUp := true, perst := false, secure := true, config := bars })] }
def lr (q : Requester) (w : Bool) (a : Nat) (m : Nat := 2^64-1) : LineReq := ⟨q, BitVec.ofNat 48 a, w, BitVec.ofNat 64 m, 0x1234⟩
def pnd (l : List Access) (f : State → State := id) : State := hmem fun s => f { s with hbmCtl := (List.range 8).map fun i => (i, { ready := true, pend := l.filter fun z => decide ((hbmMap z.req.addr.toNat).1 = i) }) }
def acc (r : LineReq) (due : Option Nat := none) : Access := { req := r, due := due }
def drv (l : List Xfer) : State := { di l with hbmCtl := (pnd [{ req := lr (.drover 1) false 0x10000, due := some 5, q := 3, xid := 1, line := 0 }]).hbmCtl }
def fullS (s : State) : State := { s with rel := { s.rel with jstate := 1 }, melvor := { s.melvor with job := some job0 } }
def scrubS (f : State → State := id) : State := f { hmem with rel := { (hmem).rel with hbmScrubEn := true, tileScrubEn := true } }
def s5 : State := { (scrubS.setTile 5 { rel := { rewrite := some 100 } }) with power := { base.power with point := .noon } }

def tl (w : Bool) (off len be data : Nat) (ep : Bool := false) : Tlp := ⟨w, BitVec.ofNat 48 off, len, be, data, 3, ep, .plain⟩
def pf : PortFault := ⟨0, 0, 1, 9⟩
def wtile : Tile := (((base.tile 5).write32 0x100 99).getD {})
def mem0 (f : HostPort → HostPort := id) : State := hmem fun s => s.modPort 0 f

def cacheS : State := hmem fun s => s.modPort 0 fun h => { h with cxlCache := true, cache := [(5, some ⟨true, 77⟩), (6, some ⟨false, 78⟩)], held := [(1, true), (2, true)] }
def upS : State := hmem fun s => s.modPort 0 fun h => { h with perst := false, held := [(4,true)], places := [(1, {})], secure := true, msixEn := true, pba := 5 }
def rmS : State := upS.modPort 0 fun h => { h with removed := true }
def backS : State := { (hmem fun s => s.modPort 0 fun _ => { perst := true }) with boot := { stage := 4 } }
def back2 : State := { (hmem fun s => s.modPort 0 fun h => { h with perst := false, linkUp := false }) with boot := { stage := 3 } }
def back3 : State := { (hmem fun s => s.modPort 0 fun h => { h with perst := false, linkUp := true, d3hot := true, speed := 5, width := 8 }) with boot := { stage := 2 } }
def back4 : State := { (hmem fun s => s.modPort 0 fun h => { h with perst := false, linkUp := true, inFlr := true, speed := 5, width := 8 })  with melvor := { base.melvor with accepted := [] }}

/-- An enabled mailbox with rings of 64 entries. -/
def box0 : Mailbox := { enable := true, enabled := true, negotiated := true, version := 0x0203, cmdBaseLo := 1, cmdLog2n := 6, cplBaseLo := 2, cplLog2n := 6, expSeq := 1, cplSeq := 1 }
def boxS (b : Mailbox) (f : State → State := id) : State := f (hmem.setBox 0 b)
def entF (op : Nat) (l : List (Nat × Nat)) (seq : Nat := 1) : Line :=
  let v := ((((0, op) :: (4, 77) :: (56, seq) :: l).map fun x => x.2 * 256 ^ x.1).sum)
  BitVec.ofNat 512 (v + crc32c (toBytes v 60) * 2 ^ 480)
/-- Port 0's next command is `e`. -/
def taken (e : Line) (f : Melvor → Melvor := id) : State := boxS box0 fun s => { s with melvor := f { s.melvor with accepted := [{ port := 0, entry := e }], objects := [] } }
def offB : Mailbox := { box0 with enable := false, enabled := false }
def bellB : Mailbox := { box0 with cmdProd := 63 }
def nofw : State := boxS bellB fun s => { s with melvor := { s.melvor with fwReady := false }, boot := { s.boot with stage := 3 } }
def many : State := boxS bellB fun s => { s with melvor := { s.melvor with accepted := List.replicate 16 { port := 0, entry := 0 } } }
def stale : State := boxS { bellB with stale := true, refetches := 7 }
def notOwner : State := boxS bellB fun s => { s with melvor := { s.melvor with owner := 1 } }

def pgJob : Job := { job0 with groupTable := 0x8000, groups := 4 }
/-- A paused job. -/
def paused (e : Line) : State := taken e fun m => { m with jobState := 3, job := some pgJob, objects := [(9, { base := 0x600000, bytes := 4096, kind := 1, valid := true })], replace := [9] }
def placeE : Line := entF 0x54 [(8,9),(16, 0x601000),(24,4096),(32,1+256)]
def wr : Nat → Byte := fun _ => 0

def le (l : List (Nat × Nat)) : Nat := (l.map fun x => x.2 * 256 ^ x.1).sum
/-- A section-table entry: kind, tile, offset, size. -/
def secE (i kind tile off n : Nat) : Nat := le [(256 + 16 * i, kind), (258 + 16 * i, tile), (260 + 16 * i, off), (264 + 16 * i, n)]
/-- An image of one tile, 0, with flags `fl` and its partition fields: one paddock, one layer, an END word, one schedule entry. -/
def imageOf (fl idx cnt : Nat) : Nat :=
  le [(0, 0x4656524F), (4, 4), (6, fl), (8, 6), (16, 608), (25, 1), (26, 0xFFFF), (32, 100), (36, 1), (38, 1), (52, idx), (54, cnt)] +
  secE 0 2 0xFFFF 352 16 + secE 1 3 0xFFFF 368 8 + secE 2 0x10 0 376 4 + secE 3 0x11 0 384 16 + secE 4 0x12 0 400 176 + secE 5 0x14 0 576 32 +
  le [(354, 1), (355, 1), (376, 0x09000000), (576, 0xFFFFFFFF), (588, 0xFFFFFFFF)]
/-- The image with its digest field `h` (SHAKE256 of the image with that field 0). -/
def signedImg (v h : Nat) : Nat := v + h * 256 ^ 64
def img0 : Nat := signedImg (imageOf 0 0 1) 0x223de8a17d8a47b420896b5e58cf636eada9849ed58977c86d8c248f85da60c8cc3f5d88b655285a0f4e992e6d0c106531a6299c1775b14f68c30676fa3bf221
/-- The image in slot 1, and port 0's next command. -/
def withImg (img : Nat) (e : Line) (f : Melvor → Melvor := id) : State := { taken e (fun m => f { m with rowMapStale := false }) with hbm := writeBytes [] (slotBase 1) img 608 }
def pimg : Nat := signedImg (imageOf 2 0 2) 0x96baf817b5de71068954b368e3b82da6c4d1a1d0e1eaa0c317cc4a77a1111705418437aa23eac91b13e1f59b889382ef441dae1b46d72291cdf034bc64d1e4b0
def stageE : Line := entF 0x40 [(8,1)]
def actE : Line := entF 0x41 [(8,1)]
def pend : PendingAct := { port := 0, entry := actE, fold := foldOf pimg 1, image := pimg, dropped := 0 }
def pendS : State := withImg pimg actE fun m => { m with accepted := [{ port := 0, entry := actE, started := true }], pendingAct := some pend, loaderBusy := true }

/-- A job descriptor of one module, one group and one object; it starts at step 7. -/
def descV : Nat := le [(0, 99), (8, 7), (12, 1), (16, 1), (17, 10), (19, 20), (20, 5), (24, 0x8000), (32, 1), (40, 0xB000), (48, 1), (50, 1), (64, 0x600000), (72, 4096), (80, 1 + 256)]
def jobE : Line := entF 0x50 [(8, 0x5000), (16, 96)]
def startS (f : Melvor → Melvor := id) : State :=
  { taken jobE (fun m => f { m with fold := some (foldOf img0 1) }) with
    hbm := writeBytes (writeBytes (writeBytes [] 0x5000 descV 96) 0x8000 (0xA000 * 2 ^ 384) 64) 0xA000 (5 * 2 ^ 32 + 0xFFFFFFFF * 2 ^ 64) 12 }
def grp1 (s : State) : State := { s with grp := { s.grp with grouped := true, top := true, modules := 1, boundary := some 3 } }
def stj (op : Nat) (st : BitVec 3) (l : List (Nat × Nat) := []) : State :=
  grp1 (taken (entF op l) fun m => { m with jobState := st, job := some pgJob, step := 9, fold := some (foldOf img0 1), activatedSinceFault := false })

def link0 : LinkPort := { up := true, version := 3, ackSeq := 5, nextFseq := 4, routed := true, peerValid := true, peerBoard := 1 }
def lk (l : LinkPort) (f : State → State := id) : State := f (hmem.setLink 4 l)
/-- A whole flit with its CRC. -/
def flit (fseq ackseq : BitVec 12) (ackv : Bool) (ftype : Nat) (sids : List Nat) (d : List Line) (tags : List Byte := []) : Flit :=
  let h := flitHeader fseq ackseq ackv false ftype sids
  ⟨false, 3, h, d, flitCrc h d, tags⟩
def fl : Flit := flit 6 0 false 1 [] [0x02, 0, 0, 0]
def sf (n : Nat) : SentFlit := ⟨BitVec.ofNat 12 n, true, [], [], []⟩
def fData : Flit := flit 6 0 false 0 [1] [99, 0, 0, 0] [8]
def fAck : Flit := flit 6 2 true 2 [] [0, 0, 0, 0]
/-- Rank 9, whose port 4 leads to rank 8; with a cut stream from there. -/
def two (g : Group) : Group := { g with board := 1, slot := 1, member := 1, modules := 2, b := 2, q := 1, ranks := [8, 9], graph := [⟨9, 4, 8, 0, 3⟩], cuts := [⟨8, 9, 1, 2⟩] }
def cutS (f : State → State := id) : State :=
  lk link0 fun s => f ({ s with grp := two s.grp }.modDrover 3 fun x => { x with cuts := [⟨2, 0, 0, true, 5, 0, 7, []⟩] })
def cut0 : CutQ := ⟨2, 0, 0, true, 5, 0, 7, []⟩

def jobD : Job := jobOf descV 96 false
/-- A JOB_START of `jobD` waits for its group. -/
def form (l : List (Nat × Nat)) (j : Job := jobD) (f : State → State := id) : State :=
  f { startS (fun m => { m with starting := some j, accepted := [{ port := 0, entry := jobE, started := true }] }) with grp := { hmem.grp with board := 2, slot := 3, joined := l, key := 77 }, links := [(0, { up := true, version := 3, peerValid := true, peerSlot := 4, peerBoard := 2, peerPort := 6 })] }
def fr : Frame := ⟨2, 1, 9, 0, 0, 3, 1, 0xFF, 2100, false, [0x105, 6, 0x80], [0, 1]⟩
def con (src : Nat) (w : Nat) : Contrib := ⟨0, 9, 1, 0, 0, src, 3, 70, (List.range 3).map fun i => A44.toBits { v := w + i }⟩
/-- A grouped module at step 9. -/
def exS (g : Group → Group := id) (f : State → State := id) : State :=
  f { hmem with melvor := { hmem.melvor with jobState := 1, step := 9, job := some jobD, objects := [(1, { base := 0x600000, bytes := 4096, kind := 3, valid := true }), (2, { base := 0x400000, bytes := 8192, kind := 4, valid := true })] }, links := [(4, link0)], grp := g { hmem.grp with grouped := true, member := 1, modules := 4, b := 2, q := 2, ranks := [8, 9, 10, 11], board := 1, slot := 1, graph := [⟨9, 4, 8, 0, 3⟩, ⟨9, 5, 10, 0, 3⟩, ⟨9, 6, 11, 0, 3⟩, ⟨8, 1, 10, 1, 3⟩, ⟨8, 2, 11, 2, 3⟩, ⟨10, 3, 11, 3, 3⟩] } }
def cmbF : Frame :=
  let b := toB16 3 (combineWords ([con 2 5, con 3 (2^40)].map fun x => x.words.map A44.ofBits) (List.replicate 3 {}))
  { obj := 1, frame := 0, step := 9, micro := 0, lidx := 0, eg := 3, dfmt := 0, rx := 0, nelem := 70, layerEnd := false
    elems := b.flatMap fun b => (b.elems.map fun e => BitVec.ofNat 16 (toSignMag 16 e.1))
    scales := b.map fun b => BitVec.ofNat 8 (unsigned 8 b.e) }
def jobD2 : Job := { jobD with modules := 2 }
def jobD3 : Job := { jobD with modules := 3 }
def noLinks (s : State) : State := { s with links := [] }

def pw (f : Power → Power) (g : State → State := id) : State := g { hmem with power := f hmem.power }
def isl (i : Island) (f : Power → Power := id) : State := (pw f).setTile 5 { island := i }
def night : Power → Power := fun p => { p with point := .night }
def irqS (f : State → State := id) : State := f ({ hmem with ports := [(0, { linkUp := true, perst := false, msixEn := true, pba := 0xFF })] }.setIrqGrp 6 { pend := 0x11, enable := 0x01, holdoff := 3 })
def srv (s : State) : State := { s with irq := { s.irq with insvc := [(0, some 6), (2, some 6)] } }
def mskd (s : State) : State := { s with ports := [(0, { linkUp := true, perst := false, msixEn := true, msix := [(6, { mask := true })] })] }
def dies (h : Nat) : List (BitVec 8 × Bool) := (List.range 64).map fun i => (BitVec.ofNat 8 (if i = 5 then h else 40), true)
def hbmT (h : Nat) : List (BitVec 8) := (List.range 8).map fun i => BitVec.ofNat 8 (if i = 5 then h else 40)
def jrS (f : State → State := id) : State := f { hmem with melvor := { hmem.melvor with job := some jobD, objects := [(1, { base := 0x1000#48, bytes := 0x2000, kind := 1, valid := true }), (3, { base := 0x10000#48, bytes := 0x4000, kind := 0x0C, valid := true })] } , poison := [], bad := []}
def snapS (f : Snapshot → Snapshot) (st : BitVec 3 := 3) : State := jrS fun s => { s with snap := f { s.snap with tregion := 2 }, melvor := { s.melvor with jobState := st, step := 9 }, ports := [(0, { regions := [(2, ⟨0, 0x100000, false, true⟩)] })] }
def snapObj : List (Nat × ObjEntry) := [(1, { base := 0x1000#48, bytes := 0x2000, kind := 1, valid := true })]
def snapRun (f : Snapshot → Snapshot) : State := snapS fun x => f { x with busy := true, objs := snapObj, curStep := 8 }

/-- Port 0's request window holds ACTION `c` and the bytes given. -/
def secW (c : Nat) (l : List (Nat × Byte) := []) (f : State → State := id) : State :=
  f { hmem with sec := { hmem.sec with ports := [(0, { window := (0, BitVec.ofNat 8 c) :: l, nonce := 5 })], meas := [(2, 7)] } }
def keyed (s : State) : State := { s with flash := { s.flash with operatorKey := some [1, 2] } }
def secBusy (s : State) : State := s.modSecPort 0 fun x => { x with busy := true }
/-- The region table with entry 3 of units 5 and 6, secure and in effect or not. -/
def regS (x : RegionEntry) (f : State → State := id) : State :=
  f { hmem with hbm := [(0x1000, 5), (0xA00000, 6), (0x9FE0000000, 9)], poison := [(0x28000, true)], bad := [(0x28001, 4), (5, 4)], sec := { hmem.sec with clearingUnits := [], regions := [(3, x), (7, { base := 20, size := 2, valid := true, effBase := 20, effSize := 2, effValid := true })] } }
def regEnt : RegionEntry := { base := 5, size := 2, effBase := 5, effSize := 2, valid := true, effValid := true }
def entS : RegionEntry := { regEnt with secure := true, effSecure := true }
def clr (s : State) : State := { s with sec := { s.sec with clearing := true, clearingUnits := [(5, 2)], clearingEntry := some 3 } }
def clrK (s : State) : State := { keyed s with sec := { s.sec with clearing := true, clearingUnits := [(0, userUnits)], clearKey := [0], ports := [(0, { busy := true })] }, tiles := [(5, { wmem := [(1, 1)] })] }
def sp (y : Spdm) (f : State → State := id) : State := f { hmem with boot := { hmem.boot with portsReady := true }, sec := { hmem.sec with spdm := [(0, y), (2, y)], meas := [(2, 7)] } }

/-- The module in service with this boot state, and things that a reset clears. -/
def bt (b : Boot) (f : State → State := id) : State :=
  f { exS with boot := b, tiles := [(5, { wmem := [(1, 1)], router := { stretchCnt := 4 } })], drovers := [(3, { timeoutUs := 1 })], waiting := [⟨.fwReady, false, false⟩], smbPtr := 5, power := { hmem.power with point := .noon }, flash := { hmem.flash with minSvn := 5 } }
def rom : Boot := { stage := 1 }
def flS (x : FlashIf) (f : Flash → Flash := id) : State := { hmem with flashIf := x, flash := f { hmem.flash with minSvn := 3, slotA := [(0, [4])], slotB := [(0, [5])] } }

def txq : DQueue := { isOpen := true, rcd := rcd [(4, 2 + 2 * 65536 + 21 * 2^24), (12, 1)], final := 10 }
def agS (g : Group → Group := id) (f : State → State := id) : State := f ((exS g).modDrover 1 fun x => x.setQueue 3 txq)
def agP (g : Group → Group) : State := agS g fun s => { s with melvor := { s.melvor with jobState := 2 } }
def fzS (st : BitVec 3) (g : Group → Group := id) : State := exS g fun s => (s.setTile 5 { inFold := true, core := { state := 1 } }).withMelvor fun m => { m with jobState := st, fold := some (foldOf img0 1) }
def fold2 : Fold := ⟨0, false, true, 0, 0x10000#32, 0, 1, 2, 0, 384, [], [], [5]⟩
def partS : State := { fzS 0 with melvor := { (fzS 0).melvor with fold := some fold2 } }

def snd (w : Nat) (f : Tile → Tile := id) : State := running w fun x => f { x with core := { x.core with first := issueRec (op 1 9 1 0) } }
def nowait (w : Nat) : State := running w fun x => { x with core := { x.core with first := issueRec (op 0x18 0 0 0) } }
def lateS (w : Nat) : State := snd w fun x => { x with core := { x.core with late := [(1, 2)] } }
def at8191 (w : Nat) : State := base.setTile 5 { core := { state := 1, imem := [(8191, BitVec.ofNat 32 w)], pc := 8191#13 } }
def flawS (w : Nat) (l : Sparse Nat) : State := running w fun x => { mem x with flaws := l }
def issue2 : Issue := ⟨5, true, .ok⟩
def issueUe : Issue := ⟨5, false, .ue⟩
def issueCe : Issue := ⟨5, false, .ce⟩

def xfer8 : Line := rcd [(0, 3 + 3 * 256 + 5 * 65536), (4, 8), (16, 8192)]
def secP (s : State) : State := s.setPort 0 { s.port 0 with secure := true }
def npS (s : State) : State := s.modDrover 2 fun x => x.setQueue 3 (qi [{ xf0 with host := List.replicate 512 ⟨0, 0, 0, 1, false, true, 2, 0, 5⟩ }])

def mrec (m n k order gm out conv : Nat) (pass : Nat := 1) : Line := rcd [(0,1),(8, m + n*65536),(12, k + pass*2^16 + order*2^18 + gm*2^19 + out*2^22),(16,0x1000+2^24+2^20),(20,1),(28,0x2000+2^24+2^20),(32,1),(40, if out = 1 then 0x80000 else if out = 0 then 0x80000 else 0),(44,if out=2 then 0 else 8),(48, if out = 0 then 0x90000 else 0),(52,conv)]
def mrun (m n k order gm out conv : Nat) (pos : Nat) (pass : Nat := 1) : MxeRun := { cmd := cmd (mrec m n k order gm out conv pass), started := true, m := m, n := n, k := k, pos := pos }
def mtile (r : MxeRun) (f : Tile → Tile := id) : State := running 0 fun x => f (mx (fun y => {y with run := some r}) { (ops x) with decl := { spillBase := 0xA0000, spillBytes := 0x20000 }, wmem := (ops x).wmem ++ [(0x7000, 4#8), (0x7001, 0x83#8), (0xA0010, 7#8), (0xA8008, 3#8)], amem := [(1, 9#48), (20481, 5#48), (20480+64*5, 77#48)] })
def latch3 : List (List (Option Int) × Int) := (List.range 128).map fun i => ((List.range 32).map fun j => if (i + j) % 31 = 0 then none else some (i - j : Int), (i % 5 : Int))
def rPair (pos : Nat) : MxeRun := { cmd := cmd dR, partner := some (cmd gR), started := true, m := 1, n := 64, k := 32, pos := pos, latch := latch3, latchG := latch3 }
def vrec (l : List (Nat × Nat)) : Line := rcd ([(0,1),(8, 2 + 64*65536), (12, 0x1000 + 2^24 + 2^20), (16, 1), (24, 0x2000 + 2^24 + 2^20), (28, 1)] ++ l)
def vrun (l : List (Nat × Nat)) (op : Nat) (pos : Nat := 0) (cols : Nat := 64) : State := running 0 fun x => vx (fun y => { y with run := some { cmd := cmd (vrec l), started := true, rows := 2, cols := cols, aux := rcd [(0, op)], pos := pos, red := 5 }, regs := [(64*3, ⟨7, false⟩), (64*2+1, ⟨0x80000000#32, true⟩)] }) (ops x)
def urec (l : List (Nat × Nat)) : Line := rcd ([(8, 128), (16, 0x3000 + 2^20 + 2^24), (20, 0x8000), (24, 0x1000 + 2^20 + 2^24), (28, 0x8100), (48,0x4000),(52,1),(56,0x5000)] ++ l)
def urun (l : List (Nat × Nat)) (prog : List (BitVec 16)) (pos : Nat := 0) (aux : Line := 0) (j : Bool := true) : State :=
  running 0 fun x => up (fun y => { y with run := some { cmd := cmd (urec l), started := true, prog := prog, pos := pos, aux := aux, gsr := rcd [(4, 3), (8, 100), (16, 7)] } }) { (ops x) with decl := if j then { jobRec := 0x6000 } else {} }

def hb (op : Nat) : Line := entF op [(8,0x800000000000),(16,64)]
def ringE : Line := entF 0x30 [(8,0x1000),(16,0x1000)]
def plE : Line := entF 0x54 [(8,9),(16, 0x601000),(24,4096),(32,7+256)]
def o5 : ObjEntry := { base := 0x800000000000, bytes := 4096, kind := 5, valid := true }
def plS : State := taken plE fun m => { m with jobState := 3, job := some pgJob, objects := [(8, o5), (9, { base := 0x600000, bytes := 4096, kind := 7, valid := true })], replace := [9] }

def stj4 : State := let s := stj 0x52 4; { s with melvor := { s.melvor with activatedSinceFault := true }, rel := { s.rel with jstate := 1, jhead := { loss := { lse := 3 } } } }

def ste (st : BitVec 3) : State := let s := agS (fun g => {g with doneSent := true, agreed := true}); { s with melvor := { s.melvor with step := 0xFFFFFFFE#32, jobState := st } }
def agS5 : State := let s := agS (fun g => {g with doneSent := true, agreed := true, boundary := some 9}); { s with melvor := { s.melvor with jobState := 5 } }
def rly : State := fzS 0 (fun g => { g with relays := true })
def rlyT : State := fzS 0 (fun g => { g with relays := true, top := true })
def fzN : State := let s := fzS 1; { s with power := { s.power with point := .night, nightReq := true } }

end Sys2Proof.Tests
end

