-- ==== Sys2Proof/WellFormed.lean ====
section
/-! DEFINITION. Well-formed commands: what the operands of a command must satisfy beyond their types. A tile ID names a
column of the larger grade (R11), a line address is a multiple of 64 below 640 GiB (R13, R229), a page is 4 KiB of HBM
(R275), a BAR offset lies in its BAR (R16), a list of sensors has the length of Table 15.8. `exec` is total and does not
test this: it is the contract of whoever puts commands into the queue. -/

namespace Sys2Proof

/-- The column field is below 70, the larger grade's column count (R11). -/
def tileWf (t : TileId) : Bool := decide (t.toNat % 128 < 70)

/-- A line of HBM: a multiple of 64 below 640 GiB. -/
def lineWf (a : Addr) : Bool := decide (a.toNat % 64 = 0) && decide (a.toNat < 640 * 2 ^ 30)

/-- A 4 KiB page of HBM. -/
def pageWf (p : Nat) : Bool := decide (p < 640 * 2 ^ 18)

/-- A request of 1 to 4096 bytes inside a BAR of `size` bytes, with data and byte enables for its bytes. -/
def tlpWf (size : Nat) (r : Tlp) : Bool :=
  decide (0 < r.len) && decide (r.len ≤ 4096) && decide (r.off.toNat + r.len ≤ size) && decide (r.data < 256 ^ r.len) &&
  decide (r.be < 2 ^ r.len)

/-- Four lines of payload, and a TAG for each of the four slots (Table 14.1). -/
def flitWf (x : Flit) : Bool := decide (x.payload.length = 4) && decide (x.tags.length = 4)

/-- A fold link of a group: ports below 12, ranks below 4096, a version of HELLO (R307, R309). -/
def glinkWf (l : GLink) : Bool :=
  decide (l.a < 4096) && decide (l.b < 4096) && decide (l.ap < 12) && decide (l.bp < 12) && decide (1 ≤ l.ver) &&
    decide (l.ver ≤ 3)

/-- A frame's element codes and scales are those of at most 2,048 elements (R314). -/
def frameWf (x : Frame) : Bool := decide (x.elems.length ≤ 2048) && decide (x.scales.length ≤ 64)

/-- The well-formedness of a command. -/
def Instr.wf : Instr → Bool
  | .slot t _ _ | .entryAdvance t | .tokenArrival t _ _ | .noProgress t | .meshWdLimit _ t _ | .clrStall _ t | .clrCe _ t
  | .droopDetect t _ | .stretchStageEnd t _ | .sendUnblock t _ | .recvUnblock t _ | .enqUnblock t _ | .waiteRetire t
  | .summUnblock t | .tilePartComplete t | .clrCnt _ t | .depWaitEnd t _ _ _ | .engineComplete t _ | .matmul t | .accFlush t
  | .accDrop t | .pairPartnerTake t | .mxeRowBlock t _ _ | .slotWaitEnd t | .vmap t | .vstep t | .setvl t | .tload t
  | .vxeVector t _ _ | .ublk t | .upart t | .uapply t | .urows t | .upeUnit t _ | .tileScrubRewrite t
  | .activityWindowEnd t _ => tileWf t
  | .tileScrubRead t acc w _ => tileWf t && (if acc then decide (w < 24576) else decide (w < 16384))
  | .alu i | .addi i | .andi i | .ori i | .xori i | .slli i | .srli i | .srai i | .lui i | .cmp i | .cmpi i | .plog i
  | .ld i _ | .st i | .lda i _ | .sta i | .br i | .jr i | .brl i | .send i _ | .recv i _ | .enq i _ | .waite i | .summ i
  | .endOp i | .trap i | .unlistedOpWord i => tileWf i.tile
  | .hbmLineAccess _ l _ => l.all fun r => lineWf r.addr
  | .hbmScrubRead _ a _ => lineWf a
  | .memRd _ _ a _ _ | .memWr _ a _ _ _ => lineWf a
  | .bar0Access _ r => tlpWf (64 * 2 ^ 20) r
  | .bar2Access _ r => tlpWf (2 ^ 40) r
  | .bar4Access _ r _ => tlpWf (8 * 2 ^ 30) r
  | .pageFlip _ p wb => pageWf p && wb.all fun x => decide (x.1 < 64)
  | .journalCopy p => decide (p < 2 ^ 36)
  | .hostSnoop _ a _ => decide (a % 64 = 0) && decide (a < 2 ^ 46)
  | .flitReceive _ x => flitWf x
  | .groupFormed l _ => l.all glinkWf
  | .reduceFrame _ _ _ x | .gatherFrame _ _ x _ => frameWf x
  | .thermalEval d h => decide (d.length = 64) && decide (h.length = 8)
  | .restore _ hdr _ => decide (hdr.length = 4096)
  | .mctp m => decide (m.length ≤ 255)
  | .registerWrite _ a n _ => decide (0 < n) && decide (n ≤ 8) && decide (a.toNat + n ≤ 2 ^ 48)
  | .jobStart _ d _ => decide (d.length ≤ 131136)
  | .jobResume _ found _ => found.all fun x => decide (x.1.toNat % 64 = 0) && decide (x.2 < 2 ^ 72)
  | .faultTreeReport _ | .foldFreeze | .tileMaintWrite _ _ _ | .openReq _ _ _ _ _ | .closeReq _ _ _ _
  | .xferReq _ _ _ _ | .goReq _ _ _ _ | .cancelReq _ _ _ _ | .dataTokenTake _ _ _ _ _ _ | .baleIssue _ _
  | .baleDeliver _ _ _ | .baleWrite _ _ _ | .xferComplete _ _ | .sideGateIssue _ _ | .releaseHoldEnd _ _
  | .deadlineMiss _ _ | .timeout _ _ _ _ | .droverClrCnt _ _ | .clrErr _ _ | .clrTraffic _ _ | .portClrCnt _ _
  | .clrFault _ _ | .perstAssert _ | .dlDownTimeout _ | .d3hotEntry _ | .flr _ | .perstDeassert _ _
  | .dlActiveReturn _ _ _ | .d0Entry _ | .flrComplete _ | .enable _ _ _ _ | .disable _ _ | .cmdDoorbell _ _ _
  | .cplDoorbell _ _ _ | .entryFetch _ _ _ _ | .refetch _ _ _ | .mailboxClrCnt _ _ | .hello _ | .nop _ | .claim _
  | .release _ | .handover _ | .handoverGrant _ | .handoverExpiry | .status _ | .counters _ _ | .faultReport _ _
  | .regionAdd _ | .regionDel _ | .pwinSet _ | .imageStage _ | .imageActivate _ | .partitionStart _ _ | .jobPause _
   | .jobStop _ | .place _ | .group _ | .replayTimeout _ | .ackTimer _ | .fecLockLoss _ _
  | .retrain _ _ | .retrainEnd _ _ _ | .holdDown _ _ _ | .linkHello _ _ _ _ _ | .credit _ _ _ | .join _ _ _ _ _ _
  | .joinTimeout | .combine _ _ _ _ _ | .exchTimeout
  | .agreeUpSend | .agreeUp _ _ _ _ | .agreeDown _ _ _ | .doneSend | .doneMsg _ _ | .commit _ _ | .freeze _ _ _ _
  | .control _ _ _ _ | .foldPortClrCnt _ _ | .groupClrCnt _ | .phaseWindow _ | .pointChangeStart | .slewEnd
  | .relockEnd | .droopWaitEnd | .powerEval | .inputSample _ _ | .calibration | .nightEntry | .nightReq _ _
  | .nightIdleExpiry | .powerClrCnt _ | .messageSend _ | .holdoffExpiry _ | .eoi _ _ | .setSrc _ _ _ _ | .pend _ _ _
  | .route _ _ _ _ | .msixUnmask _ _ | .irqClrCnt _ | .lockstepMismatch | .snapshotComplete | .snapStart _ | .abort _
  | .reliabilityClrCnt _ | .snapshotClrCnt _ | .auth _ _ | .drop _ _ | .enroll _ _ | .replace _ _ | .clearKey _ _
  | .svnCommit _ _ | .securityClrCnt _ | .regionTableWrite _ _ _ _ | .clearingEnd | .tileMapWrite _ _ _
  | .getVersion _ | .getCapabilities _ | .negotiateAlgorithms _ _ _ | .getDigests _ | .getCertificate _ _ _ _
  | .challenge _ _ _ | .getMeasurements _ _ _ | .inputInRange | .powerGood | .romExit _ | .initEnd | .fwReady
  | .resetAssert | .rstReq _ _ | .tripClr _ | .enLow | .inputOutOfRange _ | .powerStageOff | .smbSetPointer _ _
  | .smbReadRegister | .smbWriteRegister _ _ | .alertResponse | .bypass | .idcode | .samplePreload | .extest
  | .extestPulse | .extestTrain | .clamp | .highz | .erase _ _ | .program _ | .verify _ | .flashComplete _
  | .holderTimeout | .configurationRequest _ _ _ _ | .hostCompletion _ _ _ _ | .resetRelease => true

end Sys2Proof
end

