-- ==== Sys2Proof/Tests/Slice0.lean ====
section
/-! SUPPORT. Tests. First the worked examples of the spec, whose expected values are the spec's own, and one ill-formed term
for each check of well-formedness. Then the witnesses: `wit_<name>` takes the statement `Obligations.<name>` as its premise and
applies it to concrete states and operands, every hypothesis of the clause proved by evaluation; the commands named in its
conclusion are those that the clause makes complete there. -/

open Sys2Proof Sys2Proof.Machine

set_option Elab.async false

namespace Sys2Proof.Tests

/-! ## Examples of the spec -/

/-- Spec 04, the example of R90 and R91: three contributions, the second clamped, the third with an NV product. -/
theorem test_a44_example :
    ((((⟨0, false, false⟩ : A44).add (A44.align (-123457) false 2)).add (A44.align 1200 false 33)).add
      (A44.align 9001 true 0)).toBits = 0x37FFFFF89A24#48 := by decide

/-- Spec 04, the example of R95: four A44 values at EACC = −12 into a B8 block: E = 1, bytes 7A 03 82 00. -/
theorem test_convert_example :
    let vals : List SrcVal := [⟨some 1000000, false⟩, ⟨some 24576, false⟩, ⟨some (-12288), false⟩, ⟨some 4096, false⟩]
    blockE (Fmt.q .b8) (-12) vals = 1 ∧ (convBlock .b8 1 (-12) [] vals).data = 0x0082037A := by decide

/-- Spec 07, the example of TAB0: a = 389 reads segment 152 at offset 5 and gives 319. -/
theorem test_table_example :
    (Vxe.table { xlo := BitVec.ofInt 32 (-2048), ssh := 4, sls0 := 12, base0 := [(152, 314)], slope0 := [(152, 4265)] }
      false ⟨some 389, false⟩).v = some 319 := by decide

/-- Spec 10, the example of R231: the first granules of two bales. -/
theorem test_hbm_map_example :
    hbmMap 0x402000 = (0, 0, 0x2000) ∧ hbmMap 0x402F00 = (7, 1, 0x2000) ∧ hbmMap 0x422000 = (1, 0, 0x2100) ∧
      hbmMap 0x422100 = (0, 0, 0x2100) := by decide

/-- Spec 14, the example of R316: frame 5,000 of an object of 21,233,664 elements belongs to member 5. -/
theorem test_owner_example :
    framesOf 21233664 = 10368 ∧ (({ b := 4, q := 2 } : Group).owner 21233664 5000) = 5 := by decide

/-- Spec 00, the example of R11 and R14: row 37, logical column 53 is tile 0x12B5, whose window begins where R14 says. -/
theorem test_window_example : idOf 37 53 = 0x12B5 ∧ tileBase + 0x12B5 * 0x200000 = 0x400256A00000 := by decide

/-- R280 names CRC-32C; its published check value is that of the nine digits. -/
theorem test_crc32c_check : crc32c [0x31, 0x32, 0x33, 0x34, 0x35, 0x36, 0x37, 0x38, 0x39] = 0xE3069283 := by decide +kernel

/-! ## Well-formedness: a term that each check refuses -/

theorem test_wf_tile : Instr.wf (.noProgress 70) = false ∧ Instr.wf (.noProgress 69) = true := by decide
theorem test_wf_word : Instr.wf (.addi ⟨127, false, .ok⟩) = false := by decide
theorem test_wf_scrub_word : Instr.wf (.tileScrubRead 0 false 16384 .ok) = false := by decide
theorem test_wf_scrub_acc : Instr.wf (.tileScrubRead 0 true 24576 .ok) = false := by decide
theorem test_wf_line : Instr.wf (.hbmScrubRead 0 1 0) = false := by decide
theorem test_wf_bar : Instr.wf (.bar0Access 0 ⟨false, 0x4000000, 4, 15, 0, 0, false, .plain⟩) = false := by decide
theorem test_wf_bar_length : Instr.wf (.bar2Access 0 ⟨false, 0, 0, 0, 0, 0, false, .plain⟩) = false := by decide
theorem test_wf_page : Instr.wf (.pageFlip 0 0xA000000 []) = false := by decide
theorem test_wf_snoop : Instr.wf (.hostSnoop 0 32 .data) = false := by decide
theorem test_wf_sensors : Instr.wf (.thermalEval [] []) = false := by decide
theorem test_wf_header : Instr.wf (.restore .melvor [] false) = false := by decide
theorem test_wf_access : Instr.wf (.registerWrite .melvor 0 0 0) = false := by decide
theorem test_wf_mctp : Instr.wf (.mctp (List.replicate 256 0)) = false := by decide +kernel
theorem test_wf_line_access : Instr.wf (.hbmLineAccess 0 [⟨.melvor, 1, false, 0, 0⟩] 0) = false := by decide
theorem test_wf_flit : Instr.wf (.flitReceive 0 ⟨false, 0, 0, [0, 0, 0], 0, [0, 0, 0, 0]⟩) = false ∧
    Instr.wf (.flitReceive 0 ⟨false, 0, 0, [0, 0, 0, 0], 0, [0, 0, 0, 0]⟩) = true := by decide
theorem test_wf_link : Instr.wf (.groupFormed [⟨0, 12, 1, 0, 3⟩] []) = false := by decide
theorem test_wf_frame : Instr.wf (.gatherFrame 0 0 ⟨0, 0, 0, 0, 0, 0, 1, 0, 0, false, [], List.replicate 65 0⟩ .ok) = false := by decide
theorem test_wf_journal_page : Instr.wf (.journalCopy (2 ^ 36)) = false := by decide
theorem test_wf_descriptor : Instr.wf (.jobStart 0 (List.replicate 131137 0) false) = false := by
  rw [Instr.wf, List.length_replicate]; decide

/-! ## Witnesses with a proof of their own -/

theorem wit_FixedRegisters (h : Obligations.RegisterAndPredicateWords) :
    (({} : TileCore).setG 31 5).g 31 = 5 ∧ (({} : TileCore).setP 7 true).p 7 = true ∧
      (({} : TileCore).setG 0 5).g 0 = 0 ∧ (({} : TileCore).setP 0 false).p 0 = true := by
  have c := h.2.2 {} 1 1 5 false
  refine ⟨?_, ?_, ?_, ?_⟩
  · rw [(h.2.2 {} 31 31 5 true).2.2.2.2.1 (by decide), if_pos rfl]
  · rw [(h.2.2 {} 7 7 5 true).2.2.2.2.2 (by decide) (by decide) (by decide), if_pos rfl]
  · rw [c.2.2.1]; exact c.1
  · rw [c.2.2.2.1]; exact c.2.1

/-- The entry completed is the last of its ring (CMD_PROD = 63), and the completion sequence number wraps. -/
theorem wit_CompletionEntry (h : Obligations.MailboxRings) :
    let s := boxS { box0 with cplProd := 63, cplSeq := 0xFFFFFFFF }
    let e := entF 0x51 []
    ((complete s 0 e 65535 0xFFFFFFFF 7).box 0).cplProd = 0 ∧ ((complete s 0 e 65535 0xFFFFFFFF 7).box 0).cplSeq = 0 :=
  let r := (h.2 (boxS { box0 with cplProd := 63, cplSeq := 0xFFFFFFFF }) 0 (entF 0x51 []) 65535 0xFFFFFFFF 7
    (by decide +kernel) (by decide +kernel)).1 (by decide +kernel) (by decide +kernel) (by decide +kernel) (by decide)
      (by decide)
  ⟨r.2.1.trans (by decide +kernel), r.2.2.1.trans (by decide +kernel)⟩

/-- A mailbox that is not enabled drops the completion, and so does one disabled since the command was accepted. -/
theorem wit_CompletionEntry_dropped (h : Obligations.MailboxRings) :
    ((complete (boxS offB) 0 (entF 0x51 []) 0 0 0).box 0).cplDropCnt = 1 ∧
    ((complete (taken 5 fun m => { m with accepted := [{ port := 0, entry := 5, dead := true }] }) 0 5 0 0 0).box 0).cplDropCnt
      = 1 :=
  ⟨((h.2 (boxS offB) 0 (entF 0x51 []) 0 0 0 (by decide +kernel) (by decide +kernel)).2 (by decide +kernel)).2.trans
      (by decide +kernel),
   ((h.2 (taken 5 fun m => { m with accepted := [{ port := 0, entry := 5, dead := true }] }) 0 5 0 0 0 (by decide +kernel)
      (by decide +kernel)).2 (.inr (.inr ⟨_, List.mem_singleton.2 rfl, rfl, rfl, rfl⟩))).2.trans (by decide +kernel)⟩

/-- Every border of Table 10.2 and of the secure region and the units being cleared of `hmem`. -/
theorem wit_LineReach (h : Obligations.LineReach) :
    hmem.reach (.host 0) true 0xA00000 = .world ∧ hmem.reach .melvor false 0xE00000 = .world ∧
      hmem.reach (.drover 3) true 0x9FBFFFFFFF = .ok ∧ hmem.reach .melvor true 0x9FC0000000 = .ok ∧
      hmem.reach (.host 0) true 0x9FDFFFFFFF ≠ .ok ∧ hmem.reach (.drover 3) true 0x9FE0000000 ≠ .ok ∧
      hmem.reach .melvor false 0xA000000000 = .fault := by
  refine ⟨(h hmem (.host 0) true 0xA00000).1 (by decide +kernel) (by decide +kernel) (by decide +kernel),
    (h hmem .melvor false 0xE00000).2.1 (by decide +kernel) (by decide +kernel),
    (h hmem (.drover 3) true 0x9FBFFFFFFF).2.2.1 (by decide +kernel) (by decide +kernel) (by decide +kernel),
    ((h hmem .melvor true 0x9FC0000000).2.2.2.1 (by decide +kernel) (by decide +kernel)).2 rfl, ?_, ?_,
    (h hmem .melvor false 0xA000000000).2.2.2.2.2 (by decide +kernel)⟩
  · intro c
    have := ((h hmem (.host 0) true 0x9FDFFFFFFF).2.2.2.1 (by decide +kernel) (by decide +kernel)).1 c
    exact absurd this (by decide)
  · intro c
    rcases (h hmem (.drover 3) true 0x9FE0000000).2.2.2.2.1 (by decide +kernel) (by decide +kernel) c with ⟨p, e⟩ | ⟨e, _⟩
    · exact absurd e (by simp)
    · exact absurd e (by simp)

/-- P_est above PCAP = 0 whatever the opaque powers are: the array's own activity exceeds it. -/
theorem high_of_activity (s : State) (hp : s.power.pcap = 0)
    (hn : 0 < s.power.calGain.toNat * actNum s.power s.power.units10 * 1000) :
    s.estNum > s.power.pcap.toNat * 1000 * estDen := by
  rw [hp]
  exact Nat.lt_of_lt_of_le (by simpa using hn) (Nat.le_add_right _ _)

theorem wit_CapAndActivity_above (h : Obligations.CapAndActivity) :
    (∃ u, exec .powerEval (pw fun p => { p with pcap := 0, point := .noon, units10 := 10 ^ 14 }) = .next u) ∧
    (∃ u, exec .powerEval (pw fun p => { p with pcap := 0, units10 := 10 ^ 14, actCeil := 17000 }) = .next u) :=
  ⟨((((h.1 (pw fun p => { p with pcap := 0, point := .noon, units10 := 10 ^ 14 })).1 (by decide +kernel)).1
      (high_of_activity _ (by decide +kernel) (by decide +kernel)) (by decide +kernel) (by decide +kernel)).elim
        fun _ q => ⟨_, q.1.1⟩),
   ((((h.1 (pw fun p => { p with pcap := 0, units10 := 10 ^ 14, actCeil := 17000 })).1 (by decide +kernel)).2.1
      (high_of_activity _ (by decide +kernel) (by decide +kernel)) (by decide +kernel)).elim fun _ q => ⟨_, q.1.1⟩)⟩

/-- With all the opaque powers 0: P_est is the array's activity alone. -/
theorem est_of_base (s : State) (hb : s.baseMw = 0) :
    s.estNum = s.power.calGain.toNat * actNum s.power s.power.units10 * 1000 := by
  simp [State.estNum, hb]

/-- The premise says that the opaque powers of leakage, HBM, SerDes and management are 0. -/
theorem wit_CapAndActivity_below (h : Obligations.CapAndActivity)
    (hb : ∀ f, (pw f).baseMw = 0) :
    (∃ u, exec .powerEval (pw id) = .next u) ∧
    (∃ u, exec .powerEval (pw fun p => { p with lowEvals := 9, actCeil := 65000 }) = .next u) ∧
    (∃ u, exec .powerEval (pw fun p => { p with units10 := 275000000000 }) = .next u) := by
  refine ⟨((((h.1 (pw id)).1 (by decide +kernel)).2.2.2.1
      (by rw [est_of_base _ (hb _)]; decide +kernel) (by decide +kernel)).elim fun _ q => ⟨_, q.1.1⟩),
    ((((h.1 (pw fun p => { p with lowEvals := 9, actCeil := 65000 })).1 (by decide +kernel)).2.2.2.2
      (by rw [est_of_base _ (hb _)]; decide +kernel) (by decide +kernel) (by decide +kernel)).elim fun _ q => ⟨_, q.1.1⟩),
    ((((h.1 (pw fun p => { p with units10 := 275000000000 })).1 (by decide +kernel)).2.2.1
      (by rw [est_of_base _ (hb _)]; decide +kernel) (by rw [est_of_base _ (hb _)]; decide +kernel)).elim fun _ q => ⟨_, q.1.1⟩)⟩

/-- The loader reads `img0` from its slot and finds no fault in it (its digest is checked too). -/
theorem img0_loads : (loadImage (withImg img0 actE) (Line.bytes actE 8 1)
    ((withImg img0 actE).port ((0 : Port) : Nat)).secure).2 = (none, img0) := by decide +kernel

theorem wit_Loader_imageActivate_loads (h : Obligations.Loader) :
    (∃ u, exec (.imageActivate 0) (withImg img0 actE) = .next u) := by
  have e : (loadImage (withImg img0 actE) (Line.bytes actE 8 1)
      ((withImg img0 actE).port ((0 : Port) : Nat)).secure).2.2 = img0 := congrArg Prod.snd img0_loads
  obtain ⟨u, q, _⟩ := (h (withImg img0 actE) 0 actE).2.2.2.1 (by decide +kernel) (by decide +kernel) (by decide +kernel)
    (by decide +kernel) (by decide +kernel) (by decide +kernel) (by decide +kernel) (congrArg Prod.fst img0_loads)
    (by rw [e]; decide +kernel) (by rw [e]; decide +kernel)
  exact ⟨u, q⟩

theorem clean_lines (s : State) (a n : Nat) (hp : s.poison = []) (hb : s.bad = []) : CleanLines s a n := by
  intro b _ _; rw [hp, hb]; exact ⟨rfl, rfl⟩

theorem wit_JournalAndSnapshots_journalCopy (h : Obligations.JournalAndSnapshots) :
    (∃ u, exec (.journalCopy 1) jrS = .next u) := by
  have apart : ∀ b, jrS.journalPage jrS.rel.jindex.length ≤ b → b < jrS.journalPage jrS.rel.jindex.length + 4096 →
      jrS.inKinds journaledKinds b = false := by
    have e : jrS.journalPage jrS.rel.jindex.length = 0x10000 := by decide +kernel
    have o : jrS.objs = [(1, { base := 0x1000#48, bytes := 0x2000, kind := 1, valid := true }),
      (3, { base := 0x10000#48, bytes := 0x4000, kind := 0x0C, valid := true })] := by decide +kernel
    rw [e]
    intro b _ _
    simp [State.inKinds, o, journaledKinds]
    omega
  refine ((h jrS .melvor).2.2.2.1 1 ?_ ?_ ?_ ?_ ?_ ?_ ?_ ?_ (clean_lines _ _ _ rfl rfl) apart).elim fun u q => ⟨u, q.1⟩
  all_goals decide +kernel

/-- Two pages are still to copy. -/
theorem wit_JournalAndSnapshots_todo (h : Obligations.JournalAndSnapshots) :
    ∃ u, exec .snapshotComplete (snapRun fun x => { x with todo := [1, 2] }) = .next u := by
  have hq : ∀ q ∈ [1, 2], hostWindow (q * 4096) = none ∧
      (snapRun fun x => { x with todo := [1, 2] }).bytesBlocked .snapshot false (q * 4096) 4096 = false ∧
      CleanLines (snapRun fun x => { x with todo := [1, 2] }) (q * 4096) 4096 := by
    intro q hq
    refine ⟨?_, ?_, clean_lines _ _ _ rfl rfl⟩ <;> revert q <;> decide +kernel
  refine (((h (snapRun fun x => { x with todo := [1, 2] }) .melvor).2.2.2.2.2 ?_ ?_ ?_ ?_ ?_ ?_ hq).2.1 ?_).elim
    fun u q => ⟨u, q.1⟩
  all_goals decide +kernel

/-- Whatever the opaque verification answers on the window of `secW c [] keyed`, the request completes. -/
theorem wit_PortRequestsAndTables_signed (h : Obligations.PortRequestsAndTables) :
    (∃ u, exec (.auth 0 false) (secW 1 [] keyed) = .next u) ∧
    (∃ u, exec (.replace 0 false) (secW 4 [] keyed) = .next u) ∧
    (∃ u, exec (.clearKey 0 false) (secW 5 [] keyed) = .next u) ∧
    (∃ u, exec (.svnCommit 0 false) (secW 6 [] keyed) = .next u) := by
  have r (c : Nat) (hb : (secW c [] keyed).boot.stage ≥ 3) := (h.1 (secW c [] keyed) 0 hb).2
  refine ⟨?_, ?_, ?_, ?_⟩
  · have q := (r 1 (by decide)).1 (by decide +kernel) (by decide +kernel) [1, 2] rfl
    split at q <;> exact q.elim fun u q => ⟨u, q.1⟩
  · have q := (r 4 (by decide)).2.2.2.1 (by decide +kernel) (by decide +kernel) [1, 2] rfl
    split at q
    · exact (q (by decide +kernel)).elim fun u q => ⟨u, q.1⟩
    · exact q.elim fun u q => ⟨u, q.1⟩
  · have q := (r 5 (by decide)).2.2.2.2.1 (by decide +kernel) (by decide +kernel) [1, 2] rfl
    split at q
    · exact (q (by decide +kernel) (by decide +kernel) (by decide +kernel)).elim fun u q => ⟨u, q.1⟩
    · exact q.elim fun u q => ⟨u, q.1⟩
  · have q := (r 6 (by decide)).2.2.2.2.2 (by decide +kernel) (by decide +kernel) [1, 2] rfl
    split at q
    · exact (q (by decide +kernel)).elim fun u q => ⟨u, q.1⟩
    · exact q.elim fun u q => ⟨u, q.1⟩

/-- Whatever the opaque digests answer on the record, the area and the slots, the boot ROM ends. -/
theorem wit_PowerUp_rom (h : Obligations.PowerUp) : ∃ u, exec (.romExit ⟨0, 5, 300⟩) (bt rom) = .next u := by
  have q := (h (bt rom) 5 300).2.2.2.2.1 ⟨rfl, rfl, rfl⟩
  split at q
  · replace q := q.1
    split at q
    · replace q := q.1
      split at q
      · split at q <;> exact q.elim fun u q => ⟨u, q.1⟩
      all_goals exact q.elim fun u q => ⟨u, q.1⟩
    · exact q.elim fun u q => ⟨u, q.1⟩
  · exact q.elim fun u q => ⟨u, q.1⟩

/-- Whatever the opaque verification answers on slot B of `flS`, VERIFY ends. -/
theorem wit_FlashSidebandAndTap_verify (h : Obligations.FlashSidebandAndTap) :
    ∃ u, exec (.flashComplete false) (flS { busy := true, cmd := 3 }) = .next u := by
  have q := ((h.1 (flS { busy := true, cmd := 3 }) .melvor).2.2.2.2.1 (by decide +kernel) (by decide +kernel)).2
  split at q <;> exact ⟨_, q⟩

/-- A step that writes a byte into `hmem`, whose HBM is in canonical form. -/
theorem wit_HbmCanonicalStep (h : Obligations.HbmCanonicalStep) :
    ∃ t, step { hmem with pending := [.memWr 0 0x3000 1 5 false] } = .next t ∧ Sparse.wf 0 t.hbm = true :=
  ⟨_, rfl, h { hmem with pending := [.memWr 0 0x3000 1 5 false] } _ (by decide +kernel) rfl⟩

/-- Steps of tile 5 and of the samples keep the forms and the bounds. -/
theorem wit_TileMemoryFormsStep (h : Obligations.TileMemoryFormsStep) :
    ∃ t, step { running 0x00400040 with pending := [.alu issue] } = .next t ∧ TileForms t := by
  refine ⟨_, rfl, h { running 0x00400040 with pending := [.alu issue] } _ (fun x hx => ?_) rfl⟩
  have e : x = (running 0x00400040).tiles.head (by decide) := List.mem_singleton.1 hx
  rw [e]; exact ⟨rfl, rfl⟩

theorem wit_BoundsStep (h : Obligations.BoundsStep) :
    ∃ t, step { base with pending := [.inputSample 100 true] } = .next t ∧ Bounded t :=
  ⟨_, rfl, h { base with pending := [.inputSample 100 true] } _
    ⟨by decide +kernel, by decide +kernel, by decide +kernel, by decide +kernel, by decide +kernel⟩ rfl⟩

theorem flit_good (a b : BitVec 12) (c : Bool) (t : Nat) (l : List Nat) (d : List Line) (g : List Byte) :
    FlitGood (flit a b c t l d g) := ⟨rfl, rfl⟩

/-- The CRC of `fl` and of the other flits holds by their construction; one more in it is wrong. -/
theorem wit_Flits_receive (h : Obligations.Flits) :
    (∃ u, exec (.flitReceive 4 fl) (lk link0) = .next u) ∧
    (∃ u, exec (.flitReceive 4 fData) cutS = .next u) ∧
    (∃ u, exec (.flitReceive 4 (flit 5 0 false 1 [] [2, 0, 0, 0])) (lk link0) = .next u) ∧
    (∃ u, exec (.flitReceive 4 { fl with crc := fl.crc + 1 }) (lk link0) = .next u) ∧
    (∃ u, exec (.flitReceive 4 fAck) (lk { link0 with replayBuf := [sf 1, sf 2, sf 3] }) = .next u) := by
  have known : ∀ m ∈ fMsgs fl, ctlKnown m = true := List.all_eq_true.1 (by decide +kernel)
  refine ⟨⟨_, ((h (lk link0) 4 fl rfl ⟨rfl, rfl⟩).1 (flit_good ..) ?_ ?_).1 ?_ known ?_ ?_⟩,
    (((h cutS 4 fData ?_ ?_).1 (flit_good ..) ?_ ?_).2.1 1 (tok 99 8) ⟨8, 9, some 1⟩ 3 0 cut0 ?_ ?_ ?_ ?_ ?_ ?_).elim
      fun _ q => ⟨_, q.1⟩,
    ⟨_, ((h (lk link0) 4 (flit 5 0 false 1 [] [2, 0, 0, 0]) rfl ⟨rfl, rfl⟩).1 (flit_good ..) ?_ ?_).2.2 ?_ ?_ ?_⟩,
    ⟨_, (h (lk link0) 4 { fl with crc := fl.crc + 1 } rfl ⟨rfl, rfl⟩).2.1 rfl ?bad rfl⟩,
    ⟨_, (h (lk { link0 with replayBuf := [sf 1, sf 2, sf 3] }) 4 fAck rfl ⟨rfl, rfl⟩).2.2.1 [sf 1] (sf 2) [sf 3]
      (flit_good ..) ?_ ?_ ?_ ?_ ?_ ?_⟩⟩
  case bad =>
    show fl.crc + 1 ≠ fl.crc
    generalize fl.crc = c
    bv_omega
  all_goals decide +kernel

/-- Two accesses wait: the later one with the earlier deadline is picked; in split mode the frame's first turn is a read's. -/
theorem wit_LineAccess_order (h : Obligations.LineAccess) :
    (∃ dx, (acc (lr .melvor false 0x1010) (some 3)).due = some dx ∧ dx ≤ 9) ∧
    (acc (lr .melvor false 0x1010)).cls = (acc (lr .melvor false 0x1010)).cls := by
  let x := acc (lr .melvor false 0x1010) (some 3)
  let y := acc (lr .melvor false 0x1041) (some 9)
  let z := acc (lr .melvor false 0x1010)
  let w := acc (lr (.foldPort 0) true 0x1040)
  let split : State := pnd [w, z] fun s => { s with arb := { s.arb with split := true } }
  have p := (h (pnd [y, x]) (Fin.ofNat 8 (hbmMap 0x1010).1) x.req).2.2 x y (by decide +kernel) (by decide +kernel)
  have q := (h split (Fin.ofNat 8 (hbmMap 0x1010).1) x.req).2.2 z z (by decide +kernel) (by decide +kernel)
  exact ⟨p.2.1 (by decide +kernel) 9 rfl, (q.2.2 (by decide +kernel) (by decide +kernel)).1⟩

/-- A hottest die sensor at 105 °C trips, with its reading in the record. -/
theorem wit_ThermalLevels_trip (h : Obligations.ThermalLevels) :
    ∃ u n, exec (.thermalEval (dies 105) (hbmT 40)) (pw id) = .next u ∧ u.flash.trip = some ⟨1, n, 105⟩ := by
  have ⟨u, q⟩ := h (pw id) (dies 105) (hbmT 40) 105 (by decide +kernel) (by decide +kernel) (by decide +kernel)
    (by decide +kernel)
  exact ⟨u, _, q.1, q.2.2.2.2.2.2.2.2.2.2.1 (by decide)⟩

/-! ## Witnesses of the other statements -/

theorem wit_RegisterAndPredicateWords (h : Obligations.RegisterAndPredicateWords) :
    (∃ u, exec (.alu issue) (running (op 0 4 1 (2*128))) = .next u) ∧
    (∃ u, exec (.addi issue) (running (op 1 4 1 0xFFF)) = .next u) ∧
    (∃ u, exec (.andi issue) (running (op 2 0 1 5)) = .next u) ∧
    (∃ u, exec (.ori issue) (running (op 3 4 1 5)) = .next u) ∧
    (∃ u, exec (.xori issue) (running (op 4 4 1 0x85)) = .next u) ∧
    (∃ u, exec (.slli issue) (running (op 5 4 1 31)) = .next u) ∧
    (∃ u, exec (.srli issue) (running (op 6 4 3 3)) = .next u) ∧
    (∃ u, exec (.srai issue) (running (op 7 4 3 0)) = .next u) ∧
    (∃ u, exec (.lui issue) (running (op 8 31 0 0xFFF)) = .next u) ∧
    (∃ u, exec (.cmp issue) (running (op 9 0 0 0 + 2*2^19+1*2^11+2*64)) = .next u) ∧
    (∃ u, exec (.cmpi issue) (running (op 0xA 0 0 0 + 0*2^19 + 3*2^16+1*2^11+5)) = .next u) ∧
    (∃ u, exec (.plog issue) (running (op 0xB 0 0 0 + 3*2^19+1*2^16)) = .next u) :=
  ⟨⟨_, ((h).1 (running (op 0 4 1 (2*128))) (issue)).1 (by decide +kernel)⟩,
   ⟨_, ((h).1 (running (op 1 4 1 0xFFF)) (issue)).2.1 (by decide +kernel)⟩,
   ⟨_, ((h).1 (running (op 2 0 1 5)) (issue)).2.2.1 (by decide +kernel)⟩,
   ⟨_, ((h).1 (running (op 3 4 1 5)) (issue)).2.2.2.1 (by decide +kernel)⟩,
   ⟨_, ((h).1 (running (op 4 4 1 0x85)) (issue)).2.2.2.2.1 (by decide +kernel)⟩,
   ⟨_, ((h).1 (running (op 5 4 1 31)) (issue)).2.2.2.2.2.1 (by decide +kernel)⟩,
   ⟨_, ((h).1 (running (op 6 4 3 3)) (issue)).2.2.2.2.2.2.1 (by decide +kernel)⟩,
   ⟨_, ((h).1 (running (op 7 4 3 0)) (issue)).2.2.2.2.2.2.2.1 (by decide +kernel)⟩,
   ⟨_, ((h).1 (running (op 8 31 0 0xFFF)) (issue)).2.2.2.2.2.2.2.2 (by decide +kernel)⟩,
   ⟨_, ((h).2.1 (running (op 9 0 0 0 + 2*2^19+1*2^11+2*64)) (issue)).1 (by decide +kernel)⟩,
   ⟨_, ((h).2.1 (running (op 0xA 0 0 0 + 0*2^19 + 3*2^16+1*2^11+5)) (issue)).2.1 (by decide +kernel)⟩,
   ⟨_, ((h).2.1 (running (op 0xB 0 0 0 + 3*2^19+1*2^16)) (issue)).2.2 (by decide +kernel)⟩⟩

theorem wit_GuardFalse (h : Obligations.GuardFalse) :
    (∃ u, exec (.addi issue) (running (2^29+2^28+op 0x1 0 0 0)) = .next u) ∧
    (∃ u, exec (.alu issue) (running (2^29+2^28+op 0x0 0 0 0)) = .next u) ∧
    (∃ u, exec (.andi issue) (running (2^29+2^28+op 0x2 0 0 0)) = .next u) ∧
    (∃ u, exec (.br issue) (running (2^29+2^28+op 0x18 0 0 0)) = .next u) ∧
    (∃ u, exec (.brl issue) (running (2^29+2^28+op 0x1A 0 0 0)) = .next u) ∧
    (∃ u, exec (.cmp issue) (running (2^29+2^28+op 0x9 0 0 0)) = .next u) ∧
    (∃ u, exec (.cmpi issue) (running (2^29+2^28+op 0xA 0 0 0)) = .next u) ∧
    (∃ u, exec (.endOp issue) (running (2^29+2^28+op 0x3E 0 0 0)) = .next u) ∧
    (∃ u, exec (.enq issue Ecc.ok) (running (2^29+2^28+op 0x28 0 0 0)) = .next u) ∧
    (∃ u, exec (.jr issue) (running (2^29+2^28+op 0x19 0 0 0)) = .next u) ∧
    (∃ u, exec (.ld issue Ecc.ok) (running (2^29+2^28+op 0x10 0 0 0)) = .next u) ∧
    (∃ u, exec (.lda issue Ecc.ok) (running (2^29+2^28+op 0x12 1 0 0)) = .next u) ∧
    (∃ u, exec (.lui issue) (running (2^29+2^28+op 0x8 0 0 0)) = .next u) ∧
    (∃ u, exec (.ori issue) (running (2^29+2^28+op 0x3 0 0 0)) = .next u) ∧
    (∃ u, exec (.plog issue) (running (2^29+2^28+op 0xB 0 0 0)) = .next u) ∧
    (∃ u, exec (.recv issue Ecc.ok) (running (2^29+2^28+op 0x21 0 0 0)) = .next u) ∧
    (∃ u, exec (.send issue Ecc.ok) (running (2^29+2^28+op 0x20 0 0 0)) = .next u) ∧
    (∃ u, exec (.slli issue) (running (2^29+2^28+op 0x5 0 0 0)) = .next u) ∧
    (∃ u, exec (.srai issue) (running (2^29+2^28+op 0x7 0 0 0)) = .next u) ∧
    (∃ u, exec (.srli issue) (running (2^29+2^28+op 0x6 0 0 0)) = .next u) ∧
    (∃ u, exec (.st issue) (running (2^29+2^28+op 0x11 0 0 0)) = .next u) ∧
    (∃ u, exec (.sta issue) (running (2^29+2^28+op 0x13 1 0 0)) = .next u) ∧
    (∃ u, exec (.summ issue) (running (2^29+2^28+op 0x2A 1 0 0)) = .next u) ∧
    (∃ u, exec (.trap issue) (running (2^29+2^28+op 0x3F 0 0 0)) = .next u) ∧
    (∃ u, exec (.waite issue) (running (2^29+2^28+op 0x29 0 0 0)) = .next u) ∧
    (∃ u, exec (.xori issue) (running (2^29+2^28+op 0x4 0 0 0)) = .next u) :=
  ⟨⟨_, h (running (2^29+2^28+op 0x1 0 0 0)) (issue) ((1, Instr.addi)) (by simp [Sys2Proof.Machine.wordRows]) (by decide +kernel)⟩,
   ⟨_, h (running (2^29+2^28+op 0x0 0 0 0)) (issue) ((0, Instr.alu)) (by simp [Sys2Proof.Machine.wordRows]) (by decide +kernel)⟩,
   ⟨_, h (running (2^29+2^28+op 0x2 0 0 0)) (issue) ((2, Instr.andi)) (by simp [Sys2Proof.Machine.wordRows]) (by decide +kernel)⟩,
   ⟨_, h (running (2^29+2^28+op 0x18 0 0 0)) (issue) ((24, Instr.br)) (by simp [Sys2Proof.Machine.wordRows]) (by decide +kernel)⟩,
   ⟨_, h (running (2^29+2^28+op 0x1A 0 0 0)) (issue) ((26, Instr.brl)) (by simp [Sys2Proof.Machine.wordRows]) (by decide +kernel)⟩,
   ⟨_, h (running (2^29+2^28+op 0x9 0 0 0)) (issue) ((9, Instr.cmp)) (by simp [Sys2Proof.Machine.wordRows]) (by decide +kernel)⟩,
   ⟨_, h (running (2^29+2^28+op 0xA 0 0 0)) (issue) ((10, Instr.cmpi)) (by simp [Sys2Proof.Machine.wordRows]) (by decide +kernel)⟩,
   ⟨_, h (running (2^29+2^28+op 0x3E 0 0 0)) (issue) ((62, Instr.endOp)) (by simp [Sys2Proof.Machine.wordRows]) (by decide +kernel)⟩,
   ⟨_, h (running (2^29+2^28+op 0x28 0 0 0)) (issue) ((40, fun i => Instr.enq i Ecc.ok)) (by simp [Sys2Proof.Machine.wordRows]) (by decide +kernel)⟩,
   ⟨_, h (running (2^29+2^28+op 0x19 0 0 0)) (issue) ((25, Instr.jr)) (by simp [Sys2Proof.Machine.wordRows]) (by decide +kernel)⟩,
   ⟨_, h (running (2^29+2^28+op 0x10 0 0 0)) (issue) ((16, fun i => Instr.ld i Ecc.ok)) (by simp [Sys2Proof.Machine.wordRows]) (by decide +kernel)⟩,
   ⟨_, h (running (2^29+2^28+op 0x12 1 0 0)) (issue) ((18, fun i => Instr.lda i Ecc.ok)) (by simp [Sys2Proof.Machine.wordRows]) (by decide +kernel)⟩,
   ⟨_, h (running (2^29+2^28+op 0x8 0 0 0)) (issue) ((8, Instr.lui)) (by simp [Sys2Proof.Machine.wordRows]) (by decide +kernel)⟩,
   ⟨_, h (running (2^29+2^28+op 0x3 0 0 0)) (issue) ((3, Instr.ori)) (by simp [Sys2Proof.Machine.wordRows]) (by decide +kernel)⟩,
   ⟨_, h (running (2^29+2^28+op 0xB 0 0 0)) (issue) ((11, Instr.plog)) (by simp [Sys2Proof.Machine.wordRows]) (by decide +kernel)⟩,
   ⟨_, h (running (2^29+2^28+op 0x21 0 0 0)) (issue) ((33, fun i => Instr.recv i Ecc.ok)) (by simp [Sys2Proof.Machine.wordRows]) (by decide +kernel)⟩,
   ⟨_, h (running (2^29+2^28+op 0x20 0 0 0)) (issue) ((32, fun i => Instr.send i Ecc.ok)) (by simp [Sys2Proof.Machine.wordRows]) (by decide +kernel)⟩,
   ⟨_, h (running (2^29+2^28+op 0x5 0 0 0)) (issue) ((5, Instr.slli)) (by simp [Sys2Proof.Machine.wordRows]) (by decide +kernel)⟩,
   ⟨_, h (running (2^29+2^28+op 0x7 0 0 0)) (issue) ((7, Instr.srai)) (by simp [Sys2Proof.Machine.wordRows]) (by decide +kernel)⟩,
   ⟨_, h (running (2^29+2^28+op 0x6 0 0 0)) (issue) ((6, Instr.srli)) (by simp [Sys2Proof.Machine.wordRows]) (by decide +kernel)⟩,
   ⟨_, h (running (2^29+2^28+op 0x11 0 0 0)) (issue) ((17, Instr.st)) (by simp [Sys2Proof.Machine.wordRows]) (by decide +kernel)⟩,
   ⟨_, h (running (2^29+2^28+op 0x13 1 0 0)) (issue) ((19, Instr.sta)) (by simp [Sys2Proof.Machine.wordRows]) (by decide +kernel)⟩,
   ⟨_, h (running (2^29+2^28+op 0x2A 1 0 0)) (issue) ((42, Instr.summ)) (by simp [Sys2Proof.Machine.wordRows]) (by decide +kernel)⟩,
   ⟨_, h (running (2^29+2^28+op 0x3F 0 0 0)) (issue) ((63, Instr.trap)) (by simp [Sys2Proof.Machine.wordRows]) (by decide +kernel)⟩,
   ⟨_, h (running (2^29+2^28+op 0x29 0 0 0)) (issue) ((41, Instr.waite)) (by simp [Sys2Proof.Machine.wordRows]) (by decide +kernel)⟩,
   ⟨_, h (running (2^29+2^28+op 0x4 0 0 0)) (issue) ((4, Instr.xori)) (by simp [Sys2Proof.Machine.wordRows]) (by decide +kernel)⟩⟩

theorem wit_IllegalWords (h : Obligations.IllegalWords) :
    (∃ u, exec (.alu issue) (running (op 0 1 1 15)) = .next u) ∧
    (∃ u, exec (.cmp issue) (running (op 9 0 0 1)) = .next u) ∧
    (∃ u, exec (.cmpi issue) (running ((0xA*2^22+7*2^16))) = .next u) ∧
    (∃ u, exec (.endOp issue) (running (op 0x3E 0 0 1)) = .next u) ∧
    (∃ u, exec (.enq issue Ecc.ok) (running (op 0x28 0 0 1)) = .next u) ∧
    (∃ u, exec (.jr issue) (running (op 0x19 1 0 0)) = .next u) ∧
    (∃ u, exec (.lda issue Ecc.ok) (running (op 0x12 0 0 0)) = .next u) ∧
    (∃ u, exec (.lui issue) (running (op 8 0 16 0)) = .next u) ∧
    (∃ u, exec (.plog issue) (running (op 0xB 0 0 1)) = .next u) ∧
    (∃ u, exec (.recv issue Ecc.ok) (running (op 0x21 0 0 1)) = .next u) ∧
    (∃ u, exec (.send issue Ecc.ok) (running (op 0x20 0 0 1)) = .next u) ∧
    (∃ u, exec (.slli issue) (running (op 5 1 1 32)) = .next u) ∧
    (∃ u, exec (.srai issue) (running (op 7 1 1 0x800)) = .next u) ∧
    (∃ u, exec (.srli issue) (running (op 6 1 1 32)) = .next u) ∧
    (∃ u, exec (.sta issue) (running (op 0x13 31 0 0)) = .next u) ∧
    (∃ u, exec (.summ issue) (running (op 0x2A 0 0 0)) = .next u) ∧
    (∃ u, exec (.waite issue) (running (op 0x29 0 0 1)) = .next u) ∧
    (∃ u, exec (.unlistedOpWord issue) (running (op 0x0C 0 0 0)) = .next u) :=
  ⟨⟨_, (h (running (op 0 1 1 15)) (issue) (by decide +kernel) (by decide +kernel) (by decide +kernel) (by decide +kernel) (by decide +kernel)).1 ((0, Instr.alu)) (by simp [Sys2Proof.Machine.wordRows]) (by decide +kernel)⟩,
   ⟨_, (h (running (op 9 0 0 1)) (issue) (by decide +kernel) (by decide +kernel) (by decide +kernel) (by decide +kernel) (by decide +kernel)).1 ((9, Instr.cmp)) (by simp [Sys2Proof.Machine.wordRows]) (by decide +kernel)⟩,
   ⟨_, (h (running ((0xA*2^22+7*2^16))) (issue) (by decide +kernel) (by decide +kernel) (by decide +kernel) (by decide +kernel) (by decide +kernel)).1 ((10, Instr.cmpi)) (by simp [Sys2Proof.Machine.wordRows]) (by decide +kernel)⟩,
   ⟨_, (h (running (op 0x3E 0 0 1)) (issue) (by decide +kernel) (by decide +kernel) (by decide +kernel) (by decide +kernel) (by decide +kernel)).1 ((62, Instr.endOp)) (by simp [Sys2Proof.Machine.wordRows]) (by decide +kernel)⟩,
   ⟨_, (h (running (op 0x28 0 0 1)) (issue) (by decide +kernel) (by decide +kernel) (by decide +kernel) (by decide +kernel) (by decide +kernel)).1 ((40, fun i => Instr.enq i Ecc.ok)) (by simp [Sys2Proof.Machine.wordRows]) (by decide +kernel)⟩,
   ⟨_, (h (running (op 0x19 1 0 0)) (issue) (by decide +kernel) (by decide +kernel) (by decide +kernel) (by decide +kernel) (by decide +kernel)).1 ((25, Instr.jr)) (by simp [Sys2Proof.Machine.wordRows]) (by decide +kernel)⟩,
   ⟨_, (h (running (op 0x12 0 0 0)) (issue) (by decide +kernel) (by decide +kernel) (by decide +kernel) (by decide +kernel) (by decide +kernel)).1 ((18, fun i => Instr.lda i Ecc.ok)) (by simp [Sys2Proof.Machine.wordRows]) (by decide +kernel)⟩,
   ⟨_, (h (running (op 8 0 16 0)) (issue) (by decide +kernel) (by decide +kernel) (by decide +kernel) (by decide +kernel) (by decide +kernel)).1 ((8, Instr.lui)) (by simp [Sys2Proof.Machine.wordRows]) (by decide +kernel)⟩,
   ⟨_, (h (running (op 0xB 0 0 1)) (issue) (by decide +kernel) (by decide +kernel) (by decide +kernel) (by decide +kernel) (by decide +kernel)).1 ((11, Instr.plog)) (by simp [Sys2Proof.Machine.wordRows]) (by decide +kernel)⟩,
   ⟨_, (h (running (op 0x21 0 0 1)) (issue) (by decide +kernel) (by decide +kernel) (by decide +kernel) (by decide +kernel) (by decide +kernel)).1 ((33, fun i => Instr.recv i Ecc.ok)) (by simp [Sys2Proof.Machine.wordRows]) (by decide +kernel)⟩,
   ⟨_, (h (running (op 0x20 0 0 1)) (issue) (by decide +kernel) (by decide +kernel) (by decide +kernel) (by decide +kernel) (by decide +kernel)).1 ((32, fun i => Instr.send i Ecc.ok)) (by simp [Sys2Proof.Machine.wordRows]) (by decide +kernel)⟩,
   ⟨_, (h (running (op 5 1 1 32)) (issue) (by decide +kernel) (by decide +kernel) (by decide +kernel) (by decide +kernel) (by decide +kernel)).1 ((5, Instr.slli)) (by simp [Sys2Proof.Machine.wordRows]) (by decide +kernel)⟩,
   ⟨_, (h (running (op 7 1 1 0x800)) (issue) (by decide +kernel) (by decide +kernel) (by decide +kernel) (by decide +kernel) (by decide +kernel)).1 ((7, Instr.srai)) (by simp [Sys2Proof.Machine.wordRows]) (by decide +kernel)⟩,
   ⟨_, (h (running (op 6 1 1 32)) (issue) (by decide +kernel) (by decide +kernel) (by decide +kernel) (by decide +kernel) (by decide +kernel)).1 ((6, Instr.srli)) (by simp [Sys2Proof.Machine.wordRows]) (by decide +kernel)⟩,
   ⟨_, (h (running (op 0x13 31 0 0)) (issue) (by decide +kernel) (by decide +kernel) (by decide +kernel) (by decide +kernel) (by decide +kernel)).1 ((19, Instr.sta)) (by simp [Sys2Proof.Machine.wordRows]) (by decide +kernel)⟩,
   ⟨_, (h (running (op 0x2A 0 0 0)) (issue) (by decide +kernel) (by decide +kernel) (by decide +kernel) (by decide +kernel) (by decide +kernel)).1 ((42, Instr.summ)) (by simp [Sys2Proof.Machine.wordRows]) (by decide +kernel)⟩,
   ⟨_, (h (running (op 0x29 0 0 1)) (issue) (by decide +kernel) (by decide +kernel) (by decide +kernel) (by decide +kernel) (by decide +kernel)).1 ((41, Instr.waite)) (by simp [Sys2Proof.Machine.wordRows]) (by decide +kernel)⟩,
   ⟨_, (h (running (op 0x0C 0 0 0)) (issue) (by decide +kernel) (by decide +kernel) (by decide +kernel) (by decide +kernel) (by decide +kernel)).2 (by decide +kernel)⟩⟩

theorem wit_LdaStaIllegalPair (h : Obligations.LdaStaIllegalPair) :
    (∃ u, exec (.lda issue Ecc.ok) (running (op 0x12 0 1 0)) = .next u) ∧
    (∃ u, exec (.sta issue) (running (op 0x13 0 1 0)) = .next u) :=
  ⟨⟨_, (h (running (op 0x12 0 1 0)) (issue) (by decide +kernel) (by decide +kernel) (by decide +kernel) (by decide +kernel) (by decide +kernel)).1 (by decide +kernel)⟩,
   ⟨_, (h (running (op 0x13 0 1 0)) (issue) (by decide +kernel) (by decide +kernel) (by decide +kernel) (by decide +kernel) (by decide +kernel)).2 (by decide +kernel)⟩⟩

theorem wit_LoadsAndStores (h : Obligations.LoadsAndStores) :
    (∃ u, exec (.ld issue Ecc.ok) (running (op 0x10 4 1 4) mem) = .next u) ∧
    (∃ u, exec (.ld issue Ecc.ok) (running (op 0x10 4 1 5)) = .next u) ∧
    (∃ u, exec (.st issue) (running (op 0x11 2 1 4) mem) = .next u) ∧
    (∃ u, exec (.st issue) (running (op 0x11 4 3 0)) = .next u) ∧
    (∃ u, exec (.lda issue Ecc.ok) (running (op 0x12 4 1 0) mem) = .next u) ∧
    (∃ u, exec (.lda issue Ecc.ok) (running (op 0x12 4 3 0)) = .next u) ∧
    (∃ u, exec (.sta issue) (running (op 0x13 2 1 0xFFF) mem) = .next u) ∧
    (∃ u, exec (.sta issue) (running (op 0x13 4 3 0)) = .next u) :=
  ⟨⟨_, (h (running (op 0x10 4 1 4) mem) (issue)).1 (by decide +kernel) (by decide +kernel) (by decide +kernel) (by decide +kernel)⟩,
   ⟨_, ((h (running (op 0x10 4 1 5)) (issue)).2.2.2.2.1 (by decide +kernel)).1 (by decide +kernel)⟩,
   (((h (running (op 0x11 2 1 4) mem) (issue)).2.1 (by decide +kernel) (by decide +kernel) (by decide +kernel)).elim fun _ q => ⟨_, q.1⟩),
   ⟨_, ((h (running (op 0x11 4 3 0)) (issue)).2.2.2.2.1 (by decide +kernel)).2 (by decide +kernel)⟩,
   ⟨_, (h (running (op 0x12 4 1 0) mem) (issue)).2.2.1 (by decide +kernel) (by decide +kernel) (by decide +kernel)⟩,
   ⟨_, ((h (running (op 0x12 4 3 0)) (issue)).2.2.2.2.2 (by decide +kernel)).1 (by decide +kernel)⟩,
   (((h (running (op 0x13 2 1 0xFFF) mem) (issue)).2.2.2.1 (by decide +kernel) (by decide +kernel)).elim fun _ q => ⟨_, q.1⟩),
   ⟨_, ((h (running (op 0x13 4 3 0)) (issue)).2.2.2.2.2 (by decide +kernel)).2 (by decide +kernel)⟩⟩

theorem wit_Branches (h : Obligations.Branches) :
    (∃ u, exec (.br issue) (running (0x18*2^22+5)) = .next u) ∧
    (∃ u, exec (.br issue) (running (0x18*2^22+2^21)) = .next u) ∧
    (∃ u, exec (.brl issue) (running (0x1A*2^22+2^22-3)) = .next u) ∧
    (∃ u, exec (.brl issue) (running (0x1A*2^22+8189)) = .next u) ∧
    (∃ u, exec (.jr issue) (running (op 0x19 0 2 0)) = .next u) ∧
    (∃ u, exec (.jr issue) (running (op 0x19 0 3 0)) = .next u) :=
  ⟨⟨_, ((h (running (0x18*2^22+5)) (issue)).1 (by decide +kernel) (by decide +kernel)).1 (by decide +kernel)⟩,
   ⟨_, ((h (running (0x18*2^22+2^21)) (issue)).2.2.1 (by decide +kernel)).1 (by decide +kernel)⟩,
   ⟨_, ((h (running (0x1A*2^22+2^22-3)) (issue)).1 (by decide +kernel) (by decide +kernel)).2 (by decide +kernel)⟩,
   ⟨_, ((h (running (0x1A*2^22+8189)) (issue)).2.2.1 (by decide +kernel)).2 (by decide +kernel)⟩,
   ⟨_, (h (running (op 0x19 0 2 0)) (issue)).2.1 (by decide +kernel) (by decide +kernel)⟩,
   ⟨_, (h (running (op 0x19 0 3 0)) (issue)).2.2.2 (by decide +kernel) (by decide +kernel)⟩⟩

theorem wit_SendAndReceive (h : Obligations.SendAndReceive) :
    (∃ u, exec (.send issue Ecc.ok) (running sw mem) = .next u) ∧
    (∃ u, exec (.send issue Ecc.ok) (running sw full) = .next u) ∧
    (∃ u, exec (.sendUnblock issue.tile Ecc.ok) (running 0 (fun x => blk sw 2 (mem x))) = .next u) ∧
    (∃ u, exec (.recv issue Ecc.ok) (running (rw_ 0) q) = .next u) ∧
    (∃ u, exec (.recv issue Ecc.ok) (running (rw_ 1) q2) = .next u) ∧
    (∃ u, exec (.recv issue Ecc.ok) (running (rw_ 0) q2) = .next u) ∧
    (∃ u, exec (.recvUnblock issue.tile Ecc.ok) (running 0 (fun x => blk (rw_ 1) 1 (q x))) = .next u) :=
  ⟨⟨_, ((h).1 (running sw mem) (issue)).1 (by decide +kernel) (by decide +kernel) (by decide +kernel)⟩,
   ⟨_, ((h).1 (running sw full) (issue)).2.1 (by decide +kernel) (by decide +kernel) (by decide +kernel)⟩,
   ⟨_, ((h).1 (running 0 (fun x => blk sw 2 (mem x))) (issue)).2.2 (sw) (by decide +kernel) (by decide +kernel) (by decide +kernel)⟩,
   ((((h).2 (running (rw_ 0) q) (issue)).1 (tok 77 0x30) (by decide +kernel) (by decide +kernel) (by decide +kernel)).elim fun _ q => ⟨_, q.1⟩),
   ⟨_, ((h).2 (running (rw_ 1) q2) (issue)).2.2.1 (by decide +kernel) (by decide +kernel) (by decide +kernel) (by decide +kernel)⟩,
   ⟨_, ((h).2 (running (rw_ 0) q2) (issue)).2.2.2 (by decide +kernel) (by decide +kernel) (by decide +kernel) (by decide +kernel)⟩,
   ((((h).2 (running 0 (fun x => blk (rw_ 1) 1 (q x))) (issue)).2.1 (rw_ 1) (tok 77 0x30) (by decide +kernel) (by decide +kernel) (by decide +kernel)).elim fun _ q => ⟨_, q.1⟩)⟩

theorem wit_EnqueueWaitAndSummary (h : Obligations.EnqueueWaitAndSummary) :
    (∃ u, exec (.enq issue Ecc.ok) (running ew (fun x => eng 7 (mem x))) = .next u) ∧
    (∃ u, exec (.enq issue Ecc.ok) (running ew (eng 8)) = .next u) ∧
    (∃ u, exec (.enqUnblock issue.tile Ecc.ok) (running 0 (fun x => blk ew 3 (eng 0 x))) = .next u) ∧
    (∃ u, exec (.waite issue) (running (op 0x29 0 4 0x400) (eng 1)) = .next u) ∧
    (∃ u, exec (.waite issue) (running ww (eng 1)) = .next u) ∧
    (∃ u, exec (.waiteRetire issue.tile) (running 0 (fun x => blk (op 0x29 0 4 0x400) 5 (eng 1 x))) = .next u) ∧
    (∃ u, exec (.summ issue) (running zw (eng 1)) = .next u) ∧
    (∃ u, exec (.summ issue) (running zw (eng 8)) = .next u) ∧
    (∃ u, exec (.summUnblock issue.tile) (running 0 (fun x => blk zw 4 (eng 1 x))) = .next u) :=
  ⟨⟨_, ((h).1 (running ew (fun x => eng 7 (mem x))) (issue)).1 (by decide +kernel) (by decide +kernel) (by decide +kernel)⟩,
   ⟨_, ((h).1 (running ew (eng 8)) (issue)).2.1 (by decide +kernel) (by decide +kernel) (by decide +kernel)⟩,
   ⟨_, ((h).1 (running 0 (fun x => blk ew 3 (eng 0 x))) (issue)).2.2 (ew) (by decide +kernel) (by decide +kernel) (by decide +kernel)⟩,
   ⟨_, ((h).2 (running (op 0x29 0 4 0x400) (eng 1)) (issue)).1 (by decide +kernel) (by decide +kernel)⟩,
   ⟨_, ((h).2 (running ww (eng 1)) (issue)).2.1 (by decide +kernel) (by decide +kernel)⟩,
   ⟨_, ((h).2 (running 0 (fun x => blk (op 0x29 0 4 0x400) 5 (eng 1 x))) (issue)).2.2.1 (op 0x29 0 4 0x400) (by decide +kernel) (by decide +kernel)⟩,
   ⟨_, ((h).2 (running zw (eng 1)) (issue)).2.2.2.1 (0x0004000000030000000200000001#128) ([]) (by decide +kernel) (by decide +kernel)⟩,
   ⟨_, ((h).2 (running zw (eng 8)) (issue)).2.2.2.2.1 (by decide +kernel) (by decide +kernel)⟩,
   ⟨_, ((h).2 (running 0 (fun x => blk zw 4 (eng 1 x))) (issue)).2.2.2.2.2 (zw) (0x0004000000030000000200000001#128) ([]) (by decide +kernel) (by decide +kernel)⟩⟩

theorem wit_IssueEndAndErrors (h : Obligations.IssueEndAndErrors) :
    (∃ u, exec (.endOp issue) (running (op 0x3E 0 0 0)) = .next u) ∧
    (∃ u, exec (.endOp issue2) (running (op 0x3E 0 0 0)) = .next u) ∧
    (∃ u, exec (.endOp issueUe) (running (op 0x3E 0 0 0)) = .next u) ∧
    (∃ u, exec (.trap issue) (running (op 0x3F 0 0 0xABC)) = .next u) ∧
    (∃ u, exec (.tilePartComplete issue.tile) (running 0 halted) = .next u) ∧
    (∃ u, exec (.addi issue2) (nowait (op 1 4 1 0xFFF)) = .next u) ∧
    (∃ u, exec (.addi issue2) (snd (2^29+2^28+op 1 4 1 5) mem) = .next u) ∧
    (∃ u, exec (.addi issue2) (snd (op 1 4 1 0xFFF)) = .next u) ∧
    (∃ u, exec (.addi issueUe) (snd (op 1 4 1 0xFFF)) = .next u) ∧
    (∃ u, exec (.addi issueCe) (snd (2^29+2^28+op 1 4 1 5) mem) = .next u) ∧
    (∃ u, exec (.addi issue) (at8191 (op 1 4 1 1)) = .next u) ∧
    (∃ u, exec (.br issue2) (at8191 (2^29+2^28+op 0x18 0 0 1)) = .next u) ∧
    (∃ u, exec (.br issueUe) (at8191 (2^29+2^28+op 0x18 0 0 1)) = .next u) ∧
    (∃ u, exec (.ld issue2 Ecc.ok) (lateS (2^29+2^28+op 0x10 4 1 5)) = .next u) ∧
    (∃ u, exec (.ld issue2 Ecc.ok) (snd (2^29+2^28+op 0x10 4 1 5) mem) = .next u) ∧
    (∃ u, exec (.ld issue2 Ecc.ok) (snd (op 0x10 4 1 4) mem) = .next u) ∧
    (∃ u, exec (.ld issue2 Ecc.ok) (snd (op 0x10 4 1 5) mem) = .next u) ∧
    (∃ u, exec (.ld issueUe Ecc.ok) (snd (op 0x10 4 1 4) mem) = .next u) ∧
    (∃ u, exec (.ld issueCe Ecc.ok) (snd (2^29+2^28+op 0x10 4 1 5) mem) = .next u) ∧
    (∃ u, exec (.ld issue Ecc.ok) (flawS (op 0x10 4 1 4) [(8,1)]) = .next u) ∧
    (∃ u, exec (.ld issue Ecc.ok) (flawS (op 0x10 4 1 4) [(8,2)]) = .next u) ∧
    (∃ u, exec (.lda issue2 Ecc.ok) (flawS (op 0x12 4 1 0) [(131072+64,1)]) = .next u) ∧
    (∃ u, exec (.lda issueUe Ecc.ok) (flawS (op 0x12 4 1 0) [(131072+64,1)]) = .next u) ∧
    (∃ u, exec (.lda issue Ecc.ok) (flawS (op 0x12 4 1 0) [(131072+64,1)]) = .next u) ∧
    (∃ u, exec (.lda issue Ecc.ok) (flawS (op 0x12 4 1 0) [(131072+64,2)]) = .next u) :=
  ⟨⟨_, ((h).1 (running (op 0x3E 0 0 0)) (issue)).1 (by decide +kernel)⟩,
   ⟨_, ((h).2 (running (op 0x3E 0 0 0)) (issue2) (by decide +kernel) (by decide +kernel)).1 ((62, Instr.endOp)) (by simp [Sys2Proof.Machine.wordRows]) (by decide +kernel) (by decide +kernel) (by decide +kernel)⟩,
   ((((h).2 (running (op 0x3E 0 0 0)) (issueUe) (by decide +kernel) (by decide +kernel)).2.2.1 ((62, Instr.endOp)) (by simp [Sys2Proof.Machine.wordRows]) (by decide +kernel) (by decide +kernel) (by decide +kernel)).elim fun _ q => ⟨_, q.1⟩),
   ⟨_, ((h).1 (running (op 0x3F 0 0 0xABC)) (issue)).2.1 (by decide +kernel)⟩,
   (by refine ⟨_, ((h).1 (running 0 halted) (issue)).2.2 ?_ ?_ ?_ ?_ ?_ ?_⟩ <;> decide +kernel),
   ⟨_, ((h).2 (nowait (op 1 4 1 0xFFF)) (issue2) (by decide +kernel) (by decide +kernel)).1 ((1, Instr.addi)) (by simp [Sys2Proof.Machine.wordRows]) (by decide +kernel) (by decide +kernel) (by decide +kernel)⟩,
   (by refine ⟨_, (((h).2 (snd (2^29+2^28+op 1 4 1 5) mem) (issue2) ?_ ?_).2.1 ?_ ?_ ?_ ?_ ?_ ?_).1 ((1, Instr.addi)) (by simp [Sys2Proof.Machine.wordRows]) ?_ ?_⟩ <;> decide +kernel),
   (by refine ⟨_, (((h).2 (snd (op 1 4 1 0xFFF)) (issue2) ?_ ?_).2.1 ?_ ?_ ?_ ?_ ?_ ?_).2.1 ?_ ?_⟩ <;> decide +kernel),
   ((((h).2 (snd (op 1 4 1 0xFFF)) (issueUe) (by decide +kernel) (by decide +kernel)).2.2.1 ((1, Instr.addi)) (by simp [Sys2Proof.Machine.wordRows]) (by decide +kernel) (by decide +kernel) (by decide +kernel)).elim fun _ q => ⟨_, q.1⟩),
   (by refine ⟨_, ((h).2 (snd (2^29+2^28+op 1 4 1 5) mem) (issueCe) ?_ ?_).2.2.2.1 ((1, Instr.addi)) (by simp [Sys2Proof.Machine.wordRows]) ?_ ?_ ?_ ?_ ?_ ?_⟩ <;> decide +kernel),
   (by refine ⟨_, ((h).2 (at8191 (op 1 4 1 1)) (issue) ?_ ?_).2.2.2.2.1 ((1, Instr.addi)) (by simp [Sys2Proof.Machine.wordRows]) ?_ ?_ ?_ ?_ ?_ ?_⟩ <;> decide +kernel),
   ⟨_, ((h).2 (at8191 (2^29+2^28+op 0x18 0 0 1)) (issue2) (by decide +kernel) (by decide +kernel)).1 ((24, Instr.br)) (by simp [Sys2Proof.Machine.wordRows]) (by decide +kernel) (by decide +kernel) (by decide +kernel)⟩,
   ((((h).2 (at8191 (2^29+2^28+op 0x18 0 0 1)) (issueUe) (by decide +kernel) (by decide +kernel)).2.2.1 ((24, Instr.br)) (by simp [Sys2Proof.Machine.wordRows]) (by decide +kernel) (by decide +kernel) (by decide +kernel)).elim fun _ q => ⟨_, q.1⟩),
   ⟨_, ((h).2 (lateS (2^29+2^28+op 0x10 4 1 5)) (issue2) (by decide +kernel) (by decide +kernel)).1 ((16, fun i => Instr.ld i Ecc.ok)) (by simp [Sys2Proof.Machine.wordRows]) (by decide +kernel) (by decide +kernel) (by decide +kernel)⟩,
   (by refine ⟨_, (((h).2 (snd (2^29+2^28+op 0x10 4 1 5) mem) (issue2) ?_ ?_).2.1 ?_ ?_ ?_ ?_ ?_ ?_).1 ((16, fun i => Instr.ld i Ecc.ok)) (by simp [Sys2Proof.Machine.wordRows]) ?_ ?_⟩ <;> decide +kernel),
   (by refine ⟨_, (((h).2 (snd (op 0x10 4 1 4) mem) (issue2) ?_ ?_).2.1 ?_ ?_ ?_ ?_ ?_ ?_).2.2.1 ?_ ?_ ?_ ?_ ?_⟩ <;> decide +kernel),
   (by refine (((((h).2 (snd (op 0x10 4 1 5) mem) (issue2) ?_ ?_).2.1 ?_ ?_ ?_ ?_ ?_ ?_).2.2.2 ?_ ?_ ?_).elim fun _ q => ⟨_, q.1⟩) <;> decide +kernel),
   ((((h).2 (snd (op 0x10 4 1 4) mem) (issueUe) (by decide +kernel) (by decide +kernel)).2.2.1 ((16, fun i => Instr.ld i Ecc.ok)) (by simp [Sys2Proof.Machine.wordRows]) (by decide +kernel) (by decide +kernel) (by decide +kernel)).elim fun _ q => ⟨_, q.1⟩),
   (by refine ⟨_, ((h).2 (snd (2^29+2^28+op 0x10 4 1 5) mem) (issueCe) ?_ ?_).2.2.2.1 ((16, fun i => Instr.ld i Ecc.ok)) (by simp [Sys2Proof.Machine.wordRows]) ?_ ?_ ?_ ?_ ?_ ?_⟩ <;> decide +kernel),
   ⟨_, (((h).2 (flawS (op 0x10 4 1 4) [(8,1)]) (issue) (by decide +kernel) (by decide +kernel)).2.2.2.2.2.1 (by decide +kernel) (by decide +kernel) (by decide +kernel)).1 (by decide +kernel)⟩,
   (((((h).2 (flawS (op 0x10 4 1 4) [(8,2)]) (issue) (by decide +kernel) (by decide +kernel)).2.2.2.2.2.1 (by decide +kernel) (by decide +kernel) (by decide +kernel)).2 (by decide +kernel)).elim fun _ q => ⟨_, q.1⟩),
   ⟨_, ((h).2 (flawS (op 0x12 4 1 0) [(131072+64,1)]) (issue2) (by decide +kernel) (by decide +kernel)).1 ((18, fun i => Instr.lda i Ecc.ok)) (by simp [Sys2Proof.Machine.wordRows]) (by decide +kernel) (by decide +kernel) (by decide +kernel)⟩,
   ((((h).2 (flawS (op 0x12 4 1 0) [(131072+64,1)]) (issueUe) (by decide +kernel) (by decide +kernel)).2.2.1 ((18, fun i => Instr.lda i Ecc.ok)) (by simp [Sys2Proof.Machine.wordRows]) (by decide +kernel) (by decide +kernel) (by decide +kernel)).elim fun _ q => ⟨_, q.1⟩),
   (((((h).2 (flawS (op 0x12 4 1 0) [(131072+64,1)]) (issue) (by decide +kernel) (by decide +kernel)).2.2.2.2.2.2 (by decide +kernel) (by decide +kernel)).1 (by decide +kernel)).elim fun _ q => ⟨_, q.1⟩),
   (((((h).2 (flawS (op 0x12 4 1 0) [(131072+64,2)]) (issue) (by decide +kernel) (by decide +kernel)).2.2.2.2.2.2 (by decide +kernel) (by decide +kernel)).2 (by decide +kernel)).elim fun _ q => ⟨_, q.1⟩)⟩

theorem wit_SlotCompletes (h : Obligations.SlotCompletes) :
    (∃ u, exec (.slot 5 none []) (sl [(0, ent [(1, fld 2 24 0 3)] 2)]) = .next u) :=
  ((h (sl [(0, ent [(1, fld 2 24 0 3)] 2)]) (5) (by decide +kernel) (by decide +kernel) (by decide +kernel) (by decide +kernel)).elim fun _ q => ⟨_, q.1⟩)

theorem wit_SlotStalls (h : Obligations.SlotStalls) :
    (∃ u, exec (.slot 5 none []) (sl [(0, ent [(1, fld 2 24 0 3)] 2)] [] []) = .next u) :=
  ⟨_, h (sl [(0, ent [(1, fld 2 24 0 3)] 2)] [] []) (5) (by decide +kernel) (by decide +kernel) (by decide +kernel) (by decide +kernel) (by decide +kernel)⟩

theorem wit_EntryAdvanceAndTokenArrival (h : Obligations.EntryAdvanceAndTokenArrival) :
    (∃ u, exec (.entryAdvance 5) (running 0 (fun x => used (rt (fun r => {r with sched := [(0, ent [] 3), (1, ent [] 7)]}) x))) = .next u) ∧
    (∃ u, exec (.tokenArrival 5 3 Ecc.ue) (running 0 (rt fun r => {r with cross := [(3, [tok 3 0x20, tok 4])], queues := [(26, {cfg := 1#32})] })) = .next u) ∧
    (∃ u, exec (.tokenArrival 5 3 Ecc.ok) (running 0 (rt fun r => {r with cross := [(3, [tok 3 0x20, tok 4])], queues := [(26, {cfg := 1#32})] })) = .next u) ∧
    (∃ u, exec (.tokenArrival 5 3 Ecc.ok) (running 0 (rt fun r => {r with cross := [(3, [tok 3 0x20])], queues := [(26, {cfg := 1#32, toks := [tok 1]})] })) = .next u) :=
  ⟨⟨_, (h).1 (running 0 (fun x => used (rt (fun r => {r with sched := [(0, ent [] 3), (1, ent [] 7)]}) x))) (5) (by decide +kernel) (by decide +kernel) (by decide +kernel) (by decide +kernel) (by decide +kernel)⟩,
   ((((h).2 (running 0 (rt fun r => {r with cross := [(3, [tok 3 0x20, tok 4])], queues := [(26, {cfg := 1#32})] })) (5) (3) (tok 3 0x20) ([tok 4]) (by decide +kernel) (by decide +kernel) (by decide +kernel) (by decide +kernel)).2.2).elim fun _ q => ⟨_, q.1⟩),
   ⟨_, ((h).2 (running 0 (rt fun r => {r with cross := [(3, [tok 3 0x20, tok 4])], queues := [(26, {cfg := 1#32})] })) (5) (3) (tok 3 0x20) ([tok 4]) (by decide +kernel) (by decide +kernel) (by decide +kernel) (by decide +kernel)).1 (by decide +kernel) (by decide +kernel)⟩,
   ⟨_, ((h).2 (running 0 (rt fun r => {r with cross := [(3, [tok 3 0x20])], queues := [(26, {cfg := 1#32, toks := [tok 1]})] })) (5) (3) (tok 3 0x20) ([]) (by decide +kernel) (by decide +kernel) (by decide +kernel) (by decide +kernel)).2.1 (by decide +kernel) (by decide +kernel)⟩⟩

theorem wit_NoProgressAndFreeze (h : Obligations.NoProgressAndFreeze) :
    (∃ u, exec (.noProgress 5) (running 0 (rt fun r => {r with wdLimit := 9#32, wdCount := 9})) = .next u) ∧
    (∃ u, exec (.noProgress 5) (running 0) = .next u) ∧
    (∃ u, exec (.faultTreeReport 0) (running 0 fault) = .next u) ∧
    (∃ u, exec .foldFreeze ({ fz with melvor := { fz.melvor with rowFaults := [(0, 4)] } }) = .next u) :=
  ⟨(by refine ⟨_, ((h (running 0 (rt fun r => {r with wdLimit := 9#32, wdCount := 9})) (5)).1 ?_ ?_ ?_ ?_ ?_ ?_).1 ?_⟩ <;> decide +kernel),
   (by refine ⟨_, ((h (running 0) (5)).1 ?_ ?_ ?_ ?_ ?_ ?_).2 ?_⟩ <;> decide +kernel),
   (((h (running 0 fault) (5)).2.1 (0) (5) (by decide +kernel) (by decide +kernel) (by decide +kernel)).elim fun _ q => ⟨_, q.1⟩),
   (((h ({ fz with melvor := { fz.melvor with rowFaults := [(0, 4)] } }) (5)).2.2 (by decide +kernel) (by decide +kernel) (by decide +kernel) (by decide +kernel)).elim fun _ q => ⟨_, q.1⟩)⟩

theorem wit_MaintenanceWrites (h : Obligations.MaintenanceWrites) :
    (∃ u, exec (.clrCe Agent.melvor 5) (running 0 (fun x => {x with core := {x.core with state := 2, retired := 5}, router := {x.router with stallOut := 4, ceN := 2}, rel := { rewrite := some 16 }, wmem := [(0x400, 5#8), (0x404, 6#8)]})) = .next u) ∧
    (∃ u, exec (.clrCnt Agent.melvor 5) (running 0 (fun x => {x with core := {x.core with state := 2, retired := 5}, router := {x.router with stallOut := 4, ceN := 2}, rel := { rewrite := some 16 }, wmem := [(0x400, 5#8), (0x404, 6#8)]})) = .next u) ∧
    (∃ u, exec (.clrStall Agent.melvor 5) (running 0 (fun x => {x with core := {x.core with state := 2, retired := 5}, router := {x.router with stallOut := 4, ceN := 2}, rel := { rewrite := some 16 }, wmem := [(0x400, 5#8), (0x404, 6#8)]})) = .next u) ∧
    (∃ u, exec (.meshWdLimit Agent.melvor 5 0) (running 0 (fun x => {x with core := {x.core with state := 2, retired := 5}, router := {x.router with stallOut := 4, ceN := 2}, rel := { rewrite := some 16 }, wmem := [(0x400, 5#8), (0x404, 6#8)]})) = .next u) ∧
    (∃ u, exec (.tileMaintWrite Agent.melvor (BitVec.ofNat 48 (tileBase + BitVec.toNat (5 : TileId) * 2097152 + 0)) 0) (running 0 (fun x => {x with core := {x.core with state := 2, retired := 5}, router := {x.router with stallOut := 4, ceN := 2}, rel := { rewrite := some 16 }, wmem := [(0x400, 5#8), (0x404, 6#8)]})) = .next u) ∧
    (∃ u, exec (.tileMaintWrite Agent.melvor (BitVec.ofNat 48 (tileBase + BitVec.toNat (5 : TileId) * 2097152 + 0x140000)) 0) (running 0 (fun x => {x with core := {x.core with state := 2, retired := 5}, router := {x.router with stallOut := 4, ceN := 2}, rel := { rewrite := some 16 }, wmem := [(0x400, 5#8), (0x404, 6#8)]})) = .next u) ∧
    (∃ u, exec (.tileMaintWrite Agent.melvor (BitVec.ofNat 48 (tileBase + BitVec.toNat (5 : TileId) * 2097152 + 0x100000)) 0) (running 0 (fun x => {x with core := {x.core with state := 2, retired := 5}, amem := [(0, 0x123456789ABC#48), (1, 7#48)], flaws := [(131072,1)], router := {x.router with stallOut := 4, ceN := 2, sched := [(0, 5#128),(511, 0xFFFFFFFFFFFFFFFFFFFFFFFFFFFFFFFF#128)]}})) = .next u) ∧
    (∃ u, exec (.tileMaintWrite Agent.melvor (BitVec.ofNat 48 (tileBase + BitVec.toNat (5 : TileId) * 2097152 + 0x181000)) 0) (running 0 (fun x => {x with core := {x.core with state := 2, retired := 5}, amem := [(0, 0x123456789ABC#48), (1, 7#48)], flaws := [(131072,1)], router := {x.router with stallOut := 4, ceN := 2, sched := [(0, 5#128),(511, 0xFFFFFFFFFFFFFFFFFFFFFFFFFFFFFFFF#128)]}})) = .next u) ∧
    (∃ u, exec (.tileMaintWrite Agent.melvor (BitVec.ofNat 48 (tileBase + BitVec.toNat (5 : TileId) * 2097152 + 0x181000)) 0) (running 0) = .next u) ∧
    (∃ u, exec (.tileMaintWrite Agent.melvor (BitVec.ofNat 48 (tileBase + BitVec.toNat (5 : TileId) * 2097152 + 0)) 0) (running 0) = .next u) :=
  ⟨⟨_, (h (running 0 (fun x => {x with core := {x.core with state := 2, retired := 5}, router := {x.router with stallOut := 4, ceN := 2}, rel := { rewrite := some 16 }, wmem := [(0x400, 5#8), (0x404, 6#8)]})) (.melvor) (5) (0) (0) (by decide +kernel) (by decide +kernel) (by decide +kernel) (by decide +kernel)).2.2.1⟩,
   ⟨_, (h (running 0 (fun x => {x with core := {x.core with state := 2, retired := 5}, router := {x.router with stallOut := 4, ceN := 2}, rel := { rewrite := some 16 }, wmem := [(0x400, 5#8), (0x404, 6#8)]})) (.melvor) (5) (0) (0) (by decide +kernel) (by decide +kernel) (by decide +kernel) (by decide +kernel)).2.2.2.1⟩,
   ⟨_, (h (running 0 (fun x => {x with core := {x.core with state := 2, retired := 5}, router := {x.router with stallOut := 4, ceN := 2}, rel := { rewrite := some 16 }, wmem := [(0x400, 5#8), (0x404, 6#8)]})) (.melvor) (5) (0) (0) (by decide +kernel) (by decide +kernel) (by decide +kernel) (by decide +kernel)).2.1⟩,
   ⟨_, (h (running 0 (fun x => {x with core := {x.core with state := 2, retired := 5}, router := {x.router with stallOut := 4, ceN := 2}, rel := { rewrite := some 16 }, wmem := [(0x400, 5#8), (0x404, 6#8)]})) (.melvor) (5) (0) (0) (by decide +kernel) (by decide +kernel) (by decide +kernel) (by decide +kernel)).1⟩,
   (((h (running 0 (fun x => {x with core := {x.core with state := 2, retired := 5}, router := {x.router with stallOut := 4, ceN := 2}, rel := { rewrite := some 16 }, wmem := [(0x400, 5#8), (0x404, 6#8)]})) (.melvor) (5) (0) (0) (by decide +kernel) (by decide +kernel) (by decide +kernel) (by decide +kernel)).2.2.2.2.1 (by decide +kernel) (by decide +kernel)).elim fun _ q => ⟨_, q.1⟩),
   ⟨_, (h (running 0 (fun x => {x with core := {x.core with state := 2, retired := 5}, router := {x.router with stallOut := 4, ceN := 2}, rel := { rewrite := some 16 }, wmem := [(0x400, 5#8), (0x404, 6#8)]})) (.melvor) (5) (0) (0x140000) (by decide +kernel) (by decide +kernel) (by decide +kernel) (by decide +kernel)).2.2.2.2.2.1 (by decide +kernel) (by decide +kernel) (by decide +kernel)⟩,
   (((h (running 0 (fun x => {x with core := {x.core with state := 2, retired := 5}, amem := [(0, 0x123456789ABC#48), (1, 7#48)], flaws := [(131072,1)], router := {x.router with stallOut := 4, ceN := 2, sched := [(0, 5#128),(511, 0xFFFFFFFFFFFFFFFFFFFFFFFFFFFFFFFF#128)]}})) (.melvor) (5) (0) (0x100000) (by decide +kernel) (by decide +kernel) (by decide +kernel) (by decide +kernel)).2.2.2.2.2.2.1 (by decide +kernel) (by decide +kernel) (by decide +kernel)).elim fun _ q => ⟨_, q.1⟩),
   ((((h (running 0 (fun x => {x with core := {x.core with state := 2, retired := 5}, amem := [(0, 0x123456789ABC#48), (1, 7#48)], flaws := [(131072,1)], router := {x.router with stallOut := 4, ceN := 2, sched := [(0, 5#128),(511, 0xFFFFFFFFFFFFFFFFFFFFFFFFFFFFFFFF#128)]}})) (.melvor) (5) (0) (0x181000) (by decide +kernel) (by decide +kernel) (by decide +kernel) (by decide +kernel)).2.2.2.2.2.2.2.1 (by decide +kernel) (by decide +kernel)).1 (by decide +kernel)).elim fun _ q => ⟨_, q.1⟩),
   ⟨_, ((h (running 0) (.melvor) (5) (0) (0x181000) (by decide +kernel) (by decide +kernel) (by decide +kernel) (by decide +kernel)).2.2.2.2.2.2.2.1 (by decide +kernel) (by decide +kernel)).2 (by decide +kernel)⟩,
   ⟨_, (h (running 0) (.melvor) (5) (0) (0) (by decide +kernel) (by decide +kernel) (by decide +kernel) (by decide +kernel)).2.2.2.2.2.2.2.2 (by decide +kernel) (by decide +kernel)⟩⟩

theorem wit_RegisterWrite (h : Obligations.RegisterWrite) :
    (∃ u, exec (.registerWrite Agent.melvor ((fun b o => BitVec.ofNat 48 (123145302310912 + b * 16777216 + o)) 0 0) 4 0) (running 0) = .next u) ∧
    (∃ u, exec (.registerWrite Agent.melvor 0x700000000000 4 (BitVec.ofNat 64 (BitVec.toNat (0 : BitVec 48) % 2 ^ 32))) (running 0) = .next u) ∧
    (∃ u, exec (.registerWrite Agent.melvor 0x700000000000 0 0) (running 0) = .next u) :=
  ⟨⟨_, (h (running 0) (.melvor) (0x700000000000) (0)).1 (0) (0) (by decide +kernel) (by decide +kernel) (by decide +kernel) (by decide +kernel)⟩,
   (((h (running 0) (.melvor) (0x700000000000) (0)).2.1 (by decide +kernel)).elim fun _ q => ⟨_, q.1⟩),
   ⟨_, (h (running 0) (.melvor) (0x700000000000) (0)).2.2 (0) (by decide +kernel) (by decide +kernel)⟩⟩

theorem wit_RegisterSpace (h : Obligations.RegisterSpace) :
    (∃ u, exec (.registerWrite Agent.melvor ((fun b o => BitVec.ofNat 48 (123145302310912 + b * 16777216 + o)) 0 0x20) 4 0x1234567890ABCDEF) (running 0) = .next u) ∧
    (∃ u, exec (.registerWrite (Agent.drover 15) ((fun b o => BitVec.ofNat 48 (123145302310912 + b * 16777216 + o)) 0 0) 4 0x1234567890ABCDEF) (running 0) = .next u) ∧
    (∃ u, exec (.registerWrite (.port 1) 0xA000000000 4 0x1234567890ABCDEF) (running 0) = .next u) ∧
    (∃ u, exec (.registerWrite Agent.melvor ((fun b o => BitVec.ofNat 48 (123145302310912 + b * 16777216 + o)) (8 + 0) 4) 4 0x1234567890ABCDEF) (running 0) = .next u) ∧
    (∃ u, exec (.registerWrite Agent.melvor ((fun b o => BitVec.ofNat 48 (123145302310912 + b * 16777216 + o)) (8 + 0) 8) 4 0x1234567890ABCDEF) (running 0) = .next u) ∧
    (∃ u, exec (.registerWrite Agent.melvor ((fun b o => BitVec.ofNat 0x30 (123145302310912 + b * 16777216 + o)) (32 + 4) 12) 4 0x1234567890ABCDEF) (running 0) = .next u) ∧
    (∃ u, exec (.registerWrite Agent.melvor ((fun b o => BitVec.ofNat 48 (123145302310912 + b * 16777216 + o)) 0x20 2064) 4 0x1234567890ABCDEF) (running 0) = .next u) ∧
    (∃ u, exec (.registerWrite Agent.melvor ((fun b o => BitVec.ofNat 48 (123145302310912 + b * 16777216 + o)) 49 8) 4 0x1234567890ABCDEF) (running 0) = .next u) ∧
    (∃ u, exec (.registerWrite Agent.melvor ((fun b o => BitVec.ofNat 48 (123145302310912 + b * 16777216 + o)) 4 256) 4 0x1234567890ABCDEF) (running 0) = .next u) ∧
    (∃ u, exec (.registerWrite Agent.melvor ((fun b o => BitVec.ofNat 48 (123145302310912 + b * 16777216 + o)) 5 0) 4 0x1234567890ABCDEF) (running 0) = .next u) :=
  ⟨⟨_, (h (running 0) (.melvor) (0xA000000002) (0x1234567890ABCDEF)).1 (0) (0x20) (by decide +kernel) (by decide +kernel) (by decide +kernel) (by decide +kernel)⟩,
   ⟨_, (h (running 0) (.melvor) (0xA000000002) (0x1234567890ABCDEF)).2.1 (15) (0) (0) (by decide +kernel) (by decide +kernel) (by decide +kernel)⟩,
   ⟨_, (h (running 0) (.port 1) (0xA000000000) (0x1234567890ABCDEF)).2.2.1 (by decide +kernel) (by decide +kernel) (by decide +kernel)⟩,
   ⟨_, ((h (running 0) (.melvor) (0xA000000002) (0x1234567890ABCDEF)).2.2.2.1 (0) (by decide +kernel)).1 (by decide +kernel) (by decide +kernel)⟩,
   ⟨_, ((h (running 0) (.melvor) (0xA000000002) (0x1234567890ABCDEF)).2.2.2.1 (0) (by decide +kernel)).2 (by decide +kernel) (by decide +kernel)⟩,
   ⟨_, (h (running 0) (.port 1) (0xA000000000) (0x1234567890ABCDEF)).2.2.2.2.1 (4) (by decide +kernel) (by decide +kernel) (by decide +kernel)⟩,
   ⟨_, (h (running 0) (.melvor) (0xA000000002) (0x1234567890ABCDEF)).2.2.2.2.2.1 (by decide +kernel) (by decide +kernel)⟩,
   ⟨_, (h (running 0) (.melvor) (0xA000000002) (0x1234567890ABCDEF)).2.2.2.2.2.2.1 (by decide +kernel) (by decide +kernel)⟩,
   ⟨_, (h (running 0) (.melvor) (0xA000000002) (0x1234567890ABCDEF)).2.2.2.2.2.2.2.1 (by decide +kernel) (by decide +kernel)⟩,
   ⟨_, (h (running 0) (.melvor) (0xA000000002) (0x1234567890ABCDEF)).2.2.2.2.2.2.2.2 (by decide +kernel) (by decide +kernel)⟩⟩

theorem wit_TakeCommand (h : Obligations.TakeCommand) :
    (∃ u, exec (.matmul 5) (q3 0 matmulRcd) = .next u) ∧
    (∃ u, exec (.matmul 5) (q3 0 (bb 1)) = .next u) ∧
    (∃ u, exec (.setvl 5) (q3 1 (setvlRcd 5)) = .next u) ∧
    (∃ u, exec (.setvl 5) (q3 1 (setvlRcd 65)) = .next u) ∧
    (∃ u, exec (.upart 5) (q3 2 upartRcd) = .next u) ∧
    (∃ u, exec (.vmap 5) (q3 1 vmapRcd) = .next u) ∧
    (∃ u, exec (.vmap 5) (q3 1 (bb 1)) = .next u) ∧
    (∃ u, exec (.accDrop 5) (q3 0 (bb 3)) = .next u) ∧
    (∃ u, exec (.accFlush 5) (q3 0 (bb 2)) = .next u) ∧
    (∃ u, exec (.tload 5) (q3 1 (bb 4)) = .next u) ∧
    (∃ u, exec (.uapply 5) (q3 2 (bb 3)) = .next u) ∧
    (∃ u, exec (.ublk 5) (q3 2 (bb 1)) = .next u) ∧
    (∃ u, exec (.urows 5) (q3 2 (bb 4)) = .next u) ∧
    (∃ u, exec (.vstep 5) (q3 1 (bb 2)) = .next u) :=
  ⟨⟨_, (h (q3 0 matmulRcd) (5) (cmd matmulRcd) ([]) ((0, 1, Instr.matmul)) (by simp [takeRows]) (by decide +kernel) (by decide +kernel) (by decide +kernel) (by decide +kernel) (by decide +kernel)).1 (by decide +kernel)⟩,
   ⟨_, (h (q3 0 (bb 1)) (5) (cmd (bb 1)) ([]) ((0, 1, Instr.matmul)) (by simp [takeRows]) (by decide +kernel) (by decide +kernel) (by decide +kernel) (by decide +kernel) (by decide +kernel)).2 (by decide +kernel)⟩,
   ⟨_, (h (q3 1 (setvlRcd 5)) (5) (cmd (setvlRcd 5)) ([]) ((1, 3, Instr.setvl)) (by simp [takeRows]) (by decide +kernel) (by decide +kernel) (by decide +kernel) (by decide +kernel) (by decide +kernel)).1 (by decide +kernel)⟩,
   ⟨_, (h (q3 1 (setvlRcd 65)) (5) (cmd (setvlRcd 65)) ([]) ((1, 3, Instr.setvl)) (by simp [takeRows]) (by decide +kernel) (by decide +kernel) (by decide +kernel) (by decide +kernel) (by decide +kernel)).2 (by decide +kernel)⟩,
   ⟨_, (h (q3 2 upartRcd) (5) (cmd upartRcd) ([]) ((2, 2, Instr.upart)) (by simp [takeRows]) (by decide +kernel) (by decide +kernel) (by decide +kernel) (by decide +kernel) (by decide +kernel)).1 (by decide +kernel)⟩,
   ⟨_, (h (q3 1 vmapRcd) (5) (cmd vmapRcd) ([]) ((1, 1, Instr.vmap)) (by simp [takeRows]) (by decide +kernel) (by decide +kernel) (by decide +kernel) (by decide +kernel) (by decide +kernel)).1 (by decide +kernel)⟩,
   ⟨_, (h (q3 1 (bb 1)) (5) (cmd (bb 1)) ([]) ((1, 1, Instr.vmap)) (by simp [takeRows]) (by decide +kernel) (by decide +kernel) (by decide +kernel) (by decide +kernel) (by decide +kernel)).2 (by decide +kernel)⟩,
   ⟨_, (h (q3 0 (bb 3)) (5) (cmd (bb 3)) ([]) ((0, 3, Instr.accDrop)) (by simp [takeRows]) (by decide +kernel) (by decide +kernel) (by decide +kernel) (by decide +kernel) (by decide +kernel)).2 (by decide +kernel)⟩,
   ⟨_, (h (q3 0 (bb 2)) (5) (cmd (bb 2)) ([]) ((0, 2, Instr.accFlush)) (by simp [takeRows]) (by decide +kernel) (by decide +kernel) (by decide +kernel) (by decide +kernel) (by decide +kernel)).2 (by decide +kernel)⟩,
   ⟨_, (h (q3 1 (bb 4)) (5) (cmd (bb 4)) ([]) ((1, 4, Instr.tload)) (by simp [takeRows]) (by decide +kernel) (by decide +kernel) (by decide +kernel) (by decide +kernel) (by decide +kernel)).2 (by decide +kernel)⟩,
   ⟨_, (h (q3 2 (bb 3)) (5) (cmd (bb 3)) ([]) ((2, 3, Instr.uapply)) (by simp [takeRows]) (by decide +kernel) (by decide +kernel) (by decide +kernel) (by decide +kernel) (by decide +kernel)).2 (by decide +kernel)⟩,
   ⟨_, (h (q3 2 (bb 1)) (5) (cmd (bb 1)) ([]) ((2, 1, Instr.ublk)) (by simp [takeRows]) (by decide +kernel) (by decide +kernel) (by decide +kernel) (by decide +kernel) (by decide +kernel)).2 (by decide +kernel)⟩,
   ⟨_, (h (q3 2 (bb 4)) (5) (cmd (bb 4)) ([]) ((2, 4, Instr.urows)) (by simp [takeRows]) (by decide +kernel) (by decide +kernel) (by decide +kernel) (by decide +kernel) (by decide +kernel)).2 (by decide +kernel)⟩,
   ⟨_, (h (q3 1 (bb 2)) (5) (cmd (bb 2)) ([]) ((1, 2, Instr.vstep)) (by simp [takeRows]) (by decide +kernel) (by decide +kernel) (by decide +kernel) (by decide +kernel) (by decide +kernel)).2 (by decide +kernel)⟩⟩

theorem wit_PairDependAndSlotWaits (h : Obligations.PairDependAndSlotWaits) :
    (∃ u, exec (.pairPartnerTake 5) (running 0 (mx fun y => {y with run := some rD, q := {queue := [cmd gR]}})) = .next u) ∧
    (∃ u, exec (.slotWaitEnd 5) (running 0 (mx fun y => {y with run := some rS, waiting := true, drain := [(0, 7),(1,3)]})) = .next u) ∧
    (∃ u, exec (.depWaitEnd 5 Engine.mxe Ecc.ok Ecc.ok) (running 0 (mx fun y => {y with run := some {rM with cmd := cmd (dep matmulRcd)}})) = .next u) ∧
    (∃ u, exec (.depWaitEnd 5 Engine.vxe Ecc.ok Ecc.ok) (running 0 (vx fun y => {y with run := some (vR (dep setvl))})) = .next u) ∧
    (∃ u, exec (.depWaitEnd 5 Engine.upe Ecc.ok Ecc.ok) (running 0 (up fun y => {y with run := some (uR (dep upartRcd))})) = .next u) ∧
    (∃ u, exec (.depWaitEnd 5 Engine.vxe Ecc.ok Ecc.ok) (running 0 (vx fun y => {y with run := some (vR setvl)})) = .next u) ∧
    (∃ u, exec (.depWaitEnd 5 Engine.upe Ecc.ok Ecc.ok) (running 0 (fun x => up (fun y => {y with run := some (uR upartRcd)}) (frozenG x))) = .next u) ∧
    (∃ u, exec (.depWaitEnd 5 Engine.mxe Ecc.ok Ecc.ok) (running 0 (mx fun y => {y with run := some rM})) = .next u) :=
  ⟨(by refine ⟨_, (h (running 0 (mx fun y => {y with run := some rD, q := {queue := [cmd gR]}})) (5) ?_ ?_).1 (rD) (cmd gR) ([]) ?_ ?_ ?_ ?_ ?_ ?_⟩ <;> decide +kernel),
   (((h (running 0 (mx fun y => {y with run := some rS, waiting := true, drain := [(0, 7),(1,3)]})) (5) (by decide +kernel) (by decide +kernel)).2.1 (rS) (by decide +kernel) (by decide +kernel)).elim fun _ q => ⟨_, q.1⟩),
   ⟨_, (h (running 0 (mx fun y => {y with run := some {rM with cmd := cmd (dep matmulRcd)}})) (5) (by decide +kernel) (by decide +kernel)).2.2.1 ({rM with cmd := cmd (dep matmulRcd)}) (.ok) (.ok) (by decide +kernel) (by decide +kernel)⟩,
   ⟨_, (h (running 0 (vx fun y => {y with run := some (vR (dep setvl))})) (5) (by decide +kernel) (by decide +kernel)).2.2.2.1 (vR (dep setvl)) (.ok) (.ok) (by decide +kernel) (by decide +kernel)⟩,
   ⟨_, (h (running 0 (up fun y => {y with run := some (uR (dep upartRcd))})) (5) (by decide +kernel) (by decide +kernel)).2.2.2.2.1 (uR (dep upartRcd)) (.ok) (.ok) (by decide +kernel) (by decide +kernel)⟩,
   (((h (running 0 (vx fun y => {y with run := some (vR setvl)})) (5) (by decide +kernel) (by decide +kernel)).2.2.2.2.2.1 (vR setvl) (by decide +kernel) (by decide +kernel) (by decide +kernel) (by decide +kernel)).elim fun _ q => ⟨_, q.1⟩),
   (((h (running 0 (fun x => up (fun y => {y with run := some (uR upartRcd)}) (frozenG x))) (5) (by decide +kernel) (by decide +kernel)).2.2.2.2.2.2.1 (uR upartRcd) (by decide +kernel) (by decide +kernel) (by decide +kernel) (by decide +kernel) (by decide +kernel)).elim fun _ q => q.elim fun _ q => ⟨_, q.1⟩),
   (by refine (((h (running 0 (mx fun y => {y with run := some rM})) (5) ?_ ?_).2.2.2.2.2.2.2 (rM) ?_ ?_ ?_ ?_ ?_ ?_ ?_ ?_).elim fun _ q => ⟨_, q.1⟩) <;> decide +kernel)⟩

theorem wit_EngineWork (h : Obligations.EngineWork) :
    (∃ u, exec (.mxeRowBlock 5 Ecc.ok Ecc.ok) (running 0 (fun x => hot (mx (fun y => {y with run := some rS}) (ops x)))) = .next u) ∧
    (∃ u, exec (.mxeRowBlock 5 Ecc.ok Ecc.ok) (running 0 (fun x => mx (fun y => {y with run := some rS}) (ops x))) = .next u) ∧
    (∃ u, exec (.vxeVector 5 Ecc.ok Ecc.ok) (running 0 (fun x => hot (vx (fun y => {y with run := some vS}) (ops x)))) = .next u) ∧
    (∃ u, exec (.vxeVector 5 Ecc.ok Ecc.ok) (running 0 (fun x => vx (fun y => {y with run := some vS}) (ops x))) = .next u) ∧
    (∃ u, exec (.upeUnit 5 Ecc.ok) (running 0 (fun x => hot (up (fun y => {y with run := some {uR upartRcd with started := true}}) (ops x)))) = .next u) ∧
    (∃ u, exec (.upeUnit 5 Ecc.ok) (running 0 (fun x => up (fun y => {y with run := some {uR upartRcd with started := true}}) {(ops x) with decl := {jobRec := 5}})) = .next u) :=
  ⟨(by refine ⟨_, ((h (running 0 (fun x => hot (mx (fun y => {y with run := some rS}) (ops x)))) (5) ?_ ?_ ?_).1 (rS) ?_ ?_ ?_ ?_ ?_ ?_).1 ?_ ?_⟩ <;> decide +kernel),
   (by refine ((((h (running 0 (fun x => mx (fun y => {y with run := some rS}) (ops x))) (5) ?_ ?_ ?_).1 (rS) ?_ ?_ ?_ ?_ ?_ ?_).2 ?_ ?_ ?_ ?_).elim fun _ q => ⟨_, q.1⟩) <;> decide +kernel),
   ⟨_, ((h (running 0 (fun x => hot (vx (fun y => {y with run := some vS}) (ops x)))) (5) (by decide +kernel) (by decide +kernel) (by decide +kernel)).2.1 (vS) (by decide +kernel) (by decide +kernel) (by decide +kernel)).1 (by decide +kernel)⟩,
   ((((h (running 0 (fun x => vx (fun y => {y with run := some vS}) (ops x))) (5) (by decide +kernel) (by decide +kernel) (by decide +kernel)).2.1 (vS) (by decide +kernel) (by decide +kernel) (by decide +kernel)).2 (by decide +kernel)).elim fun _ q => ⟨_, q.1⟩),
   ⟨_, ((h (running 0 (fun x => hot (up (fun y => {y with run := some {uR upartRcd with started := true}}) (ops x)))) (5) (by decide +kernel) (by decide +kernel) (by decide +kernel)).2.2 ({uR upartRcd with started := true}) (by decide +kernel) (by decide +kernel) (by decide +kernel)).1 (by decide +kernel)⟩,
   ((((h (running 0 (fun x => up (fun y => {y with run := some {uR upartRcd with started := true}}) {(ops x) with decl := {jobRec := 5}})) (5) (by decide +kernel) (by decide +kernel) (by decide +kernel)).2.2 ({uR upartRcd with started := true}) (by decide +kernel) (by decide +kernel) (by decide +kernel)).2 (by decide +kernel) (by decide +kernel)).elim fun _ q => ⟨_, q.1⟩)⟩

theorem wit_EngineResults (h : Obligations.EngineResults) :
    (∃ u, exec (.mxeRowBlock 5 Ecc.ok Ecc.ok) (mtile (rPair 1)) = .next u) ∧
    (∃ u, exec (.mxeRowBlock 5 Ecc.ok Ecc.ok) (mtile (mrun 385 64 96 1 0 2 0 769)) = .next u) ∧
    (∃ u, exec (.mxeRowBlock 5 Ecc.ok Ecc.ok) (mtile (rPair 2)) = .next u) ∧
    (∃ u, exec (.vxeVector 5 Ecc.ok Ecc.ok) (vrun [(52, 2^18)] 0) = .next u) ∧
    (∃ u, exec (.upeUnit 5 Ecc.ok) (urun [(0,2)] [0x1010]) = .next u) ∧
    (∃ u, exec (.upeUnit 5 Ecc.ok) (urun [(0,1)] [0x2041]) = .next u) :=
  ⟨(by refine ((((h (mtile (rPair 1)) (5) ?_ ?_ ?_).1 ((rPair 1)) ?_ ?_ ?_ ?_ ?_ ?_ ?_).1 ?_ ?_).elim fun _ q => ⟨_, q.1⟩) <;> decide +kernel),
   (by refine ((((h (mtile (mrun 385 64 96 1 0 2 0 769)) (5) ?_ ?_ ?_).1 ((mrun 385 64 96 1 0 2 0 769)) ?_ ?_ ?_ ?_ ?_ ?_ ?_).2.1 ?_ ?_).elim fun _ q => ⟨_, q.1⟩) <;> decide +kernel),
   (by refine ((((h (mtile (rPair 2)) (5) ?_ ?_ ?_).1 ((rPair 2)) ?_ ?_ ?_ ?_ ?_ ?_ ?_).2.2 ((rPair 2).block.out.headD ⟨false,0,0,0,0⟩) ?_ ?_ ?_).elim fun _ q => ⟨_, q.1⟩) <;> decide +kernel),
   (((h (vrun [(52, 2^18)] 0) (5) (by decide +kernel) (by decide +kernel) (by decide +kernel)).2.1 (((vrun [(52, 2^18)] 0).tile 5).vxe.run.getD vS) (by decide +kernel) (by decide +kernel) (by decide +kernel) (by decide +kernel)).elim fun _ q => q.elim fun _ q => ⟨_, q.1⟩),
   ((((h (urun [(0,2)] [0x1010]) (5) (by decide +kernel) (by decide +kernel) (by decide +kernel)).2.2 (((urun [(0,2)] [0x1010]).tile 5).upe.run.getD uS) (by decide +kernel) (by decide +kernel) (by decide +kernel) (by decide +kernel) (by decide +kernel)).1 (by decide +kernel)).elim fun _ q => q.elim fun _ q => ⟨_, q.1⟩),
   ((((h (urun [(0,1)] [0x2041]) (5) (by decide +kernel) (by decide +kernel) (by decide +kernel)).2.2 (((urun [(0,1)] [0x2041]).tile 5).upe.run.getD uS) (by decide +kernel) (by decide +kernel) (by decide +kernel) (by decide +kernel) (by decide +kernel)).2 (by decide +kernel) (by decide +kernel)).elim fun _ q => ⟨_, q.1⟩)⟩

theorem wit_EngineComplete (h : Obligations.EngineComplete) :
    (∃ u, exec (.engineComplete 5 Engine.mxe) (running 0 (fun x => mx (fun y => {y with q := {summs := four}, run := some {rF with cmd := su rF.cmd}}) (ops x))) = .next u) ∧
    (∃ u, exec (.engineComplete 5 Engine.mxe) (running 0 (fun x => mx (fun y => {y with run := some rF}) (ops x))) = .next u) :=
  ⟨⟨_, (h (running 0 (fun x => mx (fun y => {y with q := {summs := four}, run := some {rF with cmd := su rF.cmd}}) (ops x))) (5) (.mxe) (su rF.cmd) (by decide +kernel) (by decide +kernel) (by decide +kernel)).1 (by decide +kernel) (by decide +kernel)⟩,
   (((h (running 0 (fun x => mx (fun y => {y with run := some rF}) (ops x))) (5) (.mxe) (rF.cmd) (by decide +kernel) (by decide +kernel) (by decide +kernel)).2 (by decide +kernel)).elim fun _ q => q.elim fun _ q => ⟨_, q.1⟩)⟩

theorem wit_OpenAndClose (h : Obligations.OpenAndClose) :
    (∃ u, exec (.openReq 1 2 0 Ecc.ok Ecc.ok) (dq [rq (openIn 3)] {}) = .next u) ∧
    (∃ u, exec (.openReq 1 2 0 Ecc.ok Ecc.ok) (dq [rq (openIn 32)] {}) = .next u) ∧
    (∃ u, exec (.closeReq 1 2 0 Ecc.ok) (dq [rq (rcd [(0, 2+3*256)])] qi) = .next u) :=
  ⟨(((h (dq [rq (openIn 3)] {}) (1) (2) (0) (rq (openIn 3)) (by decide +kernel)).1 (by decide +kernel) (by decide +kernel) (by decide +kernel) (by decide +kernel) (by decide +kernel)).elim fun _ q => ⟨_, q.1⟩),
   ⟨_, (h (dq [rq (openIn 32)] {}) (1) (2) (0) (rq (openIn 32)) (by decide +kernel)).2.1 (by decide +kernel) (by decide +kernel) (by decide +kernel) (1) (by decide +kernel)⟩,
   ⟨_, (h (dq [rq (rcd [(0, 2+3*256)])] qi) (1) (2) (0) (rq (rcd [(0, 2+3*256)])) (by decide +kernel)).2.2 (by decide +kernel) (by decide +kernel) (by decide +kernel) (by decide +kernel) (by decide +kernel)⟩⟩

theorem wit_XferGoAndCancel (h : Obligations.XferGoAndCancel) :
    (∃ u, exec (.xferReq 1 2 0 Ecc.ok) (dq [rq xfer8] qi) = .next u) ∧
    (∃ u, exec (.xferReq 1 2 0 Ecc.ok) (dq [rq (xferR 8192 0 4096)] qi) = .next u) ∧
    (∃ u, exec (.xferReq 1 2 0 Ecc.ok) (secP (dq [rq xfer8] qi)) = .next u) ∧
    (∃ u, exec (.goReq 1 2 0 Ecc.ok) (dq [rq (xfl 4)] (qi [xf0, xfStaged])) = .next u) ∧
    (∃ u, exec (.goReq 1 2 0 Ecc.ok) (dq [rq (xfl 4)] (qi [xf0])) = .next u) ∧
    (∃ u, exec (.cancelReq 1 2 0 Ecc.ok) (dq [rq (xfl 5)] (qi [xf0, xfStaged])) = .next u) ∧
    (∃ u, exec (.cancelReq 1 2 0 Ecc.ok) (dq [rq (xfl 5)] (qi [xf0])) = .next u) :=
  ⟨((((h).1 (dq [rq xfer8] qi) (1) (2) (0) (rq xfer8) (by decide +kernel) (by decide +kernel) (by decide +kernel) (by decide +kernel)).1 (by decide +kernel)).elim fun _ q => ⟨_, q.1⟩),
   ⟨_, ((h).1 (dq [rq (xferR 8192 0 4096)] qi) (1) (2) (0) (rq (xferR 8192 0 4096)) (by decide +kernel) (by decide +kernel) (by decide +kernel) (by decide +kernel)).2.1 (by decide +kernel) (by decide +kernel) (by decide +kernel)⟩,
   ⟨_, ((h).1 (secP (dq [rq xfer8] qi)) (1) (2) (0) (rq xfer8) (by decide +kernel) (by decide +kernel) (by decide +kernel) (by decide +kernel)).2.2 (by decide +kernel) (by decide +kernel) (by decide +kernel) (by decide +kernel)⟩,
   ⟨_, (((h).2 (dq [rq (xfl 4)] (qi [xf0, xfStaged])) (1) (2) (0) (rq (xfl 4)) (by decide +kernel) (by decide +kernel) (by decide +kernel) (by decide +kernel)).1 ([xf0]) (xfStaged) ([]) (by decide +kernel) (by decide +kernel) (by decide +kernel)).1 (by decide +kernel)⟩,
   ⟨_, (((h).2 (dq [rq (xfl 4)] (qi [xf0])) (1) (2) (0) (rq (xfl 4)) (by decide +kernel) (by decide +kernel) (by decide +kernel) (by decide +kernel)).2 (by decide +kernel)).1 (by decide +kernel)⟩,
   ⟨_, (((h).2 (dq [rq (xfl 5)] (qi [xf0, xfStaged])) (1) (2) (0) (rq (xfl 5)) (by decide +kernel) (by decide +kernel) (by decide +kernel) (by decide +kernel)).1 ([xf0]) (xfStaged) ([]) (by decide +kernel) (by decide +kernel) (by decide +kernel)).2 (by decide +kernel)⟩,
   ⟨_, (((h).2 (dq [rq (xfl 5)] (qi [xf0])) (1) (2) (0) (rq (xfl 5)) (by decide +kernel) (by decide +kernel) (by decide +kernel) (by decide +kernel)).2 (by decide +kernel)).2 (by decide +kernel)⟩⟩

theorem wit_TransfersIn (h : Obligations.TransfersIn) :
    (∃ u, exec (.baleIssue 1 3) (npS (di [xh0])) = .next u) ∧
    (∃ u, exec (.baleIssue 1 3) (di [xf0]) = .next u) ∧
    (∃ u, exec (.baleIssue 1 3) (di [xh0]) = .next u) ∧
    (∃ u, exec (.sideGateIssue 1 3) (di [xfs]) = .next u) ∧
    (∃ u, exec (.baleDeliver 1 3 Ecc.ue) (di [xload]) = .next u) ∧
    (∃ u, exec (.baleDeliver 1 3 Ecc.ok) (di [xload]) = .next u) :=
  ⟨(by refine ⟨_, (h (npS (di [xh0])) (1) (3) ([]) ([]) (xh0) ?_ ?_ ?_ ?_ ?_ ?_).1 ?_ ?_ ?_ ?_⟩ <;> decide +kernel),
   (by refine ((((h (di [xf0]) (1) (3) ([]) ([]) (xf0) ?_ ?_ ?_ ?_ ?_ ?_).2.1 ?_ ?_ ?_ ?_ ?_).1 ?_).elim fun _ q => ⟨_, q.1⟩) <;> decide +kernel),
   (by refine ⟨_, ((h (di [xh0]) (1) (3) ([]) ([]) (xh0) ?_ ?_ ?_ ?_ ?_ ?_).2.1 ?_ ?_ ?_ ?_ ?_).2 (0) (0) ?_ ?_⟩ <;> decide +kernel),
   (by refine (((h (di [xfs]) (1) (3) ([]) ([]) (xfs) ?_ ?_ ?_ ?_ ?_ ?_).2.2.1 ?_ ?_ ?_ ?_ ?_ ?_).elim fun _ q => ⟨_, q.1⟩) <;> decide +kernel),
   (by refine ⟨_, ((h (di [xload]) (1) (3) ([]) ([]) (xload) ?_ ?_ ?_ ?_ ?_ ?_).2.2.2 ?_ ?_ ?_ ?_ ?_).1 (.ue) ?_⟩ <;> decide +kernel),
   (by refine ((((h (di [xload]) (1) (3) ([]) ([]) (xload) ?_ ?_ ?_ ?_ ?_ ?_).2.2.2 ?_ ?_ ?_ ?_ ?_).2 (.ok) ?_ ?_ ?_ ?_).elim fun _ q => ⟨_, q.1⟩) <;> decide +kernel)⟩

theorem wit_TransfersOut (h : Obligations.TransfersOut) :
    (∃ u, exec (.dataTokenTake 1 2 0 5 Ecc.ok Ecc.ok) (dOut [xtok] (fun x => {x with chans := Sparse.set [] [] (32+5) [(0, tok 4)]})) = .next u) ∧
    (∃ u, exec (.baleWrite 1 3 Ecc.ue) (dOut [xfull]) = .next u) ∧
    (∃ u, exec (.baleWrite 1 3 Ecc.ok) (dOut [xfull]) = .next u) ∧
    (∃ u, exec (.xferComplete 1 3) (di [xdone]) = .next u) ∧
    (∃ u, exec (.xferComplete 1 3) (dOut [xgate]) = .next u) ∧
    (∃ u, exec (.xferComplete 1 3) (dOut [{xwr with notify := true}]) = .next u) :=
  ⟨(by refine ⟨_, (h (dOut [xtok] (fun x => {x with chans := Sparse.set [] [] (32+5) [(0, tok 4)]})) (1) (3) ([]) ([]) (xtok) ?_ ?_).1 (2) (0) (5) (tok 4) ?_ ?_ ?_ ?_ ?_ ?_ ?_ ?_ ?_ (.ok)⟩ <;> decide +kernel),
   (by refine ⟨_, ((h (dOut [xfull]) (1) (3) ([]) ([]) (xfull) ?_ ?_).2.1 ?_ ?_ ?_ ?_ ?_ ?_ ?_ ?_).2⟩ <;> decide +kernel),
   (by refine ((((h (dOut [xfull]) (1) (3) ([]) ([]) (xfull) ?_ ?_).2.1 ?_ ?_ ?_ ?_ ?_ ?_ ?_ ?_).1 (.ok) ?_).elim fun _ q => ⟨_, q.1⟩) <;> decide +kernel),
   ⟨_, (h (di [xdone]) (1) (3) ([]) ([]) (xdone) (by decide +kernel) (by decide +kernel)).2.2.1 (by decide +kernel) (by decide +kernel) (by decide +kernel) (by decide +kernel) (by decide +kernel)⟩,
   ⟨_, (h (dOut [xgate]) (1) (3) ([]) ([]) (xgate) (by decide +kernel) (by decide +kernel)).2.2.2.1 (by decide +kernel) (by decide +kernel) (by decide +kernel) (by decide +kernel) (by decide +kernel)⟩,
   (by refine ⟨_, (h (dOut [{xwr with notify := true}]) (1) (3) ([]) ([]) ({xwr with notify := true}) ?_ ?_).2.2.2.2 ?_ ?_ ?_ ?_ ?_ ?_⟩ <;> decide +kernel)⟩

theorem wit_HoldsMissesAndHostEnds (h : Obligations.HoldsMissesAndHostEnds) :
    (∃ u, exec (.releaseHoldEnd 1 3) (dlrel (di [xdone, xw0])) = .next u) ∧
    (∃ u, exec (.deadlineMiss 1 3) (di [xdone, xf0]) = .next u) ∧
    (∃ u, exec (.timeout 1 3 2 0) (di [xhost]) = .next u) ∧
    (∃ u, exec (.timeout 1 3 2 0) (faulted (di [xhost])) = .next u) ∧
    (∃ u, exec (.timeout 1 3 2 0) (stopD (di [xhost])) = .next u) ∧
    (∃ u, exec (.baleDeliver 1 3 Ecc.ok) (stopD (di [xhost])) = .next u) ∧
    (∃ u, exec (.baleIssue 1 3) (stopD (di [xhost])) = .next u) ∧
    (∃ u, exec (.baleWrite 1 3 Ecc.ok) (stopD (di [xhost])) = .next u) ∧
    (∃ u, exec (.dataTokenTake 1 2 0 2 Ecc.ok Ecc.ok) (stopD (di [xhost])) = .next u) ∧
    (∃ u, exec (.sideGateIssue 1 3) (stopD (di [xhost])) = .next u) ∧
    (∃ u, exec (.xferComplete 1 3) (stopD (di [xhost])) = .next u) ∧
    (∃ u, exec (.xferReq 1 2 0 Ecc.ok) (stopD (di [xhost])) = .next u) ∧
    (∃ u, exec (.hostCompletion (Requester.drover 1) 3 false HostEnd.unsupported) (di [xhost]) = .next u) ∧
    (∃ u, exec (.hostCompletion (Requester.drover 1) 3 false (HostEnd.data 5)) (di [xhost]) = .next u) ∧
    (∃ u, exec (.hostCompletion (Requester.drover 1) 3 true (HostEnd.data 5)) (dropped (di [])) = .next u) ∧
    (∃ u, exec (.hostCompletion Requester.snapshot 3 false HostEnd.abort) snapBusy = .next u) :=
  ⟨(by refine ⟨_, (h (dlrel (di [xdone, xw0])) (1) (3)).1 ([xdone]) (xw0) ([]) ?_ ?_ ?_ ?_ ?_ ?_ ?_ ?_ ?_⟩ <;> decide +kernel),
   ⟨_, (h (di [xdone, xf0]) (1) (3)).2.1 ([xdone]) (xf0) ([]) (by decide +kernel) (by decide +kernel) (by decide +kernel) (by decide +kernel) (by decide +kernel)⟩,
   ⟨_, ((h (di [xhost]) (1) (3)).2.2.1 (xhost) (2) (0) (by decide +kernel) (by decide +kernel)).1 (by decide +kernel)⟩,
   ⟨_, ((h (faulted (di [xhost])) (1) (3)).2.2.1 (xhost) (2) (0) (by decide +kernel) (by decide +kernel)).2 (by decide +kernel)⟩,
   ⟨_, ((h (stopD (di [xhost])) (1) (3)).2.2.2.1 (2) (0) (2) (.ok) (by decide +kernel)).1⟩,
   ⟨_, ((h (stopD (di [xhost])) (1) (3)).2.2.2.1 (2) (0) (2) (.ok) (by decide +kernel)).2.2.1⟩,
   ⟨_, ((h (stopD (di [xhost])) (1) (3)).2.2.2.1 (2) (0) (2) (.ok) (by decide +kernel)).2.1⟩,
   ⟨_, ((h (stopD (di [xhost])) (1) (3)).2.2.2.1 (2) (0) (2) (.ok) (by decide +kernel)).2.2.2.1⟩,
   ⟨_, ((h (stopD (di [xhost])) (1) (3)).2.2.2.1 (2) (0) (2) (.ok) (by decide +kernel)).2.2.2.2.2.2.1⟩,
   ⟨_, ((h (stopD (di [xhost])) (1) (3)).2.2.2.1 (2) (0) (2) (.ok) (by decide +kernel)).2.2.2.2.2.1⟩,
   ⟨_, ((h (stopD (di [xhost])) (1) (3)).2.2.2.1 (2) (0) (2) (.ok) (by decide +kernel)).2.2.2.2.1⟩,
   ⟨_, ((h (stopD (di [xhost])) (1) (3)).2.2.2.1 (2) (0) (2) (.ok) (by decide +kernel)).2.2.2.2.2.2.2⟩,
   ⟨_, ((h (di [xhost]) (1) (3)).2.2.2.2.1 ([]) (xhost) ([]) (⟨0, 0, 0, 64, false, true, 2, 0, 5⟩) ([]) (5) (by decide +kernel) (by decide +kernel) (by decide +kernel) (by decide +kernel)).2⟩,
   ⟨_, ((h (di [xhost]) (1) (3)).2.2.2.2.1 ([]) (xhost) ([]) (⟨0, 0, 0, 64, false, true, 2, 0, 5⟩) ([]) (5) (by decide +kernel) (by decide +kernel) (by decide +kernel) (by decide +kernel)).1 (by decide +kernel) (by decide +kernel)⟩,
   ⟨_, ((h (dropped (di [])) (1) (3)).2.2.2.2.2.1 (⟨0, 0, 0, 4, false, true, 2, 0, 5⟩) ([⟨1, 0, 0, 4, false, true, 2, 0, 5⟩]) (5) (by decide +kernel)).1⟩,
   ⟨_, (h (snapBusy) (1) (3)).2.2.2.2.2.2 (by decide +kernel) (by decide +kernel)⟩⟩

theorem wit_LineAccess (h : Obligations.LineAccess) :
    (∃ u, exec (.hbmLineAccess 1 [(lr .melvor false 0x1010)] 0) (drv [xf0]) = .next u) ∧
    (∃ u, exec (.hbmLineAccess 1 [(lr (.host 0) true 0xA00000)] 0) hmem = .next u) ∧
    (∃ u, exec (.hbmLineAccess 0 [] 0) (pnd [acc (lr .melvor false 0x1010)]) = .next u) ∧
    (∃ u, exec (.hbmLineAccess 0 [] 0) (pnd [acc (lr .melvor false 0x1041)]) = .next u) ∧
    (∃ u, exec (.hbmLineAccess 0 [] 0) (drv [xf0]) = .next u) ∧
    (∃ u, exec (.hbmLineAccess 0 [] 0) (pnd [acc (lr (.foldPort 0) true 0x1000 6)]) = .next u) :=
  ⟨⟨_, ((h (drv [xf0]) (1) (lr .melvor false 0x1010)).1 (by decide +kernel) (by decide +kernel) (by decide +kernel)).1 (by decide +kernel)⟩,
   ((((h (hmem) (1) (lr (.host 0) true 0xA00000)).1 (by decide +kernel) (by decide +kernel) (by decide +kernel)).2 (by decide +kernel)).elim fun _ q => ⟨_, q.1⟩),
   ((((h (pnd [acc (lr .melvor false 0x1010)]) (0) (lr .melvor false 0x1010)).2.1 (acc (lr .melvor false 0x1010)) (by decide +kernel) (by decide +kernel) (by decide +kernel)).1 (by decide +kernel) (by decide +kernel) (by decide +kernel) (by decide +kernel)).elim fun _ q => ⟨_, q.1⟩),
   ((((h (pnd [acc (lr .melvor false 0x1041)]) (0) (lr .melvor false 0x1010)).2.1 (acc (lr .melvor false 0x1041)) (by decide +kernel) (by decide +kernel) (by decide +kernel)).2.1 (by decide +kernel) (by decide +kernel) (by decide +kernel) (by decide +kernel)).elim fun _ q => ⟨_, q.1⟩),
   (by refine ((((h (drv [xf0]) (0) (lr .melvor false 0x1010)).2.1 ({ req := lr (.drover 1) false 0x10000, due := some 5, q := 3, xid := 1, line := 0 }) ?_ ?_ ?_).2.2.1 (1) ([]) ([]) (xf0) ?_ ?_ ?_ ?_ ?_ ?_ ?_ ?_ ?_).elim fun _ q => ⟨_, q.1⟩) <;> decide +kernel),
   ((((h (pnd [acc (lr (.foldPort 0) true 0x1000 6)]) (0) (lr .melvor false 0x1010)).2.1 (acc (lr (.foldPort 0) true 0x1000 6)) (by decide +kernel) (by decide +kernel) (by decide +kernel)).2.2.2 (by decide +kernel) (by decide +kernel) (by decide +kernel)).elim fun _ q => ⟨_, q.1⟩)⟩

theorem wit_Scrubs (h : Obligations.Scrubs) :
    (∃ u, exec (.hbmScrubRead 0 (0x1000#48) 0) scrubS = .next u) ∧
    (∃ u, exec (.hbmScrubRead 0 (0x1040#48) 0) scrubS = .next u) ∧
    (∃ u, exec (.hbmScrubRead 0 (0x1000#48) 0) (hmem fun s => {s with rel := {s.rel with hbmScrubEn := false}}) = .next u) ∧
    (∃ u, exec (.tileScrubRead 5 false 0 Ecc.ue) scrubS = .next u) ∧
    (∃ u, exec (.tileScrubRead 5 false 0 Ecc.ce) scrubS = .next u) ∧
    (∃ u, exec (.tileScrubRewrite 5) s5 = .next u) :=
  ⟨((((h (scrubS) (0) (0x1000#48) (5) (false) (0)).1 (by decide +kernel) (by decide +kernel) (by decide +kernel) (by decide +kernel) (by decide +kernel)).1 (0) (by decide +kernel) (by decide +kernel)).elim fun _ q => ⟨_, q.1⟩),
   ((((h (scrubS) (0) (0x1040#48) (5) (false) (0)).1 (by decide +kernel) (by decide +kernel) (by decide +kernel) (by decide +kernel) (by decide +kernel)).2 (0) (by decide +kernel)).elim fun _ q => ⟨_, q.1⟩),
   ⟨_, (h (hmem fun s => {s with rel := {s.rel with hbmScrubEn := false}}) (0) (0x1000#48) (5) (false) (0)).2.1 (by decide +kernel) (0)⟩,
   ((((h (scrubS) (0) (0x1000#48) (5) (false) (0)).2.2.1 (by decide +kernel) (by decide +kernel) (by decide +kernel) (by decide +kernel)).2).elim fun _ q => ⟨_, q.1⟩),
   ((((h (scrubS) (0) (0x1000#48) (5) (false) (0)).2.2.1 (by decide +kernel) (by decide +kernel) (by decide +kernel) (by decide +kernel)).1 (by decide +kernel)).elim fun _ q => ⟨_, q.1⟩),
   ⟨_, (h (s5) (0) (0x1000#48) (5) (false) (100)).2.2.2 (by decide +kernel) (by decide +kernel) (by decide +kernel)⟩⟩

theorem wit_RegisterAndTileBars (h : Obligations.RegisterAndTileBars) :
    (∃ u, exec (.bar0Access 0 (tl true 0x280000 4 15 7)) (hmem.setPort (↑0) (have __src := hmem.port ↑0; { linkUp := __src.linkUp, speed := __src.speed, width := __src.width, cxlCache := __src.cxlCache, cxlMem := __src.cxlMem, secure := __src.secure, removed := __src.removed, perst := __src.perst, half := __src.half, urCnt := __src.urCnt, caCnt := __src.caCnt, epSent := __src.epSent, epRcvd := __src.epRcvd, lockedWr := __src.lockedWr, staleCnt := __src.staleCnt, refetchCnt := __src.refetchCnt, flipCnt := __src.flipCnt, removalCnt := __src.removalCnt, droppedLines := __src.droppedLines, fault := __src.fault, places := __src.places, regions := __src.regions, held := __src.held, cache := __src.cache, msix := __src.msix, pba := __src.pba, msixEn := __src.msixEn, funcMask := __src.funcMask, srisMode := __src.srisMode, d3hot := __src.d3hot, inFlr := __src.inFlr, viralEn := __src.viralEn, hdmLockOn := __src.hdmLockOn, hdmCommitted := __src.hdmCommitted, hdmLocked := __src.hdmLocked, rasUnc := __src.rasUnc, rasCor := __src.rasCor, rasUncMask := __src.rasUncMask, rasCorMask := __src.rasCorMask, doeIn := __src.doeIn, doeOut := __src.doeOut })) = .next u) ∧
    (∃ u, exec (.bar0Access 0 (tl false 0x100008 4 15 0)) hmem = .next u) ∧
    (∃ u, exec (.bar0Access 0 (tl true 0x100020 4 15 7)) (mem0 (fun h => { h with fault := some pf, secure := true })) = .next u) ∧
    (∃ u, exec (.bar0Access 0 (tl true 0x280000 4 15 7)) hmem = .next u) ∧
    (∃ u, exec (.bar0Access 0 (tl false 0x100002 4 15 0)) hmem = .next u) ∧
    (∃ u, exec (.bar2Access 0 (tl true 0x280000 4 15 7)) (hmem.setPort (↑0) (have __src := hmem.port ↑0; { linkUp := __src.linkUp, speed := __src.speed, width := __src.width, cxlCache := __src.cxlCache, cxlMem := __src.cxlMem, secure := __src.secure, removed := __src.removed, perst := __src.perst, half := __src.half, urCnt := __src.urCnt, caCnt := __src.caCnt, epSent := __src.epSent, epRcvd := __src.epRcvd, lockedWr := __src.lockedWr, staleCnt := __src.staleCnt, refetchCnt := __src.refetchCnt, flipCnt := __src.flipCnt, removalCnt := __src.removalCnt, droppedLines := __src.droppedLines, fault := __src.fault, places := __src.places, regions := __src.regions, held := __src.held, cache := __src.cache, msix := __src.msix, pba := __src.pba, msixEn := __src.msixEn, funcMask := __src.funcMask, srisMode := __src.srisMode, d3hot := __src.d3hot, inFlr := __src.inFlr, viralEn := __src.viralEn, hdmLockOn := __src.hdmLockOn, hdmCommitted := __src.hdmCommitted, hdmLocked := __src.hdmLocked, rasUnc := __src.rasUnc, rasCor := __src.rasCor, rasUncMask := __src.rasUncMask, rasCorMask := __src.rasCorMask, doeIn := __src.doeIn, doeOut := __src.doeOut })) = .next u) ∧
    (∃ u, exec (.bar4Access 0 (tl true 0x280000 4 15 7) Ecc.ok) (hmem.setPort (↑0) (have __src := hmem.port ↑0; { linkUp := __src.linkUp, speed := __src.speed, width := __src.width, cxlCache := __src.cxlCache, cxlMem := __src.cxlMem, secure := __src.secure, removed := __src.removed, perst := __src.perst, half := __src.half, urCnt := __src.urCnt, caCnt := __src.caCnt, epSent := __src.epSent, epRcvd := __src.epRcvd, lockedWr := __src.lockedWr, staleCnt := __src.staleCnt, refetchCnt := __src.refetchCnt, flipCnt := __src.flipCnt, removalCnt := __src.removalCnt, droppedLines := __src.droppedLines, fault := __src.fault, places := __src.places, regions := __src.regions, held := __src.held, cache := __src.cache, msix := __src.msix, pba := __src.pba, msixEn := __src.msixEn, funcMask := __src.funcMask, srisMode := __src.srisMode, d3hot := __src.d3hot, inFlr := __src.inFlr, viralEn := __src.viralEn, hdmLockOn := __src.hdmLockOn, hdmCommitted := __src.hdmCommitted, hdmLocked := __src.hdmLocked, rasUnc := __src.rasUnc, rasCor := __src.rasCor, rasUncMask := __src.rasUncMask, rasCorMask := __src.rasCorMask, doeIn := __src.doeIn, doeOut := __src.doeOut })) = .next u) ∧
    (∃ u, exec (.bar4Access 0 (tl false 0x100008 4 15 0) Ecc.ok) (mem0 (fun h => { h with fault := some pf, secure := true })) = .next u) ∧
    (∃ u, exec (.bar4Access 0 (tl true 0xA00100 4 15 99) Ecc.ok) (mem0 (fun h => { h with fault := some pf, secure := true })) = .next u) ∧
    (∃ u, exec (.bar4Access 0 (tl true 0x280000 4 15 7) Ecc.ok) hmem = .next u) :=
  ⟨⟨_, (h (hmem) (0) (tl true 0x280000 4 15 7) (by decide +kernel) (by decide +kernel) (by decide +kernel)).2.2.2.2.2.2.2.1⟩,
   (by refine ⟨_, (h (hmem) (0) (tl false 0x100008 4 15 0) ?_ ?_ ?_).1 ?_ ?_ ?_ ?_ ?_ ?_⟩ <;> decide +kernel),
   (by refine ⟨_, (h (mem0 (fun h => { h with fault := some pf, secure := true })) (0) (tl true 0x100020 4 15 7) ?_ ?_ ?_).2.1 ?_ ?_ ?_ ?_ ?_ ?_ ?_⟩ <;> decide +kernel),
   (by refine ⟨_, (h (hmem) (0) (tl true 0x280000 4 15 7) ?_ ?_ ?_).2.2.1 ?_ ?_ ?_ ?_ ?_ ?_ ?_ ?_ ?_ ?_⟩ <;> decide +kernel),
   ⟨_, (h (hmem) (0) (tl false 0x100002 4 15 0) (by decide +kernel) (by decide +kernel) (by decide +kernel)).2.2.2.1 (by decide +kernel)⟩,
   ⟨_, (h (hmem) (0) (tl true 0x280000 4 15 7) (by decide +kernel) (by decide +kernel) (by decide +kernel)).2.2.2.2.2.2.2.2.1⟩,
   ⟨_, (h (hmem) (0) (tl true 0x280000 4 15 7) (by decide +kernel) (by decide +kernel) (by decide +kernel)).2.2.2.2.2.2.2.2.2⟩,
   (by refine ⟨_, (h (mem0 (fun h => { h with fault := some pf, secure := true })) (0) (tl false 0x100008 4 15 0) ?_ ?_ ?_).2.2.2.2.1 (0) ?_ ?_ ?_ ?_ ?_ ?_ ?_ ?_ ?_ ?_⟩ <;> decide +kernel),
   (by refine ⟨_, (h (mem0 (fun h => { h with fault := some pf, secure := true })) (0) (tl true 0xA00100 4 15 99) ?_ ?_ ?_).2.2.2.2.2.1 (wtile) ?_ ?_ ?_ ?_ ?_ ?_ ?_ ?_ ?_⟩ <;> decide +kernel),
   ⟨_, (h (hmem) (0) (tl true 0x280000 4 15 7) (by decide +kernel) (by decide +kernel) (by decide +kernel)).2.2.2.2.2.2.1 (by decide +kernel)⟩⟩

theorem wit_MemoryThroughPorts (h : Obligations.MemoryThroughPorts) :
    (∃ u, exec (.bar2Access 0 (tl false 0xA00000 4 15 0)) hmem = .next u) ∧
    (∃ u, exec (.bar2Access 0 (tl false 0x1040 4 15 0)) hmem = .next u) ∧
    (∃ u, exec (.bar2Access 0 (tl true 0x1000 4 13 0x12345678 true)) hmem = .next u) ∧
    (∃ u, exec (.bar2Access 0 (tl false 0x1000 4 15 0)) hmem = .next u) ∧
    (∃ u, exec (.bar2Access 0 (tl true 0x103C 3 5 0xABCDEF)) hmem = .next u) ∧
    (∃ u, exec (.memRd 0 MemOp.rd 0x1000 MetaValue.any 0) hmem = .next u) ∧
    (∃ u, exec (.memRd 0 MemOp.rd 0xA00000 MetaValue.any 0) hmem = .next u) ∧
    (∃ u, exec (.memWr 0 0x1000 (5#64) 0x1234 false) hmem = .next u) ∧
    (∃ u, exec (.memWr 0 0x1000 (5#64) 0x1234 true) hmem = .next u) ∧
    (∃ u, exec (.memWr 0 0xA00000 (5#64) 0x1234 false) hmem = .next u) :=
  ⟨((((h (hmem) (0) (tl false 0xA00000 4 15 0) (0x1000) (.any) (5#64) (0x1234) (by decide +kernel) (by decide +kernel)).1 (by decide +kernel) (by decide +kernel) (by decide +kernel) (by decide +kernel)).1 (0xA00000) ([]) (by decide +kernel) (by decide +kernel) (by decide +kernel)).elim fun _ q => ⟨_, q.1⟩),
   (((((h (hmem) (0) (tl false 0x1040 4 15 0) (0x1000) (.any) (5#64) (0x1234) (by decide +kernel) (by decide +kernel)).1 (by decide +kernel) (by decide +kernel) (by decide +kernel) (by decide +kernel)).2 (by decide +kernel)).1 (by decide +kernel) (by decide +kernel)).elim fun _ q => q.elim fun _ q => ⟨_, q.1⟩),
   (((((h (hmem) (0) (tl true 0x1000 4 13 0x12345678 true) (0x1000) (.any) (5#64) (0x1234) (by decide +kernel) (by decide +kernel)).1 (by decide +kernel) (by decide +kernel) (by decide +kernel) (by decide +kernel)).2 (by decide +kernel)).2 (by decide +kernel) (by decide +kernel) (by decide +kernel)).elim fun _ q => ⟨_, q.1⟩),
   (by refine ((((h (hmem) (0) (tl false 0x1000 4 15 0) (0x1000) (.any) (5#64) (0x1234) ?_ ?_).2.1 ?_ ?_ ?_ ?_ ?_ ?_).1 ?_).elim fun _ q => ⟨_, q.1⟩) <;> decide +kernel),
   (by refine ((((h (hmem) (0) (tl true 0x103C 3 5 0xABCDEF) (0x1000) (.any) (5#64) (0x1234) ?_ ?_).2.1 ?_ ?_ ?_ ?_ ?_ ?_).2 ?_ ?_).elim fun _ q => ⟨_, q.1⟩) <;> decide +kernel),
   ((((h (hmem) (0) (tl false 0x1040 4 15 0) (0x1000) (.any) (5#64) (0x1234) (by decide +kernel) (by decide +kernel)).2.2 (by decide +kernel) (by decide +kernel) (by decide +kernel) (by decide +kernel) (by decide +kernel)).1 (by decide +kernel) (by decide +kernel)).elim fun _ q => ⟨_, q.1⟩),
   ((((h (hmem) (0) (tl false 0x1040 4 15 0) (0xA00000) (.any) (5#64) (0x1234) (by decide +kernel) (by decide +kernel)).2.2 (by decide +kernel) (by decide +kernel) (by decide +kernel) (by decide +kernel) (by decide +kernel)).2.2.2.1 (by decide +kernel)).elim fun _ q => ⟨_, q.1⟩),
   ((((h (hmem) (0) (tl false 0x1040 4 15 0) (0x1000) (.any) (5#64) (0x1234) (by decide +kernel) (by decide +kernel)).2.2 (by decide +kernel) (by decide +kernel) (by decide +kernel) (by decide +kernel) (by decide +kernel)).2.1 (by decide +kernel) (by decide +kernel)).elim fun _ q => ⟨_, q.1⟩),
   ((((h (hmem) (0) (tl false 0x1040 4 15 0) (0x1000) (.any) (5#64) (0x1234) (by decide +kernel) (by decide +kernel)).2.2 (by decide +kernel) (by decide +kernel) (by decide +kernel) (by decide +kernel) (by decide +kernel)).2.2.1 (by decide +kernel) (by decide +kernel)).elim fun _ q => ⟨_, q.1⟩),
   ((((h (hmem) (0) (tl false 0x1040 4 15 0) (0xA00000) (.any) (5#64) (0x1234) (by decide +kernel) (by decide +kernel)).2.2 (by decide +kernel) (by decide +kernel) (by decide +kernel) (by decide +kernel) (by decide +kernel)).2.2.2.2 (by decide +kernel)).elim fun _ q => ⟨_, q.1⟩)⟩

theorem wit_PageFlipAndSnoop (h : Obligations.PageFlipAndSnoop) :
    (∃ u, exec (.pageFlip 0 1 []) cacheS = .next u) ∧
    (∃ u, exec (.pageFlip 0 1 [(1, 0x1234)]) cacheS = .next u) ∧
    (∃ u, exec (.pageFlip 0 3 [(1, 0x1234)]) cacheS = .next u) ∧
    (∃ u, exec (.hostSnoop 0 (5*64) Snoop.inv) cacheS = .next u) ∧
    (∃ u, exec (.hostSnoop 0 1 Snoop.inv) cacheS = .next u) :=
  ⟨((((h (cacheS) (0) (1) (1) (0x1234) (1) (⟨true, 77⟩)).1 (by decide +kernel) (by decide +kernel)).1).elim fun _ q => ⟨_, q.1⟩),
   ((((h (cacheS) (0) (1) (1) (0x1234) (1) (⟨true, 77⟩)).1 (by decide +kernel) (by decide +kernel)).2 (by decide +kernel) (by decide +kernel)).elim fun _ q => ⟨_, q.1⟩),
   ⟨_, (h (cacheS) (0) (3) (1) (0x1234) (1) (⟨true, 77⟩)).2.1 (by decide +kernel)⟩,
   ⟨_, (((h (cacheS) (0) (1) (5*64) (0x1234) (1) (⟨true, 77⟩)).2.2 (by decide +kernel)).1 (by decide +kernel)).1⟩,
   ⟨_, ((h (cacheS) (0) (1) (1) (0x1234) (1) (⟨true, 77⟩)).2.2 (by decide +kernel)).2 (by decide +kernel) (.inv)⟩⟩

theorem wit_PortRemovalAndReturn (h : Obligations.PortRemovalAndReturn) :
    (∃ u, exec (.perstAssert 0) upS = .next u) ∧
    (∃ u, exec (.perstAssert 0) rmS = .next u) ∧
    (∃ u, exec (.dlDownTimeout 0) upS = .next u) ∧
    (∃ u, exec (.dlDownTimeout 0) rmS = .next u) ∧
    (∃ u, exec (.d3hotEntry 0) upS = .next u) ∧
    (∃ u, exec (.d3hotEntry 0) rmS = .next u) ∧
    (∃ u, exec (.flr 0) upS = .next u) ∧
    (∃ u, exec (.flr 0) rmS = .next u) ∧
    (∃ u, exec (.perstDeassert 0 true) backS = .next u) ∧
    (∃ u, exec (.dlActiveReturn 0 1 8) back2 = .next u) ∧
    (∃ u, exec (.d0Entry 0) back3 = .next u) ∧
    (∃ u, exec (.flrComplete 0) back4 = .next u) ∧
    (∃ u, exec (.configurationRequest 0 true 0 0x12345678) back3 = .next u) ∧
    (∃ u, exec (.configurationRequest 0 false 0 0x12345678) upS = .next u) :=
  ⟨(((((h).1 (upS) (0)).1 (by decide +kernel) (by decide +kernel)).1 (by decide +kernel)).elim fun _ q => ⟨_, q.1⟩),
   ⟨_, (((h).1 (rmS) (0)).2 (by decide +kernel)).1 (by decide +kernel)⟩,
   (((((h).1 (upS) (0)).1 (by decide +kernel) (by decide +kernel)).2.1 (by decide +kernel)).elim fun _ q => ⟨_, q.1⟩),
   ⟨_, (((h).1 (rmS) (0)).2 (by decide +kernel)).2.1 (by decide +kernel)⟩,
   ((((((h).1 (upS) (0)).1 (by decide +kernel) (by decide +kernel)).2.2 (by decide +kernel)).1).elim fun _ q => ⟨_, q.1⟩),
   ⟨_, ((((h).1 (rmS) (0)).2 (by decide +kernel)).2.2 (by decide +kernel)).1⟩,
   ((((((h).1 (upS) (0)).1 (by decide +kernel) (by decide +kernel)).2.2 (by decide +kernel)).2).elim fun _ q => ⟨_, q.1⟩),
   ⟨_, ((((h).1 (rmS) (0)).2 (by decide +kernel)).2.2 (by decide +kernel)).2⟩,
   ⟨_, ((h).2 (backS) (0) (true) (1) (8) (0) (0x12345678) (true)).1 (by decide +kernel)⟩,
   (by refine ⟨_, ((h).2 (back2) (0) (true) (1) (8) (0) (0x12345678) (true)).2.1 ?_ ?_ ?_ ?_ ?_ ?_⟩ <;> decide +kernel),
   ⟨_, ((h).2 (back3) (0) (true) (1) (8) (0) (0x12345678) (true)).2.2.1 (by decide +kernel)⟩,
   ⟨_, ((h).2 (back4) (0) (true) (1) (8) (0) (0x12345678) (true)).2.2.2.1 (by decide +kernel)⟩,
   ⟨_, ((h).2 (back3) (0) (true) (1) (8) (0) (0x12345678) (true)).2.2.2.2.1 (by decide +kernel) (by decide +kernel)⟩,
   ⟨_, (((h).2 (upS) (0) (true) (1) (8) (0) (0x12345678) (true)).2.2.2.2.2 (by decide +kernel) (by decide +kernel) (by decide +kernel)).1⟩⟩

theorem wit_MailboxRings (h : Obligations.MailboxRings) :
    (∃ u, exec (.enable Agent.melvor 0 true true) (boxS offB) = .next u) ∧
    (∃ u, exec (.enable Agent.melvor 0 true true) (boxS { offB with cmdLog2n := 5 }) = .next u) ∧
    (∃ u, exec (.disable Agent.melvor 0) (boxS box0) = .next u) ∧
    (∃ u, exec (.cmdDoorbell Agent.melvor 0 5) (boxS offB) = .next u) ∧
    (∃ u, exec (.cplDoorbell Agent.melvor 0 5) (boxS offB) = .next u) :=
  ⟨⟨_, (((h).1 (boxS offB) (.melvor) (0) (true) (true) (5)).1 (by decide +kernel)).1 (by decide +kernel) (by decide +kernel) (by decide +kernel)⟩,
   ⟨_, (((h).1 (boxS { offB with cmdLog2n := 5 }) (.melvor) (0) (true) (true) (5)).1 (by decide +kernel)).2.1 (by decide +kernel) (by decide +kernel) (by decide +kernel) (by decide +kernel)⟩,
   (((((h).1 (boxS box0) (.melvor) (0) (true) (true) (5)).1 (by decide +kernel)).2.2 (by decide +kernel) (by decide +kernel)).elim fun _ q => ⟨_, q.1⟩),
   ((((h).1 (boxS offB) (.melvor) (0) (true) (true) (5)).2.1 (by decide +kernel) (by decide +kernel)).elim fun _ q => ⟨_, q.1⟩),
   ((((h).1 (boxS offB) (.melvor) (0) (true) (true) (5)).2.2 (by decide +kernel) (by decide +kernel)).elim fun _ q => ⟨_, q.1⟩)⟩

theorem wit_EntryIntake (h : Obligations.EntryIntake) :
    (∃ u, exec (.entryFetch 0 (entF 2 []) false Ecc.ok) (boxS bellB) = .next u) ∧
    (∃ u, exec (.entryFetch 0 (entF 2 []) true Ecc.ok) ((boxS bellB).withMelvor fun m => { m with accepted := [{ port := 1, entry := 5 }] }) = .next u) ∧
    (∃ u, exec (.entryFetch 0 (entF 2 []) true Ecc.ok) nofw = .next u) ∧
    (∃ u, exec (.entryFetch 0 (entF 2 [] 2) true Ecc.ok) (boxS bellB) = .next u) ∧
    (∃ u, exec (.entryFetch 0 (entF 2 []) true Ecc.ue) nofw = .next u) ∧
    (∃ u, exec (.refetch 0 (entF 2 []) false) stale = .next u) ∧
    (∃ u, exec (.refetch 0 (entF 2 [] 2) false) stale = .next u) :=
  ⟨((((h (boxS bellB) (0) (entF 2 []) (by decide +kernel) (by decide +kernel)).1 (by decide +kernel) (by decide +kernel)).1 (.ok) (by decide +kernel) (by decide +kernel)).elim fun _ q => ⟨_, q.1⟩),
   ((((h ((boxS bellB).withMelvor fun m => { m with accepted := [{ port := 1, entry := 5 }] }) (0) (entF 2 []) (by decide +kernel) (by decide +kernel)).1 (by decide +kernel) (by decide +kernel)).2.1 ([]) ({ port := 1, entry := 5 }) (.ok) (by decide +kernel) (by decide +kernel) (by decide +kernel) (by decide +kernel)).elim fun _ q => ⟨_, q.1⟩),
   ((((h (nofw) (0) (entF 2 []) (by decide +kernel) (by decide +kernel)).1 (by decide +kernel) (by decide +kernel)).2.2 (1) (0) (true) (.ok) (by decide +kernel) (by decide +kernel)).elim fun _ q => ⟨_, q.1⟩),
   ⟨_, (h (boxS bellB) (0) (entF 2 [] 2) (by decide +kernel) (by decide +kernel)).2.1 (by decide +kernel) (by decide +kernel) (true) (.ok) (by decide +kernel)⟩,
   (((h (nofw) (0) (entF 2 []) (by decide +kernel) (by decide +kernel)).2.2.1 (by decide +kernel) (by decide +kernel) (true)).elim fun _ q => ⟨_, q.1⟩),
   (((h (stale) (0) (entF 2 []) (by decide +kernel) (by decide +kernel)).2.2.2.1 (by decide +kernel) (by decide +kernel) (by decide +kernel)).elim fun _ q => ⟨_, q.1⟩),
   (((h (stale) (0) (entF 2 [] 2) (by decide +kernel) (by decide +kernel)).2.2.2.2 (by decide +kernel) (by decide +kernel) (by decide +kernel)).elim fun _ q => ⟨_, q.1⟩)⟩

theorem wit_HelloAndOwnership (h : Obligations.HelloAndOwnership) :
    (∃ u, exec (.nop 0) (taken (entF 2 [])) = .next u) ∧
    (∃ u, exec (.status 0) (taken (entF 0x20 [])) = .next u) ∧
    (∃ u, exec (.hello 0) (taken (entF 1 [(8,0x100),(10,0x203)])) = .next u) ∧
    (∃ u, exec (.claim 0) (taken (entF 0x10 []) (fun m => {m with owner := 3, heldEvents := [⟨0x0102,0⟩]})) = .next u) ∧
    (∃ u, exec (.claim 0) (taken (entF 0x10 []) (fun m => {m with owner := 1})) = .next u) ∧
    (∃ u, exec (.release 0) (taken (entF 0x11 []) (fun m => {m with jobState := 1, handover := some 1})) = .next u) ∧
    (∃ u, exec (.handover 0) (taken (entF 0x12 [(8,1)])) = .next u) ∧
    (∃ u, exec (.handoverGrant 0) (taken 0 (fun m => { m with owner := 1, handover := some 0, accepted := [{ port := 1, entry := entF 0x12 [], started := true}, {port := 0, entry := entF 0x10 [], started := true}]})) = .next u) ∧
    (∃ u, exec .handoverExpiry (taken 0 (fun m => { m with owner := 1, handover := some 0, accepted := [{ port := 1, entry := entF 0x12 [], started := true}]})) = .next u) :=
  ⟨⟨_, (h (taken (entF 2 [])) (0) (entF 2 [])).1 (by decide +kernel)⟩,
   ⟨_, (h (taken (entF 0x20 [])) (0) (entF 0x20 [])).2.1 (by decide +kernel)⟩,
   (by refine (((h (taken (entF 1 [(8,0x100),(10,0x203)])) (0) (entF 1 [(8,0x100),(10,0x203)])).2.2.1 (515) ?_ ?_ ?_ ?_ ?_ ?_).elim fun _ q => ⟨_, q.1⟩) <;> decide +kernel),
   (((h (taken (entF 0x10 []) (fun m => {m with owner := 3, heldEvents := [⟨0x0102,0⟩]})) (0) (entF 0x10 [])).2.2.2.2.2.1 (by decide +kernel) (by decide +kernel) (by decide +kernel)).elim fun _ q => ⟨_, q.1⟩),
   ⟨_, (h (taken (entF 0x10 []) (fun m => {m with owner := 1})) (0) (entF 0x10 [])).2.2.2.2.2.2.1 (by decide +kernel) (by decide +kernel) (by decide +kernel) (by decide +kernel)⟩,
   (((h (taken (entF 0x11 []) (fun m => {m with jobState := 1, handover := some 1})) (0) (entF 0x11 [])).2.2.2.2.2.2.2.2.2.1 (by decide +kernel) (by decide +kernel) (by decide +kernel)).elim fun _ q => ⟨_, q.1⟩),
   (((h (taken (entF 0x12 [(8,1)])) (0) (entF 0x12 [(8,1)])).2.2.2.2.2.2.2.2.2.2.2.1.2.2 (by decide +kernel) (by decide +kernel) (by decide +kernel)).elim fun _ q => ⟨_, q.1⟩),
   (((h (taken 0 (fun m => { m with owner := 1, handover := some 0, accepted := [{ port := 1, entry := entF 0x12 [], started := true}, {port := 0, entry := entF 0x10 [], started := true}]})) (0) (entF 0x10 [])).2.2.2.2.2.2.2.2.2.2.2.2.1 (by decide +kernel) (by decide +kernel) (by decide +kernel) (by decide +kernel)).elim fun _ q => ⟨_, q.1⟩),
   (((h (taken 0 (fun m => { m with owner := 1, handover := some 0, accepted := [{ port := 1, entry := entF 0x12 [], started := true}]})) (0) (entF 2 [])).2.2.2.2.2.2.2.2.2.2.2.2.2 (0) (by decide +kernel) (by decide +kernel) (by decide +kernel)).elim fun _ q => ⟨_, q.1⟩)⟩

theorem wit_BufferAndTableCommands (h : Obligations.BufferAndTableCommands) :
    (∃ u, exec (.counters 0 false) (taken (entF 0x21 [(8,0x3000),(16,64)])) = .next u) ∧
    (∃ u, exec (.counters 0 true) (taken (hb 0x21)) = .next u) ∧
    (∃ u, exec (.faultReport 0 false) (taken (entF 0x22 [(8,0x3000),(16,128)])) = .next u) ∧
    (∃ u, exec (.faultReport 0 true) (taken (hb 0x22)) = .next u) ∧
    (∃ u, exec (.regionAdd 0) (taken (entF 0x30 [(8,0x3000),(16,0x1000)])) = .next u) ∧
    (∃ u, exec (.regionAdd 0) ((taken ringE).modPort 0 (fun h => { h with regions := [(0, ⟨0x1000, 0x1000, false, true⟩)] })) = .next u) ∧
    (∃ u, exec (.regionAdd 0) (taken ringE) = .next u) ∧
    (∃ u, exec (.regionDel 0) ((taken (entF 0x31 [(8,1)])).modPort 0 (fun h => { h with regions := [(1, ⟨0x1000, 0x1000, false, true⟩)] })) = .next u) ∧
    (∃ u, exec (.pwinSet 0) (taken (entF 0x32 [(8,1),(9,3),(10,5),(12,9),(16,0x100),(20,4)])) = .next u) ∧
    (∃ u, exec (.pwinSet 0) ((taken (entF 0x32 [(8,1)])).modPort 0 (fun h => { h with places := [(1, {})] })) = .next u) ∧
    (∃ u, exec (.place 0) (paused placeE) = .next u) ∧
    (∃ u, exec (.place 0) plS = .next u) ∧
    (∃ u, exec (.group 0) (paused (entF 0x55 [(8,3),(10,1),(12,0x1234)])) = .next u) :=
  ⟨(((h (taken (entF 0x21 [(8,0x3000),(16,64)])) (0) (entF 0x21 [(8,0x3000),(16,64)])).1 (by decide +kernel) (by decide +kernel) (by decide +kernel) (by decide +kernel)).elim fun _ q => q.elim fun _ q => ⟨_, q.1⟩),
   ⟨_, (h (taken (hb 0x21)) (0) (hb 0x21)).2.2.1 (by decide +kernel) (by decide +kernel) (by decide +kernel)⟩,
   (((h (taken (entF 0x22 [(8,0x3000),(16,128)])) (0) (entF 0x22 [(8,0x3000),(16,128)])).2.1 (by decide +kernel) (by decide +kernel) (by decide +kernel) (by decide +kernel) (by decide +kernel)).elim fun _ q => q.elim fun _ q => ⟨_, q.1⟩),
   ⟨_, (h (taken (hb 0x22)) (0) (hb 0x22)).2.2.2.1 (by decide +kernel) (by decide +kernel) (by decide +kernel)⟩,
   (by refine ⟨_, (h (taken (entF 0x30 [(8,0x3000),(16,0x1000)])) (0) (entF 0x30 [(8,0x3000),(16,0x1000)])).2.2.2.2.1 (0) ?_ ?_ ?_ ?_ ?_ ?_ ?_⟩ <;> decide +kernel),
   (((h ((taken ringE).modPort 0 (fun h => { h with regions := [(0, ⟨0x1000, 0x1000, false, true⟩)] })) (0) (ringE)).2.2.2.2.2.1 ((0, ⟨0x1000, 0x1000, false, true⟩)) (by decide +kernel) (by decide +kernel) (by decide +kernel) (by decide +kernel) (by decide +kernel)).elim fun _ q => ⟨_, q⟩),
   (((h (taken ringE) (0) (ringE)).2.2.2.2.2.2.1 (by decide +kernel) (by decide +kernel)).elim fun _ q => ⟨_, q⟩),
   ⟨_, (h ((taken (entF 0x31 [(8,1)])).modPort 0 (fun h => { h with regions := [(1, ⟨0x1000, 0x1000, false, true⟩)] })) (0) (entF 0x31 [(8,1)])).2.2.2.2.2.2.2.1 (by decide +kernel) (by decide +kernel) (by decide +kernel)⟩,
   ⟨_, (h (taken (entF 0x32 [(8,1),(9,3),(10,5),(12,9),(16,0x100),(20,4)])) (0) (entF 0x32 [(8,1),(9,3),(10,5),(12,9),(16,0x100),(20,4)])).2.2.2.2.2.2.2.2.1 (by decide +kernel) (by decide +kernel) (by decide +kernel) (by decide +kernel) (by decide +kernel)⟩,
   ⟨_, (h ((taken (entF 0x32 [(8,1)])).modPort 0 (fun h => { h with places := [(1, {})] })) (0) (entF 0x32 [(8,1)])).2.2.2.2.2.2.2.2.2.1 (by decide +kernel) (by decide +kernel)⟩,
   (by refine ⟨_, ((h (paused placeE) (0) (placeE)).2.2.2.2.2.2.2.2.2.2.1 (pgJob) ?_ ?_ ?_ ?_ ?_ ?_).1 ?_ ?_⟩ <;> decide +kernel),
   (by refine ⟨_, ((h (plS) (0) (plE)).2.2.2.2.2.2.2.2.2.2.1 (pgJob) ?_ ?_ ?_ ?_ ?_ ?_).2 ((9, { ObjEntry.ofNat (Line.bytes plE 16 32) with first := some 0x600000 })) ?_ ?_⟩ <;> decide +kernel),
   (by refine (((h (paused (entF 0x55 [(8,3),(10,1),(12,0x1234)])) (0) (entF 0x55 [(8,3),(10,1),(12,0x1234)])).2.2.2.2.2.2.2.2.2.2.2 (pgJob) ?_ ?_ ?_ ?_ ?_ ?_).elim fun _ q => ⟨_, q.1⟩) <;> decide +kernel)⟩

theorem wit_Loader (h : Obligations.Loader) :
    (∃ u, exec (.imageStage 0) (withImg img0 stageE (fun m => {m with loaderBusy := true})) = .next u) ∧
    (∃ u, exec (.imageStage 0) (withImg img0 stageE) = .next u) ∧
    (∃ u, exec (.imageActivate 0) (withImg img0 actE (fun m => {m with jobState := 1})) = .next u) ∧
    (∃ u, exec (.partitionStart true false) pendS = .next u) ∧
    (∃ u, exec (.partitionStart true true) pendS = .next u) :=
  ⟨⟨_, (h (withImg img0 stageE (fun m => {m with loaderBusy := true})) (0) (stageE)).1 (by decide +kernel) (by decide +kernel)⟩,
   (by refine (((h (withImg img0 stageE) (0) (stageE)).2.1 ?_ ?_ ?_ ?_ ?_ ?_ ?_).elim fun _ q => q.elim fun _ q => ⟨_, q.1⟩) <;> decide +kernel),
   (((h (withImg img0 actE (fun m => {m with jobState := 1})) (0) (actE)).2.2.1 (by decide +kernel) (by decide +kernel) (by decide +kernel) (by decide +kernel)).elim fun _ q => ⟨_, q.2.2⟩),
   ((((h (pendS) (0) (stageE)).2.2.2.2 (pend) (true) (false) (by decide +kernel) (by decide +kernel)).1 (by decide +kernel) (by decide +kernel)).elim fun _ q => ⟨_, q.1⟩),
   ((((h (pendS) (0) (stageE)).2.2.2.2 (pend) (true) (true) (by decide +kernel) (by decide +kernel)).2 (by decide +kernel) (by decide +kernel) (by decide +kernel) (by decide +kernel)).elim fun _ q => ⟨_, q.1⟩)⟩

theorem wit_JobCommands (h : Obligations.JobCommands) :
    (∃ u, exec (.jobStart 0 [] false) startS = .next u) ∧
    (∃ u, exec (.jobPause 0) (stj 0x51 1) = .next u) ∧
    (∃ u, exec (.jobPause 0) (stj 0x51 3) = .next u) ∧
    (∃ u, exec (.jobResume 0 ([]) WriteBack.ok) (stj 0x52 3) = .next u) ∧
    (∃ u, exec (.jobResume 0 ([]) WriteBack.ok) stj4 = .next u) ∧
    (∃ u, exec (.jobResume 0 ([]) WriteBack.lost) stj4 = .next u) ∧
    (∃ u, exec (.jobResume 0 ([]) WriteBack.ok) (stj 0x52 1) = .next u) ∧
    (∃ u, exec (.jobStop 0) (stj 0x53 3) = .next u) ∧
    (∃ u, exec (.jobStop 0) (stj 0x53 0) = .next u) :=
  ⟨(by refine (((h (startS) (0) (jobE)).1 ?_ ?_ ?_ ?_ ?_ ?_ ?_ ?_ ?_ ?_ ?_).elim fun _ q => ⟨_, q.1⟩) <;> decide +kernel),
   (((h (stj 0x51 1) (0) (entF 0x51 [])).2.1 (by decide +kernel) (by decide +kernel) (by decide +kernel) (by decide +kernel)).elim fun _ q => ⟨_, q.1⟩),
   ⟨_, (h (stj 0x51 3) (0) (entF 0x51 [])).2.2.1 (by decide +kernel) (by decide +kernel)⟩,
   (by refine ((((h (stj 0x52 3) (0) (entF 0x52 [])).2.2.2.1 ([]) (.ok) ?_ ?_ ?_ ?_ ?_ ?_ ?_).1 ?_).elim fun _ q => ⟨_, q.1⟩) <;> decide +kernel),
   (by refine (((((h (stj4) (0) (entF 0x52 [])).2.2.2.1 ([]) (.ok) ?_ ?_ ?_ ?_ ?_ ?_ ?_).2 ?_ ?_ ?_ ?_).1 ?_ ?_).elim fun _ q => ⟨_, q.1⟩) <;> decide +kernel),
   (by refine (((((h (stj4) (0) (entF 0x52 [])).2.2.2.1 ([]) (.lost) ?_ ?_ ?_ ?_ ?_ ?_ ?_).2 ?_ ?_ ?_ ?_).2 ?_).elim fun _ q => ⟨_, q.1⟩) <;> decide +kernel),
   (((h (stj 0x52 1) (0) (entF 0x52 [])).2.2.2.2.1 ([]) (.ok) (by decide +kernel) (by decide +kernel) (by decide +kernel)).elim fun _ q => ⟨_, q.2⟩),
   (((h (stj 0x53 3) (0) (entF 0x53 [])).2.2.2.2.2.1 (by decide +kernel) (by decide +kernel) (by decide +kernel) (by decide +kernel)).elim fun _ q => ⟨_, q.1⟩),
   ⟨_, (h (stj 0x53 0) (0) (entF 0x53 [])).2.2.2.2.2.2 (by decide +kernel) (by decide +kernel)⟩⟩

theorem wit_Flits (h : Obligations.Flits) :
    (∃ u, exec (.replayTimeout 4) (lk { link0 with replayBuf := [sf 1, sf 2, sf 3], stuck := 3, toAck := 62 }) = .next u) ∧
    (∃ u, exec (.replayTimeout 4) (lk { link0 with replayBuf := [sf 1], stuck := 15, toAck := 63 }) = .next u) ∧
    (∃ u, exec (.ackTimer 4) (lk { link0 with replayBuf := [sf 1, sf 2, sf 3], stuck := 3, toAck := 62 }) = .next u) ∧
    (∃ u, exec (.credit 4 0 9) (lk link0) = .next u) ∧
    (∃ u, exec (.credit 4 1 9) (cutS (fun s => { s with grp := { s.grp with ranks := [8,9,10], modules := 3, graph := [⟨9, 4, 8, 0, 3⟩, ⟨9, 5, 10, 1, 3⟩], cuts := [⟨10, 8, 1, 2⟩] } })) = .next u) ∧
    (∃ u, exec (.credit 4 0 9) cutS = .next u) :=
  ⟨⟨_, (h (lk { link0 with replayBuf := [sf 1, sf 2, sf 3], stuck := 3, toAck := 62 }) (4) (fl) (by decide +kernel) (by decide +kernel)).2.2.2.1 (by decide +kernel) (by decide +kernel)⟩,
   (((h (lk { link0 with replayBuf := [sf 1], stuck := 15, toAck := 63 }) (4) (fl) (by decide +kernel) (by decide +kernel)).2.2.2.2.1 (by decide +kernel) (by decide +kernel) (by decide +kernel) (by decide +kernel)).elim fun _ q => ⟨_, q.1⟩),
   ⟨_, (h (lk { link0 with replayBuf := [sf 1, sf 2, sf 3], stuck := 3, toAck := 62 }) (4) (fl) (by decide +kernel) (by decide +kernel)).2.2.2.2.2.1 (by decide +kernel)⟩,
   ⟨_, ((h (lk link0) (4) (fl) (by decide +kernel) (by decide +kernel)).2.2.2.2.2.2 (0) (9)).1 (by decide +kernel)⟩,
   ⟨_, (((h (cutS (fun s => { s with grp := { s.grp with ranks := [8,9,10], modules := 3, graph := [⟨9, 4, 8, 0, 3⟩, ⟨9, 5, 10, 1, 3⟩], cuts := [⟨10, 8, 1, 2⟩] } })) (4) (fl) (by decide +kernel) (by decide +kernel)).2.2.2.2.2.2 (1) (9)).2 (⟨10, 8, none⟩) (by decide +kernel)).1 (by decide +kernel)⟩,
   (((((h (cutS) (4) (fl) (by decide +kernel) (by decide +kernel)).2.2.2.2.2.2 (0) (9)).2 (⟨9, 8, none⟩) (by decide +kernel)).2 (by decide +kernel)).elim fun _ q => ⟨_, q.1⟩)⟩

theorem wit_LinksAndGroups (h : Obligations.LinksAndGroups) :
    (∃ u, exec (.fecLockLoss 4 0) (lk link0) = .next u) ∧
    (∃ u, exec (.retrain Agent.melvor 4) (lk link0) = .next u) ∧
    (∃ u, exec (.retrainEnd 4 0 false) (lk { link0 with training := true}) = .next u) ∧
    (∃ u, exec (.retrainEnd 4 0x0F false) (lk { link0 with training := true}) = .next u) ∧
    (∃ u, exec (.retrainEnd 4 0 true) (lk { link0 with training := true}) = .next u) ∧
    (∃ u, exec (.holdDown Agent.melvor 4 true) (lk link0) = .next u) ∧
    (∃ u, exec (.holdDown Agent.melvor 4 true) (lk { link0 with routed := false }) = .next u) ∧
    (∃ u, exec (.linkHello 4 0 0xFFF 4 true) (lk { link0 with up := false, training := true }) = .next u) ∧
    (∃ u, exec (.linkHello 4 0 0xFFF 4 true) (lk { link0 with up := false }) = .next u) ∧
    (∃ u, exec (.join 5 5 0 0 77 0) (form []) = .next u) ∧
    (∃ u, exec (.join 4 0xFFF 0 1 77 1) (lk link0) = .next u) ∧
    (∃ u, exec (.groupFormed [] []) (form [] jobD (fun s => s.withMelvor fun m => { m with starting := none })) = .next u) ∧
    (∃ u, exec (.groupFormed [] []) (form [(5,0)]) = .next u) ∧
    (∃ u, exec (.groupFormed ([⟨20, 1, 21, 1, 1⟩]) []) (form [(19,0),(20,0),(21,0)] jobD3) = .next u) ∧
    (∃ u, exec (.groupFormed [] []) (form [(19,0)]) = .next u) ∧
    (∃ u, exec .joinTimeout (lk link0) = .next u) ∧
    (∃ u, exec .joinTimeout (form []) = .next u) :=
  ⟨⟨_, (((h).1 (lk link0) (4) (.melvor)).1 (by decide +kernel) (by decide +kernel)).1 (by decide +kernel) (0)⟩,
   ⟨_, (((h).1 (lk link0) (4) (.melvor)).1 (by decide +kernel) (by decide +kernel)).2 (by decide +kernel)⟩,
   ⟨_, (((h).1 (lk { link0 with training := true}) (4) (.melvor)).2.1 (by decide +kernel) (by decide +kernel) (by decide +kernel)).1⟩,
   (((((h).1 (lk { link0 with training := true}) (4) (.melvor)).2.1 (by decide +kernel) (by decide +kernel) (by decide +kernel)).2.1 (0x0F) (by decide +kernel) (by decide +kernel) (by decide +kernel)).elim fun _ q => ⟨_, q.1⟩),
   (((((h).1 (lk { link0 with training := true}) (4) (.melvor)).2.1 (by decide +kernel) (by decide +kernel) (by decide +kernel)).2.2 (0) (true) (by decide +kernel)).elim fun _ q => ⟨_, q.1⟩),
   ⟨_, (((h).1 (lk link0) (4) (.melvor)).2.2.1 (by decide +kernel)).1 (by decide +kernel)⟩,
   (((((h).1 (lk { link0 with routed := false }) (4) (.melvor)).2.2.1 (by decide +kernel)).2 (by decide +kernel)).elim fun _ q => ⟨_, q.1⟩),
   (by refine ⟨_, ((h).1 (lk { link0 with up := false, training := true }) (4) (.melvor)).2.2.2.1 (0) (0xFFF) (4) ?_ ?_ ?_ ?_ ?_ ?_ ?_⟩ <;> decide +kernel),
   ((((h).1 (lk { link0 with up := false }) (4) (.melvor)).2.2.2.2 (0) (0xFFF) (4) (true) (by decide +kernel) (by decide +kernel) (by decide +kernel) (by decide +kernel)).elim fun _ q => ⟨_, q.1⟩),
   ⟨_, ((h).2 (form []) (5) (5) (0) (0) (77) (0) (by decide +kernel)).1 (by decide +kernel)⟩,
   ((((h).2 (lk link0) (4) (0xFFF) (0) (1) (77) (1) (by decide +kernel)).2.1 (by decide +kernel) (by decide +kernel) (by decide +kernel)).elim fun _ q => ⟨_, q.1⟩),
   ⟨_, (((h).2 (form [] jobD (fun s => s.withMelvor fun m => { m with starting := none })) (5) (5) (0) (0) (77) (0) (by decide +kernel)).2.2.1 (by decide +kernel)).2 ([]) ([])⟩,
   ⟨_, ((((h).2 (form [(5,0)]) (5) (5) (0) (0) (77) (0) (by decide +kernel)).2.2.2 (jobD) (by decide +kernel)).2.2 ([]) ([]) (by decide +kernel) (by decide +kernel)).1 (by decide +kernel)⟩,
   ((((((h).2 (form [(19,0),(20,0),(21,0)] jobD3) (5) (5) (0) (0) (77) (0) (by decide +kernel)).2.2.2 (jobD3) (by decide +kernel)).2.2 ([⟨20, 1, 21, 1, 1⟩]) ([]) (by decide +kernel) (by decide +kernel)).2.1 (by decide +kernel) (by decide +kernel)).elim fun _ q => ⟨_, q.1⟩),
   ((((((h).2 (form [(19,0)]) (5) (5) (0) (0) (77) (0) (by decide +kernel)).2.2.2 (jobD) (by decide +kernel)).2.2 ([]) ([]) (by decide +kernel) (by decide +kernel)).2.2 (by decide +kernel) (by decide +kernel) (by decide +kernel) (by decide +kernel)).elim fun _ q => ⟨_, q.1⟩),
   ⟨_, (((h).2 (lk link0) (4) (0xFFF) (0) (1) (77) (1) (by decide +kernel)).2.2.1 (by decide +kernel)).1⟩,
   (((((h).2 (form []) (5) (5) (0) (0) (77) (0) (by decide +kernel)).2.2.2 (jobD) (by decide +kernel)).1).elim fun _ q => ⟨_, q.1⟩)⟩

theorem wit_ExchangeData (h : Obligations.ExchangeData) :
    (∃ u, exec (.reduceFrame 4 0 0 fr) exS = .next u) ∧
    (∃ u, exec (.combine 0  1  0 0 Ecc.ue) (exS (fun g => {g with contribs := [con 0 5, con 1 (2^40)], q := 1, modules := 2})) = .next u) ∧
    (∃ u, exec (.combine 0  1  0 0 Ecc.ok) (exS (fun g => {g with contribs := [con 0 5, con 1 (2^40)], q := 1, modules := 2})) = .next u) ∧
    (∃ u, exec (.combine 0  1  0 0 Ecc.ok) (exS (fun g => {g with contribs := [con 2 5, con 3 (2^40)], member := 3})) = .next u) ∧
    (∃ u, exec (.gatherFrame 4 2 fr Ecc.ok) (exS (fun g => {g with fault := some ⟨3,0,0,0⟩})) = .next u) ∧
    (∃ u, exec (.gatherFrame 4 2 ({fr with obj := 7, rx := 0xFF}) Ecc.ok) exS = .next u) ∧
    (∃ u, exec (.gatherFrame 4 0 ({fr with step := 10}) Ecc.ok) exS = .next u) ∧
    (∃ u, exec (.gatherFrame 4 0 ({fr with rx := 5}) Ecc.ok) exS = .next u) ∧
    (∃ u, exec (.gatherFrame 4 0 fr Ecc.ok) exS = .next u) ∧
    (∃ u, exec .exchTimeout (exS (fun g => {g with contribs := [con 0 5, con 1 (2^40)], q := 1, modules := 2})) = .next u) :=
  ⟨(by refine (((h (exS) (4) (0) (0) (fr)).1 ?_ ?_ ?_ ?_ ?_ ?_ ?_).elim fun _ q => q.elim fun _ q => ⟨_, q.1⟩) <;> decide +kernel),
   ⟨_, ((h (exS (fun g => {g with contribs := [con 0 5, con 1 (2^40)], q := 1, modules := 2})) (4) (0) (0) ({fr with obj := 1, frame := 0})).2.1 (con 0 5) ([con 1 (2^40)]) (by decide +kernel) (by decide +kernel) (by decide +kernel) (by decide +kernel)).1 (by decide +kernel)⟩,
   (by refine ((((h (exS (fun g => {g with contribs := [con 0 5, con 1 (2^40)], q := 1, modules := 2})) (4) (0) (0) ({fr with obj := 1, frame := 0})).2.1 (con 0 5) ([con 1 (2^40)]) ?_ ?_ ?_ ?_).2.1 ?_ ?_ ?_ ?_ ?_ ?_ ?_ ?_ ?_ ?_ ?_ (.ok) ?_).elim fun _ q => ⟨_, q.1⟩) <;> decide +kernel),
   ((((h (exS (fun g => {g with contribs := [con 2 5, con 3 (2^40)], member := 3})) (4) (0) (0) ({fr with obj := 1, frame := 0})).2.1 (con 2 5) ([con 3 (2^40)]) (by decide +kernel) (by decide +kernel) (by decide +kernel) (by decide +kernel)).2.2 (by decide +kernel) (by decide +kernel) (by decide +kernel) (by decide +kernel) (by decide +kernel) (.ok) (by decide +kernel)).elim fun _ q => q.elim fun _ q => ⟨_, q.1⟩),
   ⟨_, ((h (exS (fun g => {g with fault := some ⟨3,0,0,0⟩})) (4) (0) (2) (fr)).2.2.1 (.ok) (by decide +kernel) (by decide +kernel) (by decide +kernel) (by decide +kernel)).1 (by decide +kernel) (by decide +kernel)⟩,
   (by refine ⟨_, ((h (exS) (4) (0) (2) ({fr with obj := 7, rx := 0xFF})).2.2.1 (.ok) ?_ ?_ ?_ ?_).2.1 ?_ ?_ ?_ ?_ ?_ ?_⟩ <;> decide +kernel),
   ⟨_, ((h (exS) (4) (0) (0) ({fr with step := 10})).2.2.1 (.ok) (by decide +kernel) (by decide +kernel) (by decide +kernel) (by decide +kernel)).2.2.1 (by decide +kernel)⟩,
   (by refine ⟨_, ((h (exS) (4) (0) (0) ({fr with rx := 5})).2.2.1 (.ok) ?_ ?_ ?_ ?_).2.2.2.1 ?_ ?_ ?_ ?_ ?_ ?_⟩ <;> decide +kernel),
   (by refine ((((h (exS) (4) (0) (0) (fr)).2.2.1 (.ok) ?_ ?_ ?_ ?_).2.2.2.2 ?_ ?_ ?_ ?_ ?_ ?_ ?_ ?_ ?_ ?_ ?_ ?_ ?_ ?_).elim fun _ q => ⟨_, q.1⟩) <;> decide +kernel),
   ⟨_, (h (exS (fun g => {g with contribs := [con 0 5, con 1 (2^40)], q := 1, modules := 2})) (4) (0) (0) (fr)).2.2.2 (by decide +kernel) (by decide +kernel)⟩⟩

theorem wit_AgreeAndCommit (h : Obligations.AgreeAndCommit) :
    (∃ u, exec .agreeUpSend agS = .next u) ∧
    (∃ u, exec (.agreeUp 9 true true 0) (agS (fun g => {g with bellwether := true, member := 0, top := true, covered := 3, doneCovered := 3, gnv := true})) = .next u) ∧
    (∃ u, exec (.agreeDown 9 true true) (agS (fun g => {g with bellwether := true, member := 0, top := true, covered := 4, agreeSent := true, gnv := true})) = .next u) ∧
    (∃ u, exec .doneSend (agS (fun g => {g with agreeSent := true, agreed := true})) = .next u) ∧
    (∃ u, exec (.doneMsg 9 0) (agS (fun g => {g with bellwether := true, member := 0, top := true, covered := 3, doneCovered := 3, gnv := true})) = .next u) ∧
    (∃ u, exec (.commit 0xFFFFFFFE .ok) (ste 1) = .next u) ∧
    (∃ u, exec (.commit 0xFFFFFFFE .ok) (ste 5) = .next u) ∧
    (∃ u, exec (.commit agS5.melvor.step Ecc.ok) agS5 = .next u) ∧
    (∃ u, exec (.commit 9 .ok) (agS (fun g => {g with doneSent := true, agreed := true})) = .next u) ∧
    (∃ u, exec (.commit 9 .ok) (agP (fun g => {g with doneSent := true, agreed := true, boundary := some 9})) = .next u) :=
  ⟨(((h (agS) (jobD) (by decide +kernel) (by decide +kernel) (by decide +kernel)).1 (by decide +kernel) (by decide +kernel) (by decide +kernel)).elim fun _ q => ⟨_, q.1⟩),
   (((h (agS (fun g => {g with bellwether := true, member := 0, top := true, covered := 3, doneCovered := 3, gnv := true})) (jobD) (by decide +kernel) (by decide +kernel) (by decide +kernel)).2.1 (true) (true) (0) (by decide +kernel) (by decide +kernel)).elim fun _ q => ⟨_, q.1⟩),
   (((h (agS (fun g => {g with bellwether := true, member := 0, top := true, covered := 4, agreeSent := true, gnv := true})) (jobD) (by decide +kernel) (by decide +kernel) (by decide +kernel)).2.2.1 (true) (true) (by decide +kernel) (by decide +kernel) (by decide +kernel) (by decide +kernel)).elim fun _ q => ⟨_, q.1⟩),
   (((h (agS (fun g => {g with agreeSent := true, agreed := true})) (jobD) (by decide +kernel) (by decide +kernel) (by decide +kernel)).2.2.2.1 (by decide +kernel) (by decide +kernel) (by decide +kernel)).elim fun _ q => ⟨_, q.1⟩),
   (((h (agS (fun g => {g with bellwether := true, member := 0, top := true, covered := 3, doneCovered := 3, gnv := true})) (jobD) (by decide +kernel) (by decide +kernel) (by decide +kernel)).2.2.2.2.1 (0) (by decide +kernel) (by decide +kernel)).elim fun _ q => ⟨_, q.1⟩),
   (((((h (ste 1) (jobD) (by decide +kernel) (by decide +kernel) (by decide +kernel)).2.2.2.2.2 (by decide +kernel) (by decide +kernel) (by decide +kernel) (by decide +kernel) (.ok)).1 (by decide +kernel)).1 (by decide +kernel)).elim fun _ q => ⟨_, q.1⟩),
   (((((h (ste 5) (jobD) (by decide +kernel) (by decide +kernel) (by decide +kernel)).2.2.2.2.2 (by decide +kernel) (by decide +kernel) (by decide +kernel) (by decide +kernel) (.ok)).1 (by decide +kernel)).2 (by decide +kernel)).elim fun _ q => ⟨_, q.1⟩),
   ((((h (agS5) (jobD) (by decide +kernel) (by decide +kernel) (by decide +kernel)).2.2.2.2.2 (by decide +kernel) (by decide +kernel) (by decide +kernel) (by decide +kernel) (.ok)).2.1 (by decide +kernel) (by decide +kernel)).elim fun _ q => ⟨_, q.1⟩),
   ((((h (agS (fun g => {g with doneSent := true, agreed := true})) (jobD) (by decide +kernel) (by decide +kernel) (by decide +kernel)).2.2.2.2.2 (by decide +kernel) (by decide +kernel) (by decide +kernel) (by decide +kernel) (.ok)).2.2.1 (by decide +kernel) (by decide +kernel)).elim fun _ q => ⟨_, q.1⟩),
   ((((h (agP (fun g => {g with doneSent := true, agreed := true, boundary := some 9})) (jobD) (by decide +kernel) (by decide +kernel) (by decide +kernel)).2.2.2.2.2 (by decide +kernel) (by decide +kernel) (by decide +kernel) (by decide +kernel) (.ok)).2.2.2 (by decide +kernel) (by decide +kernel)).elim fun _ q => ⟨_, q.1⟩)⟩

theorem wit_FreezeAndControl (h : Obligations.FreezeAndControl) :
    (∃ u, exec (.freeze false 2 7 1) (fzS 1 (fun g => { g with bellwether := true, member := 64, freezeUp := some 7 })) = .next u) ∧
    (∃ u, exec (.freeze false 2 7 1) (fzS 1 (fun g => { g with bellwether := true, member := 64 })) = .next u) ∧
    (∃ u, exec (.freeze true 2 7 1) (fzS 1 (fun g => {g with frozenStep := some 7})) = .next u) ∧
    (∃ u, exec (.freeze true 2 7 1) fzN = .next u) ∧
    (∃ u, exec (.freeze true 2 7 1) rly = .next u) ∧
    (∃ u, exec (.freeze true 2 7 1) partS = .next u) ∧
    (∃ u, exec (.freeze true 2 7 1) (fzS 0) = .next u) ∧
    (∃ u, exec (.control false Action.pause 2 7) (fzS 1 (fun g => { g with bellwether := true, member := 64 })) = .next u) ∧
    (∃ u, exec (.control true Action.pause 2 7) (fzS 1 (fun g => { g with bellwether := true, top := true, member := 0 })) = .next u) ∧
    (∃ u, exec (.control true Action.pause 2 7) fzN = .next u) ∧
    (∃ u, exec (.control true Action.stop 2 7) fzN = .next u) ∧
    (∃ u, exec (.control true Action.stopNow 2 7) (fzS 3) = .next u) ∧
    (∃ u, exec (.control true Action.resume 2 7) (fzS 3) = .next u) :=
  ⟨⟨_, ((h (fzS 1 (fun g => { g with bellwether := true, member := 64, freezeUp := some 7 })) (false) (.pause) (2) (7) (1) (by decide +kernel)).1 (by decide +kernel) (by decide +kernel)).1 (by decide +kernel) (by decide +kernel)⟩,
   ((((h (fzS 1 (fun g => { g with bellwether := true, member := 64 })) (false) (.pause) (2) (7) (1) (by decide +kernel)).1 (by decide +kernel) (by decide +kernel)).2.1 (by decide +kernel) (by decide +kernel)).elim fun _ q => ⟨_, q.1⟩),
   ⟨_, ((h (fzS 1 (fun g => {g with frozenStep := some 7})) (true) (.pause) (2) (7) (1) (by decide +kernel)).1 (by decide +kernel) (by decide +kernel)).2.2.1 (by decide +kernel) (by decide +kernel)⟩,
   ((((h (fzN) (true) (.pause) (2) (7) (1) (by decide +kernel)).1 (by decide +kernel) (by decide +kernel)).2.2.2 (by decide +kernel) (by decide +kernel) (by decide +kernel) (by decide +kernel) (by decide +kernel)).elim fun _ q => ⟨_, q.1⟩),
   (((h (rly) (true) (.pause) (2) (7) (1) (by decide +kernel)).2.1 (by decide +kernel) (by decide +kernel)).elim fun _ q => ⟨_, q.1⟩),
   ((((h (partS) (true) (.pause) (2) (7) (1) (by decide +kernel)).2.2.1 (by decide +kernel) (by decide +kernel) (by decide +kernel)).1 (fold2) (by decide +kernel) (by decide +kernel)).elim fun _ q => ⟨_, q.1⟩),
   ⟨_, ((h (fzS 0) (true) (.pause) (2) (7) (1) (by decide +kernel)).2.2.1 (by decide +kernel) (by decide +kernel) (by decide +kernel)).2 (by decide +kernel)⟩,
   ((((h (fzS 1 (fun g => { g with bellwether := true, member := 64 })) (false) (.pause) (2) (7) (1) (by decide +kernel)).2.2.2 (by decide +kernel) (by decide +kernel)).1 (by decide +kernel)).elim fun _ q => ⟨_, q.1⟩),
   ((((h (fzS 1 (fun g => { g with bellwether := true, top := true, member := 0 })) (true) (.pause) (2) (7) (1) (by decide +kernel)).2.2.2 (by decide +kernel) (by decide +kernel)).2.1 (by decide +kernel) (by decide +kernel)).elim fun _ q => ⟨_, q.1⟩),
   ⟨_, (((h (fzN) (true) (.pause) (2) (7) (1) (by decide +kernel)).2.2.2 (by decide +kernel) (by decide +kernel)).2.2 (by decide +kernel) (by decide +kernel)).1 (by decide +kernel)⟩,
   ⟨_, (((h (fzN) (true) (.pause) (2) (7) (1) (by decide +kernel)).2.2.2 (by decide +kernel) (by decide +kernel)).2.2 (by decide +kernel) (by decide +kernel)).2.1 (by decide +kernel)⟩,
   (((((h (fzS 3) (true) (.pause) (2) (7) (1) (by decide +kernel)).2.2.2 (by decide +kernel) (by decide +kernel)).2.2 (by decide +kernel) (by decide +kernel)).2.2.1 (by decide +kernel) (by decide +kernel)).elim fun _ q => ⟨_, q.1⟩),
   (((((h (fzS 3) (true) (.pause) (2) (7) (1) (by decide +kernel)).2.2.2 (by decide +kernel) (by decide +kernel)).2.2 (by decide +kernel) (by decide +kernel)).2.2.2 (by decide +kernel) (by decide +kernel) (by decide +kernel) (by decide +kernel)).elim fun _ q => ⟨_, q.1⟩)⟩

theorem wit_ClearCounters (h : Obligations.ClearCounters) :
    (∃ u, exec (.mailboxClrCnt Agent.melvor 0) s1 = .next u) ∧
    (∃ u, exec (.clrFault Agent.melvor 0) s1 = .next u) ∧
    (∃ u, exec (.portClrCnt Agent.melvor 0) s1 = .next u) ∧
    (∃ u, exec (.droverClrCnt Agent.melvor 3) s1 = .next u) ∧
    (∃ u, exec (.clrErr Agent.melvor 2) s1 = .next u) ∧
    (∃ u, exec (.clrTraffic Agent.melvor 2) s1 = .next u) ∧
    (∃ u, exec (.foldPortClrCnt Agent.melvor 5) s1 = .next u) ∧
    (∃ u, exec (.groupClrCnt Agent.melvor) s1 = .next u) ∧
    (∃ u, exec (.powerClrCnt Agent.melvor) s1 = .next u) ∧
    (∃ u, exec (.irqClrCnt Agent.melvor) s1 = .next u) ∧
    (∃ u, exec (.irqClrCnt (.port 0)) s1 = .next u) ∧
    (∃ u, exec (.reliabilityClrCnt Agent.melvor) s1 = .next u) ∧
    (∃ u, exec (.snapshotClrCnt Agent.melvor) s1 = .next u) ∧
    (∃ u, exec (.securityClrCnt Agent.melvor) s1 = .next u) :=
  ⟨⟨_, (h (s1) (.melvor) (0) (3) (2) (5)).1 (by decide +kernel)⟩,
   ⟨_, ((h (s1) (.melvor) (0) (3) (2) (5)).2.1 (by decide +kernel)).2⟩,
   ⟨_, ((h (s1) (.melvor) (0) (3) (2) (5)).2.1 (by decide +kernel)).1⟩,
   ⟨_, (h (s1) (.melvor) (0) (3) (2) (5)).2.2.1 (by decide +kernel)⟩,
   ⟨_, ((h (s1) (.melvor) (0) (3) (2) (5)).2.2.2.1 (by decide +kernel)).1⟩,
   ⟨_, ((h (s1) (.melvor) (0) (3) (2) (5)).2.2.2.1 (by decide +kernel)).2⟩,
   ⟨_, (h (s1) (.melvor) (0) (3) (2) (5)).2.2.2.2.1 (by decide +kernel)⟩,
   ⟨_, (h (s1) (.melvor) (0) (3) (2) (5)).2.2.2.2.2.1 (by decide +kernel)⟩,
   ⟨_, (h (s1) (.melvor) (0) (3) (2) (5)).2.2.2.2.2.2.1 (by decide +kernel)⟩,
   (((h (s1) (.melvor) (0) (3) (2) (5)).2.2.2.2.2.2.2.1 (by decide +kernel)).elim fun _ q => ⟨_, q.1⟩),
   ⟨_, (h (s1) (.port 0) (0) (3) (2) (5)).2.2.2.2.2.2.2.2.1 (by decide +kernel) (by decide +kernel)⟩,
   ⟨_, ((h (s1) (.melvor) (0) (3) (2) (5)).2.2.2.2.2.2.2.2.2.1 (by decide +kernel)).1 (by decide +kernel)⟩,
   ⟨_, ((h (s1) (.melvor) (0) (3) (2) (5)).2.2.2.2.2.2.2.2.2.1 (by decide +kernel)).2 (by decide +kernel)⟩,
   ⟨_, (h (s1) (.melvor) (0) (3) (2) (5)).2.2.2.2.2.2.2.2.2.2 (by decide +kernel)⟩⟩

theorem wit_OperatingPointAndDroop (h : Obligations.OperatingPointAndDroop) :
    (∃ u, exec .pointChangeStart ({ pw id with boot := { stage := 3 } }) = .next u) ∧
    (∃ u, exec .pointChangeStart (pw (fun p => {p with point := .dawn, target := .noon})) = .next u) ∧
    (∃ u, exec .pointChangeStart (pw (fun p => {p with point := .noon, target := .dawn})) = .next u) ∧
    (∃ u, exec .pointChangeStart (pw (fun p => {p with point := .dawn, target := .noon, droopActive := true})) = .next u) ∧
    (∃ u, exec .slewEnd (pw (fun p => {p with chg := .slewing, chgTo := .noon})) = .next u) ∧
    (∃ u, exec .slewEnd (pw (fun p => {p with chg := .slewingDown})) = .next u) ∧
    (∃ u, exec .relockEnd (pw (fun p => {p with chg := .relocking})) = .next u) ∧
    (∃ u, exec .droopWaitEnd (pw (fun p => {p with chg := .halted, droopWait := true, resumeStage := .slewing})) = .next u) ∧
    (∃ u, exec (.phaseWindow ({upeBusy := false, mxeLow := false, mxePairT := false})) (pw (fun p => {p with point := .dawn, target := .noon})) = .next u) ∧
    (∃ u, exec (.phaseWindow ({upeBusy := false, mxeLow := false, mxePairT := true})) (pw (fun p => {p with point := .dawn, target := .noon})) = .next u) ∧
    (∃ u, exec (.phaseWindow ({upeBusy := true, mxeLow := false, mxePairT := true})) ({ pw id with boot := { stage := 3 } }) = .next u) ∧
    (∃ u, exec .nightEntry (pw (fun p => {p with nightReq := true})) = .next u) ∧
    (∃ u, exec (.nightReq Agent.melvor true) ({ pw id with boot := { stage := 3 } }) = .next u) ∧
    (∃ u, exec (.nightReq Agent.melvor false) ({ pw id with boot := { stage := 3 } }) = .next u) ∧
    (∃ u, exec (.nightReq Agent.melvor false) (pw night) = .next u) ∧
    (∃ u, exec (.nightReq (.port 1) true) (pw (fun p => {p with point := .dawn, target := .noon})) = .next u) ∧
    (∃ u, exec .nightIdleExpiry (pw (fun p => {p with nightIdleMs := 5})) = .next u) ∧
    (∃ u, exec (.droopDetect 5 100) ({ pw id with boot := { stage := 3 } }) = .next u) ∧
    (∃ u, exec (.droopDetect 5 100) (pw (fun p => {p with chg := .slewing, chgTo := .noon})) = .next u) ∧
    (∃ u, exec (.droopDetect 5 100) (pw (fun p => {p with chg := .relocking})) = .next u) ∧
    (∃ u, exec (.stretchStageEnd 5 100) (isl {stage := 1, droop := true} (fun p => {p with droopActive := true, deferred := true})) = .next u) :=
  ⟨⟨_, ((h).1 ({ pw id with boot := { stage := 3 } })).1 (by decide +kernel)⟩,
   ⟨_, ((((h).1 (pw (fun p => {p with point := .dawn, target := .noon}))).2.1 (by decide +kernel) (by decide +kernel) (by decide +kernel) (by decide +kernel)).1 (by decide +kernel) (by decide +kernel)).1 (by decide +kernel)⟩,
   ⟨_, ((((h).1 (pw (fun p => {p with point := .noon, target := .dawn}))).2.1 (by decide +kernel) (by decide +kernel) (by decide +kernel) (by decide +kernel)).1 (by decide +kernel) (by decide +kernel)).2 (by decide +kernel)⟩,
   ⟨_, (((h).1 (pw (fun p => {p with point := .dawn, target := .noon, droopActive := true}))).2.1 (by decide +kernel) (by decide +kernel) (by decide +kernel) (by decide +kernel)).2 (by decide +kernel) (by decide +kernel)⟩,
   ⟨_, ((h).1 (pw (fun p => {p with chg := .slewing, chgTo := .noon}))).2.2.1 (by decide +kernel)⟩,
   ⟨_, ((h).1 (pw (fun p => {p with chg := .slewingDown}))).2.2.2.1 (by decide +kernel)⟩,
   ((((h).1 (pw (fun p => {p with chg := .relocking}))).2.2.2.2.1 (by decide +kernel)).elim fun _ q => ⟨_, q.1⟩),
   ⟨_, ((h).1 (pw (fun p => {p with chg := .halted, droopWait := true, resumeStage := .slewing}))).2.2.2.2.2.1 (by decide +kernel) (by decide +kernel)⟩,
   ⟨_, (((h).1 (pw (fun p => {p with point := .dawn, target := .noon}))).2.2.2.2.2.2.1 ({upeBusy := false, mxeLow := false, mxePairT := false}) (by decide +kernel) (by decide +kernel)).1 (by decide +kernel)⟩,
   ⟨_, (((h).1 (pw (fun p => {p with point := .dawn, target := .noon}))).2.2.2.2.2.2.1 ({upeBusy := false, mxeLow := false, mxePairT := true}) (by decide +kernel) (by decide +kernel)).2 (by decide +kernel)⟩,
   ((((h).1 ({ pw id with boot := { stage := 3 } })).2.2.2.2.2.2.2.1 ({upeBusy := true, mxeLow := false, mxePairT := true}) (by decide +kernel)).elim fun _ q => ⟨_, q.1⟩),
   (by refine ⟨_, ((h).1 (pw (fun p => {p with nightReq := true}))).2.2.2.2.2.2.2.2.1 ?_ ?_ ?_ ?_ ?_ ?_⟩ <;> decide +kernel),
   ⟨_, (((h).1 ({ pw id with boot := { stage := 3 } })).2.2.2.2.2.2.2.2.2.1 (.melvor) (by decide +kernel)).1 (by decide +kernel)⟩,
   ⟨_, (((h).1 ({ pw id with boot := { stage := 3 } })).2.2.2.2.2.2.2.2.2.1 (.melvor) (by decide +kernel)).2.1 (by decide +kernel) (by decide +kernel)⟩,
   (((((h).1 (pw night)).2.2.2.2.2.2.2.2.2.1 (.melvor) (by decide +kernel)).2.2.1 (by decide +kernel) (by decide +kernel)).elim fun _ q => ⟨_, q.1⟩),
   ⟨_, (((h).1 (pw (fun p => {p with point := .dawn, target := .noon}))).2.2.2.2.2.2.2.2.2.1 (.port 1) (by decide +kernel)).2.2.2 (by decide +kernel) (true)⟩,
   ⟨_, ((h).1 (pw (fun p => {p with nightIdleMs := 5}))).2.2.2.2.2.2.2.2.2.2 (by decide +kernel) (by decide +kernel) (by decide +kernel) (by decide +kernel)⟩,
   ⟨_, ((h).2 ({ pw id with boot := { stage := 3 } }) (5) (100) (by decide +kernel)).1 (by decide +kernel) (by decide +kernel) (by decide +kernel)⟩,
   ⟨_, ((h).2 (pw (fun p => {p with chg := .slewing, chgTo := .noon})) (5) (100) (by decide +kernel)).2.1 (by decide +kernel) (by decide +kernel) (by decide +kernel) (by decide +kernel)⟩,
   ⟨_, ((h).2 (pw (fun p => {p with chg := .relocking})) (5) (100) (by decide +kernel)).2.2.1 (by decide +kernel)⟩,
   ⟨_, ((h).2 (isl {stage := 1, droop := true} (fun p => {p with droopActive := true, deferred := true})) (5) (100) (by decide +kernel)).2.2.2 (1) (by decide +kernel) (by decide +kernel) (by decide +kernel)⟩⟩

theorem wit_CapAndActivity (h : Obligations.CapAndActivity) :
    (∃ u, exec .calibration (pw (fun p => {p with samples := List.replicate 10 1500, calValid := true, energyAcc := 999})) = .next u) ∧
    (∃ u, exec .calibration (pw (fun p => {p with pcap := 1000, samples := List.replicate 10 1500, point := .dawn, lowEvals := 4})) = .next u) ∧
    (∃ u, exec (.activityWindowEnd 5 ([])) (pw (fun p => {p with pcap := 1000, samples := List.replicate 10 1500, point := .dawn, lowEvals := 4})) = .next u) :=
  ⟨((((h).1 (pw (fun p => {p with samples := List.replicate 10 1500, calValid := true, energyAcc := 999}))).2.2.2.1 (by decide +kernel) (1500) (by decide +kernel) (by decide +kernel)).elim fun _ q => ⟨_, q.1⟩),
   ((((h).1 (pw (fun p => {p with pcap := 1000, samples := List.replicate 10 1500, point := .dawn, lowEvals := 4}))).2.2.2.2 (1500) (by decide +kernel) (by decide +kernel)).elim fun _ q => ⟨_, q.1⟩),
   (((h).2 (pw (fun p => {p with pcap := 1000, samples := List.replicate 10 1500, point := .dawn, lowEvals := 4})) (5) ([]) (by decide +kernel)).elim fun _ q => ⟨_, q.1⟩)⟩

theorem wit_ThermalLevels (h : Obligations.ThermalLevels) :
    (∃ u, exec (.thermalEval (dies 90) (hbmT 40)) (pw id) = .next u) :=
  ((h (pw id) (dies 90) (hbmT 40) (90) (by decide +kernel) (by decide +kernel) (by decide +kernel) (by decide +kernel)).elim fun _ q => ⟨_, q.1⟩)

theorem wit_InterruptController (h : Obligations.InterruptController) :
    (∃ u, exec (.messageSend 0) irqS = .next u) ∧
    (∃ u, exec (.messageSend 0) (irqS srv) = .next u) ∧
    (∃ u, exec (.eoi Agent.melvor 6) irqS = .next u) ∧
    (∃ u, exec (.eoi (.port 1) 6) irqS = .next u) ∧
    (∃ u, exec (.setSrc Agent.melvor 6 0x0011 0x0011) irqS = .next u) ∧
    (∃ u, exec (.pend Agent.melvor 6 0x0011) irqS = .next u) ∧
    (∃ u, exec (.pend (.port 1) 6 0x0011) irqS = .next u) ∧
    (∃ u, exec (.route Agent.melvor 1 4 0x0011) irqS = .next u) ∧
    (∃ u, exec (.route Agent.melvor 6 4 0x0011) irqS = .next u) ∧
    (∃ u, exec (.route (.port 1) 6 4 0x0011) irqS = .next u) :=
  ⟨(by refine (((h (irqS) (0) (6) (.melvor) (0x0011) (4) (0x0011)).1 ?_ ?_ ?_ ?_ ?_ ?_).elim fun _ q => ⟨_, q.1⟩) <;> decide +kernel),
   ⟨_, (h (irqS srv) (0) (6) (.melvor) (0x0011) (4) (0x0011)).2.1 (by decide +kernel)⟩,
   ((((h (irqS) (0) (6) (.melvor) (0x0011) (4) (0x0011)).2.2.2.1 (by decide +kernel)).1 (by decide +kernel)).elim fun _ q => ⟨_, q.1⟩),
   ⟨_, ((h (irqS) (0) (6) (.port 1) (0x0011) (4) (0x0011)).2.2.2.1 (by decide +kernel)).2 (by decide +kernel)⟩,
   (((h (irqS) (0) (6) (.melvor) (0x0011) (4) (0x0011)).2.2.2.2.1 (0x0011) (by decide +kernel)).elim fun _ q => ⟨_, q.1⟩),
   ⟨_, ((h (irqS) (0) (6) (.melvor) (0x0011) (4) (0x0011)).2.2.2.2.2.1 (by decide +kernel)).1 (by decide +kernel)⟩,
   ⟨_, ((h (irqS) (0) (6) (.port 1) (0x0011) (4) (0x0011)).2.2.2.2.2.1 (by decide +kernel)).2 (by decide +kernel)⟩,
   ⟨_, ((h (irqS) (0) (1) (.melvor) (0x0011) (4) (0x0011)).2.2.2.2.2.2.1 (by decide +kernel)).1 (by decide +kernel) (by decide +kernel)⟩,
   ((((h (irqS) (0) (6) (.melvor) (0x0011) (4) (0x0011)).2.2.2.2.2.2.1 (by decide +kernel)).2.1 (by decide +kernel) (by decide +kernel)).elim fun _ q => ⟨_, q.1⟩),
   ⟨_, ((h (irqS) (0) (6) (.port 1) (0x0011) (4) (0x0011)).2.2.2.2.2.2.1 (by decide +kernel)).2.2 (by decide +kernel)⟩⟩

theorem wit_JournalAndSnapshots (h : Obligations.JournalAndSnapshots) :
    (∃ u, exec .lockstepMismatch jrS = .next u) ∧
    (∃ u, exec .lockstepMismatch (jrS (fun s => {s with rel := {s.rel with fatal := true}})) = .next u) ∧
    (∃ u, exec .lockstepMismatch (jrS (fun s => {s with melvor := {s.melvor with lockstepErr := true}})) = .next u) ∧
    (∃ u, exec (.snapStart Agent.melvor) jrS = .next u) ∧
    (∃ u, exec (.snapStart Agent.melvor) (snapS id) = .next u) ∧
    (∃ u, exec (.abort Agent.melvor) jrS = .next u) ∧
    (∃ u, exec (.restore Agent.melvor (toBytes (1397772879 + 2 ^ 32) 0x1000) true) jrS = .next u) ∧
    (∃ u, exec (.restore Agent.melvor (toBytes (1397772879 + 2 ^ 32) 0x1000) true) (snapS id 0) = .next u) ∧
    (∃ u, exec (.restore Agent.melvor (toBytes (1397772879 + 2 ^ 32) 0x1000) false) (snapS id 0) = .next u) ∧
    (∃ u, exec (.restore Agent.melvor (toBytes (1397772879 + 2 ^ 32) 0x1000) true) (snapS id) = .next u) ∧
    (∃ u, exec .snapshotComplete (snapRun id) = .next u) ∧
    (∃ u, exec .snapshotComplete (snapRun (fun x => { x with phase := 1, host := [(0, true)] })) = .next u) ∧
    (∃ u, exec .snapshotComplete (snapRun (fun x => { x with phase := 1 })) = .next u) ∧
    (∃ u, exec (.hostCompletion Requester.snapshot 0 false (HostEnd.data 1)) (snapRun (fun x => { x with phase := 2, host := [(0, true)] })) = .next u) :=
  ⟨(((h (jrS) (.melvor)).1 (by decide +kernel) (by decide +kernel)).elim fun _ q => ⟨_, q.1⟩),
   ⟨_, (h (jrS (fun s => {s with rel := {s.rel with fatal := true}})) (.melvor)).2.1 (by decide +kernel) (by decide +kernel)⟩,
   ⟨_, (h (jrS (fun s => {s with melvor := {s.melvor with lockstepErr := true}})) (.melvor)).2.2.1 (by decide +kernel)⟩,
   ⟨_, ((h (jrS) (.melvor)).2.2.2.2.1 (by decide +kernel) (by decide +kernel)).1 (by decide +kernel)⟩,
   ((((h (snapS id) (.melvor)).2.2.2.2.1 (by decide +kernel) (by decide +kernel)).2.2.1 (by decide +kernel) (by decide +kernel) (by decide +kernel) (by decide +kernel) (by decide +kernel)).elim fun _ q => ⟨_, q.1⟩),
   ⟨_, ((h (jrS) (.melvor)).2.2.2.2.1 (by decide +kernel) (by decide +kernel)).2.2.2.2.1 (by decide +kernel)⟩,
   (((((h (jrS) (.melvor)).2.2.2.2.1 (by decide +kernel) (by decide +kernel)).2.2.2.2.2.1 ((toBytes (0x5350524F + 2^32) 4096)) (true) (by decide +kernel) (by decide +kernel) (by decide +kernel)).1 (by decide +kernel)).elim fun _ q => ⟨_, q.1⟩),
   ((((((h (snapS id 0) (.melvor)).2.2.2.2.1 (by decide +kernel) (by decide +kernel)).2.2.2.2.2.1 ((toBytes (0x5350524F + 2^32) 4096)) (true) (by decide +kernel) (by decide +kernel) (by decide +kernel)).2 (by decide +kernel) (by decide +kernel)).1 (by decide +kernel)).elim fun _ q => ⟨_, q.1⟩),
   ((((((h (snapS id 0) (.melvor)).2.2.2.2.1 (by decide +kernel) (by decide +kernel)).2.2.2.2.2.1 ((toBytes (0x5350524F + 2^32) 4096)) (false) (by decide +kernel) (by decide +kernel) (by decide +kernel)).2 (by decide +kernel) (by decide +kernel)).2 (by decide +kernel)).elim fun _ q => ⟨_, q.1⟩),
   ⟨_, ((h (snapS id) (.melvor)).2.2.2.2.1 (by decide +kernel) (by decide +kernel)).2.2.2.2.2.2 ((toBytes (0x5350524F + 2^32) 4096)) (true) (by decide +kernel) (by decide +kernel)⟩,
   (by refine ((((h (snapRun id) (.melvor)).2.2.2.2.2 ?_ ?_ ?_ ?_ ?_ ?_ ?_).1 ?_ ?_ ?_).elim fun _ q => ⟨_, q.1⟩) <;> decide +kernel),
   (by refine ⟨_, ((h (snapRun (fun x => { x with phase := 1, host := [(0, true)] })) (.melvor)).2.2.2.2.2 ?_ ?_ ?_ ?_ ?_ ?_ ?_).2.2.1 ?_ ?_⟩ <;> decide +kernel),
   (by refine ((((h (snapRun (fun x => { x with phase := 1 })) (.melvor)).2.2.2.2.2 ?_ ?_ ?_ ?_ ?_ ?_ ?_).2.2.2.1 ?_ ?_ ?_).elim fun _ q => q.elim fun _ q => ⟨_, q.1⟩) <;> decide +kernel),
   (by refine ((((h (snapRun (fun x => { x with phase := 2, host := [(0, true)] })) (.melvor)).2.2.2.2.2 ?_ ?_ ?_ ?_ ?_ ?_ ?_).2.2.2.2 (0) (1) ?_ ?_).elim fun _ q => ⟨_, q.1⟩) <;> decide +kernel)⟩

theorem wit_PortRequestsAndTables (h : Obligations.PortRequestsAndTables) :
    (∃ u, exec (.auth 0 false) (regS entS clrK) = .next u) ∧
    (∃ u, exec (.auth 0 false) (secW 2) = .next u) ∧
    (∃ u, exec (.auth 0 false) (secW 1) = .next u) ∧
    (∃ u, exec (.clearKey 0 false) (regS entS clrK) = .next u) ∧
    (∃ u, exec (.clearKey 0 false) (secW 1) = .next u) ∧
    (∃ u, exec (.drop 0 false) (regS entS clrK) = .next u) ∧
    (∃ u, exec (.drop 0 false) (secW 1) = .next u) ∧
    (∃ u, exec (.drop 0 false) (secW 2) = .next u) ∧
    (∃ u, exec (.enroll 0 false) (regS entS clrK) = .next u) ∧
    (∃ u, exec (.enroll 0 false) (secW 1) = .next u) ∧
    (∃ u, exec (.enroll 0 false) (secW 3 [(3376, 9)] (fun s => s.setPort 1 {})) = .next u) ∧
    (∃ u, exec (.enroll 0 false) (secW 3 [] (fun s => { s with melvor := {s.melvor with jobState := 1}})) = .next u) ∧
    (∃ u, exec (.replace 0 false) (regS entS clrK) = .next u) ∧
    (∃ u, exec (.replace 0 false) (secW 1) = .next u) ∧
    (∃ u, exec (.svnCommit 0 false) (regS entS clrK) = .next u) ∧
    (∃ u, exec (.svnCommit 0 false) (secW 1) = .next u) ∧
    (∃ u, exec (.regionTableWrite Agent.melvor 3 0 0) (regS regEnt) = .next u) ∧
    (∃ u, exec (.regionTableWrite Agent.melvor 3 2 1) (regS { regEnt with base := 0x7FFFF }) = .next u) ∧
    (∃ u, exec (.regionTableWrite Agent.melvor 3 2 1) (regS { regEnt with base := 20 }) = .next u) ∧
    (∃ u, exec (.regionTableWrite Agent.melvor 3 2 0) (regS regEnt) = .next u) ∧
    (∃ u, exec (.regionTableWrite Agent.melvor 3 2 0) (regS entS) = .next u) ∧
    (∃ u, exec (.regionTableWrite Agent.melvor 3 0 0) (regS regEnt (fun s => {s with melvor := {s.melvor with jobState := 1}})) = .next u) ∧
    (∃ u, exec (.regionTableWrite (Agent.port 0) 3 0 0) (regS regEnt) = .next u) ∧
    (∃ u, exec (.tileMapWrite Agent.melvor 0 0) (regS regEnt) = .next u) ∧
    (∃ u, exec (.tileMapWrite Agent.melvor 0 0) (regS regEnt (fun s => {s with melvor := {s.melvor with jobState := 1}})) = .next u) ∧
    (∃ u, exec .clearingEnd (regS { entS with valid := false } clr) = .next u) :=
  ⟨⟨_, (((h).1 (regS entS clrK) (0) (by decide +kernel)).1 ((1, fun p => Instr.auth p false)) (by decide +kernel)).1 (by decide +kernel)⟩,
   (((((h).1 (secW 2) (0) (by decide +kernel)).1 ((1, fun p => Instr.auth p false)) (by decide +kernel)).2.1 (by decide +kernel) (by decide +kernel)).elim fun _ q => ⟨_, q.1⟩),
   (((((h).1 (secW 1) (0) (by decide +kernel)).1 ((1, fun p => Instr.auth p false)) (by decide +kernel)).2.2 (by decide +kernel) (by decide +kernel) (by decide +kernel) (by decide +kernel)).elim fun _ q => ⟨_, q.1⟩),
   ⟨_, (((h).1 (regS entS clrK) (0) (by decide +kernel)).1 ((5, fun p => Instr.clearKey p false)) (by decide +kernel)).1 (by decide +kernel)⟩,
   (((((h).1 (secW 1) (0) (by decide +kernel)).1 ((5, fun p => Instr.clearKey p false)) (by decide +kernel)).2.1 (by decide +kernel) (by decide +kernel)).elim fun _ q => ⟨_, q.1⟩),
   ⟨_, (((h).1 (regS entS clrK) (0) (by decide +kernel)).1 ((2, fun p => Instr.drop p false)) (by decide +kernel)).1 (by decide +kernel)⟩,
   (((((h).1 (secW 1) (0) (by decide +kernel)).1 ((2, fun p => Instr.drop p false)) (by decide +kernel)).2.1 (by decide +kernel) (by decide +kernel)).elim fun _ q => ⟨_, q.1⟩),
   ((((h).1 (secW 2) (0) (by decide +kernel)).2.2.1 (by decide +kernel)).elim fun _ q => ⟨_, q.1⟩),
   ⟨_, (((h).1 (regS entS clrK) (0) (by decide +kernel)).1 ((3, fun p => Instr.enroll p false)) (by decide +kernel)).1 (by decide +kernel)⟩,
   (((((h).1 (secW 1) (0) (by decide +kernel)).1 ((3, fun p => Instr.enroll p false)) (by decide +kernel)).2.1 (by decide +kernel) (by decide +kernel)).elim fun _ q => ⟨_, q.1⟩),
   (((((h).1 (secW 3 [(3376, 9)] (fun s => s.setPort 1 {})) (0) (by decide +kernel)).2.2.2.1 (by decide +kernel) (by decide +kernel) (by decide +kernel)).1 (by decide +kernel) (by decide +kernel) (by decide +kernel) (by decide +kernel)).elim fun _ q => ⟨_, q.1⟩),
   (((((h).1 (secW 3 [] (fun s => { s with melvor := {s.melvor with jobState := 1}})) (0) (by decide +kernel)).2.2.2.1 (by decide +kernel) (by decide +kernel) (by decide +kernel)).2 (by decide +kernel)).elim fun _ q => ⟨_, q.1⟩),
   ⟨_, (((h).1 (regS entS clrK) (0) (by decide +kernel)).1 ((4, fun p => Instr.replace p false)) (by decide +kernel)).1 (by decide +kernel)⟩,
   (((((h).1 (secW 1) (0) (by decide +kernel)).1 ((4, fun p => Instr.replace p false)) (by decide +kernel)).2.1 (by decide +kernel) (by decide +kernel)).elim fun _ q => ⟨_, q.1⟩),
   ⟨_, (((h).1 (regS entS clrK) (0) (by decide +kernel)).1 ((6, fun p => Instr.svnCommit p false)) (by decide +kernel)).1 (by decide +kernel)⟩,
   (((((h).1 (secW 1) (0) (by decide +kernel)).1 ((6, fun p => Instr.svnCommit p false)) (by decide +kernel)).2.1 (by decide +kernel) (by decide +kernel)).elim fun _ q => ⟨_, q.1⟩),
   ⟨_, (((h).2 (regS regEnt) (.melvor) (3) (0)).1 (by decide +kernel) (by decide +kernel)).1⟩,
   ⟨_, (((h).2 (regS { regEnt with base := 0x7FFFF }) (.melvor) (3) (1)).1 (by decide +kernel) (by decide +kernel)).2.2.1 (by decide +kernel) (by decide +kernel)⟩,
   (by refine ⟨_, (((h).2 (regS { regEnt with base := 20 }) (.melvor) (3) (1)).1 ?_ ?_).2.2.2.1 (7) ({ base := 20, size := 2, valid := true, effBase := 20, effSize := 2, effValid := true }) ?_ ?_ ?_ ?_ ?_ ?_⟩ <;> decide +kernel),
   (((((h).2 (regS regEnt) (.melvor) (3) (0)).1 (by decide +kernel) (by decide +kernel)).2.2.2.2.1 (by decide +kernel) (by decide +kernel)).elim fun _ q => ⟨_, q.1⟩),
   (((((h).2 (regS entS) (.melvor) (3) (0)).1 (by decide +kernel) (by decide +kernel)).2.2.2.2.2.1 (by decide +kernel) (by decide +kernel) (by decide +kernel) (by decide +kernel)).elim fun _ q => ⟨_, q.1⟩),
   ⟨_, (((h).2 (regS regEnt (fun s => {s with melvor := {s.melvor with jobState := 1}})) (.melvor) (3) (0)).2.1 (by decide +kernel) (by decide +kernel) (0) (0)).1⟩,
   ((((h).2 (regS regEnt) (.melvor) (3) (0)).2.2.1 (0) (0) (by decide +kernel) (by decide +kernel)).elim fun _ q => ⟨_, q.1⟩),
   (((((h).2 (regS regEnt) (.melvor) (3) (0)).1 (by decide +kernel) (by decide +kernel)).2.2.2.2.2.2 (0)).elim fun _ q => ⟨_, q.1⟩),
   ⟨_, (((h).2 (regS regEnt (fun s => {s with melvor := {s.melvor with jobState := 1}})) (.melvor) (3) (0)).2.1 (by decide +kernel) (by decide +kernel) (0) (0)).2⟩,
   ((((h).2 (regS { entS with valid := false } clr) (.melvor) (3) (0)).2.2.2 (by decide +kernel) (by decide +kernel)).elim fun _ q => ⟨_, q.1⟩)⟩

theorem wit_SpdmResponder (h : Obligations.SpdmResponder) :
    (∃ u, exec (.getVersion (.doe 0)) (sp {}) = .next u) ∧
    (∃ u, exec (.getVersion (.doe 0)) (sp {version := true, caps := true, algs := true} (fun s => {s with melvor := {s.melvor with lockstepErr := true}})) = .next u) ∧
    (∃ u, exec (.getCapabilities (.doe 0)) (sp { version := true }) = .next u) ∧
    (∃ u, exec (.getCapabilities (.doe 0)) (sp {}) = .next u) ∧
    (∃ u, exec (.negotiateAlgorithms (.doe 0) true true) (sp { version := true, caps := true }) = .next u) ∧
    (∃ u, exec (.challenge (.doe 0) 0 77) (sp {version := true, caps := true, algs := true}) = .next u) ∧
    (∃ u, exec (.challenge (.doe 0) 1 77) (sp {version := true, caps := true, algs := true}) = .next u) ∧
    (∃ u, exec (.challenge (.doe 0) 0 77) (sp {}) = .next u) ∧
    (∃ u, exec (.challenge (.doe 0) 0 77) (sp {version := true, caps := true, algs := true} (fun s => {s with melvor := {s.melvor with lockstepErr := true}})) = .next u) ∧
    (∃ u, exec (.getCertificate (.doe 0) 0 0 0) (sp {version := true, caps := true, algs := true}) = .next u) ∧
    (∃ u, exec (.getCertificate (.doe 0) 1 0 0) (sp {version := true, caps := true, algs := true}) = .next u) ∧
    (∃ u, exec (.getDigests (.doe 0)) (sp {version := true, caps := true, algs := true}) = .next u) ∧
    (∃ u, exec (.getDigests (.doe 0)) (sp {}) = .next u) ∧
    (∃ u, exec (.getDigests (.doe 0)) (sp {version := true, caps := true, algs := true} (fun s => {s with melvor := {s.melvor with lockstepErr := true}})) = .next u) ∧
    (∃ u, exec (.getMeasurements (.doe 0) 1 77) (sp {version := true, caps := true, algs := true}) = .next u) ∧
    (∃ u, exec (.getMeasurements (.doe 0) 8 77) (sp {version := true, caps := true, algs := true}) = .next u) ∧
    (∃ u, exec (.getMeasurements (.doe 0) 1 77) (sp {}) = .next u) :=
  ⟨⟨_, ((h (sp {}) (.doe 0) (77)).1 (by decide +kernel) (by decide +kernel)).1⟩,
   ⟨_, ((h (sp {version := true, caps := true, algs := true} (fun s => {s with melvor := {s.melvor with lockstepErr := true}})) (.doe 0) (77)).2 (by decide +kernel)).1⟩,
   ⟨_, ((h (sp { version := true }) (.doe 0) (77)).1 (by decide +kernel) (by decide +kernel)).2.1 (by decide +kernel)⟩,
   ⟨_, ((h (sp {}) (.doe 0) (77)).1 (by decide +kernel) (by decide +kernel)).2.2.1 (by decide +kernel)⟩,
   ⟨_, ((h (sp { version := true, caps := true }) (.doe 0) (77)).1 (by decide +kernel) (by decide +kernel)).2.2.2.1 (by decide +kernel) (by decide +kernel)⟩,
   ⟨_, (((h (sp {version := true, caps := true, algs := true}) (.doe 0) (77)).1 (by decide +kernel) (by decide +kernel)).2.2.2.2.1 (by decide +kernel)).2.2.2.1⟩,
   ⟨_, ((((h (sp {version := true, caps := true, algs := true}) (.doe 0) (77)).1 (by decide +kernel) (by decide +kernel)).2.2.2.2.1 (by decide +kernel)).2.2.1 (1) (0) (0) (by decide +kernel)).2⟩,
   ⟨_, (((h (sp {}) (.doe 0) (77)).1 (by decide +kernel) (by decide +kernel)).2.2.2.2.2 (by decide +kernel)).2.1⟩,
   ⟨_, ((h (sp {version := true, caps := true, algs := true} (fun s => {s with melvor := {s.melvor with lockstepErr := true}})) (.doe 0) (77)).2 (by decide +kernel)).2.2⟩,
   ⟨_, (((h (sp {version := true, caps := true, algs := true}) (.doe 0) (77)).1 (by decide +kernel) (by decide +kernel)).2.2.2.2.1 (by decide +kernel)).2.1 (0) (0)⟩,
   ⟨_, ((((h (sp {version := true, caps := true, algs := true}) (.doe 0) (77)).1 (by decide +kernel) (by decide +kernel)).2.2.2.2.1 (by decide +kernel)).2.2.1 (1) (0) (0) (by decide +kernel)).1⟩,
   ⟨_, (((h (sp {version := true, caps := true, algs := true}) (.doe 0) (77)).1 (by decide +kernel) (by decide +kernel)).2.2.2.2.1 (by decide +kernel)).1⟩,
   ⟨_, (((h (sp {}) (.doe 0) (77)).1 (by decide +kernel) (by decide +kernel)).2.2.2.2.2 (by decide +kernel)).1⟩,
   ⟨_, ((h (sp {version := true, caps := true, algs := true} (fun s => {s with melvor := {s.melvor with lockstepErr := true}})) (.doe 0) (77)).2 (by decide +kernel)).2.1⟩,
   ⟨_, (((h (sp {version := true, caps := true, algs := true}) (.doe 0) (77)).1 (by decide +kernel) (by decide +kernel)).2.2.2.2.1 (by decide +kernel)).2.2.2.2.1 (1) (by decide +kernel) (by decide +kernel)⟩,
   ⟨_, (((h (sp {version := true, caps := true, algs := true}) (.doe 0) (77)).1 (by decide +kernel) (by decide +kernel)).2.2.2.2.1 (by decide +kernel)).2.2.2.2.2 (8) (by decide +kernel) (by decide +kernel)⟩,
   ⟨_, (((h (sp {}) (.doe 0) (77)).1 (by decide +kernel) (by decide +kernel)).2.2.2.2.2 (by decide +kernel)).2.2⟩⟩

theorem wit_PowerUp (h : Obligations.PowerUp) :
    (∃ u, exec .inputInRange (bt { powerOn := false, stage := 0, pgood := false }) = .next u) ∧
    (∃ u, exec .inputInRange (bt { thermtrip := true }) = .next u) ∧
    (∃ u, exec .powerGood (bt { stage := 0, holdUp := true, pgood := false }) = .next u) ∧
    (∃ u, exec .powerGood (bt { stage := 0, pgood := false, en := true, resetLow := true }) = .next u) ∧
    (∃ u, exec (.romExit { err := 3, slot := 1, board := 300 }) (bt { thermtrip := true }) = .next u) ∧
    (∃ u, exec (.romExit { err := 1, slot := 1, board := 300 }) (bt { thermtrip := true }) = .next u) ∧
    (∃ u, exec .initEnd (bt { stage := 2, sinceUs := 77 }) = .next u) ∧
    (∃ u, exec .fwReady (bt { stage := 3, sinceUs := 2^32 + 1, portsReady := true } (fun s => {s with waiting := []})) = .next u) :=
  ⟨(((h (bt { powerOn := false, stage := 0, pgood := false }) (1) (300)).1 (by decide +kernel) (by decide +kernel)).elim fun _ q => ⟨_, q.1⟩),
   ⟨_, (h (bt { thermtrip := true }) (1) (300)).2.1 (by decide +kernel)⟩,
   ⟨_, (h (bt { stage := 0, holdUp := true, pgood := false }) (1) (300)).2.2.1 (by decide +kernel) (by decide +kernel) (by decide +kernel)⟩,
   (((h (bt { stage := 0, pgood := false, en := true, resetLow := true }) (1) (300)).2.2.2.1 (by decide +kernel) (by decide +kernel) (by decide +kernel)).elim fun _ q => ⟨_, q.1⟩),
   ((((h (bt { thermtrip := true }) (1) (300)).2.2.2.2.2.1 (by decide +kernel)).1).elim fun _ q => ⟨_, q.1⟩),
   ⟨_, ((h (bt { thermtrip := true }) (1) (300)).2.2.2.2.2.1 (by decide +kernel)).2 (1) (by decide +kernel)⟩,
   (((h (bt { stage := 2, sinceUs := 77 }) (1) (300)).2.2.2.2.2.2.1 (by decide +kernel) (by decide +kernel)).elim fun _ q => ⟨_, q.1⟩),
   (((h (bt { stage := 3, sinceUs := 2^32 + 1, portsReady := true } (fun s => {s with waiting := []})) (1) (300)).2.2.2.2.2.2.2 (by decide +kernel) (by decide +kernel) (by decide +kernel)).elim fun _ q => ⟨_, q.1⟩)⟩

theorem wit_ResetsAndPowerOff (h : Obligations.ResetsAndPowerOff) :
    (∃ u, exec .resetAssert (bt { stage := 4 }) = .next u) ∧
    (∃ u, exec .resetAssert (bt { stage := 0 }) = .next u) ∧
    (∃ u, exec .resetRelease (bt { stage := 4, resetLow := true }) = .next u) ∧
    (∃ u, exec .resetRelease (bt { stage := 4, resetLow := true, scanned := true }) = .next u) ∧
    (∃ u, exec (.rstReq Agent.melvor 42435#16) (bt { stage := 4 }) = .next u) ∧
    (∃ u, exec (.rstReq Agent.melvor 5) (bt { stage := 4 }) = .next u) ∧
    (∃ u, exec (.tripClr Agent.melvor) (bt { stage := 4 }) = .next u) ∧
    (∃ u, exec (.tripClr (.port 1)) (bt { stage := 4 }) = .next u) ∧
    (∃ u, exec .enLow (bt { stage := 4 }) = .next u) ∧
    (∃ u, exec .enLow (bt { powerOn := false, stage := 0 }) = .next u) ∧
    (∃ u, exec (.inputOutOfRange true) (bt { stage := 4 }) = .next u) ∧
    (∃ u, exec .powerStageOff (bt { stage := 4, holdUp := true } (fun s => {s with flashIf := {busy := true, cmd := 2}})) = .next u) :=
  ⟨(((h (bt { stage := 4 }) (.melvor) (0xA5C3)).1 (by decide +kernel)).elim fun _ q => ⟨_, q.1⟩),
   ⟨_, (h (bt { stage := 0 }) (.melvor) (0xA5C3)).2.2.1 (by decide +kernel)⟩,
   ⟨_, (h (bt { stage := 4, resetLow := true }) (.melvor) (0xA5C3)).2.2.2.1 (by decide +kernel) (by decide +kernel)⟩,
   (((h (bt { stage := 4, resetLow := true, scanned := true }) (.melvor) (0xA5C3)).2.2.2.2.1 (by decide +kernel) (by decide +kernel) (by decide +kernel)).elim fun _ q => ⟨_, q.1⟩),
   ((((h (bt { stage := 4 }) (.melvor) (0xA5C3)).2.2.2.2.2.1 (by decide +kernel) (by decide +kernel)).1 (by decide +kernel)).elim fun _ q => ⟨_, q.1⟩),
   ⟨_, ((h (bt { stage := 4 }) (.melvor) (5)).2.2.2.2.2.1 (by decide +kernel) (by decide +kernel)).2 (by decide +kernel)⟩,
   ⟨_, ((h (bt { stage := 4 }) (.melvor) (0xA5C3)).2.2.2.2.2.2.1 (by decide +kernel)).1 (by decide +kernel)⟩,
   ⟨_, ((h (bt { stage := 4 }) (.port 1) (0xA5C3)).2.2.2.2.2.2.1 (by decide +kernel)).2 (by decide +kernel)⟩,
   (((h (bt { stage := 4 }) (.melvor) (0xA5C3)).2.2.2.2.2.2.2.1 (by decide +kernel)).elim fun _ q => ⟨_, q.1⟩),
   ⟨_, (h (bt { powerOn := false, stage := 0 }) (.melvor) (0xA5C3)).2.2.2.2.2.2.2.2.1 (by decide +kernel)⟩,
   (((h (bt { stage := 4 }) (.melvor) (0xA5C3)).2.2.2.2.2.2.2.2.2.1 (by decide +kernel) (true)).elim fun _ q => ⟨_, q.1⟩),
   (((h (bt { stage := 4, holdUp := true } (fun s => {s with flashIf := {busy := true, cmd := 2}})) (.melvor) (0xA5C3)).2.2.2.2.2.2.2.2.2.2 (by decide +kernel) (by decide +kernel)).elim fun _ q => ⟨_, q.1⟩)⟩

theorem wit_FlashSidebandAndTap (h : Obligations.FlashSidebandAndTap) :
    (∃ u, exec (.erase Agent.melvor []) (flS {}) = .next u) ∧
    (∃ u, exec (.erase (.port 1) []) (flS {}) = .next u) ∧
    (∃ u, exec (.erase (.port 0) [Agent.smbus]) (flS {}) = .next u) ∧
    (∃ u, exec (.program Agent.melvor) (flS {}) = .next u) ∧
    (∃ u, exec (.program (.port 1)) (flS {}) = .next u) ∧
    (∃ u, exec (.verify Agent.melvor) (flS {}) = .next u) ∧
    (∃ u, exec (.verify (.port 1)) (flS {}) = .next u) ∧
    (∃ u, exec (.flashComplete true) (flS { busy := true, cmd := 1 }) = .next u) ∧
    (∃ u, exec (.flashComplete false) (flS { busy := true, cmd := 2, cmdPage := 5 }) = .next u) ∧
    (∃ u, exec (.flashComplete true) (flS { busy := true, cmd := 2, cmdPage := 2304 }) = .next u) ∧
    (∃ u, exec (.flashComplete true) (flS { busy := true, cmd := 3, held := true, holder := 1 }) = .next u) ∧
    (∃ u, exec (.smbSetPointer 0x38000001 false) s1 = .next u) ∧
    (∃ u, exec (.smbSetPointer 0x38000001 true) s1 = .next u) ∧
    (∃ u, exec (.smbSetPointer 0x38000001 true) s0 = .next u) ∧
    (∃ u, exec (.smbWriteRegister 0x38000001 false) s1 = .next u) ∧
    (∃ u, exec (.smbWriteRegister 0x38000001 true) ({s1 with smbPtr := 0x3800015#28}) = .next u) ∧
    (∃ u, exec (.smbWriteRegister 0x38000001 true) ({s1 with smbPtr := 0x3800014#28}) = .next u) ∧
    (∃ u, exec (.smbWriteRegister 0x38000001 true) ({s1 with smbPtr := 0x3700014#28}) = .next u) ∧
    (∃ u, exec (.smbWriteRegister 0x38000001 true) s0 = .next u) ∧
    (∃ u, exec .smbReadRegister s1 = .next u) ∧
    (∃ u, exec .smbReadRegister ({s1 with smbPtr := 0x3700014#28}) = .next u) ∧
    (∃ u, exec .smbReadRegister ({s1 with smbPtr := 0x3800015#28}) = .next u) ∧
    (∃ u, exec .smbReadRegister s0 = .next u) ∧
    (∃ u, exec (.mctp ([1])) s1 = .next u) ∧
    (∃ u, exec (.mctp ([1])) ({s1 with melvor := {s1.melvor with fwReady := false}}) = .next u) ∧
    (∃ u, exec (.mctp ([1])) s0 = .next u) ∧
    (∃ u, exec .alertResponse ({s1 with boot := { stage := 4, resetLow := true}, rel := {fatal := true}}) = .next u) ∧
    (∃ u, exec .alertResponse s0 = .next u) ∧
    (∃ u, exec .bypass s0 = .next u) ∧
    (∃ u, exec .idcode s0 = .next u) ∧
    (∃ u, exec .samplePreload s0 = .next u) ∧
    (∃ u, exec .clamp ({s1 with boot := { stage := 4, resetLow := true}, rel := {fatal := true}}) = .next u) ∧
    (∃ u, exec .clamp s0 = .next u) ∧
    (∃ u, exec .extest ({s1 with boot := { stage := 4, resetLow := true}, rel := {fatal := true}}) = .next u) ∧
    (∃ u, exec .extest s0 = .next u) ∧
    (∃ u, exec .extestPulse ({s1 with boot := { stage := 4, resetLow := true}, rel := {fatal := true}}) = .next u) ∧
    (∃ u, exec .extestPulse s0 = .next u) ∧
    (∃ u, exec .extestTrain ({s1 with boot := { stage := 4, resetLow := true}, rel := {fatal := true}}) = .next u) ∧
    (∃ u, exec .extestTrain s0 = .next u) ∧
    (∃ u, exec .highz ({s1 with boot := { stage := 4, resetLow := true}, rel := {fatal := true}}) = .next u) ∧
    (∃ u, exec .highz s0 = .next u) :=
  ⟨⟨_, ((((h).1 (flS {}) (.melvor)).1 (by decide +kernel)).1 (by decide +kernel) (by decide +kernel)).1⟩,
   ⟨_, (((h).1 (flS {}) (.port 1)).1 (by decide +kernel)).2 (by decide +kernel) (Instr.erase (Agent.port 1) []) (by decide +kernel)⟩,
   ⟨_, ((h).1 (flS {}) (.melvor)).2.1 (0) (by decide +kernel) (by decide +kernel) (by decide +kernel) (by decide +kernel) (by decide +kernel) (0) (by decide +kernel)⟩,
   ⟨_, ((((h).1 (flS {}) (.melvor)).1 (by decide +kernel)).1 (by decide +kernel) (by decide +kernel)).2.1⟩,
   ⟨_, (((h).1 (flS {}) (.port 1)).1 (by decide +kernel)).2 (by decide +kernel) (Instr.program (Agent.port 1)) (by decide +kernel)⟩,
   ⟨_, ((((h).1 (flS {}) (.melvor)).1 (by decide +kernel)).1 (by decide +kernel) (by decide +kernel)).2.2⟩,
   ⟨_, (((h).1 (flS {}) (.port 1)).1 (by decide +kernel)).2 (by decide +kernel) (Instr.verify (Agent.port 1)) (by decide +kernel)⟩,
   ⟨_, (((h).1 (flS { busy := true, cmd := 1 }) (.melvor)).2.2.1 (by decide +kernel) (by decide +kernel)).1⟩,
   ⟨_, ((((h).1 (flS { busy := true, cmd := 2, cmdPage := 5 }) (.melvor)).2.2.2.1 (by decide +kernel) (by decide +kernel)).1 (by decide +kernel) (by decide +kernel)).1⟩,
   ⟨_, (((h).1 (flS { busy := true, cmd := 2, cmdPage := 2304 }) (.melvor)).2.2.2.1 (by decide +kernel) (by decide +kernel)).2 (by decide +kernel) (true)⟩,
   ⟨_, (((h).1 (flS { busy := true, cmd := 3, held := true, holder := 1 }) (.melvor)).2.2.2.2.1 (by decide +kernel) (by decide +kernel)).1⟩,
   ⟨_, (((h).2 (s1) (0x38000001) ([1])).1 (by decide +kernel)).2.1.1⟩,
   ⟨_, (((h).2 (s1) (0x38000001) ([1])).1 (by decide +kernel)).1 (by decide +kernel)⟩,
   ⟨_, ((h).2 (s0) (0x38000001) ([1])).2.1 (by decide +kernel) (Instr.smbSetPointer 939524097 true) (by decide +kernel)⟩,
   ⟨_, (((h).2 (s1) (0x38000001) ([1])).1 (by decide +kernel)).2.1.2⟩,
   ⟨_, ((((h).2 ({s1 with smbPtr := 0x3800015#28}) (0x38000001) ([1])).1 (by decide +kernel)).2.2.2.2.1 (by decide +kernel)).2⟩,
   ⟨_, (((h).2 ({s1 with smbPtr := 0x3800014#28}) (0x38000001) ([1])).1 (by decide +kernel)).2.2.2.2.2.1 (by decide +kernel) (by decide +kernel) (by decide +kernel)⟩,
   ⟨_, (((h).2 ({s1 with smbPtr := 0x3700014#28}) (0x38000001) ([1])).1 (by decide +kernel)).2.2.2.2.2.2.1 (by decide +kernel) (by decide +kernel)⟩,
   ⟨_, ((h).2 (s0) (0x38000001) ([1])).2.1 (by decide +kernel) (Instr.smbWriteRegister 939524097 true) (by decide +kernel)⟩,
   ⟨_, (((h).2 (s1) (0x38000001) ([1])).1 (by decide +kernel)).2.2.1 (by decide +kernel) (by decide +kernel)⟩,
   ⟨_, (((h).2 ({s1 with smbPtr := 0x3700014#28}) (0x38000001) ([1])).1 (by decide +kernel)).2.2.2.1 (by decide +kernel) (by decide +kernel)⟩,
   ⟨_, ((((h).2 ({s1 with smbPtr := 0x3800015#28}) (0x38000001) ([1])).1 (by decide +kernel)).2.2.2.2.1 (by decide +kernel)).1⟩,
   ⟨_, ((h).2 (s0) (0x38000001) ([1])).2.1 (by decide +kernel) (Instr.smbReadRegister) (by decide +kernel)⟩,
   ⟨_, (((h).2 (s1) (0x38000001) ([1])).1 (by decide +kernel)).2.2.2.2.2.2.2.1 (by decide +kernel) (by decide +kernel)⟩,
   ⟨_, (((h).2 ({s1 with melvor := {s1.melvor with fwReady := false}}) (0x38000001) ([1])).1 (by decide +kernel)).2.2.2.2.2.2.2.2.1 (by decide +kernel)⟩,
   ⟨_, ((h).2 (s0) (0x38000001) ([1])).2.1 (by decide +kernel) (Instr.mctp [1]) (by decide +kernel)⟩,
   ⟨_, (((h).2 ({s1 with boot := { stage := 4, resetLow := true}, rel := {fatal := true}}) (0x38000001) ([1])).1 (by decide +kernel)).2.2.2.2.2.2.2.2.2 (by decide +kernel)⟩,
   ⟨_, ((h).2 (s0) (0x38000001) ([1])).2.1 (by decide +kernel) (Instr.alertResponse) (by decide +kernel)⟩,
   ⟨_, (((h).2 (s0) (0x38000001) ([1])).2.2 (by decide +kernel)).1⟩,
   (((((h).2 (s0) (0x38000001) ([1])).2.2 (by decide +kernel)).2.2.1).elim fun _ q => ⟨_, q.1⟩),
   ⟨_, (((h).2 (s0) (0x38000001) ([1])).2.2 (by decide +kernel)).2.1⟩,
   ⟨_, ((((h).2 ({s1 with boot := { stage := 4, resetLow := true}, rel := {fatal := true}}) (0x38000001) ([1])).2.2 (by decide +kernel)).2.2.2 ((Tap.clamp, Instr.clamp)) (by decide +kernel)).1 (by decide +kernel)⟩,
   ⟨_, (((((h).2 (s0) (0x38000001) ([1])).2.2 (by decide +kernel)).2.2.2 ((Tap.clamp, Instr.clamp)) (by decide +kernel)).2 (by decide +kernel)).1⟩,
   ⟨_, ((((h).2 ({s1 with boot := { stage := 4, resetLow := true}, rel := {fatal := true}}) (0x38000001) ([1])).2.2 (by decide +kernel)).2.2.2 ((Tap.extest, Instr.extest)) (by decide +kernel)).1 (by decide +kernel)⟩,
   ⟨_, (((((h).2 (s0) (0x38000001) ([1])).2.2 (by decide +kernel)).2.2.2 ((Tap.extest, Instr.extest)) (by decide +kernel)).2 (by decide +kernel)).1⟩,
   ⟨_, ((((h).2 ({s1 with boot := { stage := 4, resetLow := true}, rel := {fatal := true}}) (0x38000001) ([1])).2.2 (by decide +kernel)).2.2.2 ((Tap.extestPulse, Instr.extestPulse)) (by decide +kernel)).1 (by decide +kernel)⟩,
   ⟨_, (((((h).2 (s0) (0x38000001) ([1])).2.2 (by decide +kernel)).2.2.2 ((Tap.extestPulse, Instr.extestPulse)) (by decide +kernel)).2 (by decide +kernel)).1⟩,
   ⟨_, ((((h).2 ({s1 with boot := { stage := 4, resetLow := true}, rel := {fatal := true}}) (0x38000001) ([1])).2.2 (by decide +kernel)).2.2.2 ((Tap.extestTrain, Instr.extestTrain)) (by decide +kernel)).1 (by decide +kernel)⟩,
   ⟨_, (((((h).2 (s0) (0x38000001) ([1])).2.2 (by decide +kernel)).2.2.2 ((Tap.extestTrain, Instr.extestTrain)) (by decide +kernel)).2 (by decide +kernel)).1⟩,
   ⟨_, ((((h).2 ({s1 with boot := { stage := 4, resetLow := true}, rel := {fatal := true}}) (0x38000001) ([1])).2.2 (by decide +kernel)).2.2.2 ((Tap.highz, Instr.highz)) (by decide +kernel)).1 (by decide +kernel)⟩,
   ⟨_, (((((h).2 (s0) (0x38000001) ([1])).2.2 (by decide +kernel)).2.2.2 ((Tap.highz, Instr.highz)) (by decide +kernel)).2 (by decide +kernel)).1⟩⟩

end Sys2Proof.Tests
end

section
/-! SUPPORT. Register writes by device address (spec 00, R7, R13, R15): which register an address names, what the gate of
Table 10.3 lets through, and the write that each width and alignment comes to. -/

namespace Sys2Proof.Machine

/-! ## Bits of a written value -/

/-- Bits that lie above the `n` of a field do not reach it. -/
theorem ofNat_mod_two_pow {n m : Nat} (h : n ≤ m) (v : Nat) : BitVec.ofNat n (v % 2 ^ m) = BitVec.ofNat n v := by
  apply BitVec.eq_of_toNat_eq
  rw [BitVec.toNat_ofNat, BitVec.toNat_ofNat, Nat.mod_mod_of_dvd v (Nat.pow_dvd_pow 2 h)]

theorem bit_eq_testBit (v i : Nat) : bit v i = v.testBit i := Nat.testBit_eq_decide_div_mod_eq.symm

/-- The low word of a 64-bit value, and its high word, written as a value of their own. -/
theorem toNat_ofNat_word {m : Nat} (h : m < 2 ^ 32) : (BitVec.ofNat 64 m).toNat % 2 ^ 32 = m := by
  rw [BitVec.toNat_ofNat]
  omega

/-! ## The address of a register -/

/-- The device address of offset `o` of control block `b` (Table 0.8). -/
abbrev regAddr (b o : Nat) : Addr := BitVec.ofNat 48 (0x700000000000 + b * 0x1000000 + o)

theorem regAddr_toNat {b o : Nat} (hb : b < 64) (ho : o < 0x1000000) :
    (regAddr b o).toNat = blockBase + b * 0x1000000 + o := by
  rw [BitVec.toNat_ofNat, blockBase]
  omega

/-- Only blocks 0x00 to 0x3F have registers. -/
theorem regListed_block_lt {b o : Nat} (h : regListed b o = true) : b < 64 := by
  by_contra hb
  have hno : regListed b o = false := by
    unfold regListed
    simp only [show ¬(b = 0x00) by omega, show ¬(b = 0x01 ∨ b = 0x02) by omega, show ¬(b = 0x03) by omega,
      show ¬(b = 0x04) by omega, show ¬(b = 0x05) by omega, show ¬(0x08 ≤ b ∧ b ≤ 0x17) by omega,
      show ¬(0x18 ≤ b ∧ b ≤ 0x1F) by omega, show ¬(0x20 ≤ b ∧ b ≤ 0x2B) by omega, show ¬(b = 0x30) by omega,
      show ¬(b = 0x31) by omega, show ¬(b = 0x38) by omega, if_false]
  rw [hno] at h
  cases h

/-! ## The write of a device address -/

/-- An address within the control blocks is a register write of its block, up to the end of the block's registers. -/
theorem devWrite32_reg (s : State) (w : Agent) (v : Nat) {b o : Nat} (hb : b < 64) (ho : o < 0x100000) :
    devWrite32 s w (blockBase + b * 0x1000000 + o) v = regWrite s w b o v := by
  have hin : blockBase ≤ blockBase + b * 0x1000000 + o ∧ blockBase + b * 0x1000000 + o < blockBase + 0x40000000 := by omega
  have hoff : (blockBase + b * 0x1000000 + o - blockBase) % 0x1000000 = o := by omega
  have hblock : (blockBase + b * 0x1000000 + o - blockBase) / 0x1000000 = b := by omega
  simp only [devWrite32, if_pos hin, hoff, if_pos ho, hblock]

/-- The rest of a block is reserved: a write there does nothing (R15). -/
theorem devWrite32_reserved (s : State) (w : Agent) (v : Nat) {b o : Nat} (hb : b < 64) (ho : 0x100000 ≤ o)
    (ho' : o < 0x1000000) : devWrite32 s w (blockBase + b * 0x1000000 + o) v = s := by
  have hin : blockBase ≤ blockBase + b * 0x1000000 + o ∧ blockBase + b * 0x1000000 + o < blockBase + 0x40000000 := by omega
  have hoff : (blockBase + b * 0x1000000 + o - blockBase) % 0x1000000 = o := by omega
  simp only [devWrite32, if_pos hin, hoff, if_neg (Nat.not_lt.2 ho)]

/-- Between HBM and the tile windows no region lies (Table 0.8). -/
theorem devWrite32_outside (s : State) (w : Agent) (v : Nat) {a : Nat} (hlo : 0xA000000000 ≤ a) (hhi : a < 0x400000000000) :
    devWrite32 s w a v = addressFault s w 0 (BitVec.ofNat 48 a) := by
  have hblock : ¬(blockBase ≤ a ∧ a < blockBase + 0x40000000) := by rw [blockBase]; omega
  have htile : ¬(tileBase ≤ a ∧ a < tileBase + 0x400000000) := by rw [tileBase]; omega
  have hmem : ¬(a < hbmTop ∨ 0x800000000000 ≤ a) := by rw [hbmTop]; omega
  rw [devWrite32, if_neg hblock, if_neg htile, if_neg hmem]

/-! ## REGISTER_WRITE by width (R7) -/

theorem exec_registerWrite (w : Agent) (a : Addr) (n : Nat) (v : BitVec 64) (s : State) :
    exec (.registerWrite w a n v) s = execRegisterWrite w a n v s := rfl

theorem exec_registerWrite_word (s : State) (w : Agent) (v : BitVec 64) {a : Addr} (ha : a.toNat % 4 = 0) :
    exec (.registerWrite w a 4 v) s = .next (devWrite32 s w a.toNat (v.toNat % 2 ^ 32)) := by
  rw [exec_registerWrite, execRegisterWrite, if_pos ⟨rfl, ha⟩]

theorem exec_registerWrite_pair (s : State) (w : Agent) (v : BitVec 64) {a : Addr} (ha : a.toNat % 8 = 0) :
    exec (.registerWrite w a 8 v) s =
      .next (devWrite32 (devWrite32 s w a.toNat (v.toNat % 2 ^ 32)) w (a.toNat + 4) (v.toNat / 2 ^ 32)) := by
  rw [exec_registerWrite, execRegisterWrite, if_neg (by omega), if_pos ⟨rfl, ha⟩]

theorem exec_registerWrite_other (s : State) (w : Agent) (a : Addr) (v : BitVec 64) {n : Nat}
    (h4 : ¬(n = 4 ∧ a.toNat % 4 = 0)) (h8 : ¬(n = 8 ∧ a.toNat % 8 = 0)) :
    exec (.registerWrite w a n v) s = .next (addressFault s w 0 a) := by
  rw [exec_registerWrite, execRegisterWrite, if_neg h4, if_neg h8]

/-- The word above an address that is a multiple of 8. -/
theorem toNat_add_four {a : Addr} (ha : a.toNat % 8 = 0) : (a + 4).toNat = a.toNat + 4 := by
  have hlt := a.isLt
  rw [BitVec.toNat_add, show (4 : Addr).toNat = 4 from rfl]
  omega

/-- An aligned word at the address of a register is a register write. -/
theorem exec_registerWrite_reg (s : State) (w : Agent) (v : BitVec 64) {b o : Nat} (hb : b < 64) (ho : o < 0x100000)
    (ha : o % 4 = 0) : exec (.registerWrite w (regAddr b o) 4 v) s = .next (regWrite s w b o (v.toNat % 2 ^ 32)) := by
  have haddr : (regAddr b o).toNat = blockBase + b * 0x1000000 + o := regAddr_toNat hb (by omega)
  have halign : (regAddr b o).toNat % 4 = 0 := by rw [haddr, blockBase]; omega
  rw [exec_registerWrite_word s w v halign, haddr, devWrite32_reg s w _ hb ho]

/-! ## The gate of a register write (Table 10.3, R270, R397) -/

theorem writeGate_notListed (s : State) (w : Agent) (f : State → State) {b o : Nat} (h : regListed b o = false) :
    writeGate s w b o f = s := by
  simp [writeGate, h]

/-- An agent that may write a register performs the write. -/
theorem writeGate_of_mayWrite (s : State) (w : Agent) (f : State → State) {b o : Nat} (h : regListed b o = true)
    (hw : MayWrite s w b o) : writeGate s w b o f = f s := by
  unfold writeGate
  rw [if_neg (by simp [h])]
  cases w with
  | melvor =>
    obtain ⟨hstage, hlock⟩ := hw
    exact if_neg (by simpa [hlock] using hstage)
  | drover d => exact hw.elim
  | smbus =>
    obtain ⟨hon, hreach⟩ := hw
    simp [hon, hreach]
  | port p =>
    obtain ⟨hstage, hown, hworld⟩ := hw
    have hforeign : ¬((b = 0x01 ∨ b = 0x02) ∧ o ≥ 0x80000 ∧ b ≠ p.val + 1) := fun ⟨hb, ho, hne⟩ => hne (hown hb ho)
    have hopen : ¬((s.blockSecure b o && !(s.port p).secure && b != 0x05) = true) := by
      rcases hworld with h5 | hns | hsec
      · simp [h5]
      · simp [hns]
      · simp [hsec]
    have hbar : s.bar0On = true := by simpa [State.bar0On] using hstage
    simp only [hbar, Bool.not_true, Bool.false_eq_true, if_false, if_neg hforeign, if_neg hopen]

theorem writeGate_drover (s : State) (d : DroverNo) (f : State → State) {b o : Nat} (h : regListed b o = true) :
    writeGate s (.drover d) b o f = s.emit (.addressFault (.drover d)) := by
  simp [writeGate, h]

/-- Of the registers of the other port, a port gets an address fault (R270). -/
theorem writeGate_otherPort (s : State) (p : Port) (f : State → State) {b o : Nat} (h : regListed b o = true)
    (hstage : s.boot.stage ≥ 3) (hb : b = 0x01 ∨ b = 0x02) (ho : o ≥ 0x80000) (hne : b ≠ p.val + 1) :
    writeGate s (.port p) b o f = addressFault s (.port p) 0 (BitVec.ofNat 48 (b * 0x100000 + o)) := by
  have hbar : s.bar0On = true := by simpa [State.bar0On] using hstage
  have hforeign : (b = 0x01 ∨ b = 0x02) ∧ o ≥ 0x80000 ∧ b ≠ p.val + 1 := ⟨hb, ho, hne⟩
  unfold writeGate
  rw [if_neg (by simp [h])]
  simp only [hbar, Bool.not_true, Bool.false_eq_true, if_false, if_pos hforeign]

theorem exec_registerWrite_mayWrite (s : State) (w : Agent) (v : BitVec 64) {b o : Nat} (h : regListed b o = true)
    (ho : o < 0x100000) (ha : o % 4 = 0) (hw : MayWrite s w b o) :
    exec (.registerWrite w (regAddr b o) 4 v) s = .next (regEffect s w b o (v.toNat % 2 ^ 32)) := by
  rw [exec_registerWrite_reg s w v (regListed_block_lt h) ho ha, regWrite, writeGate_of_mayWrite s w _ h hw]

end Sys2Proof.Machine

open Sys2Proof Sys2Proof.Machine

/-- Settles O16: a word through the gate of an agent that may write it, a pair as the words at `a` and `a + 4`, and the
fault of every other form. -/
theorem registerWrite : Obligations.RegisterWrite := by
  unfold Obligations.RegisterWrite
  intro s w a v lo hi reg
  refine ⟨fun b o hlist ho ha hw => exec_registerWrite_mayWrite s w v hlist ho ha hw, fun ha => ?_,
    fun n h4 h8 => exec_registerWrite_other s w a v h4 h8⟩
  have hlo : lo.toNat % 2 ^ 32 = v.toNat % 2 ^ 32 := toNat_ofNat_word (Nat.mod_lt _ (by decide))
  have hhi : hi.toNat % 2 ^ 32 = v.toNat / 2 ^ 32 := toNat_ofNat_word (by have := v.isLt; omega)
  have haddr : (a + 4).toNat = a.toNat + 4 := toNat_add_four ha
  refine ⟨devWrite32 s w a.toNat (v.toNat % 2 ^ 32), ?_, ?_⟩
  · rw [exec_registerWrite_word s w lo (by omega), hlo]
  · rw [exec_registerWrite_pair s w v ha, exec_registerWrite_word _ w hi (by omega), hhi, haddr]
end

section
/-! SUPPORT. The effects of the registers whose value a block keeps as written (spec 10, 11, 14, 15, 17, 18). -/

namespace Sys2Proof.Machine

/-! ## The block of a unit by its number -/

theorem regEffect_drover (s : State) (w : Agent) (o v : Nat) {d : Nat} (hd : d < 16) :
    regEffect s w (8 + d) o v = writeDrover s w d o v := by
  have hdrover : 0x08 ≤ 8 + d ∧ 8 + d ≤ 0x17 := by omega
  unfold regEffect
  rw [if_neg (by omega), if_neg (by omega), if_neg (by omega), if_neg (by omega), if_pos hdrover, Nat.add_sub_cancel_left]

theorem regEffect_link (s : State) (w : Agent) (o v : Nat) {f : Nat} (hf : f < 12) :
    regEffect s w (0x20 + f) o v = writeLink s ⟨f, hf⟩ o v := by
  have hlink : 0x20 ≤ 0x20 + f ∧ 0x20 + f ≤ 0x2B := by omega
  have hport : Fin.ofNat 12 (0x20 + f - 0x20) = ⟨f, hf⟩ := by
    apply Fin.ext
    rw [Nat.add_sub_cancel_left]
    exact Nat.mod_eq_of_lt hf
  unfold regEffect
  rw [if_neg (by omega), if_neg (by omega), if_neg (by omega), if_neg (by omega), if_neg (by omega), if_neg (by omega),
    if_pos hlink, hport]

theorem regListed_drover {d o : Nat} (hd : d < 16) (ho : o ≤ 0x48) (hne : o ≠ 0x0C) : regListed (8 + d) o = true := by
  have hdrover : 0x08 ≤ 8 + d ∧ 8 + d ≤ 0x17 := by omega
  unfold regListed
  rw [if_neg (by omega), if_neg (by omega), if_neg (by omega), if_neg (by omega), if_neg (by omega), if_pos hdrover]
  simp [ho, hne]

theorem regListed_link {f o : Nat} (hf : f < 12) (ho : o ≤ 0x3C) : regListed (0x20 + f) o = true := by
  have hlink : 0x20 ≤ 0x20 + f ∧ 0x20 + f ≤ 0x2B := by omega
  unfold regListed
  rw [if_neg (by omega), if_neg (by omega), if_neg (by omega), if_neg (by omega), if_neg (by omega), if_neg (by omega),
    if_neg (by omega), if_pos hlink]
  simp [ho]

/-! ## The effect of one register -/

/-- REGION_ERR is cleared by a 1 in its bit, and kept by a 0 (Table 18.6). -/
theorem writeSecurity_status (s : State) (w : Agent) (v : Nat) :
    writeSecurity s w 0x0000 v = { s with sec := { s.sec with regionErr := !v.testBit 4 && s.sec.regionErr } } := by
  unfold writeSecurity
  rw [if_pos rfl, bit_eq_testBit]
  by_cases hv : v.testBit 4 = true
  · simp [hv, State.withSec]
  · simp [hv]

/-- Bit 4 of a value is one of the 32 that a word write carries. -/
theorem testBit_four_word (v : BitVec 64) : (v.toNat % 2 ^ 32).testBit 4 = v.getLsbD 4 := by
  rw [Nat.testBit_mod_two_pow, BitVec.testBit_toNat]
  rfl

/-- Melvor firmware writes a listed register, with its block's effect of the value's low word (Table 10.3). -/
theorem exec_registerWrite_melvor (s : State) (v : BitVec 64) {b o : Nat} (h : regListed b o = true) (ho : o < 0x100000)
    (ha : o % 4 = 0) {t : State} (he : regEffect s .melvor b o (v.toNat % 2 ^ 32) = t) (hstage : s.boot.stage ≥ 2)
    (hlock : s.melvor.lockstepErr = false) : exec (.registerWrite .melvor (regAddr b o) 4 v) s = .next t := by
  rw [exec_registerWrite_mayWrite s .melvor v h ho ha ⟨hstage, hlock⟩, he]

/-- Reserved space within a block, and the block's end, take no write (R15). -/
theorem exec_registerWrite_reserved (s : State) (w : Agent) (v : BitVec 64) {b o : Nat} (hb : b < 64) (ho : o < 0x1000000)
    (ha : o % 4 = 0) (h : regListed b o = false ∨ o ≥ 0x100000) :
    exec (.registerWrite w (regAddr b o) 4 v) s = .next s := by
  by_cases hin : o < 0x100000
  · have hnot : regListed b o = false := h.resolve_right (Nat.not_le.2 hin)
    rw [exec_registerWrite_reg s w v hb hin ha, regWrite, writeGate_notListed s w _ hnot]
  · have haddr : (regAddr b o).toNat = blockBase + b * 0x1000000 + o := regAddr_toNat hb ho
    have halign : (regAddr b o).toNat % 4 = 0 := by rw [haddr, blockBase]; omega
    rw [exec_registerWrite_word s w v halign, haddr, devWrite32_reserved s w _ hb (Nat.not_lt.1 hin) ho]

theorem exec_registerWrite_drover (s : State) (d : DroverNo) (v : BitVec 64) {b o : Nat} (h : regListed b o = true)
    (ho : o < 0x100000) (ha : o % 4 = 0) :
    exec (.registerWrite (.drover d) (regAddr b o) 4 v) s = .next (s.emit (.addressFault (.drover d))) := by
  rw [exec_registerWrite_reg s _ v (regListed_block_lt h) ho ha, regWrite, writeGate_drover s d _ h]

theorem exec_registerWrite_outside (s : State) (w : Agent) (v : BitVec 64) {a : Addr} (ha : a.toNat % 4 = 0)
    (hlo : 0xA000000000 ≤ a.toNat) (hhi : a.toNat < 0x400000000000) :
    exec (.registerWrite w a 4 v) s = .next (addressFault s w 0 a) := by
  rw [exec_registerWrite_word s w v ha, devWrite32_outside s w _ hlo hhi, BitVec.ofNat_toNat, BitVec.setWidth_eq]

end Sys2Proof.Machine

open Sys2Proof Sys2Proof.Machine

/-- Settles O17: the address decides between a register, reserved space and no region; of a register that Melvor firmware
writes, the effect of its block on the value's low word. -/
theorem registerSpace : Obligations.RegisterSpace := by
  unfold Obligations.RegisterSpace
  intro s w a v reg mel
  refine ⟨fun b o hb ho ha h => exec_registerWrite_reserved s w v hb ho ha h,
    fun d b o h ho ha => exec_registerWrite_drover s d v h ho ha,
    fun ha hlo hhi => exec_registerWrite_outside s w v ha hlo hhi, fun d hd => ⟨?timeoutUs, ?defDl⟩, fun f hf => ?rdl,
    ?joinTimeout, ?every, ?islSel, ?regionErr⟩
  case timeoutUs =>
    refine exec_registerWrite_melvor s v (regListed_drover hd (by decide) (by decide)) (by decide) rfl ?_
    rw [regEffect_drover s _ _ _ hd, writeDrover, ofNat_mod_two_pow (by decide), State.modDrover_eq]
  case defDl =>
    refine exec_registerWrite_melvor s v (regListed_drover hd (by decide) (by decide)) (by decide) rfl ?_
    rw [regEffect_drover s _ _ _ hd, writeDrover, ofNat_mod_two_pow (by decide), State.modDrover_eq]
  case rdl =>
    refine exec_registerWrite_melvor s v (regListed_link hf (by decide)) (by decide) rfl ?_
    rw [regEffect_link s _ _ _ hf, writeLink, ofNat_mod_two_pow (by decide), State.modLink_eq]
  case joinTimeout =>
    refine exec_registerWrite_melvor s v (by decide) (by decide) rfl ?_
    rw [← ofNat_mod_two_pow (show 16 ≤ 32 by decide) v.toNat]
    rfl
  case every =>
    refine exec_registerWrite_melvor s v (by decide) (by decide) rfl ?_
    rw [← ofNat_mod_two_pow (show 16 ≤ 32 by decide) v.toNat]
    rfl
  case islSel =>
    refine exec_registerWrite_melvor s v (by decide) (by decide) rfl ?_
    rw [← ofNat_mod_two_pow (show 13 ≤ 32 by decide) v.toNat]
    rfl
  case regionErr =>
    refine exec_registerWrite_melvor s v (by decide) (by decide) rfl ?_
    rw [← testBit_four_word v, ← writeSecurity_status s .melvor]
    rfl
end

section
/-! SUPPORT. Writes into a tile window (spec 02, 03, 10; R14, R39, R53, R55, R81, R224, R225): what the write of each region
of the window does to the tile, and the bytes and bits that it leaves. -/

namespace Sys2Proof.Machine

/-! ## The path to the tile -/

@[simp] theorem nightExit_tile (s : State) (t : Nat) : (nightExit s).tile t = s.tile t := State.withPower_tile s _ t
@[simp] theorem nightExit_tileOk (s : State) (t : Nat) : (nightExit s).tileOk t = s.tileOk t := by
  rw [nightExit, State.tileOk, State.tileOk, State.cols, State.cols, State.withPower_flash]

/-- A write that the tile performs, by an agent that reaches the window, is a trigger of R350 and changes that tile. -/
theorem tileWrite_of_some {s : State} {w : Agent} {t off v : Nat} {x : Tile} (hok : s.tileOk t = true)
    (hreach : maintReach s w t = true) (hx : (s.tile t).write32 off v = some x) :
    tileWrite s w t off v = (nightExit s).setTile t x := by
  simp only [tileWrite, if_pos hok, maintWrite, hreach, Bool.not_true, Bool.false_eq_true, if_false, nightExit_tile, hx]

/-- One that the tile does not perform is an address fault of the agent. -/
theorem tileWrite_of_none {s : State} {w : Agent} {t off v : Nat} (hok : s.tileOk t = true)
    (hreach : maintReach s w t = true) (hx : (s.tile t).write32 off v = none) :
    tileWrite s w t off v = addressFault (nightExit s) w 2 (BitVec.ofNat 48 (t % 4096 * 0x200000 + off)) := by
  simp only [tileWrite, if_pos hok, maintWrite, hreach, Bool.not_true, Bool.false_eq_true, if_false, nightExit_tile, hx]

theorem exec_meshWdLimit (w : Agent) (t : TileId) (v : Word) (s : State) :
    exec (.meshWdLimit w t v) s = .next (tileWrite s w t.toNat 0x180104 v.toNat) := rfl
theorem exec_clrStall (w : Agent) (t : TileId) (s : State) :
    exec (.clrStall w t) s = .next (tileWrite s w t.toNat 0x180134 1) := rfl
theorem exec_clrCe (w : Agent) (t : TileId) (s : State) :
    exec (.clrCe w t) s = .next (tileWrite s w t.toNat 0x180134 2) := rfl
theorem exec_clrCnt (w : Agent) (t : TileId) (s : State) :
    exec (.clrCnt w t) s = .next (tileWrite s w t.toNat 0x180048 1) := rfl

theorem exec_tileMaintWrite (w : Agent) (a : Addr) (v : Word) (s : State) :
    exec (.tileMaintWrite w a v) s = .next (tileWrite32 s w a.toNat v.toNat) := rfl

/-- TILE_MAINT_WRITE names the tile and the offset by the address in the tile windows (Table 0.8). -/
theorem exec_tileMaintWrite_window (s : State) (w : Agent) (t : TileId) (v : Word) {off : Nat} (h : off < 0x200000) :
    exec (.tileMaintWrite w (BitVec.ofNat 48 (tileBase + t.toNat * 0x200000 + off)) v) s =
      .next (tileWrite s w t.toNat off v.toNat) := by
  have ht := t.isLt
  have haddr : (BitVec.ofNat 48 (tileBase + t.toNat * 0x200000 + off)).toNat = tileBase + t.toNat * 0x200000 + off := by
    rw [BitVec.toNat_ofNat, tileBase]; omega
  have htile : (tileBase + t.toNat * 0x200000 + off - tileBase) / 0x200000 = t.toNat := by omega
  have hoff : (tileBase + t.toNat * 0x200000 + off - tileBase) % 0x200000 = off := by omega
  have hin : ¬(tileBase + t.toNat * 0x200000 + off < tileBase ∨ t.toNat ≥ 8192) := by omega
  simp only [exec_tileMaintWrite, haddr, tileWrite32, htile, if_neg hin, hoff]

/-! ## The regions of the window -/

section Regions
variable (x : Tile) {off : Nat} (v : Nat) (h4 : off % 4 = 0)
include h4

/-- Working memory, of a tile on which no fold runs. -/
theorem write32_working (h : off < 0x100000) (hrun : x.core.state ≠ 1) : x.write32 off v = some (x.writeW off 4 v) := by
  rw [Tile.write32, if_neg (not_not.2 h4), if_pos h, if_neg hrun]

/-- The byte range of accumulator memory: four bytes, each a read-modify-write (R225). -/
theorem write32_accumulator (h : 0x100000 ≤ off) (h' : off < 0x124000) (hrun : x.core.state ≠ 1) :
    x.write32 off v = some (forAll (List.range 4) x fun x i =>
      x.writeAByte (off - 0x100000 + i) (BitVec.ofNat 8 (v / 256 ^ i))) := by
  rw [Tile.write32, if_neg (not_not.2 h4), if_neg (by omega), if_pos ⟨h, h'⟩, if_neg hrun]

theorem write32_instruction (h : 0x140000 ≤ off) (h' : off < 0x148000) (hrun : x.core.state ≠ 1) :
    x.write32 off v = some (x.withCore fun c =>
      { c with imem := Sparse.set 0 c.imem ((off - 0x140000) / 4) (BitVec.ofNat 32 v) }) := by
  rw [Tile.write32, if_neg (not_not.2 h4), if_neg (by omega), if_neg (by omega), if_pos ⟨h, h'⟩, if_neg hrun]

theorem write32_register (h : 0x180000 ≤ off) (h' : off < 0x190000) : x.write32 off v = x.writeReg (off - 0x180000) v := by
  rw [Tile.write32, if_neg (not_not.2 h4), if_neg (by omega), if_neg (by omega), if_neg (by omega), if_pos ⟨h, h'⟩]

/-- While a fold runs on the tile its memories are not written (R224). -/
theorem write32_running (h : off < 0x148000) (hrun : x.core.state = 1) : x.write32 off v = none := by
  rw [Tile.write32, if_neg (not_not.2 h4)]
  simp only [if_pos hrun, ite_self, show ¬(0x180000 ≤ off ∧ off < 0x190000) by omega, if_false]

end Regions

/-- The schedule of a tile without a running fold (R39). -/
theorem writeReg_schedule (x : Tile) (v : Nat) {r : Nat} (h : 0x1000 ≤ r) (h' : r < 0x3000) :
    x.writeReg r v =
      if x.core.state = 1 then none else some (x.withRouter fun y => y.writeSched ((r - 0x1000) / 4) v) := by
  rw [Tile.writeReg, if_neg (by omega), if_neg (by omega), if_neg (by omega), if_pos (by omega)]

theorem write32_wdLimit (x : Tile) (v : Nat) :
    x.write32 0x180104 v = some (x.withRouter fun y => { y with wdLimit := BitVec.ofNat 32 v, wdCount := 0 }) := by
  rw [write32_register x v (by decide) (by decide) (by decide), Tile.writeReg, if_pos (by decide)]

theorem write32_routerClear (x : Tile) (v : Nat) : x.write32 0x180134 v = some (x.withRouter fun y => y.clear v) := by
  rw [write32_register x v (by decide) (by decide) (by decide), Tile.writeReg, if_neg (by decide), if_pos (by decide)]

theorem write32_coreClear (x : Tile) (v : Nat) : x.write32 0x180048 v = some (x.withCore fun y => y.clear v) := by
  rw [write32_register x v (by decide) (by decide) (by decide), Tile.writeReg, if_neg (by decide), if_neg (by decide),
    if_pos (by decide)]

/-! ## The bytes of accumulator memory (R225) -/

/-- Bit `k` of a byte of the accumulator range is a bit of its word. -/
theorem readAByte_getLsbD (x : Tile) (a : Nat) {k : Nat} (hk : k < 8) :
    (x.readAByte a).getLsbD k = (x.readA (a / 6)).getLsbD (8 * (a % 6) + k) := by
  rw [Tile.readAByte, BitVec.getLsbD_ofNat, Nat.testBit_div_two_pow, BitVec.testBit_toNat, Nat.add_comm k]
  simp [hk]

/-- The word that `writeAByte` stores: the byte at `sh`, the old bits elsewhere. -/
theorem mergeByte_getLsbD (w : BitVec 48) (v : Byte) {sh m : Nat} (hm : m < 48) :
    (w &&& ~~~(BitVec.ofNat 48 (255 * 2 ^ sh)) ||| BitVec.ofNat 48 (v.toNat * 2 ^ sh)).getLsbD m =
      if sh ≤ m ∧ m < sh + 8 then v.getLsbD (m - sh) else w.getLsbD m := by
  have hmask : (255 : Nat).testBit (m - sh) = decide (m - sh < 8) := Nat.testBit_two_pow_sub_one 8 (m - sh)
  simp only [BitVec.getLsbD_or, BitVec.getLsbD_and, BitVec.getLsbD_not, BitVec.getLsbD_ofNat, Nat.testBit_mul_two_pow, hmask,
    BitVec.testBit_toNat, hm, decide_true, Bool.true_and]
  by_cases hlo : sh ≤ m
  · by_cases hhi : m < sh + 8
    · simp [hlo, hhi, show m - sh < 8 by omega]
    · simp [hlo, hhi, show ¬(m - sh < 8) by omega, BitVec.getLsbD_of_ge v (m - sh) (by omega)]
  · simp [hlo]

theorem readA_writeA (x : Tile) (w u : Nat) (v : BitVec 48) : (x.writeA w v).readA u = if u = w then v else x.readA u :=
  Sparse.get_set _ _ _ _ _

/-- A byte of the accumulator range after the write of a byte. -/
theorem readAByte_writeAByte (x : Tile) (a b : Nat) (v : Byte) :
    (x.writeAByte a v).readAByte b = if b = a then v else x.readAByte b := by
  apply BitVec.eq_of_getLsbD_eq
  intro k hk
  rw [readAByte_getLsbD _ _ hk, Tile.writeAByte, readA_writeA]
  by_cases hword : b / 6 = a / 6
  · rw [if_pos hword, mergeByte_getLsbD _ _ (by omega)]
    by_cases hb : b = a
    · subst hb
      rw [if_pos (by omega), if_pos rfl, Nat.add_sub_cancel_left]
    · rw [if_neg (by omega), if_neg hb, readAByte_getLsbD _ _ hk, hword]
  · rw [if_neg hword, if_neg (by rintro rfl; exact hword rfl), readAByte_getLsbD _ _ hk]

theorem forAll_range_succ {β : Type} (n : Nat) (s : β) (f : β → Nat → β) :
    forAll (List.range (n + 1)) s f = f (forAll (List.range n) s f) n := by
  simp [forAll, List.range_succ]

/-- A byte of the accumulator range after the write of the low `n` bytes of `v` from byte `a` up. -/
theorem readAByte_writeABytes (x : Tile) (a v b n : Nat) :
    (forAll (List.range n) x fun x i => x.writeAByte (a + i) (BitVec.ofNat 8 (v / 256 ^ i))).readAByte b =
      if a ≤ b ∧ b < a + n then BitVec.ofNat 8 (v / 256 ^ (b - a)) else x.readAByte b := by
  induction n with
  | zero => exact (if_neg (by omega)).symm
  | succ n ih =>
    rw [forAll_range_succ, readAByte_writeAByte, ih]
    by_cases hb : b = a + n
    · subst hb
      rw [if_pos rfl, if_pos (by omega), Nat.add_sub_cancel_left]
    · rw [if_neg hb]
      exact if_congr (by omega) rfl rfl

/-- What a write of accumulator memory leaves of a tile. -/
def SameButAccumulator (x y : Tile) : Prop :=
  y.wmem = x.wmem ∧ y.core = x.core ∧ y.router = x.router ∧ y.mxe = x.mxe ∧ y.vxe = x.vxe ∧ y.upe = x.upe

theorem writeAByte_same {x y : Tile} (a : Nat) (v : Byte) (h : SameButAccumulator x y) :
    SameButAccumulator x (y.writeAByte a v) := h

theorem writeABytes_same (x : Tile) (a v n : Nat) :
    SameButAccumulator x (forAll (List.range n) x fun x i => x.writeAByte (a + i) (BitVec.ofNat 8 (v / 256 ^ i))) :=
  forAll_inv (SameButAccumulator x) _ (fun _ _ h => writeAByte_same _ _ h) _ _ ⟨rfl, rfl, rfl, rfl, rfl, rfl⟩

/-! ## The words of schedule memory (R39) -/

/-- A number with the 32 bits from `lo` up replaced by those of a word. -/
theorem testBit_replaceWord (e lo j : Nat) {v : Nat} (hv : v < 2 ^ 32) :
    (e - bits e (lo + 31) lo * 2 ^ lo + v * 2 ^ lo).testBit j =
      if lo ≤ j ∧ j < lo + 32 then v.testBit (j - lo) else e.testBit j := by
  have hwidth : lo + 31 + 1 - lo = 32 := by omega
  have hfield : bits e (lo + 31) lo = e / 2 ^ lo % 2 ^ 32 := by rw [bits, hwidth]
  have hlow : e % 2 ^ lo < 2 ^ lo := Nat.mod_lt _ (Nat.two_pow_pos lo)
  have hsplit : e = 2 ^ lo * (2 ^ 32 * (e / 2 ^ lo / 2 ^ 32) + e / 2 ^ lo % 2 ^ 32) + e % 2 ^ lo := by
    rw [Nat.div_add_mod, Nat.div_add_mod]
  have hnew : e - bits e (lo + 31) lo * 2 ^ lo + v * 2 ^ lo =
      2 ^ lo * (2 ^ 32 * (e / 2 ^ lo / 2 ^ 32) + v) + e % 2 ^ lo := by
    rw [hfield]
    generalize e / 2 ^ lo / 2 ^ 32 = q, e / 2 ^ lo % 2 ^ 32 = m, e % 2 ^ lo = r at hsplit ⊢
    rw [hsplit, Nat.mul_add, Nat.mul_add, Nat.mul_comm m, Nat.mul_comm v]
    omega
  rw [hnew, Nat.testBit_two_pow_mul_add _ hlow]
  by_cases hlo : j < lo
  · rw [if_pos hlo, if_neg (by omega), Nat.testBit_mod_two_pow]
    simp [hlo]
  · rw [if_neg hlo, Nat.testBit_two_pow_mul_add _ hv]
    by_cases hhi : j < lo + 32
    · rw [if_pos (by omega), if_pos (by omega)]
    · rw [if_neg (by omega), if_neg (by omega), Nat.testBit_div_two_pow, Nat.testBit_div_two_pow]
      congr 1
      omega

/-- Bit `j` of entry `k` after the write of word `i`: a bit of the word where it lies in it. -/
theorem writeSched_getLsbD (r : Router) (i k : Nat) (v : Word) {j : Nat} (hj : j < 128) :
    (Sparse.get 0 (r.writeSched i v.toNat).sched k).getLsbD j =
      if k = i / 4 ∧ 32 * (i % 4) ≤ j ∧ j < 32 * (i % 4) + 32 then v.getLsbD (j - 32 * (i % 4))
      else (Sparse.get 0 r.sched k).getLsbD j := by
  simp only [Router.writeSched, Sparse.get_set]
  by_cases hk : k = i / 4
  · subst hk
    rw [if_pos rfl, BitVec.getLsbD_ofNat, testBit_replaceWord _ _ _ v.isLt, BitVec.testBit_toNat, BitVec.testBit_toNat]
    simp [hj]
  · rw [if_neg hk, if_neg fun h => hk h.1]

end Sys2Proof.Machine

open Sys2Proof Sys2Proof.Machine

/-- Settles O15: each clause is the write of its region of the window, performed or, while a fold runs, refused. -/
theorem maintenanceWrites : Obligations.MaintenanceWrites := by
  unfold Obligations.MaintenanceWrites
  intro s w t v off n x s1 a hok hreach hoff h4
  have performed : ∀ y, x.write32 off v.toNat = some y → exec (.tileMaintWrite w a v) s = .next (s1.setTile n y) :=
    fun y hy => by rw [exec_tileMaintWrite_window s w t v hoff, tileWrite_of_some hok hreach hy]
  have refused : x.write32 off v.toNat = none →
      exec (.tileMaintWrite w a v) s = .next (addressFault s1 w 2 (BitVec.ofNat 48 (n % 4096 * 0x200000 + off))) :=
    fun hy => by rw [exec_tileMaintWrite_window s w t v hoff, tileWrite_of_none hok hreach hy]
  refine ⟨?wdLimit, ?stall, ?ce, ?cnt, fun h hrun => ?working, fun h h' hrun => ?instruction, fun h h' hrun => ?accumulator,
    fun h h' => ⟨fun hrun => ?schedule, fun hrun => ?scheduleRunning⟩,
    fun h hrun => refused (write32_running x _ h4 h hrun)⟩
  case wdLimit =>
    rw [exec_meshWdLimit, tileWrite_of_some hok hreach (write32_wdLimit x v.toNat), BitVec.ofNat_toNat, BitVec.setWidth_eq]
    rfl
  case stall => rw [exec_clrStall, tileWrite_of_some hok hreach (write32_routerClear x 1)]; rfl
  case ce => rw [exec_clrCe, tileWrite_of_some hok hreach (write32_routerClear x 2)]; rfl
  case cnt => rw [exec_clrCnt, tileWrite_of_some hok hreach (write32_coreClear x 1)]; rfl
  case working =>
    have hlast : (off + 4 - 1) / 64 = off / 64 := by omega
    refine ⟨writeBytes x.wmem off v.toNat 4, (performed _ (write32_working x _ h4 h hrun)).trans ?_, get_writeBytes 4 _ _ _⟩
    rw [Tile.writeW, hlast]
  case instruction =>
    refine (performed _ (write32_instruction x _ h4 h h' hrun)).trans ?_
    rw [BitVec.ofNat_toNat, BitVec.setWidth_eq]
    rfl
  case accumulator =>
    exact ⟨_, performed _ (write32_accumulator x _ h4 h h' hrun), fun b => readAByte_writeABytes x _ _ b 4,
      writeABytes_same x _ _ 4⟩
  case schedule =>
    have hword : off - 0x180000 - 0x1000 = off - 0x181000 := by omega
    refine ⟨_, performed _ ?_, fun k _ j hj => writeSched_getLsbD x.router _ k v hj⟩
    rw [write32_register x _ h4 (by omega) (by omega), writeReg_schedule x _ (by omega) (by omega), if_neg hrun, hword]
    rfl
  case scheduleRunning =>
    refine refused ?_
    rw [write32_register x _ h4 (by omega) (by omega), writeReg_schedule x _ (by omega) (by omega), if_pos hrun]
end

section
/-! SUPPORT. Who reaches a line of HBM (spec 10, 18; Tables 10.2 and 10.3), region by region. -/

namespace Sys2Proof.Machine

/-! ## The regions of Table 10.2 -/

section Reach
variable (s : State) (q : Requester) (w : Bool) {a : Nat}

/-- The user area: only the worlds and a clearing keep a requester away. -/
theorem reach_user (h : a < userTop) :
    s.reach q w a =
      if s.clearingAt a then .world else if s.secureAt a && !s.worldOf q then .world else .ok := by
  have htop : ¬(a ≥ hbmTop) := by rw [userTop] at h; rw [hbmTop]; omega
  simp only [State.reach, if_neg htop, if_pos h]

/-- The area of Melvor firmware. -/
theorem reach_firmware (h : userTop ≤ a) (h' : a < fwTop) : s.reach q w a = if q = .melvor then .ok else .refused := by
  have htop : ¬(a ≥ hbmTop) := by rw [fwTop] at h'; rw [hbmTop]; omega
  simp only [State.reach, if_neg htop, if_neg (Nat.not_lt.2 h), if_pos h']

/-- The image store is read by Melvor firmware, and reached by hosts; nobody else reaches it. -/
theorem reach_store (h : fwTop ≤ a) (h' : a < hbmTop) (hok : s.reach q w a = .ok) :
    (∃ p, q = .host p) ∨ (q = .melvor ∧ w = false) := by
  have huser : ¬(a < userTop) := by rw [fwTop] at h; rw [userTop]; omega
  simp only [State.reach, if_neg (Nat.not_le.2 h'), if_neg huser, if_neg (Nat.not_lt.2 h)] at hok
  cases q with
  | host p => exact .inl ⟨p, rfl⟩
  | melvor =>
    cases w
    · exact .inr ⟨rfl, rfl⟩
    · simp at hok
  | drover d => simp at hok
  | foldPort f => simp at hok
  | snapshot => simp at hok

theorem reach_beyond (h : hbmTop ≤ a) : s.reach q w a = .fault := by
  simp only [State.reach, if_pos h]

end Reach

end Sys2Proof.Machine

open Sys2Proof Sys2Proof.Machine

/-- Settles O29: the regions of Table 10.2 one by one. -/
theorem lineReach : Obligations.LineReach := by
  unfold Obligations.LineReach
  intro s q w a
  refine ⟨fun h hsec hworld => ?secure, fun h hclr => ?clearing, fun h hclr hopen => ?reached, fun h h' => ?firmware,
    fun h h' hok => reach_store s q w h h' hok, fun h => reach_beyond s q w h⟩
  case secure =>
    rw [reach_user s q w h, hsec, hworld]
    exact ite_self _
  case clearing => rw [reach_user s q w h, if_pos hclr]
  case reached =>
    have hallowed : (s.secureAt a && !s.worldOf q) = false := by
      rcases hopen with hsec | hworld
      · rw [hsec, Bool.false_and]
      · rw [hworld, Bool.not_true, Bool.and_false]
    rw [reach_user s q w h, hclr, hallowed]
    rfl
  case firmware =>
    rw [reach_firmware s q w h h']
    by_cases hq : q = .melvor
    · simp [hq]
    · simp [hq]
end

section
/-! SUPPORT. The state after reset (spec 00, 19; R8, R405): the units without a record, and the invariants. -/

namespace Sys2Proof.Machine

theorem reset_tileForms : TileForms State.reset := fun _ hx => absurd hx List.not_mem_nil

theorem reset_bounded : Bounded State.reset :=
  ⟨fun _ hx => absurd hx List.not_mem_nil, fun _ hx => absurd hx List.not_mem_nil, fun _ hx => absurd hx List.not_mem_nil,
    Nat.zero_le _, Nat.zero_le _⟩

/-- Every unit reads as its reset value, since no record of one is listed. -/
theorem reset_tile (t : Nat) : State.reset.tile t = {} := rfl
theorem reset_port (p : Nat) : State.reset.port p = {} := rfl
theorem reset_box (p : Nat) : State.reset.box p = {} := rfl
theorem reset_secPort (p : Nat) : State.reset.secPort p = {} := rfl
theorem reset_irqGrp (g : Nat) : State.reset.irqGrp g = {} := rfl

/-- Every register of a core reads 0 at reset, g0 and the others. -/
theorem reset_core_g (t n : Nat) : (State.reset.tile t).core.g n = 0 := by
  rw [reset_tile, TileCore.g, Sparse.get_nil, ite_self]

end Sys2Proof.Machine

open Sys2Proof Sys2Proof.Machine

/-- Settles O57: no unit has a record at reset, so each reads as its reset value, and the invariants hold of empty lists. -/
theorem resetValues : Obligations.ResetValues := by
  unfold Obligations.ResetValues
  intro s
  refine ⟨reset_tileForms, reset_bounded, rfl, rfl, rfl, reset_hbm_wf, Sparse.wf_nil false, fun _ => rfl, rfl, rfl, rfl, rfl, rfl,
    rfl, rfl, rfl, rfl, rfl, rfl, rfl, rfl, rfl, rfl, rfl, rfl, rfl, rfl, rfl, rfl, fun p => ?_, fun g => ?_, fun t => ?_⟩
  · rw [reset_port, reset_box, reset_secPort]
    exact ⟨rfl, rfl, rfl⟩
  · rw [reset_irqGrp]
    exact ⟨rfl, rfl⟩
  · exact ⟨rfl, rfl, rfl, rfl, reset_core_g t⟩
end

section
/-! SUPPORT. Requests through BAR0 and BAR4 (spec 12; R16, R270, R272, R273): what a port takes, what it refuses, and how a
request that nothing holds up is performed. -/

namespace Sys2Proof.Machine

/-! ## Requests that a port takes and refuses -/

theorem exec_bar0Access (p : Port) (r : Tlp) (s : State) : exec (.bar0Access p r) s = execBar0Access p r s := rfl
theorem exec_bar2Access (p : Port) (r : Tlp) (s : State) : exec (.bar2Access p r) s = execBar2Access p r s := rfl
theorem exec_bar4Access (p : Port) (r : Tlp) (chk : Ecc) (s : State) :
    exec (.bar4Access p r chk) s = execBar4Access p r chk s := rfl

/-- A port that serves requests in full decodes BAR0. -/
theorem hostServes_bar0On {s : State} {p : Port} (h : HostServes s p) : s.bar0On = true := by
  obtain ⟨-, hstage, -⟩ := h
  have hstage3 : s.boot.stage ≥ 3 := BitVec.le_trans (show (3 : BitVec 3) ≤ 4 by decide) hstage
  simpa [State.bar0On] using hstage3

/-- An access that finds none waiting, and that nothing blocks, is performed at once. -/
theorem hostAccess_of_idle {s : State} (p : Port) {c : Instr} (hidle : s.waiting = []) (hfree : accessBlocked s c = false) :
    hostAccess s p c = performAccess s { cmd := c, secure := (s.port p).secure, half := (s.port p).half } := by
  simp [hostAccess, State.halfAt, hidle, hfree]

/-- The access has the SECURE bit that its port still has. -/
theorem underSecure_same (s : State) (p : Port) (f : State → State) : underSecure s p (s.port p).secure f = f s := by
  simp [underSecure]

theorem exec_bar0Access_served {s : State} {p : Port} {r : Tlp} (h : HostServes s p) (hbar : (s.port p).assigned 0 = true)
    (hform : bar0Form r = true) (hfeat : unsupportedTlp r = false) (hoff : r.off.toNat < 0x4000000) :
    exec (.bar0Access p r) s = .next (bar0Do s p r) := by
  have hbar0 := hostServes_bar0On h
  obtain ⟨hon, -, hidle⟩ := h
  have hperf : hostAccess s p (.bar0Access p r) = bar0Do s p r :=
    (hostAccess_of_idle p hidle rfl).trans (underSecure_same s p fun s => bar0Do s p r)
  simp [exec_bar0Access, execBar0Access, hon, hbar0, hbar, hform, hfeat, hoff, hperf]

/-- A request of another form, or with a feature that the port does not have, is an address fault (Table 12.4). -/
theorem exec_bar0Access_fails {s : State} {p : Port} {r : Tlp} (h : HostServes s p) (hbar : (s.port p).assigned 0 = true)
    (hbad : bar0Form r = false ∨ unsupportedTlp r = true) : exec (.bar0Access p r) s = .next (barFail s p 0 1 r) := by
  have hbar0 := hostServes_bar0On h
  obtain ⟨hon, -, -⟩ := h
  rw [exec_bar0Access]
  rcases hbad with hform | hfeat
  · simp [execBar0Access, hon, hbar0, hbar, hform]
  · simp [execBar0Access, hon, hbar0, hbar, hfeat]

theorem exec_bar4Access_served {s : State} {p : Port} {r : Tlp} (chk : Ecc) (h : HostServes s p)
    (hbar : (s.port p).assigned 2 = true) (hsec : (s.port p).secure = true) (hform : bar4Form r = true)
    (hfeat : unsupportedTlp r = false) (hoff : r.off.toNat + r.len ≤ 0x200000000) :
    exec (.bar4Access p r chk) s = .next (bar4Do s p (s.port p).half r chk) := by
  have hbar0 := hostServes_bar0On h
  obtain ⟨hon, hstage, hidle⟩ := h
  have hperf : hostAccess s p (.bar4Access p r chk) = bar4Do s p (s.port p).half r chk := hostAccess_of_idle p hidle rfl
  rw [exec_bar4Access, execBar4Access, if_neg (by simp [hon, hbar0, hbar]), if_neg (BitVec.not_lt.2 hstage),
    if_neg (by simpa [hsec, hform, hfeat] using hoff), hperf]

/-- While SECURE = 0 BAR4 decodes nothing (R272). -/
theorem exec_bar4Access_nonsecure {s : State} {p : Port} (r : Tlp) (chk : Ecc) (h : HostServes s p)
    (hbar : (s.port p).assigned 2 = true) (hsec : (s.port p).secure = false) :
    exec (.bar4Access p r chk) s = .next (barFail s p 2 1 r) := by
  have hbar0 := hostServes_bar0On h
  obtain ⟨hon, hstage, -⟩ := h
  rw [exec_bar4Access, execBar4Access, if_neg (by simp [hon, hbar0, hbar]), if_neg (BitVec.not_lt.2 hstage),
    if_pos (by simp [hsec])]

section Unassigned
variable {s : State} {p : Port} (r : Tlp)

/-- A BAR that the host has not assigned takes nothing. -/
theorem exec_bar0Access_unassigned (h : (s.port p).assigned 0 = false) : exec (.bar0Access p r) s = .next s := by
  rw [exec_bar0Access, execBar0Access, if_pos (by simp [h])]

theorem exec_bar2Access_unassigned (h : (s.port p).assigned 1 = false) : exec (.bar2Access p r) s = .next s := by
  rw [exec_bar2Access, execBar2Access, if_pos (by simp [h])]

theorem exec_bar4Access_unassigned (chk : Ecc) (h : (s.port p).assigned 2 = false) :
    exec (.bar4Access p r chk) s = .next s := by
  rw [exec_bar4Access, execBar4Access, if_pos (by simp [h])]

end Unassigned

/-- Without configuration words no BAR has a base. -/
theorem assigned_of_config_nil {h : HostPort} (hc : h.config = []) (i : Nat) : h.assigned i = false := by
  simp [HostPort.assigned, hc]

/-- The response to an address fault: only an AtomicOp, of the writes, is completed. -/
theorem barFail_addressFault (s : State) (p : Port) (bar : Nat) (r : Tlp) :
    barFail s p bar 1 r = (portEvent s p 1 bar r.off r.rid).emit (if r.write = true ∧ r.feature ≠ .atomicOp then
      .aer p .unsupported else .tlp p .unsupported false 0) := by
  simp [barFail]

/-! ## BAR0: one DW or two (R270) -/

/-- A request to BAR0 starts at a whole DW, and is 4 or 8 bytes long. -/
theorem bar0Form_aligned {r : Tlp} (h : bar0Form r = true) : r.off.toNat % 4 = 0 := by
  simp only [bar0Form, Bool.or_eq_true, Bool.and_eq_true, decide_eq_true_eq] at h
  omega

/-- A read that the port may make returns the registers' values. -/
theorem bar0Do_read {s : State} {p : Port} {r : Tlp} (hread : r.write = false)
    (hlo : s.portReads p (r.off.toNat / 0x100000) (r.off.toNat % 0x100000) = true)
    (hhi : r.len = 8 → s.portReads p (r.off.toNat / 0x100000) (r.off.toNat % 0x100000 + 4) = true) :
    bar0Do s p r = s.emit (.tlp p .success false (s.regRead (.port p) (r.off.toNat / 0x100000) (r.off.toNat % 0x100000) +
      (if r.len = 8 then s.regRead (.port p) (r.off.toNat / 0x100000) (r.off.toNat % 0x100000 + 4) else 0) * 2 ^ 32)) := by
  simp only [bar0Do, hread, Bool.false_eq_true, if_false]
  rw [if_neg]
  by_cases h8 : r.len = 8
  · simp [hlo, h8, hhi h8]
  · simp [hlo, h8]

/-- A write of one DW is the register write of the port, of whose event the request's ID is recorded. -/
theorem bar0Do_write {s : State} {p : Port} {r : Tlp} (hwrite : r.write = true) (hep : r.ep = false) (hlen : r.len = 4) :
    bar0Do s p r =
      withRid s p r.rid (regWrite s (.port p) (r.off.toNat / 0x100000) (r.off.toNat % 0x100000) (r.data % 2 ^ 32)) := by
  simp only [bar0Do, hwrite, hep, hlen, Bool.false_eq_true, if_true, if_false]
  rw [if_neg (by omega)]

theorem withRid_of_recorded {s : State} {p : Port} (rid : BitVec 16) (new : State) (h : (s.port p).fault.isSome = true) :
    withRid s p rid new = new := by
  obtain ⟨f, hf⟩ := Option.isSome_iff_exists.1 h
  simp only [withRid, hf]

theorem fire_setPort (s : State) (p n : Nat) (x : HostPort) : fire (s.setPort p x) n = (fire s n).setPort p x := rfl
theorem emit_setPort (s : State) (p : Nat) (x : HostPort) (y : Out) : (s.setPort p x).emit y = (s.emit y).setPort p x := rfl

/-- An address fault recorded for a request is the event of that request, whichever ID the register access carried. -/
theorem withRid_addressFault (s : State) (p : Port) (bar : Nat) (a : Addr) (rid : BitVec 16) :
    withRid s p rid (addressFault s (.port p) bar a) = (portEvent s p 1 bar a rid).emit (.aer p .unsupported) := by
  cases hf : (s.port p).fault with
  | some f => simp only [withRid, addressFault, portEvent, hf]
  | none =>
    simp only [withRid, addressFault, portEvent, hf, State.modPort_eq, fire_setPort, emit_setPort, State.setPort_setPort,
      State.setPort_port, if_true, Option.map_some]

/-! ## BAR4: a word of a tile window (R272) -/

/-- The address that an access of BAR4 has in the tile windows, in the half that TWSEL selects. -/
theorem bar4_off_toNat {r : Tlp} (half : Bool) (h : r.off.toNat + 4 ≤ 0x200000000) :
    (BitVec.ofNat 48 (r.off.toNat + b2n half * 0x200000000)).toNat = r.off.toNat + (if half then 0x200000000 else 0) := by
  rw [BitVec.toNat_ofNat]
  cases half
  · simp only [b2n, Bool.false_eq_true, if_false]; omega
  · simp only [b2n, if_true]; omega

/-- A read of a tile without a stored error, that finds none, checks out. -/
theorem bar4Check_clean {s : State} {t : Nat} (off n : Nat) (h : (s.tile t).flaws = []) :
    bar4Check s t off n .ok = (s, .ok) := by
  by_cases hoff : off ≥ 0x124000
  · simp only [bar4Check, if_pos hoff]
  · simp only [bar4Check, if_neg hoff, if_true, Tile.flaw, Tile.flawWhere, h, List.foldl_nil, Ecc.ofLevel]

/-- A read of one word of a tile window. (The request at its address in the tile windows is taken as an opaque `r'`: its
fields are used by the equations named, not by unfolding.) -/
theorem bar4Do_read {s : State} {p : Port} {half : Bool} {r : Tlp} {a v : Nat} (hread : r.write = false) (hlen : r.len = 4)
    (ha : (BitVec.ofNat 48 (r.off.toNat + b2n half * 0x200000000)).toNat = a) (hok : s.tileOk (a / 0x200000) = true)
    (hclean : (s.tile (a / 0x200000)).flaws = [])
    (hv : (s.tile (a / 0x200000)).read32 (nightExit s).relocks (a / 0x200000) (a % 0x200000) = some v) (hlt : v < 2 ^ 32) :
    bar4Do s p half r .ok = (nightExit s).emit (.tlp p .success false v) := by
  have hcheck : bar4Check (nightExit s) (a / 0x200000) (a % 0x200000) 4 .ok = (nightExit s, .ok) := bar4Check_clean _ _ hclean
  have hdata : pack 32 [v] = v := by rw [pack, pack, Nat.mod_eq_of_lt hlt, Nat.mul_zero, Nat.add_zero]
  rw [bar4Do]
  generalize hr : { r with off := BitVec.ofNat 48 (r.off.toNat + b2n half * 0x200000000) } = r'
  have hoff : r'.off.toNat = a := by rw [← hr]; exact ha
  have hread' : r'.write = false := by rw [← hr]; exact hread
  have hlen' : r'.len = 4 := by rw [← hr]; exact hlen
  have hone : List.range (4 / 4) = [0] := rfl
  simp only [hread', hlen', hone, hoff, List.map_cons, List.map_nil, Nat.mul_zero, Nat.add_zero, nightExit_tileOk,
    nightExit_tile, hok, hv, hcheck, hdata, List.any_cons, List.any_nil, Option.isNone_some, Option.getD_some, Bool.or_self,
    reduceCtorEq, decide_false, Bool.false_eq_true, if_true, if_false]

/-- A write of one word that the tile performs. -/
theorem bar4Do_write {s : State} {p : Port} {half : Bool} {r : Tlp} {a : Nat} {z : Tile} (chk : Ecc) (hwrite : r.write = true)
    (hep : r.ep = false) (hlen : r.len = 4) (ha : (BitVec.ofNat 48 (r.off.toNat + b2n half * 0x200000000)).toNat = a)
    (hok : s.tileOk (a / 0x200000) = true)
    (hz : (s.tile (a / 0x200000)).write32 (a % 0x200000) (r.data % 2 ^ 32) = some z) :
    bar4Do s p half r chk = (nightExit s).setTile (a / 0x200000) z := by
  rw [bar4Do]
  generalize hr : { r with off := BitVec.ofNat 48 (r.off.toNat + b2n half * 0x200000000) } = r'
  have hoff : r'.off.toNat = a := by rw [← hr]; exact ha
  have hdata : r'.data = r.data := by rw [← hr]
  have hwrite' : r'.write = true := by rw [← hr]; exact hwrite
  have hep' : r'.ep = false := by rw [← hr]; exact hep
  have hlen' : r'.len = 4 := by rw [← hr]; exact hlen
  have hone : List.range (4 / 4) = [0] := rfl
  simp only [hwrite', hep', hlen', hone, hoff, hdata, forAll, List.foldl_cons, List.foldl_nil, Nat.mul_zero, Nat.add_zero,
    pow_zero, Nat.div_one, nightExit_tileOk, nightExit_tile, hok, hz, Bool.not_true, Bool.false_eq_true, if_true, if_false]

end Sys2Proof.Machine

open Sys2Proof Sys2Proof.Machine

/-- Settles O31: a request that is served is performed at once, since none waits; the register write of a BAR0 write is the
one of the port at the register's device address. -/
theorem registerAndTileBars : Obligations.RegisterAndTileBars := by
  unfold Obligations.RegisterAndTileBars
  intro s p r b o fault a t hserves hbar0 hbar4
  refine ⟨fun hform hfeat hoff hread hlo hhi => ?read, fun hform hfeat hoff hwrite hep hlen hfault => ?write,
    fun hform hfeat hoff hwrite hep hlen hb ho hlist hne => ?otherPort, fun hbad => ?refused,
    fun v hsec hform hfeat hclean hlen hoff hread hok hv hlt => ?windowRead,
    fun z hsec hform hfeat hlen hoff hwrite hep hok hz => ?windowWrite, fun hsec => ?nonsecure, ?unassigned⟩
  case read => rw [exec_bar0Access_served hserves hbar0 hform hfeat hoff, bar0Do_read hread hlo hhi]
  case write =>
    have halign : o % 4 = 0 := by have := bar0Form_aligned hform; omega
    have hword : (BitVec.ofNat 64 (r.data % 2 ^ 32)).toNat % 2 ^ 32 = r.data % 2 ^ 32 := toNat_ofNat_word (by omega)
    rw [exec_bar0Access_served hserves hbar0 hform hfeat hoff, bar0Do_write hwrite hep hlen, withRid_of_recorded _ _ hfault,
      exec_registerWrite_reg s (.port p) _ (by omega) (by omega) halign, hword]
  case otherPort =>
    have hstage3 : s.boot.stage ≥ 3 := by simpa [State.bar0On] using hostServes_bar0On hserves
    have haddr : BitVec.ofNat 48 (b * 0x100000 + o) = r.off := by
      rw [Nat.div_add_mod', BitVec.ofNat_toNat, BitVec.setWidth_eq]
    rw [exec_bar0Access_served hserves hbar0 hform hfeat hoff, bar0Do_write hwrite hep hlen, regWrite,
      writeGate_otherPort s p _ hlist hstage3 hb ho hne, withRid_addressFault, haddr]
  case refused => rw [exec_bar0Access_fails hserves hbar0 hbad, barFail_addressFault]
  case windowRead =>
    rw [exec_bar4Access_served .ok hserves hbar4 hsec hform hfeat (by omega),
      bar4Do_read hread hlen (bar4_off_toNat _ hoff) hok hclean hv hlt]
  case windowWrite =>
    rw [exec_bar4Access_served .ok hserves hbar4 hsec hform hfeat (by omega),
      bar4Do_write .ok hwrite hep hlen (bar4_off_toNat _ hoff) hok hz]
  case nonsecure => rw [exec_bar4Access_nonsecure r .ok hserves hbar4 hsec, barFail_addressFault]
  case unassigned =>
    intro u
    have hconfig : (u.port p).config = [] := by rw [State.setPort_port, if_pos rfl]
    exact ⟨exec_bar0Access_unassigned r (assigned_of_config_nil hconfig 0),
      exec_bar2Access_unassigned r (assigned_of_config_nil hconfig 1),
      exec_bar4Access_unassigned r .ok (assigned_of_config_nil hconfig 2)⟩
end

section
/-! SUPPORT. What an access to HBM leaves of the state (spec 10, 17): reads, the errors that they find and what precedes a
write touch counters, faults, stops and messages, but none of the parts gathered here. -/

namespace Sys2Proof.Machine

/-- The parts of the state that an access to HBM leaves as they are: the group, the Melvor complex but for the freeze of its
fold, the drovers but for their stop, the journal's pages and its step. -/
structure JobPart where
  grp : Group
  melvor : Melvor
  drover : Nat → Drover
  jindex : List Nat
  jstep : Word

def State.jobPart (s : State) : JobPart :=
  { grp := s.grp, melvor := { s.melvor with foldFrozen := false }, drover := fun d => { s.drover d with stopped := false }
    jindex := s.rel.jindex, jstep := s.rel.jstep }

/-- How far the job has come: its step and state, the journal's pages and step, and what this member has sent of the step. -/
structure Progress where
  step : Word
  shown : Word
  jobState : BitVec 3
  job : Option Job
  jindex : List Nat
  jstep : Word
  agreeSent : Bool
  doneSent : Bool
  boundary : Option Word

def JobPart.progress (x : JobPart) : Progress :=
  { step := x.melvor.step, shown := x.melvor.shown, jobState := x.melvor.jobState, job := x.melvor.job, jindex := x.jindex
    jstep := x.jstep, agreeSent := x.grp.agreeSent, doneSent := x.grp.doneSent, boundary := x.grp.boundary }

def State.progress (s : State) : Progress := s.jobPart.progress

/-- The stored bytes, and of each line its poison and its symbols in error. -/
structure MemPart where
  hbm : Sparse Byte
  poison : Sparse Bool
  bad : Nat → Nat

def State.memPart (s : State) : MemPart := { hbm := s.hbm, poison := s.poison, bad := Sparse.get 0 s.bad }

/-- `u` differs from `s` in nothing but what a read of HBM may change. -/
structure ReadOnly (s u : State) : Prop where
  job : u.jobPart = s.jobPart
  mem : u.memPart = s.memPart

theorem ReadOnly.refl (s : State) : ReadOnly s s := ⟨rfl, rfl⟩

theorem ReadOnly.trans {s u w : State} (h : ReadOnly s u) (h' : ReadOnly u w) : ReadOnly s w :=
  ⟨h'.job.trans h.job, h'.mem.trans h.mem⟩

/-- A step that touches none of the parts may come before what reads only. -/
theorem ReadOnly.after {s u w : State} (h : ReadOnly u w) (job : u.jobPart = s.jobPart := by rfl)
    (mem : u.memPart = s.memPart := by rfl) : ReadOnly s w := .trans ⟨job, mem⟩ h

theorem ReadOnly.ite {s u w : State} {c : Prop} [Decidable c] (h : ReadOnly s u) (h' : ReadOnly s w) :
    ReadOnly s (if c then u else w) := by
  split
  · exact h
  · exact h'

/-- A fold whose steps read only reads only. -/
theorem forAll_readOnly {α : Type} (l : List α) (s : State) (f : State → α → State) (hf : ∀ u x, ReadOnly u (f u x)) :
    ReadOnly s (forAll l s f) :=
  forAll_inv (ReadOnly s) f (fun u x h => h.trans (hf u x)) l s (.refl s)

theorem ReadOnly.hbm {s u : State} (h : ReadOnly s u) : u.hbm = s.hbm := congrArg MemPart.hbm h.mem
theorem ReadOnly.poison {s u : State} (h : ReadOnly s u) : u.poison = s.poison := congrArg MemPart.poison h.mem
theorem ReadOnly.bad {s u : State} (h : ReadOnly s u) (k : Nat) : Sparse.get 0 u.bad k = Sparse.get 0 s.bad k :=
  congrFun (congrArg MemPart.bad h.mem) k

/-- The group and the progress of the job are parts of what a read leaves. -/
theorem grp_of_jobPart {s u : State} (h : u.jobPart = s.jobPart) : u.grp = s.grp := congrArg JobPart.grp h
theorem progress_of_jobPart {s u : State} (h : u.jobPart = s.jobPart) : u.progress = s.progress := congrArg JobPart.progress h

/-! ## Messages, stops, faults -/

theorem fire_readOnly (s : State) (n : Nat) : ReadOnly s (fire s n) :=
  ⟨by simp only [State.jobPart, fire_grp, fire_melvor, fire_drover, fire_rel],
    by simp only [State.memPart, fire_hbm, fire_poison, fire_bad]⟩

theorem fireIf_readOnly (c : Bool) (s : State) (n : Nat) : ReadOnly s (fireIf c s n) := .ite (fire_readOnly s n) (.refl s)

theorem emit_readOnly (s : State) (o : Out) : ReadOnly s (s.emit o) := ⟨rfl, rfl⟩

theorem setLost_readOnly (s : State) (c : Nat) : ReadOnly s (setLost s c) := .ite (.refl s) (fire_readOnly _ _).after

theorem queueMsg_readOnly (s : State) (x : BitVec 128) (m : Nat) : ReadOnly s (queueMsg s x m) := by
  unfold queueMsg; split
  · exact ⟨rfl, rfl⟩
  · exact .refl s

theorem sendUp_readOnly (s : State) (x : BitVec 128) : ReadOnly s (sendUp s x) :=
  .ite (.refl s) (.after (queueMsg_readOnly (s.emit (.ctrl x)) x _))

theorem sendDown_readOnly (s : State) (x : BitVec 128) : ReadOnly s (sendDown s x) :=
  .ite (.refl s) (.after (forAll_readOnly _ (s.emit (.ctrl x)) _ fun u k => queueMsg_readOnly u x k))

theorem sendCtl_readOnly (s : State) (x : BitVec 128) : ReadOnly s (sendCtl s x) :=
  .ite (sendDown_readOnly s x) (sendUp_readOnly s x)

/-- The stop of a drover is no part of what a read leaves. -/
theorem stopDrover_readOnly (s : State) (d : Nat) : ReadOnly s (s.modDrover d fun x => { x with stopped := true }) := by
  refine ⟨?_, rfl⟩
  have hdrover (e : Nat) : { (s.setDrover d { s.drover d with stopped := true }).drover e with stopped := false } =
      { s.drover e with stopped := false } := by
    rw [State.setDrover_drover]
    split
    · next he => rw [he]
    · rfl
  simp only [State.jobPart, State.modDrover_eq, State.setDrover_grp, State.setDrover_melvor, State.setDrover_rel, hdrover]

theorem stopDrovers_readOnly (s : State) : ReadOnly s (stopDrovers s) := forAll_readOnly _ s _ stopDrover_readOnly

theorem freezeTiles_readOnly (s : State) : ReadOnly s (freezeTiles s) := ⟨rfl, rfl⟩

/-- The freeze of the fold is no part of what a read leaves. -/
theorem foldFrozen_readOnly (s : State) : ReadOnly s (s.withMelvor fun m => { m with foldFrozen := true }) := ⟨rfl, rfl⟩

theorem freezeFold_readOnly (s : State) : ReadOnly s (freezeFold s) :=
  .ite (.refl s) (((freezeTiles_readOnly s).trans (stopDrovers_readOnly _)).trans
    ((foldFrozen_readOnly _).trans (fire_readOnly _ 49)))

theorem snapEnd_readOnly (s : State) : ReadOnly s (snapEnd s) :=
  .ite (.after (fireIf_readOnly _ _ _)) (.refl s)

theorem fatalError_readOnly (s : State) (n : Nat) : ReadOnly s (fatalError s n) := by
  refine .ite (fire_readOnly s n) ?_
  have hfired : ReadOnly s (fire (s.withRel fun r => { r with fatal := true }) n) := (fire_readOnly _ n).after
  have hviral (u : State) (p : Nat) : ReadOnly u
      (if (u.port p).viralEn then (u.withRel fun r => { r with viral := true }).emit (.viral (Fin.ofNat 2 p)) else u) :=
    .ite ⟨rfl, rfl⟩ (.refl u)
  exact ((((hfired.trans (freezeFold_readOnly _)).trans (stopDrovers_readOnly _)).trans (sendCtl_readOnly _ _)).trans
    (forAll_readOnly _ _ _ hviral)).trans ((setLost_readOnly _ 5).trans (snapEnd_readOnly _))

theorem foundPoison_readOnly (s : State) (a : Nat) : ReadOnly s (foundPoison s a) := by
  have hlost : ReadOnly s (if s.inKinds (journaledKinds ++ [4, 6, 0x0C]) a then setLost s 4 else s) :=
    .ite (setLost_readOnly s 4) (.refl s)
  exact hlost.trans (.ite (fatalError_readOnly _ _) (.refl _))

/-! ## Reads -/

theorem countUe_readOnly (s : State) (a : Nat) (p : Bool) : ReadOnly s (countUe s a p) := by
  unfold countUe
  refine .trans ?_ (foundPoison_readOnly _ a)
  split
  · exact ⟨rfl, rfl⟩
  · exact (fire_readOnly _ _).after

/-- The symbols of a line are noted as they were found: without new ones they stay as they are. -/
theorem noteBad_readOnly (s : State) (k : Nat) :
    ReadOnly s { s with bad := Sparse.set 0 s.bad k (0 ||| Sparse.get 0 s.bad k) } := by
  refine ⟨rfl, ?_⟩
  have hbad : Sparse.get 0 (Sparse.set 0 s.bad k (0 ||| Sparse.get 0 s.bad k)) = Sparse.get 0 s.bad := by
    funext j
    rw [Sparse.get_set, Nat.zero_or]
    split
    · next hj => rw [hj]
    · rfl
  simp only [State.memPart, hbad]

theorem decodeLine_readOnly (s : State) (a : Nat) : ReadOnly s (decodeLine s a 0).1 := by
  refine (noteBad_readOnly s (a / 64)).trans ?_
  unfold decodeLine
  dsimp only
  repeat' split
  all_goals exact ⟨rfl, rfl⟩

theorem readLine_readOnly (s : State) (a : Nat) : ReadOnly s (readLine s a 0).1 := by
  have hdecoded : ReadOnly s (decodeLine (countRead s a) a 0).1 := .after (decodeLine_readOnly _ a)
  unfold readLine
  dsimp only
  split
  · exact hdecoded
  · exact hdecoded.trans ⟨rfl, rfl⟩
  · exact hdecoded.trans (countUe_readOnly _ a _)

theorem bytesRead_readOnly (s : State) (a n : Nat) : ReadOnly s (bytesRead s a n).1 :=
  forAll_inv (fun x : State × Bool × Nat => ReadOnly s x.1) _ (fun x _ h => h.trans (readLine_readOnly x.1 _)) _ _ (.refl s)

theorem tableRead_readOnly (s : State) (a n : Nat) : ReadOnly s (tableRead s a n) := bytesRead_readOnly s a n

/-! ## What precedes a write -/

theorem freshLines_readOnly (n : Nat) : ∀ s : State, ReadOnly s (s.freshLines n).2 := by
  induction n with
  | zero => intro s; rw [State.freshLines]; exact .refl s
  | succ n ih => intro s; rw [freshLines_succ]; exact .after (ih _)

theorem hostFetch_readOnly (s : State) (p : Port) (c : Bool) (a n : Nat) : ReadOnly s (hostFetch s p c a n) :=
  .ite (forAll_readOnly _ s _ fun _ _ => ⟨rfl, rfl⟩) ⟨rfl, rfl⟩

theorem hostStore_readOnly (s : State) (p : Port) (c : Bool) (a n v : Nat) : ReadOnly s (hostStore s p c a n v) :=
  .ite (forAll_readOnly _ s _ fun _ _ => .ite ⟨rfl, rfl⟩ ⟨rfl, rfl⟩) ⟨rfl, rfl⟩

theorem snapAt_readOnly (s : State) (o n : Nat) (k : State → Port → Nat → State) (hk : ∀ s p a, ReadOnly s (k s p a)) :
    ReadOnly s (snapAt s o n k) :=
  .ite (.after (snapEnd_readOnly _)) (.ite (.after (snapEnd_readOnly _)) (hk _ _ _))

theorem snapStore_readOnly (s : State) (o n v : Nat) : ReadOnly s (snapStore s o n v) :=
  snapAt_readOnly s o n _ fun s p a => .trans (hostStore_readOnly s p _ a n v) ⟨rfl, rfl⟩

theorem withSnap_readOnly (s : State) (f : Snapshot → Snapshot) : ReadOnly s (s.withSnap f) := ⟨rfl, rfl⟩

theorem worldRefused_readOnly (s : State) : ReadOnly s (worldRefused s) := ⟨rfl, rfl⟩

/-- A page that has been read for the snapshot is stored at its target. -/
theorem snapPage_readOnly (s u : State) (page o n v : Nat) (h : ReadOnly s u) :
    ReadOnly s (if u.snap.busy then
      snapStore (u.withSnap fun y => { y with copied := Sparse.set 0 y.copied page v }) o n v else u) :=
  .ite (h.trans ((withSnap_readOnly u _).trans (snapStore_readOnly _ o n v))) h

theorem snapCopy_readOnly (s : State) (page : Nat) : ReadOnly s (snapCopy s page) := by
  unfold snapCopy
  dsimp only
  split
  · exact ⟨rfl, rfl⟩
  · refine snapPage_readOnly s _ page _ _ _ ?_
    split
    · split
      · dsimp only
        refine .trans ?_ (withSnap_readOnly _ _)
        exact .trans ((freshLines_readOnly _ _).after) (hostFetch_readOnly _ _ _ _ _)
      · refine .trans ?_ ((emit_readOnly _ _).trans (snapEnd_readOnly _))
        exact .ite ((worldRefused_readOnly _).after) (withSnap_readOnly s _)
    · exact (bytesRead_readOnly _ _ _).after

theorem beforeWrite_readOnly (s : State) (r : Requester) (a : Nat) : ReadOnly s (beforeWrite s r a) := by
  have hcopied : ReadOnly s (if s.snap.busy && s.snap.todo.contains (a / 4096) then snapCopy s (a / 4096) else s) :=
    .ite (snapCopy_readOnly s _) (.refl s)
  unfold beforeWrite
  dsimp only
  generalize (if s.snap.busy && s.snap.todo.contains (a / 4096) then snapCopy s (a / 4096) else s) = u at hcopied ⊢
  have hfull (c : Bool) : ReadOnly u (if c then setLost u 1 else u) := .ite (setLost_readOnly u 1) (.refl u)
  cases r with
  | foldPort _ => exact .ite (.trans (hcopied.trans (hfull _)) (setLost_readOnly _ 3)) (hcopied.trans (hfull _))
  | _ => exact hcopied.trans (hfull _)

end Sys2Proof.Machine
end

section
/-! SUPPORT. The bytes that a write to HBM leaves (spec 10; R229, R230): of a line that is clean, the bytes that the mask
selects are new and the others stay; of a range, each byte of it is the byte of the value. -/

namespace Sys2Proof.Machine

/-- Line `k` is not poisoned and has no symbol in error. -/
def State.cleanLine (s : State) (k : Nat) : Prop := Sparse.get false s.poison k = false ∧ Sparse.get 0 s.bad k = 0

theorem ReadOnly.cleanLine {s u : State} (h : ReadOnly s u) {k : Nat} (hk : s.cleanLine k) : u.cleanLine k := by
  obtain ⟨hpoison, hbad⟩ := hk
  exact ⟨h.poison ▸ hpoison, (h.bad k).trans hbad⟩

/-! ## Bytes of numbers -/

/-- A byte of the number that a range of bytes spells. -/
theorem ofNat_readBytes_div (m : Sparse Byte) (n : Nat) : ∀ a j, j < n →
    BitVec.ofNat 8 (readBytes m a n / 256 ^ j) = Sparse.get 0 m (a + j) := by
  induction n with
  | zero => intro a j hj; omega
  | succ n ih =>
    intro a j hj
    have hbyte := (Sparse.get 0 m a).isLt
    cases j with
    | zero =>
      apply BitVec.eq_of_toNat_eq
      simp only [Nat.add_zero, readBytes, BitVec.toNat_ofNat, pow_zero, Nat.div_one]
      omega
    | succ j =>
      have htail : ((Sparse.get 0 m a).toNat + 256 * readBytes m (a + 1) n) / 256 = readBytes m (a + 1) n := by omega
      rw [readBytes, pow_succ', ← Nat.div_div_eq_div_mul, htail, ih (a + 1) j (by omega), Nat.add_right_comm, Nat.add_assoc]

/-- Bytes that are those of a number spell it. -/
theorem readBytes_of_ofNat (m : Sparse Byte) (n : Nat) : ∀ a v,
    (∀ j < n, Sparse.get 0 m (a + j) = BitVec.ofNat 8 (v / 256 ^ j)) → readBytes m a n = v % 256 ^ n := by
  induction n with
  | zero => intro a v _; rw [readBytes, pow_zero, Nat.mod_one]
  | succ n ih =>
    intro a v h
    have hfirst : Sparse.get 0 m a = BitVec.ofNat 8 v := by simpa using h 0 (by omega)
    have htail : readBytes m (a + 1) n = v / 256 % 256 ^ n := by
      refine ih (a + 1) (v / 256) fun j hj => ?_
      rw [Nat.div_div_eq_div_mul, ← pow_succ', ← h (j + 1) (by omega), Nat.add_assoc, Nat.add_comm 1 j]
    rw [readBytes, hfirst, htail, BitVec.toNat_ofNat, pow_succ' 256, Nat.mod_mul]

/-- Element `i` of packed elements of `n` bits. -/
theorem pack_div_mod (n : Nat) (l : List Nat) : ∀ i, pack n l / 2 ^ (n * i) % 2 ^ n = l.getD i 0 % 2 ^ n := by
  induction l with
  | nil => intro i; simp [pack]
  | cons x r ih =>
    intro i
    have hpos : 0 < 2 ^ n := Nat.two_pow_pos n
    cases i with
    | zero => simp [pack]
    | succ i =>
      have htail : (x % 2 ^ n + 2 ^ n * pack n r) / 2 ^ n = pack n r := by
        rw [Nat.add_mul_div_left _ _ hpos, Nat.div_eq_of_lt (Nat.mod_lt _ hpos), Nat.zero_add]
      rw [pack, Nat.mul_succ, Nat.add_comm (n * i), pow_add, ← Nat.div_div_eq_div_mul, htail, ih i, List.getD_cons_succ]

/-- Bit `i` of the mask that selects bytes `o` to `o + n - 1` of a line. -/
theorem testBit_mask (o n i : Nat) : ((2 ^ n - 1) * 2 ^ o).testBit i = decide (o ≤ i ∧ i < o + n) := by
  rw [Nat.testBit_mul_two_pow, Nat.testBit_two_pow_sub_one]
  by_cases ho : o ≤ i <;> by_cases hn : i - o < n <;> simp [ho, hn] <;> omega

theorem mask_lt {o n w : Nat} (h : n = 0 ∨ o + n ≤ w) : (2 ^ n - 1) * 2 ^ o < 2 ^ w := by
  rcases h with rfl | h
  · rw [pow_zero, Nat.sub_self, Nat.zero_mul]
    exact Nat.two_pow_pos w
  · calc (2 ^ n - 1) * 2 ^ o < 2 ^ n * 2 ^ o :=
          Nat.mul_lt_mul_of_pos_right (Nat.sub_lt (Nat.two_pow_pos _) (by decide)) (Nat.two_pow_pos _)
      _ = 2 ^ (o + n) := by rw [← pow_add, Nat.add_comm]
      _ ≤ 2 ^ w := Nat.pow_le_pow_right (by decide) h

/-- A number of `n` bytes, `o` bytes up, fits a record of `w` bytes (of `e` bits). -/
theorem toNat_ofNat_bytes {o n w e : Nat} (x : Nat) (he : e = 8 * w) (h : n = 0 ∨ o + n ≤ w) :
    (BitVec.ofNat e (x % 256 ^ n * 2 ^ (8 * o))).toNat = x % 256 ^ n * 2 ^ (8 * o) := by
  rw [BitVec.toNat_ofNat, Nat.mod_eq_of_lt]
  rcases h with rfl | h
  · rw [pow_zero, Nat.mod_one, Nat.zero_mul]
    exact Nat.two_pow_pos e
  · calc x % 256 ^ n * 2 ^ (8 * o) < 256 ^ n * 2 ^ (8 * o) :=
          Nat.mul_lt_mul_of_pos_right (Nat.mod_lt _ (by positivity)) (Nat.two_pow_pos _)
      _ = 2 ^ (8 * n + 8 * o) := by rw [show (256 : Nat) = 2 ^ 8 from rfl, ← pow_mul, ← pow_add]
      _ ≤ 2 ^ e := Nat.pow_le_pow_right (by decide) (by omega)

/-- Byte `i` of the data that a line takes of a value: bytes `p` to `p + n - 1` of it, from byte `o` of the line up. -/
theorem ofNat_line_byte {v p n o i : Nat} (ho : o ≤ i) (hi : i < o + n) :
    BitVec.ofNat 8 (v / 256 ^ p % 256 ^ n * 2 ^ (8 * o) / 256 ^ i) = BitVec.ofNat 8 (v / 256 ^ (p + i - o)) := by
  have h256 (k : Nat) : 256 ^ k = 2 ^ (8 * k) := (pow_mul 2 8 k).symm
  refine BitVec.eq_of_getLsbD_eq fun b hb => ?_
  have hlow : 8 * o ≤ b + 8 * i := by omega
  have hhigh : b + 8 * i - 8 * o < 8 * n := by omega
  have hbit : b + 8 * i - 8 * o + 8 * p = b + 8 * (p + i - o) := by omega
  simp only [h256, BitVec.getLsbD_ofNat, Nat.testBit_div_two_pow, Nat.testBit_mul_two_pow, Nat.testBit_mod_two_pow, hlow, hhigh,
    hbit, decide_true, Bool.true_and]

/-! ## One line -/

/-- Without a symbol in error the code finds none beside the retired pins. -/
theorem errors_zero (c : HbmCtl) (pc : Nat) : c.errors pc 0 = 0 := by
  simp [HbmCtl.errors, bit]

/-- A clean line reads as what it stores. -/
theorem readLine_clean {s : State} {a : Nat} (h : s.cleanLine (a / 64)) :
    (readLine s a 0).2 = (false, BitVec.ofNat 512 (readBytes s.hbm (a / 64 * 64) 64)) := by
  obtain ⟨hpoison, hbad⟩ := h
  have hpoison' : Sparse.get false (countRead s a).poison (a / 64) = false := hpoison
  have hbad' : Sparse.get 0 (countRead s a).bad (a / 64) = 0 := hbad
  have hgood : (decodeLine (countRead s a) a 0).2 = (.good, BitVec.ofNat 512 (readBytes s.hbm (a / 64 * 64) 64)) := by
    simp only [decodeLine, hpoison', hbad', Nat.or_zero, errors_zero, Bool.false_eq_true, if_false, if_true, countRead_hbm]
  rw [readLine, hgood]

/-- The data of a line are its 64 bytes. -/
theorem toNat_lineOf (m : Sparse Byte) (a : Nat) : (BitVec.ofNat 512 (readBytes m a 64)).toNat = readBytes m a 64 := by
  have hbytes := toNat_ofNat_bytes (o := 0) (n := 64) (w := 64) (e := 512) (readBytes m a 64) rfl (by omega)
  rwa [Nat.mod_eq_of_lt (readBytes_lt 64 m a), Nat.mul_zero, pow_zero, Nat.mul_one] at hbytes

/-- A byte of HBM after the bytes of `d` that `mask` selects have gone into clean line `k`. -/
theorem storeLine_get {s : State} {k : Nat} (mask : BitVec 64) (d : Line) (h : s.cleanLine k) (b : Nat) :
    Sparse.get 0 (storeLine s (k * 64) mask d 0).hbm b =
      if k * 64 ≤ b ∧ b < k * 64 + 64 ∧ mask.toNat.testBit (b - k * 64) = true
      then BitVec.ofNat 8 (d.toNat / 256 ^ (b - k * 64)) else Sparse.get 0 s.hbm b := by
  have hk : k * 64 / 64 = k := Nat.mul_div_cancel k (by decide)
  by_cases hfull : mask = BitVec.allOnes 64
  · have hall : b < k * 64 + 64 → mask.toNat.testBit (b - k * 64) = true := by
      intro hb
      rw [hfull, BitVec.testBit_toNat, BitVec.getLsbD_allOnes]
      exact decide_eq_true (by omega)
    have hsame : (k * 64 ≤ b ∧ b < k * 64 + 64) ↔
        (k * 64 ≤ b ∧ b < k * 64 + 64 ∧ mask.toNat.testBit (b - k * 64) = true) :=
      ⟨fun ⟨hlo, hhi⟩ => ⟨hlo, hhi, hall hhi⟩, fun ⟨hlo, hhi, _⟩ => ⟨hlo, hhi⟩⟩
    simp only [storeLine, if_pos hfull, hk, countWrite_hbm, get_writeBytes, hsame]
  · have hread : (readLine s (k * 64) 0).2 = (false, BitVec.ofNat 512 (readBytes s.hbm (k * 64) 64)) := by
      rw [readLine_clean (hk.symm ▸ h), hk]
    have hkept : Sparse.get 0 (writeBytes s.hbm (k * 64) (readBytes s.hbm (k * 64) 64) 64) b = Sparse.get 0 s.hbm b := by
      rw [get_writeBytes]
      split
      · next hb => rw [ofNat_readBytes_div _ _ _ _ (by omega), Nat.add_sub_cancel' hb.1]
      · rfl
    have hbit : mask.toNat / 2 ^ (b - k * 64) % 2 = 1 ↔ mask.toNat.testBit (b - k * 64) = true := by
      rw [Nat.testBit_eq_decide_div_mod_eq, decide_eq_true_eq]
    simp only [storeLine, if_neg hfull, hk, hread, Bool.false_eq_true, if_false, countWrite_hbm, readLine_hbm, get_writeMasked,
      toNat_lineOf, hkept, hbit]

/-- A write leaves clean lines clean. -/
theorem storeLine_cleanLine {s : State} {k : Nat} (mask : BitVec 64) (d : Line) (h : s.cleanLine k) {j : Nat}
    (hj : s.cleanLine j) : (storeLine s (k * 64) mask d 0).cleanLine j := by
  have hk : k * 64 / 64 = k := Nat.mul_div_cancel k (by decide)
  by_cases hfull : mask = BitVec.allOnes 64
  · obtain ⟨hpoison, hbad⟩ := hj
    have hpoison' : Sparse.get false (countWrite s (k * 64)).poison j = false := hpoison
    have hbad' : Sparse.get 0 (countWrite s (k * 64)).bad j = 0 := hbad
    simp only [storeLine, if_pos hfull, hk, State.cleanLine, Sparse.get_set, hpoison', hbad', ite_self, and_self]
  · have hread : (readLine s (k * 64) 0).2.1 = false := by rw [readLine_clean (hk.symm ▸ h)]
    obtain ⟨hpoison, hbad⟩ := (readLine_readOnly s (k * 64)).cleanLine hj
    have hpoison' : Sparse.get false (countWrite (readLine s (k * 64) 0).1 (k * 64)).poison j = false := hpoison
    have hbad' : Sparse.get 0 (countWrite (readLine s (k * 64) 0).1 (k * 64)).bad j = 0 := hbad
    simp only [storeLine, if_neg hfull, hk, hread, Bool.false_eq_true, if_false, State.cleanLine, Sparse.get_set, hpoison',
      hbad', ite_self, and_self]

theorem storeLine_jobPart (s : State) (a : Nat) (mask : BitVec 64) (d : Line) :
    (storeLine s a mask d 0).jobPart = s.jobPart := by
  refine Eq.trans ?_ (readLine_readOnly s a).job
  unfold storeLine
  dsimp only
  split
  · exact (readLine_readOnly s a).job.symm
  · split <;> rfl

theorem writeLine_get {s : State} {k : Nat} (r : Requester) (mask : BitVec 64) (d : Line) (h : s.cleanLine k) (b : Nat) :
    Sparse.get 0 (writeLine s r (k * 64) mask d 0).hbm b =
      if k * 64 ≤ b ∧ b < k * 64 + 64 ∧ mask.toNat.testBit (b - k * 64) = true
      then BitVec.ofNat 8 (d.toNat / 256 ^ (b - k * 64)) else Sparse.get 0 s.hbm b := by
  rw [writeLine, storeLine_get mask d ((beforeWrite_readOnly s r _).cleanLine h), beforeWrite_hbm]

theorem writeLine_cleanLine {s : State} {k : Nat} (r : Requester) (mask : BitVec 64) (d : Line) (h : s.cleanLine k) {j : Nat}
    (hj : s.cleanLine j) : (writeLine s r (k * 64) mask d 0).cleanLine j :=
  storeLine_cleanLine mask d ((beforeWrite_readOnly s r _).cleanLine h) ((beforeWrite_readOnly s r _).cleanLine hj)

theorem writeLine_jobPart (s : State) (r : Requester) (a : Nat) (mask : BitVec 64) (d : Line) :
    (writeLine s r a mask d 0).jobPart = s.jobPart :=
  (storeLine_jobPart _ a mask d).trans (beforeWrite_readOnly s r a).job

/-! ## A range of bytes -/

theorem bytesWrite_jobPart (r : Requester) (s : State) (a n v : Nat) : (bytesWrite r s a n v).jobPart = s.jobPart :=
  forAll_inv (fun u : State => u.jobPart = s.jobPart) _ (fun _ _ h => (writeLine_jobPart _ _ _ _ _).trans h) _ _ rfl

theorem melvorWrite_jobPart (s : State) (a n v : Nat) : (melvorWrite s a n v).jobPart = s.jobPart :=
  bytesWrite_jobPart .melvor s a n v

/-- The part of the bytes `[a, a + n)`, of the value `v`, that lies in line `k` is written. -/
def writePiece (r : Requester) (a n v : Nat) (s : State) (k : Nat) : State :=
  let lo := max a (k * 64)
  let hi := min (a + n) (k * 64 + 64)
  writeLine s r (k * 64) (BitVec.ofNat 64 ((2 ^ (hi - lo) - 1) * 2 ^ (lo - k * 64)))
    (BitVec.ofNat 512 (v / 256 ^ (lo - a) % 256 ^ (hi - lo) * 2 ^ (8 * (lo - k * 64)))) 0

theorem bytesWrite_eq (r : Requester) (s : State) (a n v : Nat) :
    bytesWrite r s a n v = forAll (List.range (cdiv (a % 64 + n) 64)) s fun s i => writePiece r a n v s (a / 64 + i) := rfl

theorem writePiece_get {s : State} {k : Nat} (r : Requester) (a n v : Nat) (h : s.cleanLine k) (b : Nat) :
    Sparse.get 0 (writePiece r a n v s k).hbm b =
      if (k * 64 ≤ b ∧ b < k * 64 + 64) ∧ a ≤ b ∧ b < a + n then BitVec.ofNat 8 (v / 256 ^ (b - a))
      else Sparse.get 0 s.hbm b := by
  rw [writePiece, writeLine_get r _ _ h]
  generalize hlo : max a (k * 64) = lo
  generalize hhi : min (a + n) (k * 64 + 64) = hi
  have hin : hi - lo = 0 ∨ lo - k * 64 + (hi - lo) ≤ 64 := by omega
  rw [BitVec.toNat_ofNat, Nat.mod_eq_of_lt (mask_lt hin), toNat_ofNat_bytes (w := 64) (e := 512) _ rfl hin]
  have hrange : (k * 64 ≤ b ∧ b < k * 64 + 64 ∧ lo - k * 64 ≤ b - k * 64 ∧ b - k * 64 < lo - k * 64 + (hi - lo)) ↔
      ((k * 64 ≤ b ∧ b < k * 64 + 64) ∧ a ≤ b ∧ b < a + n) := by omega
  simp only [testBit_mask, decide_eq_true_eq, hrange]
  split
  · rw [ofNat_line_byte (by omega) (by omega)]
    congr 3
    omega
  · rfl

/-- Each byte of the range is the byte of the value, any other is as it was, and clean lines stay clean. -/
theorem bytesWrite_lines (r : Requester) (s : State) (a n v m : Nat) (h : ∀ i < m, s.cleanLine (a / 64 + i)) :
    let u := forAll (List.range m) s fun s i => writePiece r a n v s (a / 64 + i)
    (∀ b, Sparse.get 0 u.hbm b = if a ≤ b ∧ b < a + n ∧ b / 64 < a / 64 + m then BitVec.ofNat 8 (v / 256 ^ (b - a))
      else Sparse.get 0 s.hbm b) ∧ ∀ k, s.cleanLine k → u.cleanLine k := by
  induction m with
  | zero =>
    refine ⟨fun b => ?_, fun k hk => hk⟩
    rw [if_neg (by omega)]
    rfl
  | succ m ih =>
    obtain ⟨hbytes, hclean⟩ := ih fun i hi => h i (by omega)
    have hline := hclean _ (h m (by omega))
    dsimp only
    rw [forAll_range_succ]
    refine ⟨fun b => ?_, fun k hk => writeLine_cleanLine r _ _ hline (hclean k hk)⟩
    rw [writePiece_get r a n v hline, hbytes]
    by_cases hin : a ≤ b ∧ b < a + n
    · by_cases hk : b / 64 = a / 64 + m
      · rw [if_pos (by omega), if_pos (by omega)]
      · rw [if_neg (by omega)]
        by_cases hlt : b / 64 < a / 64 + m
        · rw [if_pos (by omega), if_pos (by omega)]
        · rw [if_neg (by omega), if_neg (by omega)]
    · rw [if_neg (by omega), if_neg (by omega), if_neg (by omega)]

section Range
variable {s : State} {a n : Nat} (r : Requester) (v : Nat)

/-- The lines of a range that is not empty are those of its bytes. -/
theorem cleanLines_touched (hn : 0 < n) (h : CleanLines s a n) (i : Nat) (hi : i < cdiv (a % 64 + n) 64) :
    s.cleanLine (a / 64 + i) := by
  have hcdiv : cdiv (a % 64 + n) 64 = (a % 64 + n + 63) / 64 := rfl
  have hline := h (max a ((a / 64 + i) * 64)) (by omega) (by omega)
  rwa [show max a ((a / 64 + i) * 64) / 64 = a / 64 + i by omega] at hline

theorem bytesWrite_get (hn : 0 < n) (h : CleanLines s a n) (b : Nat) :
    Sparse.get 0 (bytesWrite r s a n v).hbm b =
      if a ≤ b ∧ b < a + n then BitVec.ofNat 8 (v / 256 ^ (b - a)) else Sparse.get 0 s.hbm b := by
  have hcdiv : cdiv (a % 64 + n) 64 = (a % 64 + n + 63) / 64 := rfl
  rw [bytesWrite_eq, (bytesWrite_lines r s a n v _ (cleanLines_touched hn h)).1 b]
  by_cases hin : a ≤ b ∧ b < a + n
  · rw [if_pos (by omega), if_pos hin]
  · rw [if_neg (by omega), if_neg hin]

theorem bytesWrite_cleanLines (hn : 0 < n) (h : CleanLines s a n) {a' n' : Nat} (h' : CleanLines s a' n') :
    CleanLines (bytesWrite r s a n v) a' n' := fun b hlo hhi =>
  (bytesWrite_lines r s a n v _ (cleanLines_touched hn h)).2 _ (h' b hlo hhi)

end Range

end Sys2Proof.Machine
end

section
/-! SUPPORT. The exchange's data (spec 14; R313-R322, R327, R328): what a frame that arrives adds, what a combine leaves in
the store, in the accumulator and on a link, and what a gather frame writes. -/

namespace Sys2Proof.Machine

/-! ## Credits -/

/-- `u` differs from `s` in the control messages that wait on the ports. -/
def OnlyMsgs (s u : State) : Prop :=
  ∃ links, u = { s with links := links } ∧ ∀ p, (Sparse.get {} links p : LinkPort).outSlots = (s.link p).outSlots

theorem OnlyMsgs.refl (s : State) : OnlyMsgs s s := ⟨s.links, rfl, fun _ => rfl⟩

theorem OnlyMsgs.trans {s u w : State} (h : OnlyMsgs s u) (h' : OnlyMsgs u w) : OnlyMsgs s w := by
  obtain ⟨links, rfl, hslots⟩ := h
  obtain ⟨links', rfl, hslots'⟩ := h'
  exact ⟨links', rfl, fun p => (hslots' p).trans (hslots p)⟩

theorem forAll_onlyMsgs {α : Type} (l : List α) (s : State) (f : State → α → State) (hf : ∀ u x, OnlyMsgs u (f u x)) :
    OnlyMsgs s (forAll l s f) :=
  forAll_inv (OnlyMsgs s) f (fun u x h => h.trans (hf u x)) l s (.refl s)

theorem queueOn_onlyMsgs (s : State) (f : Nat) (x : BitVec 128) : OnlyMsgs s (queueOn s f x) := by
  refine ⟨_, rfl, fun p => ?_⟩
  rw [Sparse.get_set]
  split
  · next hp => rw [hp]
  · rfl

theorem creditStream_onlyMsgs (s : State) (st : Stream) (n : Nat) : OnlyMsgs s (creditStream s st n) := by
  unfold creditStream
  split
  · exact forAll_onlyMsgs _ _ _ fun u _ => queueOn_onlyMsgs u _ _
  · exact .refl s

theorem creditFrame_onlyMsgs (s : State) (cls m n : Nat) : OnlyMsgs s (creditFrame s cls m n) := by
  unfold creditFrame
  split
  · exact .refl s
  · exact creditStream_onlyMsgs s _ _

/-- Credits for the frames of a list of contributions. -/
theorem creditFrames_onlyMsgs (s : State) (cs : List Contrib) (n : Nat) :
    OnlyMsgs s (forAll cs s fun s x => creditFrame s 1 x.src n) :=
  forAll_onlyMsgs _ _ _ fun u x => creditFrame_onlyMsgs u 1 x.src n

/-! ## Flags (R320) -/

theorem Group.orFlags_eq (g : Group) (t : Word) (nv sat : Bool) :
    ∃ a b c d, g.orFlags t nv sat = { g with nv0 := a, sat0 := b, nv1 := c, sat1 := d } := by
  unfold Group.orFlags
  split
  · exact ⟨_, _, g.nv1, g.sat1, rfl⟩
  · exact ⟨g.nv0, g.sat0, _, _, rfl⟩

theorem Group.orFlags_flagsOf (g : Group) (t : Word) (nv sat : Bool) :
    (g.orFlags t nv sat).flagsOf t = ((g.flagsOf t).1 || nv, (g.flagsOf t).2 || sat) := by
  unfold Group.orFlags Group.flagsOf
  by_cases ht : t.toNat % 2 = 0 <;> simp only [ht, if_true, if_false]

/-! ## Frames of a reduction (R317) -/

/-- The contribution that a frame of member `src` becomes. -/
def contribOf (level src : Nat) (x : Frame) : Contrib :=
  ⟨level, x.step, x.obj, x.frame, x.micro, src, x.eg, x.nelem, (widenFrame x).map A44.toBits⟩

theorem contribOf_at (level src : Nat) (x : Frame) :
    (contribOf level src x).at_ level x.step x.obj x.frame x.micro = true := by
  simp [contribOf, Contrib.at_]

/-- A frame that is the first of its source, and has not been added, enters the exchange store. -/
theorem addContrib_new {s : State} {level src : Nat} {x : Frame}
    (hfirst : ∀ c ∈ s.grp.contribs, c.at_ level x.step x.obj x.frame x.micro = true → c.src ≠ src)
    (hadded : Sparse.get 0 s.grp.added (x.obj * 2 ^ 32 + x.frame) ≤ x.micro) :
    addContrib s level src x = s.withGrp fun g =>
      { (g.orFlags x.step (anyNv (widenFrame x)) (anySat (widenFrame x))) with
        contribs := g.contribs ++ [contribOf level src x]
        nelems := if x.step = s.melvor.step then Sparse.set 0 g.nelems x.obj x.nelem else g.nelems } := by
  have hnone : (s.grp.contribs.any fun c => c.at_ level x.step x.obj x.frame x.micro && decide (c.src = src)) = false := by
    rw [List.any_eq_false]
    intro c hc
    rw [Bool.and_eq_true, decide_eq_true_eq, not_and]
    exact hfirst c hc
  simp only [addContrib, hnone, Nat.not_lt.2 hadded, decide_false, Bool.and_false, Bool.or_self, Bool.false_eq_true, if_false,
    contribOf]

theorem exec_reduceFrame (f : FoldPort) (level : Fin 2) (src : Nat) (x : Frame) (s : State) :
    exec (.reduceFrame f level src x) s = execReduceFrame f level src x s := rfl

/-- A frame of the step in progress that arrives on a working link of a running group. -/
theorem exec_reduceFrame_taken {s : State} {f : FoldPort} (level : Fin 2) (src : Nat) {x : Frame} (hgrp : s.grp.grouped = true)
    (hrun : s.melvor.foldFrozen = false) (hup : (s.link f).up = true) (hwired : (s.link f).miswired = false)
    (hstep : x.step = s.melvor.step) :
    exec (.reduceFrame f level src x) s =
      .next (addContrib (s.modLink f fun l => { l with redFrames := satAdd l.redFrames 1 }) level src x) := by
  simp [exec_reduceFrame, execReduceFrame, hgrp, hrun, hup, hwired, hstep]

/-! ## Exchange faults (R327) -/

/-- The first exchange fault is recorded, and source 108 fires. -/
theorem exchFault_first {s : State} (code port stream src : Nat) (h : s.grp.fault = none) :
    exchFault s code port stream src = fire (s.withGrp fun g => { g with
      fault := some ⟨BitVec.ofNat 4 code, BitVec.ofNat 4 port, BitVec.ofNat 8 stream, BitVec.ofNat 12 src⟩ }) 108 := by
  rw [exchFault, h]

theorem exec_exchTimeout_waits {s : State} (hon : s.exchOn = true) (hwaits : s.exchWaits = true) :
    exec .exchTimeout s = .next (exchFault s 4 0xF 0 0) := by
  have hexec : exec .exchTimeout s = execExchTimeout s := rfl
  rw [hexec, execExchTimeout, hon, hwaits, Bool.and_self, if_pos rfl]

theorem exchOn_fault {s : State} (hon : s.exchOn = true) : s.grp.fault = none := by
  simp only [State.exchOn, Bool.and_eq_true, Option.isNone_iff_eq_none] at hon
  exact hon.1.2

/-! ## Combines (R318) -/

theorem exec_combine (level : Fin 2) (obj frame micro : Nat) (store : Ecc) (s : State) :
    exec (.combine level obj frame micro store) s = execCombine level obj frame micro store s := rfl

/-- The sum of the sources of a combine, `c` the first. -/
def combineSum (c : Contrib) (cs : List Contrib) : List A44 :=
  combineWords ((c :: cs).map fun y => y.words.map A44.ofBits) (List.replicate c.words.length {})

/-- The state once a combine has taken its sources: their credits are back, their flags are ORed, and they are gone. -/
def combineTaken (s : State) (level obj frame micro : Nat) (c : Contrib) (cs : List Contrib) : State :=
  (forAll (c :: cs) s fun s x => creditFrame s 1 x.src c.words.length).withGrp fun g =>
    { (g.orFlags s.melvor.step (anyNv (combineSum c cs)) (anySat (combineSum c cs))) with
      contribs := g.contribs.filter fun c => !c.at_ level s.melvor.step obj frame micro }

/-- The member that combines frame `j` of an object of `nelem` elements at level 2, for this member's position. -/
def Group.second (g : Group) (nelem j : Nat) : Nat := g.brd nelem j * g.bb + g.member.toNat % g.bb

section Combine
variable {s : State} {level : Fin 2} {obj frame micro : Nat} {c : Contrib} {cs : List Contrib}
  (hsrc : combineSources s level obj frame micro = some (c :: cs)) (hgrp : s.grp.grouped = true)
  (hjob : s.jobActive = true) (hrun : s.melvor.foldFrozen = false)
include hsrc hgrp hjob hrun

omit hgrp hjob hrun in
/-- The sources of a combine, as it looks for them. -/
theorem combine_sources : ((if level = 0 then (List.range s.grp.bb).map fun p => s.grp.member.toNat / s.grp.bb * s.grp.bb + p
      else (List.range s.grp.qq).map fun q => q * s.grp.bb + s.grp.member.toNat % s.grp.bb).mapM fun m =>
    (s.grp.contribs.filter fun c => c.at_ level s.melvor.step obj frame micro).find? fun c => c.src = m) = some (c :: cs) := by
  by_cases hlevel : level = 0
  · subst hlevel
    exact hsrc
  · have hlevel' : (level : Nat) ≠ 0 := fun h => hlevel (Fin.ext h)
    rw [if_neg hlevel]
    simpa only [combineSources, if_neg hlevel'] using hsrc

/-- A combine with an uncorrectable error of the exchange store (R366). -/
theorem exec_combine_ue : exec (.combine level obj frame micro .ue) s = .next (exchFault s 5 0xF 0 0) := by
  simp only [exec_combine, execCombine, combine_sources hsrc, hgrp, hjob, hrun, Bool.not_true, Bool.or_self, Bool.false_eq_true,
    if_false, if_true]

/-- The last combine of a frame: into the accumulator (R319). -/
theorem exec_combine_final {store : Ecc} (hfinal : level = 1 ∨ s.grp.qq = 1) (hstore : store ≠ .ue)
    (hnext : Sparse.get 0 s.grp.added (obj * 2 ^ 32 + frame) = micro)
    (hfree : s.accBlocked obj frame c.nelem c.words.length = false) :
    exec (.combine level obj frame micro store) s =
      .next (accumulate (combineTaken s level obj frame micro c cs) obj frame micro c.nelem c.eg (combineSum c cs)) := by
  have hlast : (decide (level = 1) || decide (s.grp.qq = 1)) = true := by simpa using hfinal
  simp only [exec_combine, execCombine, combine_sources hsrc, hgrp, hjob, hrun, hstore, hlast, hnext, hfree, ne_eq, not_true,
    decide_false, Bool.not_true, Bool.or_self, Bool.and_false, Bool.false_and, Bool.false_eq_true, if_false, if_true]
  rfl

/-- The frame that a first-level sum leaves as for level 2 (R318). -/
def secondFrame (s : State) (obj frame micro : Nat) (c : Contrib) (ws : List A44) : Frame :=
  { obj := obj, frame := frame, step := s.melvor.step, micro := micro, lidx := 0, eg := c.eg, dfmt := 0, rx := 0
    nelem := c.nelem, layerEnd := false
    elems := ((toB16 c.eg ws).flatMap fun b => (b.elems.map fun e => BitVec.ofNat 16 (toSignMag 16 e.1)))
    scales := (toB16 c.eg ws).map fun b => BitVec.ofNat 8 (unsigned 8 b.e) }

/-- A first-level combine where a second level follows: its sum goes on as a frame (R318). -/
theorem exec_combine_second {store : Ecc} (hlevel : level ≠ 1) (hboards : s.grp.qq ≠ 1) (hstore : store ≠ .ue)
    (hbusy : s.sendBusy (s.grp.second c.nelem frame) = false) (hwindow : s.windowFull 1 (s.grp.second c.nelem frame) = false) :
    exec (.combine level obj frame micro store) s = .next (sendReduce
      ((combineTaken s level obj frame micro c cs).withGrp fun g =>
        g.orFlags s.melvor.step false ((toB16 c.eg (combineSum c cs)).any Block.sat))
      1 (s.grp.second c.nelem frame) (secondFrame s obj frame micro c (combineSum c cs))) := by
  have hmore : (decide (level = 1) || decide (s.grp.qq = 1)) = false := by simp [hlevel, hboards]
  rw [Group.second] at hbusy hwindow
  simp only [exec_combine, execCombine, combine_sources hsrc, hgrp, hjob, hrun, hstore, hmore, hbusy, hwindow,
    Bool.not_true, Bool.not_false, Bool.or_self, Bool.and_false, Bool.false_and, Bool.false_eq_true, if_false]
  rfl

end Combine

/-- The state with other links and another group. -/
def State.withExch (s : State) (links : Sparse LinkPort) (g : Group) : State := { s with links := links, grp := g }

/-- What the sources' leaving changes: messages that wait on the links, the flags, and the contributions. -/
theorem combineTaken_eq (s : State) (level obj frame micro : Nat) (c : Contrib) (cs : List Contrib) :
    ∃ links g, combineTaken s level obj frame micro c cs = s.withExch links g ∧
      (∃ a b d e, g = { s.grp with
        nv0 := a, sat0 := b, nv1 := d, sat1 := e
        contribs := s.grp.contribs.filter fun c => !c.at_ level s.melvor.step obj frame micro }) ∧
      ∀ p, (Sparse.get {} links p : LinkPort).outSlots = (s.link p).outSlots := by
  obtain ⟨links, hlinks, hslots⟩ := creditFrames_onlyMsgs s (c :: cs) c.words.length
  obtain ⟨a, b, d, e, hflags⟩ := s.grp.orFlags_eq s.melvor.step (anyNv (combineSum c cs)) (anySat (combineSum c cs))
  refine ⟨links, _, ?_, ⟨a, b, d, e, rfl⟩, hslots⟩
  simp only [combineTaken, hlinks, State.withGrp, hflags, State.withExch]

/-! ## The accumulator (R319) -/

/-- The element of the accumulator that a word of the first micro-batch becomes, and whether it was clamped. -/
def accElem (w : A44) : Option Int × Bool :=
  if w.nv then (none, false) else (some (clampTo (2 ^ 31 - 1) w.v), decide (w.v ≠ clampTo (2 ^ 31 - 1) w.v))

/-- The words of a sum and their scales are written. -/
def accWrite (s : State) (obj j nelem : Nat) (eg : Int) (ws : List A44) : State :=
  bytesWrite xReq (bytesWrite xReq s ((s.obj obj).base.toNat + 8192 * j) (4 * ws.length)
      (pack 32 ((ws.map accElem).map fun e => toW32 e.1)))
    ((s.obj obj).base.toNat + cdiv nelem 64 * 256 + 32 * j) (cdiv ws.length 64)
    (pack 8 (List.replicate (cdiv ws.length 64) (unsigned 8 eg)))

/-- A function of the elements alone, mapped over the numbered list. -/
theorem map_zip_range {α β : Type} (l : List α) (f : Nat × α → β) (g : α → β) (h : ∀ y, f y = g y.2) :
    (List.zip (List.range l.length) l).map f = l.map g := by
  have hsnd : f = g ∘ Prod.snd := funext h
  rw [hsnd, ← List.map_map, List.map_snd_zip (by rw [List.length_range])]

theorem accumulate_first {s : State} {obj j nelem : Nat} (eg : Int) {ws : List A44} (hvalid : (s.obj obj).valid = true)
    (hfits : objFits (s.obj obj).bytes nelem 0 = true) (hin : 2048 * j + ws.length ≤ cdiv nelem 64 * 64)
    (hreach : s.unreached xReq true ((s.obj obj).base.toNat + 8192 * j) (4 * ws.length) = false)
    (hreach' : s.unreached xReq true ((s.obj obj).base.toNat + cdiv nelem 64 * 256 + 32 * j) (cdiv ws.length 64) = false) :
    accumulate s obj j 0 nelem eg ws = (accWrite s obj j nelem eg ws).withGrp fun g =>
      { (g.orFlags (accWrite s obj j nelem eg ws).melvor.step ((ws.map accElem).any fun e => e.1.isNone)
          ((ws.map accElem).any fun e => e.2)) with
        added := Sparse.set 0 g.added (obj * 2 ^ 32 + j) 1 } := by
  have hzero (h l : Nat) : ofW32 (bits 0 h l) = some 0 := by simp [bits, ofW32, signed]
  simp only [accumulate, hvalid, hfits, hreach, hreach', Nat.not_lt.2 hin, Bool.not_true, decide_false, Bool.or_self,
    Bool.false_eq_true, if_false, if_true]
  rw [map_zip_range ws _ accElem fun y => ?elem]
  · rfl
  case elem =>
    rw [hzero]
    unfold accElem
    cases y.2.nv
    · simp only [Int.zero_add, Bool.false_eq_true, if_false]
    · simp only [if_true]

theorem toW32_lt (v : Option Int) : toW32 v < 2 ^ 32 := by
  cases v with
  | none => decide
  | some x => simp only [toW32, unsigned]; omega

theorem accElem_fst (w : A44) : (accElem w).1 = if w.nv then none else some (clampTo (2 ^ 31 - 1) w.v) := by
  unfold accElem
  split <;> rfl

/-- Packed elements of `w` bytes read back from where they are written. -/
theorem readBytes_pack {m : Sparse Byte} {a w n : Nat} {l : List Nat} {i : Nat} (hi : i < n)
    (h : ∀ b, a ≤ b → b < a + w * n → Sparse.get 0 m b = BitVec.ofNat 8 (pack (8 * w) l / 256 ^ (b - a))) :
    readBytes m (a + w * i) w = l.getD i 0 % 2 ^ (8 * w) := by
  have hend : w * i + w ≤ w * n := by
    rw [← Nat.mul_succ]
    exact Nat.mul_le_mul_left w hi
  have h256 (k : Nat) : 256 ^ k = 2 ^ (8 * k) := (pow_mul 2 8 k).symm
  have hbyte (j : Nat) (hj : j < w) :
      Sparse.get 0 m (a + w * i + j) = BitVec.ofNat 8 (pack (8 * w) l / 256 ^ (w * i) / 256 ^ j) := by
    rw [h _ (by omega) (by omega), Nat.div_div_eq_div_mul, ← pow_add]
    congr 3
    omega
  rw [readBytes_of_ofNat m w _ _ hbyte, h256, h256, ← Nat.mul_assoc, pack_div_mod]

/-- Word `i` of the accumulator after the write of a sum and its scales, which lie above the words. -/
theorem accWrite_word {s : State} {obj j nelem : Nat} (eg : Int) {ws : List A44} (hin : 2048 * j + ws.length ≤ nelem)
    (hclean : CleanLines s ((s.obj obj).base.toNat + 8192 * j) (4 * ws.length))
    (hclean' : CleanLines s ((s.obj obj).base.toNat + cdiv nelem 64 * 256 + 32 * j) (cdiv ws.length 64)) {i : Nat}
    (hi : i < ws.length) :
    readBytes (accWrite s obj j nelem eg ws).hbm ((s.obj obj).base.toNat + 8192 * j + 4 * i) 4 =
      toW32 (accElem (ws.getD i {})).1 := by
  have hscales : 0 < cdiv ws.length 64 := by unfold cdiv; omega
  have habove : (s.obj obj).base.toNat + 8192 * j + 4 * ws.length ≤
      (s.obj obj).base.toNat + cdiv nelem 64 * 256 + 32 * j := by unfold cdiv; omega
  have hword : ((ws.map accElem).map fun e => toW32 e.1).getD i 0 = toW32 (accElem (ws.getD i {})).1 := by
    simp [List.getD_eq_getElem?_getD, hi]
  rw [readBytes_pack (w := 4) (n := ws.length) (l := (ws.map accElem).map fun e => toW32 e.1) hi fun b hlo hhi => ?byte, hword]
  · exact Nat.mod_eq_of_lt (toW32_lt _)
  case byte =>
    rw [accWrite, bytesWrite_get _ _ hscales (bytesWrite_cleanLines _ _ (by omega) hclean hclean'), if_neg (by omega),
      bytesWrite_get _ _ (by omega) hclean, if_pos ⟨hlo, hhi⟩]

theorem accWrite_grp (s : State) (obj j nelem : Nat) (eg : Int) (ws : List A44) :
    (accWrite s obj j nelem eg ws).grp = s.grp :=
  grp_of_jobPart ((bytesWrite_jobPart _ _ _ _ _).trans (bytesWrite_jobPart _ _ _ _ _))

/-! ## Frames that leave (R318, R328) -/

theorem streamSend_hbm (s : State) (st : Stream) (l : List Token) : (streamSend s st l).hbm = s.hbm := by
  unfold streamSend
  split <;> rfl

theorem streamSend_grp (s : State) (st : Stream) (l : List Token) : (streamSend s st l).grp = s.grp := by
  unfold streamSend
  split <;> rfl

theorem streamSend_outSlots {s : State} {st : Stream} {p k : Nat} (l : List Token) (h : s.streamOut st = some (p, k)) :
    ((streamSend s st l).link p).outSlots = (s.link p).outSlots ++ l.map fun d => (k, d) := by
  simp only [streamSend, h, State.modLink_eq, State.setLink_link, if_true]

/-- A frame for the combine of another member leaves on its stream. -/
theorem sendReduce_other {s : State} {dst : Nat} (level : Nat) (x : Frame) (h : dst ≠ s.grp.member.toNat) :
    sendReduce s level dst x = (streamSend s (s.streamTo dst) (linkFrame 1 x)).withGrp fun g =>
      { g with flying := g.flying ++ [(dst, 1, (linkFrame 1 x).length)] } := by
  rw [sendReduce, if_neg h, sendFrame]

/-! ## The gather (R321, R322) -/

theorem exec_gatherFrame (f : FoldPort) (src : Nat) (x : Frame) (store : Ecc) (s : State) :
    exec (.gatherFrame f src x store) s = execGatherFrame f src x store s := rfl

theorem bitVec_ne_succ (t : Word) : t ≠ t + 1 := by
  intro h
  bv_omega

section GatherFrame
variable {s : State} {f : FoldPort} (src : Nat) {x : Frame} (store : Ecc) (hgrp : s.grp.grouped = true)
  (hrun : s.melvor.foldFrozen = false) (hup : (s.link f).up = true) (hwired : (s.link f).miswired = false)
include hgrp hrun hup hwired

/-- A frame of the next step waits in the exchange store. -/
theorem exec_gatherFrame_early (hstep : x.step = s.melvor.step + 1) : exec (.gatherFrame f src x store) s =
    .next (s.withGrp fun g => { g with early := g.early ++ [(src, x)] }) := by
  simp [exec_gatherFrame, execGatherFrame, hgrp, hrun, hup, hwired, hstep]

/-- A frame of the step in progress, whose pages do not wait, is taken. -/
theorem exec_gatherFrame_now (hstep : x.step = s.melvor.step) (hjob : s.jobActive = true)
    (hfree : x.rx = 0xFF → s.frameBlocked x = false) :
    exec (.gatherFrame f src x store) s = .next (takeGather store s src x) := by
  have hwait : (decide (x.rx = 0xFF) && s.frameBlocked x) = false := by
    by_cases hrx : x.rx = 0xFF
    · rw [hfree hrx, Bool.and_false]
    · rw [decide_eq_false hrx, Bool.false_and]
  simp only [exec_gatherFrame, execGatherFrame, hgrp, hrun, hup, hwired, hstep, hjob, hwait, bitVec_ne_succ, ne_eq, not_true,
    decide_false, Bool.not_true, Bool.or_self, Bool.false_eq_true, if_false]

/-- After an exchange fault no frame of the step is taken (R24). -/
theorem exec_gatherFrame_faulted (hstep : x.step = s.melvor.step) (hfault : s.grp.fault.isSome = true) :
    exec (.gatherFrame f src x store) s = .next s := by
  have htake : takeGather store s src x = s := by rw [takeGather, if_pos hfault]
  simp only [exec_gatherFrame, execGatherFrame, hgrp, hrun, hup, hwired, hstep, htake, bitVec_ne_succ, ite_self,
    Bool.not_true, Bool.or_self, Bool.false_eq_true, if_false]

end GatherFrame

section TakeGather
variable {s : State} (src : Nat) {x : Frame} (store : Ecc)

/-- A frame whose object is not valid is not written: exchange fault 3 of its source (R327). -/
theorem takeGather_invalid (hfault : s.grp.fault = none) (hrx : x.rx = 0xFF) (hbad : (s.obj x.obj).valid = false) :
    takeGather store s src x = exchFault s 3 0xF 0 src := by
  simp [takeGather, writeFrame, hfault, hrx, hbad]

/-- The elements and scales of a B8 frame are written. -/
def b8Write (s : State) (x : Frame) : State :=
  bytesWrite xReq (bytesWrite xReq s ((s.obj x.obj).base.toNat + 2048 * x.frame) x.elems.length
      (pack 8 (x.elems.map BitVec.toNat)))
    ((s.obj x.obj).base.toNat + cdiv x.nelem 32 * 32 + 64 * x.frame) (cdiv x.elems.length 32) (leNat x.scales)

/-- A B8 frame that fits its object is written, its credit goes back, and its layer's gather goes on. -/
theorem takeGather_b8 (hfault : s.grp.fault = none) (hrx : x.rx = 0xFF) (hfmt : x.dfmt = 1)
    (hvalid : (s.obj x.obj).valid = true) (hkind : (s.obj x.obj).kind = 4 ∨ (s.obj x.obj).kind = 6)
    (hfits : objFits (s.obj x.obj).bytes x.nelem 1 = true) (hin : 2048 * x.frame + x.elems.length ≤ cdiv x.nelem 32 * 32)
    (hreach : s.unreached xReq true ((s.obj x.obj).base.toNat + 2048 * x.frame) x.elems.length = false)
    (hreach' : s.unreached xReq true ((s.obj x.obj).base.toNat + cdiv x.nelem 32 * 32 + 64 * x.frame)
      (cdiv x.elems.length 32) = false) :
    takeGather store s src x =
      frameIn store (creditFrame (b8Write s x) 2 src x.elems.length) src x.lidx x.layerEnd := by
  have hkind' : ((s.obj x.obj).kind == 4 || (s.obj x.obj).kind == 6) = true := by simpa using hkind
  have hwrite : writeFrame s src x = (b8Write s x, true) := by
    simp only [writeFrame, hfmt, hvalid, hkind', hfits, Nat.not_lt.2 hin, hreach, hreach', show ¬(1 = 2) by decide, if_false,
      Nat.one_mul, Nat.mul_one, Bool.not_true, decide_false, Bool.or_self, Bool.false_eq_true]
    rfl
  rw [takeGather, hfault, if_neg (by decide), if_pos hrx, hwrite]
  rfl

/-- Byte `i` of the elements after the write of a B8 frame, whose scales lie above them. -/
theorem b8Write_byte (hin : 2048 * x.frame + x.elems.length ≤ x.nelem)
    (hclean : CleanLines s ((s.obj x.obj).base.toNat + 2048 * x.frame) x.elems.length)
    (hclean' : CleanLines s ((s.obj x.obj).base.toNat + cdiv x.nelem 32 * 32 + 64 * x.frame) (cdiv x.elems.length 32)) {i : Nat}
    (hi : i < x.elems.length) :
    Sparse.get 0 (b8Write s x).hbm ((s.obj x.obj).base.toNat + 2048 * x.frame + i) =
      BitVec.ofNat 8 (x.elems.getD i 0).toNat := by
  have hscales : 0 < cdiv x.elems.length 32 := by unfold cdiv; omega
  have habove : (s.obj x.obj).base.toNat + 2048 * x.frame + x.elems.length ≤
      (s.obj x.obj).base.toNat + cdiv x.nelem 32 * 32 + 64 * x.frame := by unfold cdiv; omega
  have helem : (x.elems.map BitVec.toNat).getD i 0 = (x.elems.getD i 0).toNat := by
    simp [List.getD_eq_getElem?_getD, hi]
  rw [b8Write, bytesWrite_get _ _ hscales (bytesWrite_cleanLines _ _ (by omega) hclean hclean'), if_neg (by omega),
    bytesWrite_get _ _ (by omega) hclean, if_pos (by omega), Nat.add_sub_cancel_left]
  have h256 : 256 ^ i = 2 ^ (8 * i) := (pow_mul 2 8 i).symm
  apply BitVec.eq_of_toNat_eq
  rw [BitVec.toNat_ofNat, BitVec.toNat_ofNat, h256, pack_div_mod, helem]

end TakeGather

/-! ## The gather goes on (R321) -/

/-- What the delivery of frames leaves: the progress of the job and the bytes of HBM. -/
def State.settled (s : State) : Progress × Sparse Byte := (s.progress, s.hbm)

theorem ReadOnly.settled {s u : State} (h : ReadOnly s u) : u.settled = s.settled :=
  Prod.ext (progress_of_jobPart h.job) h.hbm

theorem OnlyMsgs.settled {s u : State} (h : OnlyMsgs s u) : u.settled = s.settled := by
  obtain ⟨links, rfl, -⟩ := h
  rfl

theorem exchFault_settled (s : State) (code port stream src : Nat) : (exchFault s code port stream src).settled = s.settled := by
  unfold exchFault
  split
  · rfl
  · exact (fire_readOnly _ 108).settled.trans rfl

theorem deliverLayer_settled (frames : List (Nat × Frame)) : ∀ s : State, (deliverLayer s frames).settled = s.settled := by
  induction frames with
  | nil => intro s; rfl
  | cons x r ih =>
    intro s
    rw [deliverLayer, ih, (creditFrame_onlyMsgs _ _ _ _).settled]
    split <;> rfl

theorem modDrover_settled (s : State) (d : Nat) (f : Drover → Drover) : (s.modDrover d f).settled = s.settled := rfl

theorem setLrel_settled (s : State) (l : Nat) (v : Word) : (setLrel s l v).settled = s.settled :=
  forAll_inv (fun u : State => u.settled = s.settled) _ (fun _ _ h => (modDrover_settled _ _ _).trans h) _ _ rfl

theorem gatherSettle_settled (store : Ecc) (s : State) : (gatherSettle store s).settled = s.settled := by
  refine forAll_inv (fun x : State × Bool => x.1.settled = s.settled) _ (fun x l h => ?_) _ _ rfl
  dsimp only
  split
  · exact h
  split
  · exact h
  split
  · exact h
  split
  · exact (exchFault_settled _ _ _ _ _).trans h
  · exact (setLrel_settled _ _ _).trans (Eq.trans rfl ((deliverLayer_settled _ _).trans h))

theorem frameIn_settled (store : Ecc) (s : State) (src l : Nat) (e : Bool) : (frameIn store s src l e).settled = s.settled :=
  (gatherSettle_settled store _).trans rfl

/-- While no layer has ended for every member, nothing is delivered. -/
theorem gatherSettle_waits (store : Ecc) {s : State} (h : ∀ l < s.layerCount, s.layerEnded l = false) :
    gatherSettle store s = s := by
  have hkept (n : Nat) (hn : n ≤ s.layerCount) (st : State × Bool → Nat → State × Bool)
      (hst : ∀ b, ∀ l < s.layerCount, (st (s, b) l).1 = s) : (forAll (List.range n) (s, true) st).1 = s := by
    induction n with
    | zero => rfl
    | succ n ih =>
      rw [forAll_range_succ, ← Prod.mk.eta (p := forAll (List.range n) (s, true) st), ih (by omega)]
      exact hst _ n (by omega)
  refine hkept _ (Nat.le_refl _) _ fun b l hl => ?_
  dsimp only
  rw [h l hl]
  split <;> rfl

/-- A frame for an RX queue waits for the end of its layer. -/
theorem takeGather_waits {s : State} (src : Nat) {x : Frame} (store : Ecc) (hfault : s.grp.fault = none) (hrx : x.rx ≠ 0xFF)
    (hend : x.layerEnd = false) (h : ∀ l < s.layerCount, s.layerEnded l = false) :
    takeGather store s src x = s.withGrp fun g => { g with
      early := g.early ++ [(src, x)]
      gathering := if x.lidx ∈ g.gathering then g.gathering else g.gathering ++ [x.lidx] } := by
  have hsettle := gatherSettle_waits store (s := s.withGrp fun g => { g with
    early := g.early ++ [(src, x)]
    gathering := if x.lidx ∈ g.gathering then g.gathering else g.gathering ++ [x.lidx] }) h
  simp only [takeGather, hfault, Option.isSome_none, Bool.false_eq_true, if_false, hrx, frameIn, hend, List.contains_iff_mem]
  exact hsettle

/-! ## What an arrival and a combine leave -/

section Clauses
variable {s : State}

/-- A REDUCE frame that is taken is one contribution, and its flags are ORed into those of the step (R317, R320). -/
theorem reduceFrame_contributes {f : FoldPort} (level : Fin 2) (src : Nat) {x : Frame} (hgrp : s.grp.grouped = true)
    (hrun : s.melvor.foldFrozen = false) (hup : (s.link f).up = true) (hwired : (s.link f).miswired = false)
    (hstep : x.step = s.melvor.step)
    (hfirst : ∀ c ∈ s.grp.contribs, c.at_ level s.melvor.step x.obj x.frame x.micro = true → c.src ≠ src)
    (hadded : Sparse.get 0 s.grp.added (x.obj * 2 ^ 32 + x.frame) ≤ x.micro) :
    ∃ u c, exec (.reduceFrame f level src x) s = .next u ∧ u.grp.contribs = s.grp.contribs ++ [c] ∧ c.src = src ∧
      c.at_ level s.melvor.step x.obj x.frame x.micro = true ∧ c.words = (widenFrame x).map A44.toBits ∧
      u.grp.flagsOf s.melvor.step = ((s.grp.flagsOf s.melvor.step).1 || anyNv (widenFrame x),
        (s.grp.flagsOf s.melvor.step).2 || anySat (widenFrame x)) ∧
      (u.link f).redFrames = satAdd (s.link f).redFrames 1 ∧ u.hbm = s.hbm := by
  rw [← hstep] at hfirst ⊢
  refine ⟨_, contribOf level src x, (exec_reduceFrame_taken level src hgrp hrun hup hwired hstep).trans
    (congrArg _ (addContrib_new hfirst hadded)), rfl, rfl, contribOf_at level src x, rfl,
    s.grp.orFlags_flagsOf _ _ _, ?_, rfl⟩
  rw [State.withGrp_link, State.modLink_eq, State.setLink_link, if_pos rfl]

/-- The last combine of a frame's first micro-batch: the sources leave the store, and the clamped sum is in the accumulator
(R318, R319). -/
theorem combine_accumulates {level : Fin 2} {obj frame : Nat} {c : Contrib} {cs : List Contrib} {store : Ecc}
    (hsrc : combineSources s level obj frame 0 = some (c :: cs)) (hgrp : s.grp.grouped = true)
    (hjob : s.jobActive = true) (hrun : s.melvor.foldFrozen = false) (hfinal : level = 1 ∨ s.grp.qq = 1)
    (hstore : store ≠ .ue) (hnext : Sparse.get 0 s.grp.added (obj * 2 ^ 32 + frame) = 0)
    (hfree : s.accBlocked obj frame c.nelem c.words.length = false) (hvalid : (s.obj obj).valid = true)
    (hfits : objFits (s.obj obj).bytes c.nelem 0 = true) (hlen : (combineSum c cs).length = c.words.length)
    (hin : 2048 * frame + c.words.length ≤ c.nelem)
    (hreach : s.unreached xReq true ((s.obj obj).base.toNat + 8192 * frame) (4 * c.words.length) = false)
    (hreach' : s.unreached xReq true ((s.obj obj).base.toNat + cdiv c.nelem 64 * 256 + 32 * frame)
      (cdiv c.words.length 64) = false)
    (hclean : CleanLines s ((s.obj obj).base.toNat + 8192 * frame) (4 * c.words.length))
    (hclean' : CleanLines s ((s.obj obj).base.toNat + cdiv c.nelem 64 * 256 + 32 * frame) (cdiv c.words.length 64)) :
    ∃ u, exec (.combine level obj frame 0 store) s = .next u ∧
      u.grp.contribs = s.grp.contribs.filter (fun c => !c.at_ level s.melvor.step obj frame 0) ∧
      Sparse.get 0 u.grp.added (obj * 2 ^ 32 + frame) = 1 ∧
      ∀ i < c.words.length, readBytes u.hbm ((s.obj obj).base.toNat + 8192 * frame + 4 * i) 4 =
        toW32 (accElem ((combineSum c cs).getD i {})).1 := by
  rw [exec_combine_final hsrc hgrp hjob hrun hfinal hstore hnext hfree]
  obtain ⟨links, g, htaken, ⟨a, b, d, e, hg⟩, -⟩ := combineTaken_eq s level obj frame 0 c cs
  rw [← hlen] at hin hreach hreach' hclean hclean' ⊢
  have hroom : 2048 * frame + (combineSum c cs).length ≤ cdiv c.nelem 64 * 64 := by unfold cdiv; omega
  rw [htaken, accumulate_first (s := s.withExch links g) c.eg hvalid hfits hroom hreach hreach']
  refine ⟨_, rfl, ?_, ?_, fun i hi => accWrite_word (s := s.withExch links g) c.eg hin hclean hclean' hi⟩
  · rw [State.withGrp_grp, accWrite_grp]
    obtain ⟨a', b', d', e', hflags⟩ := Group.orFlags_eq _ _ _ _
    rw [hflags, hg]
    rfl
  · rw [State.withGrp_grp, Sparse.get_set, if_pos rfl]

/-- A first-level combine where a second level follows: the sources leave the store, and the sum goes on as a frame (R318). -/
theorem combine_sends {level : Fin 2} {obj frame : Nat} {c : Contrib} {cs : List Contrib} {store : Ecc}
    (hsrc : combineSources s level obj frame 0 = some (c :: cs)) (hgrp : s.grp.grouped = true)
    (hjob : s.jobActive = true) (hrun : s.melvor.foldFrozen = false) (hlevel : level = 0) (hboards : s.grp.qq ≠ 1)
    (hother : s.grp.second c.nelem frame ≠ s.grp.member.toNat) (hbusy : s.sendBusy (s.grp.second c.nelem frame) = false)
    (hwindow : s.windowFull 1 (s.grp.second c.nelem frame) = false) (hstore : store ≠ .ue) :
    ∃ u y, exec (.combine level obj frame 0 store) s = .next u ∧
      u.grp.contribs = s.grp.contribs.filter (fun c => !c.at_ level s.melvor.step obj frame 0) ∧ u.hbm = s.hbm ∧
      y.obj = obj ∧ y.frame = frame ∧ y.eg = c.eg ∧ y.nelem = c.nelem ∧
      ∀ p k, s.streamOut (s.streamTo (s.grp.second c.nelem frame)) = some (p, k) →
        (u.link p).outSlots = (s.link p).outSlots ++ (linkFrame 1 y).map fun d => (k, d) := by
  have hfirst : level ≠ 1 := by rw [hlevel]; decide
  rw [exec_combine_second hsrc hgrp hjob hrun hfirst hboards hstore hbusy hwindow]
  obtain ⟨links, g, htaken, ⟨a, b, d, e, hg⟩, hslots⟩ := combineTaken_eq s level obj frame 0 c cs
  obtain ⟨a', b', d', e', hflags⟩ := g.orFlags_eq s.melvor.step false ((toB16 c.eg (combineSum c cs)).any Block.sat)
  have hother' : s.grp.second c.nelem frame ≠ ((s.withExch links g).withGrp fun g =>
      g.orFlags s.melvor.step false ((toB16 c.eg (combineSum c cs)).any Block.sat)).grp.member.toNat := by
    rw [State.withGrp_grp, State.withExch, hflags, hg]
    exact hother
  rw [htaken, sendReduce_other 1 _ hother']
  refine ⟨_, secondFrame s obj frame 0 c (combineSum c cs), rfl, ?_, ?_, rfl, rfl, rfl, rfl, fun p k hout => ?_⟩
  · rw [State.withGrp_grp, streamSend_grp, State.withGrp_grp, State.withExch, hflags, hg]
  · rw [State.withGrp_hbm, streamSend_hbm]
    rfl
  · rw [State.withGrp_link, streamSend_outSlots (p := p) (k := k)]
    · exact congrArg (· ++ _) (hslots p)
    · rw [State.withGrp, State.withExch, hflags, hg]
      exact hout

/-- A B8 frame that is taken is in the bytes of its object (R321). -/
theorem takeGather_writes (src : Nat) {x : Frame} (store : Ecc) (hfault : s.grp.fault = none) (hrx : x.rx = 0xFF)
    (hfmt : x.dfmt = 1) (hvalid : (s.obj x.obj).valid = true) (hkind : (s.obj x.obj).kind = 4 ∨ (s.obj x.obj).kind = 6)
    (hfits : objFits (s.obj x.obj).bytes x.nelem 1 = true) (hin : 2048 * x.frame + x.elems.length ≤ x.nelem)
    (hreach : s.unreached xReq true ((s.obj x.obj).base.toNat + 2048 * x.frame) x.elems.length = false)
    (hreach' : s.unreached xReq true ((s.obj x.obj).base.toNat + cdiv x.nelem 32 * 32 + 64 * x.frame)
      (cdiv x.elems.length 32) = false)
    (hclean : CleanLines s ((s.obj x.obj).base.toNat + 2048 * x.frame) x.elems.length)
    (hclean' : CleanLines s ((s.obj x.obj).base.toNat + cdiv x.nelem 32 * 32 + 64 * x.frame) (cdiv x.elems.length 32)) {i : Nat}
    (hi : i < x.elems.length) :
    Sparse.get 0 (takeGather store s src x).hbm ((s.obj x.obj).base.toNat + 2048 * x.frame + i) =
      BitVec.ofNat 8 (x.elems.getD i 0).toNat := by
  have hroom : 2048 * x.frame + x.elems.length ≤ cdiv x.nelem 32 * 32 := by unfold cdiv; omega
  have hsettled : (frameIn store (creditFrame (b8Write s x) 2 src x.elems.length) src x.lidx x.layerEnd).hbm =
      (b8Write s x).hbm :=
    congrArg Prod.snd ((frameIn_settled _ _ _ _ _).trans (creditFrame_onlyMsgs _ _ _ _).settled)
  rw [takeGather_b8 src store hfault hrx hfmt hvalid hkind hfits hroom hreach hreach', hsettled,
    b8Write_byte hin hclean hclean' hi]

end Clauses

end Sys2Proof.Machine

open Sys2Proof Sys2Proof.Machine

/-- Settles O43: a frame and a combine change the group by fields, the credits only the messages that wait; what is written
reads back, as the scales lie above the elements and the gather's deliveries leave HBM. -/
theorem exchangeData : Obligations.ExchangeData := by
  unfold Obligations.ExchangeData
  intro s f level src x g t key o
  refine ⟨fun hgrp hrun hup hwired hstep hfirst hadded =>
      reduceFrame_contributes level src hgrp hrun hup hwired hstep hfirst hadded,
    fun c cs hsrc hgrp hjob hrun => ⟨fun hfault => ?combineFault, ?combineFinal, ?combineSecond⟩,
    fun store hgrp hrun hup hwired => ⟨?gatherFaulted, ?gatherInvalid, ?gatherEarly, ?gatherWaits, ?gatherWrites⟩,
    fun hon hwaits => ?timeout⟩
  case combineFault => exact (exec_combine_ue hsrc hgrp hjob hrun).trans (congrArg _ (exchFault_first _ _ _ _ hfault))
  case combineFinal =>
    intro hfinal hnext hfree hvalid hfits hreach hreach' hclean hclean' hin hlen store hstore
    obtain ⟨u, hexec, hleft, hadded, hwords⟩ := combine_accumulates hsrc hgrp hjob hrun hfinal hstore hnext hfree hvalid hfits
      hlen hin hreach hreach' hclean hclean'
    exact ⟨u, hexec, hleft, hadded, fun i hi => (hwords i hi).trans (congrArg toW32 (accElem_fst _))⟩
  case combineSecond =>
    intro hlevel hboards hother hbusy hwindow store hstore
    exact combine_sends hsrc hgrp hjob hrun hlevel hboards hother hbusy hwindow hstore
  case gatherFaulted =>
    intro hstep hfault
    exact exec_gatherFrame_faulted src store hgrp hrun hup hwired hstep hfault
  case gatherInvalid =>
    intro hstep hfault hjob hrx hfree hbad
    rw [exec_gatherFrame_now src store hgrp hrun hup hwired hstep hjob fun _ => hfree,
      takeGather_invalid src store hfault hrx hbad]
    exact congrArg _ (exchFault_first _ _ _ _ hfault)
  case gatherEarly =>
    intro hstep
    exact exec_gatherFrame_early src store hgrp hrun hup hwired hstep
  case gatherWaits =>
    intro hstep hfault hjob hrx hend hopen
    rw [exec_gatherFrame_now src store hgrp hrun hup hwired hstep hjob fun h => absurd h hrx,
      takeGather_waits src store hfault hrx hend hopen]
    rfl
  case gatherWrites =>
    intro hstep hfault hjob hrx hfmt hfree hvalid hkind hfits hin a sc k hreach hreach' hclean hclean'
    exact ⟨_, exec_gatherFrame_now src store hgrp hrun hup hwired hstep hjob fun _ => hfree, fun i hi =>
      takeGather_writes src store hfault hrx hfmt hvalid hkind hfits hin hreach hreach' hclean hclean' hi⟩
  case timeout => exact (exec_exchTimeout_waits hon hwaits).trans (congrArg _ (exchFault_first _ _ _ _ (exchOn_fault hon)))
end

section
/-! SUPPORT. Agreement on the flags of a step (spec 14; R320, R323): what a member's own flags and those of its flock add,
and what the agreed flags do to the loss scale and to the release tables. -/

namespace Sys2Proof.Machine

/-! ## Messages and tile errors leave the group and the Melvor complex -/

/-- The group and the Melvor complex. -/
def State.agreement (s : State) : Group × Melvor := (s.grp, s.melvor)

theorem grp_of_agreement {s u : State} (h : u.agreement = s.agreement) : u.grp = s.grp := congrArg Prod.fst h
theorem melvor_of_agreement {s u : State} (h : u.agreement = s.agreement) : u.melvor = s.melvor := congrArg Prod.snd h

theorem fireIf_agreement (c : Bool) (s : State) (n : Nat) : (fireIf c s n).agreement = s.agreement := by cases c <;> rfl

theorem queueMsg_agreement (s : State) (x : BitVec 128) (m : Nat) : (queueMsg s x m).agreement = s.agreement := by
  unfold queueMsg
  split <;> rfl

theorem sendUp_agreement (s : State) (x : BitVec 128) : (sendUp s x).agreement = s.agreement := by
  unfold sendUp
  dsimp only
  split
  · rfl
  · exact queueMsg_agreement _ _ _

theorem sendDown_agreement (s : State) (x : BitVec 128) : (sendDown s x).agreement = s.agreement := by
  unfold sendDown
  dsimp only
  split
  · rfl
  · exact forAll_inv (fun u : State => u.agreement = s.agreement) _ (fun _ _ h => (queueMsg_agreement _ _ _).trans h) _ _ rfl

theorem markRetire_agreement (s : State) (t : Nat) : (markRetire s t).agreement = s.agreement := by
  unfold markRetire
  split
  · rfl
  split
  · rfl
  split
  · exact fireIf_agreement _ _ _
  · exact fireIf_agreement _ _ _

theorem checkTile_agreement (s : State) (t : Nat) : (checkTile s t).agreement = s.agreement := by
  unfold checkTile
  split
  · exact markRetire_agreement s t
  · rfl

/-- The reads of the job records charge tile errors, and leave the flags. -/
theorem recordRead_agreement (s : State) (t : Word) : (recordRead s t).agreement = s.agreement := by
  refine forAll_inv (fun u : State => u.agreement = s.agreement) _ (fun u k h => ?_) _ _ rfl
  dsimp only
  split
  · exact h
  · exact (checkTile_agreement _ _).trans h
  · exact (checkTile_agreement _ _).trans h

/-! ## Members are covered -/

theorem coverAgree_agreement (s : State) (nv sat : Bool) (n : Nat) : (coverAgree s nv sat n).agreement =
    ({ s.grp with gnv := s.grp.gnv || nv, gsat := s.grp.gsat || sat, covered := s.grp.covered + n }, s.melvor) := by
  unfold coverAgree
  dsimp only
  split
  · rfl
  split
  · exact sendDown_agreement _ _
  · exact sendUp_agreement _ _

theorem coverDone_agreement (s : State) (n : Nat) : (coverDone s n).agreement =
    ({ s.grp with doneCovered := s.grp.doneCovered + n }, s.melvor) := by
  unfold coverDone
  dsimp only
  split
  · rfl
  split
  · exact sendDown_agreement _ _
  · exact sendUp_agreement _ _

section Rows
variable {s : State} {j : Job}

/-- A member whose reduction is complete, each of its REDUCE queues with its FINAL run, counts itself (R323). -/
theorem exec_agreeUpSend_due (hjob : s.melvor.job = some j) (hfw : s.fwOn = true) (hon : s.exchOn = true)
    (hsent : s.grp.agreeSent = false) (hfinal : ∀ q ∈ s.txQueues 1, q.final = s.melvor.step.toNat + 1)
    (hred : s.reduced j = true) :
    exec .agreeUpSend s = .next (coverAgree ((recordRead s s.melvor.step).withGrp fun g =>
      { g with agreeSent := true, agreeUs := 0 }) (s.gradFlags s.melvor.step).1 (s.gradFlags s.melvor.step).2 1) := by
  have hexec : exec .agreeUpSend s = execAgreeUpSend s := rfl
  have hall : ((s.txQueues 1).any fun q => q.final ≠ s.melvor.step.toNat + 1) = false := by
    rw [List.any_eq_false]
    intro q hq
    simp [hfinal q hq]
  simp only [hexec, execAgreeUpSend, hjob, hfw, hon, hsent, hall, hred, Bool.not_true, Bool.or_self, Bool.false_eq_true, if_false]

theorem exec_agreeUp_taken (nv sat : Bool) {n : Nat} (hon : s.exchOn = true) (hbell : s.grp.bellwether = true)
    (hroom : s.grp.covered + n ≤ s.grp.gathers) :
    exec (.agreeUp s.melvor.step nv sat n) s = .next (coverAgree s nv sat n) := by
  have hexec : exec (.agreeUp s.melvor.step nv sat n) s = execAgreeUp s.melvor.step nv sat n s := rfl
  simp [hexec, execAgreeUp, hon, hbell, hroom]

/-- A member that is done with the step counts itself (R324). -/
theorem exec_doneSend_due (hjob : s.melvor.job = some j) (hfw : s.fwOn = true) (hon : s.exchOn = true)
    (hagreed : s.grp.agreed = true) (hsent : s.grp.doneSent = false) (hdone : s.stepDone j = true) :
    exec .doneSend s = .next (coverDone (s.withGrp fun g => { g with doneSent := true }) 1) := by
  have hexec : exec .doneSend s = execDoneSend s := rfl
  simp only [hexec, execDoneSend, hjob, hfw, hon, hagreed, hsent, hdone, Bool.not_true, Bool.or_self, Bool.false_eq_true, if_false]

theorem exec_doneMsg_taken {n : Nat} (hon : s.exchOn = true) (hbell : s.grp.bellwether = true)
    (hroom : s.grp.doneCovered + n ≤ s.grp.gathers) :
    exec (.doneMsg s.melvor.step n) s = .next (coverDone s n) := by
  have hexec : exec (.doneMsg s.melvor.step n) s = execDoneMsg s.melvor.step n s := rfl
  simp [hexec, execDoneMsg, hon, hbell, hroom]

/-- AGREE_DOWN of the step in progress: the top applies what it has gathered, another member what it receives. -/
theorem exec_agreeDown_due (nv sat : Bool) (hjob : s.melvor.job = some j) (hfw : s.fwOn = true) (hon : s.exchOn = true)
    (htop : s.grp.top = true → s.grp.covered ≥ s.grp.modules.toNat) (hsent : s.grp.agreeSent = true)
    (hagreed : s.grp.agreed = false) (hfree : s.groupsBlocked j = false) :
    ∃ u, u.agreement = s.agreement ∧ exec (.agreeDown s.melvor.step nv sat) s =
      .next (applyAgree u j (if s.grp.top then s.grp.gnv else nv) (if s.grp.top then s.grp.gsat else sat)) := by
  have hexec : exec (.agreeDown s.melvor.step nv sat) s = execAgreeDown s.melvor.step nv sat s := rfl
  rw [hexec]
  cases ht : s.grp.top with
  | true =>
    refine ⟨s, rfl, ?_⟩
    have hcovered : ¬s.grp.covered < s.grp.modules.toNat := Nat.not_lt.2 (htop ht)
    simp [execAgreeDown, hjob, hfw, hon, ht, hcovered, hsent, hagreed, hfree]
  | false =>
    refine ⟨_, sendDown_agreement s (ctlMsg 0x12 (b2n nv + 2 * b2n sat) 0 s.melvor.step.toNat), ?_⟩
    simp [execAgreeDown, hjob, hfw, hon, ht, hsent, hagreed, hfree]

end Rows

/-! ## The release tables (R252) -/

/-- The same change of the first `n` drovers. -/
theorem forAll_modDrover_drover (f : Drover → Drover) (s : State) (d n : Nat) :
    (forAll (List.range n) s fun s d => s.modDrover d f).drover d = if d < n then f (s.drover d) else s.drover d := by
  induction n generalizing d with
  | zero => rfl
  | succ n ih =>
    rw [forAll_range_succ, State.modDrover_eq, State.setDrover_drover]
    by_cases hd : d = n
    · rw [if_pos hd, if_pos (by omega), ih n, if_neg (by omega), hd]
    · rw [if_neg hd, ih d]
      by_cases hlt : d < n
      · rw [if_pos hlt, if_pos (by omega)]
      · rw [if_neg hlt, if_neg (by omega)]

theorem setGrel_grelAt {s : State} {d : Nat} (hd : d < 16) (g k : Nat) (v : Word) :
    ((setGrel s g v).drover d).grelAt k = if k = g then v else (s.drover d).grelAt k := by
  rw [setGrel, forAll_modDrover_drover, if_pos hd]
  exact Sparse.get_set _ _ _ _ _

theorem setLrel_grelAt {s : State} {d : Nat} (l k : Nat) (v : Word) :
    ((setLrel s l v).drover d).grelAt k = (s.drover d).grelAt k := by
  rw [setLrel, forAll_modDrover_drover]
  split <;> rfl

theorem modDrover_agreement (s : State) (d : Nat) (f : Drover → Drover) : (s.modDrover d f).agreement = s.agreement := rfl

theorem setGrel_agreement (s : State) (g : Nat) (v : Word) : (setGrel s g v).agreement = s.agreement :=
  forAll_inv (fun u : State => u.agreement = s.agreement) _ (fun _ _ h => (modDrover_agreement _ _ _).trans h) _ _ rfl

theorem setLrel_agreement (s : State) (l : Nat) (v : Word) : (setLrel s l v).agreement = s.agreement :=
  forAll_inv (fun u : State => u.agreement = s.agreement) _ (fun _ _ h => (modDrover_agreement _ _ _).trans h) _ _ rfl

/-! ## The agreed flags (R109, R111, R210, R323) -/

theorem modTile_agreement (s : State) (t : Nat) (f : Tile → Tile) : (s.modTile t f).agreement = s.agreement := rfl

theorem writeRecords_agreement (s : State) (o n v : Nat) : (writeRecords s o n v).agreement = s.agreement :=
  forAll_inv (fun u : State => u.agreement = s.agreement) _ (fun _ _ h => (modTile_agreement _ _ _).trans h) _ _ rfl

/-- The group step record of group `g` is built and written, and the group is released. -/
def releaseGroup (j : Job) (t : Word) (lse : Nat) (skip : Bool) (s : State) (g : Nat) : State :=
  setGrel (melvorWrite (melvorWrite (groupRead s j g) (j.groupTable.toNat + 64 * g) 16
      (groupStep s g t.toNat lse skip (s.groupEntry j.groupTable.toNat g)).1) (j.gsrArea.toNat + 64 * g) 64
    (groupStep s g t.toNat lse skip (s.groupEntry j.groupTable.toNat g)).2) g t

/-- The agreement stands in the group and in the loss scale, and the first `n` groups are released for step `t`. -/
structure Released (g : Group) (t : Word) (loss : LossState) (n : Nat) (u : State) : Prop where
  grp : u.grp = g
  step : u.melvor.step = t
  loss : u.melvor.loss = loss
  grel : ∀ d < 16, ∀ k < n, (u.drover d).grelAt k = t

section Released
variable {g : Group} {t : Word} {loss : LossState} {n : Nat} {u : State}

theorem Released.of_jobPart {w : State} (h : Released g t loss n u) (hw : w.jobPart = u.jobPart) : Released g t loss n w where
  grp := (grp_of_jobPart hw).trans h.grp
  step := (congrArg (fun x : JobPart => x.melvor.step) hw).trans h.step
  loss := (congrArg (fun x : JobPart => x.melvor.loss) hw).trans h.loss
  grel d hd k hk := (congrArg (fun x : JobPart => (x.drover d).grelAt k) hw).trans (h.grel d hd k hk)

theorem released_setGrel (h : Released g t loss n u) : Released g t loss (n + 1) (setGrel u n t) := by
  have hkept := setGrel_agreement u n t
  refine ⟨(grp_of_agreement hkept).trans h.grp, ?_, ?_, fun d hd k hk => ?_⟩
  · rw [melvor_of_agreement hkept, h.step]
  · rw [melvor_of_agreement hkept, h.loss]
  · rw [setGrel_grelAt hd]
    split
    · rfl
    · exact h.grel d hd k (by omega)

theorem released_setLrel (h : Released g t loss n u) (l : Nat) (v : Word) : Released g t loss n (setLrel u l v) := by
  have hkept := setLrel_agreement u l v
  refine ⟨(grp_of_agreement hkept).trans h.grp, ?_, ?_, fun d hd k hk => (setLrel_grelAt l k v).trans (h.grel d hd k hk)⟩
  · rw [melvor_of_agreement hkept, h.step]
  · rw [melvor_of_agreement hkept, h.loss]

/-- The tables that are read and the records that are written leave the releases; then one more group is released. -/
theorem released_releaseGroup (h : Released g t loss n u) (j : Job) (lse : Nat) (skip : Bool) :
    Released g t loss (n + 1) (releaseGroup j t lse skip u n) := by
  have hread : (groupRead u j n).jobPart = u.jobPart := ((tableRead_readOnly u _ _).trans (tableRead_readOnly _ _ _)).job
  exact released_setGrel (h.of_jobPart ((melvorWrite_jobPart _ _ _ _).trans ((melvorWrite_jobPart _ _ _ _).trans hread)))

theorem released_releaseGroups (h : Released g t loss 0 u) (j : Job) (lse : Nat) (skip : Bool) (m : Nat) :
    Released g t loss m (forAll (List.range m) u (releaseGroup j t lse skip)) := by
  induction m with
  | zero => exact h
  | succ m ih =>
    rw [forAll_range_succ]
    exact released_releaseGroup ih j lse skip

end Released

/-- The agreement as it is noted before the groups are released: in the loss scale, in the job records and in the group. -/
def noteAgree (s : State) (j : Job) (nv sat : Bool) : State :=
  let loss := s.melvor.loss.next j (nv || sat)
  let odd := (s.melvor.step.toNat + 1) % 2
  (writeRecords (writeRecords (s.withMelvor fun m => { m with loss := loss }) (16 + 4 * odd) 4 loss.lse) (24 + 4 * odd) 4 0).withGrp
    fun g => { (g.clearFlags (s.melvor.step + 1)) with
      agreed := true, gnv := nv, gsat := sat, agreeLastUs := BitVec.ofNat 32 (min g.agreeUs (2 ^ 32 - 1)) }

theorem noteAgree_melvor (s : State) (j : Job) (nv sat : Bool) :
    (noteAgree s j nv sat).melvor = { s.melvor with loss := s.melvor.loss.next j (nv || sat) } := by
  rw [noteAgree, State.withGrp_melvor, melvor_of_agreement (writeRecords_agreement _ _ _ _),
    melvor_of_agreement (writeRecords_agreement _ _ _ _), State.withMelvor_melvor]

theorem noteAgree_agreed (s : State) (j : Job) (nv sat : Bool) : (noteAgree s j nv sat).grp.agreed = true := rfl

/-- The agreed flags set the loss scale by its rule, and release every parameter group in every drover. -/
theorem applyAgree_released (s : State) (j : Job) (nv sat : Bool) :
    Released (noteAgree s j nv sat).grp s.melvor.step (s.melvor.loss.next j (nv || sat)) j.groups (applyAgree s j nv sat) := by
  have hnoted : Released (noteAgree s j nv sat).grp s.melvor.step (s.melvor.loss.next j (nv || sat)) 0 (noteAgree s j nv sat) :=
    ⟨rfl, by rw [noteAgree_melvor], by rw [noteAgree_melvor], fun _ _ k hk => absurd hk (Nat.not_lt_zero k)⟩
  have hgroups := released_releaseGroups hnoted j s.melvor.loss.lse (j.skips (nv || sat)) j.groups
  have hdone := hgroups.of_jobPart (w := (forAll (List.range j.groups) (noteAgree s j nv sat)
    (releaseGroup j s.melvor.step s.melvor.loss.lse (j.skips (nv || sat)))).withRel fun r => { r with grelDone := true }) rfl
  refine forAll_inv (Released _ _ _ _) _ (fun u l h => ?_) _ _ hdone
  split
  · exact released_setLrel h _ _
  · exact h

end Sys2Proof.Machine
end

section
/-! SUPPORT. The commit of a step (spec 14, 13, 17; R26, R301, R324, R326, R375): what mailbox traffic leaves of the progress
of a job, and how far the job has come once the step is committed. -/

namespace Sys2Proof.Machine

/-! ## Mailbox traffic leaves the progress of the job -/

theorem ReadOnly.progress {s u : State} (h : ReadOnly s u) : u.progress = s.progress := progress_of_jobPart h.job

theorem setBox_progress (s : State) (p : Nat) (b : Mailbox) : (s.setBox p b).progress = s.progress := rfl
theorem emit_progress (s : State) (o : Out) : (s.emit o).progress = s.progress := rfl
theorem fire_progress (s : State) (n : Nat) : (fire s n).progress = s.progress := (fire_readOnly s n).progress
theorem fireIf_progress (c : Bool) (s : State) (n : Nat) : (fireIf c s n).progress = s.progress := (fireIf_readOnly c s n).progress

theorem putEntry_progress (s : State) (p : Port) (op status tag cmdSeq detail result : Nat) (noint : Bool) :
    (putEntry s p op status tag cmdSeq detail result noint).progress = s.progress := by
  unfold putEntry
  dsimp only
  split
  · rfl
  split
  · exact setBox_progress _ _ _
  · rw [fireIf_progress, emit_progress, setBox_progress]

theorem flushEvents_progress (p : Port) (n : Nat) : ∀ s : State, (flushEvents p n s).progress = s.progress := by
  induction n with
  | zero => intro s; rfl
  | succ n ih =>
    intro s
    rw [flushEvents]
    split
    · rfl
    · dsimp only
      split
      · rfl
      · rw [ih, putEntry_progress, setBox_progress]

theorem boxSettle_progress (s : State) (p : Port) : (boxSettle s p).progress = s.progress := by
  rw [boxSettle, fireIf_progress, setBox_progress, flushEvents_progress]

theorem portEvt_progress (s : State) (p : Port) (code : BitVec 16) (n : Nat) : (portEvt s p code n).progress = s.progress := by
  unfold portEvt
  dsimp only
  split
  · exact setBox_progress _ _ _
  split
  · exact setBox_progress _ _ _
  · rw [boxSettle_progress, setBox_progress]

/-- Events that the firmware holds are no part of the progress. -/
theorem withMelvor_progress (s : State) (f : Melvor → Melvor) (hstep : (f s.melvor).step = s.melvor.step)
    (hshown : (f s.melvor).shown = s.melvor.shown) (hstate : (f s.melvor).jobState = s.melvor.jobState)
    (hjob : (f s.melvor).job = s.melvor.job) : (s.withMelvor f).progress = s.progress := by
  simp only [State.progress, State.jobPart, JobPart.progress, State.withMelvor_melvor, State.withMelvor_rel, State.withMelvor_grp,
    hstep, hshown, hstate, hjob]

theorem postEvent_progress (s : State) (code : BitVec 16) : (postEvent s code).progress = s.progress := by
  have hsource : (if eventWrites code && s.resultsWait then
      s.withMelvor fun m => { m with heldSrcs := m.heldSrcs ++ [eventSource code] }
    else fire s (eventSource code)).progress = s.progress := by
    split
    · exact withMelvor_progress _ _ rfl rfl rfl rfl
    · exact fire_progress _ _
  unfold postEvent
  dsimp only
  generalize (if eventWrites code && s.resultsWait then
      s.withMelvor fun m => { m with heldSrcs := m.heldSrcs ++ [eventSource code] }
    else fire s (eventSource code)) = u at hsource ⊢
  split
  · rfl
  split
  · refine forAll_inv (fun u : State => u.progress = s.progress) _ (fun u p h => ?_) _ _ hsource
    split
    · exact (portEvt_progress _ _ _ _).trans h
    · exact h
  split
  · exact (withMelvor_progress _ _ rfl rfl rfl rfl).trans hsource
  · exact (portEvt_progress _ _ _ _).trans hsource

theorem postEventIf_progress (c : Prop) [Decidable c] (s : State) (code : BitVec 16) :
    (if c then postEvent s code else s).progress = s.progress := by
  split
  · exact postEvent_progress s code
  · rfl

theorem complete_progress (s : State) (p : Port) (e : Line) (status detail result : Nat) :
    (complete s p e status detail result).progress = s.progress := by
  unfold complete
  dsimp only
  rw [boxSettle_progress]
  split
  · exact (setBox_progress _ _ _).trans (withMelvor_progress _ _ rfl rfl rfl rfl)
  · exact (putEntry_progress _ _ _ _ _ _ _ _ _).trans (withMelvor_progress _ _ rfl rfl rfl rfl)

theorem completeJob_progress (s : State) (p : Port) (e : Line) : (completeJob s p e).progress = s.progress := by
  unfold completeJob
  split
  · exact withMelvor_progress _ _ rfl rfl rfl rfl
  · exact complete_progress _ _ _ _ _ _

theorem completeAll_progress (s : State) (op status detail : Nat) : (completeAll s op status detail).progress = s.progress := by
  refine forAll_inv (fun u : State => u.progress = s.progress) _ (fun u a h => ?_) _ _ rfl
  split
  · exact (completeJob_progress _ _ _).trans h
  · exact (complete_progress _ _ _ _ _ _).trans h

theorem holdShown_progress (s : State) (st : BitVec 3) (t : Word) : (holdShown s st t).progress = s.progress := by
  unfold holdShown
  split
  · exact withMelvor_progress _ _ rfl rfl rfl rfl
  · rfl

theorem modLink_progress (s : State) (f : Nat) (g : LinkPort → LinkPort) : (s.modLink f g).progress = s.progress := rfl

theorem dropRoutes_progress (s : State) : (dropRoutes s).progress = s.progress :=
  forAll_inv (fun u : State => u.progress = s.progress) _ (fun _ _ h => (modLink_progress _ _ _).trans h) _ _ rfl

/-! ## Snapshots -/

theorem withSnap_progress (s : State) (f : Snapshot → Snapshot) : (s.withSnap f).progress = s.progress :=
  (withSnap_readOnly s f).progress

theorem startSnapshot_progress (s : State) (t : Word) : (startSnapshot s t).progress = s.progress := by
  unfold startSnapshot
  dsimp only
  split
  · rfl
  split
  · exact ((snapEnd_readOnly _).progress).trans (withSnap_progress s _)
  · exact withSnap_progress s _

theorem snapshotDue_progress (s : State) (t : Word) : (snapshotDue s t).progress = s.progress := by
  unfold snapshotDue
  split
  · exact (fireIf_progress _ _ _).trans ((withSnap_progress _ _).trans (withSnap_progress s _))
  · exact startSnapshot_progress s t

/-! ## The step begins, the job ends -/

/-- The progress as step `t` begins: an empty journal, and nothing sent. -/
def Progress.begun (x : Progress) (t : Word) : Progress :=
  { x with step := t, jindex := [], jstep := t, agreeSent := false, doneSent := false }

theorem beginStep_progress (s : State) : (beginStep s).progress = s.progress.begun s.progress.step := by
  have hlost : (fireIf (s.journal.isNone && decide (s.rel.jstate ≠ 2)) s 146).progress = s.progress := fireIf_progress _ _ _
  unfold beginStep
  dsimp only
  generalize fireIf (s.journal.isNone && decide (s.rel.jstate ≠ 2)) s 146 = u at hlost ⊢
  rw [← hlost]
  split
  · next j _ =>
    rw [← (tableRead_readOnly u j.groupTable.toNat (64 * j.groups)).progress]
    rfl
  · rfl

/-- A job that has ended is at state NONE, and STEP stays. -/
theorem jobToNone_progress (s : State) : (jobToNone s).progress.jobState = 0 ∧ (jobToNone s).progress.job = none ∧
    (jobToNone s).progress.shown = s.progress.shown := by
  have hheld : (holdShown s s.melvor.jobState s.melvor.shown).progress.shown = s.progress.shown :=
    congrArg Progress.shown (holdShown_progress s s.melvor.jobState s.melvor.shown)
  have hshown : ((holdShown s s.melvor.jobState s.melvor.shown).withMelvor fun m => { m with jobState := 0 }).progress.shown =
      s.progress.shown := hheld
  have hstate : ((holdShown s s.melvor.jobState s.melvor.shown).withMelvor fun m => { m with jobState := 0 }).progress.jobState =
      0 := rfl
  unfold jobToNone
  dsimp only
  generalize (holdShown s s.melvor.jobState s.melvor.shown).withMelvor (fun m => { m with jobState := 0 }) = u at hshown hstate ⊢
  have hroutes : (dropRoutes (completeAll (completeAll u 0x53 0 0) 0x51 10 0)).progress = u.progress := by
    rw [dropRoutes_progress, completeAll_progress, completeAll_progress]
  generalize dropRoutes (completeAll (completeAll u 0x53 0 0) 0x51 10 0) = w at hroutes ⊢
  rw [← hroutes] at hshown hstate
  split
  · exact ⟨hstate, rfl, hshown⟩
  · exact ⟨hstate, rfl, hshown⟩

/-! ## Frames of the next step are taken -/

/-- A frame is refused with exchange fault 3, or its elements and its scales are written. -/
theorem writeFrame_cases (s : State) (src : Nat) (x : Frame) : writeFrame s src x = (exchFault s 3 0xF 0 src, false) ∨
    ∃ a n v a' n' v', writeFrame s src x = (bytesWrite xReq (bytesWrite xReq s a n v) a' n' v', true) := by
  unfold writeFrame
  exact (ite_eq_or_eq _ _ _).imp id fun h => ⟨_, _, _, _, _, _, h⟩

theorem writeFrame_progress (s : State) (src : Nat) (x : Frame) : (writeFrame s src x).1.progress = s.progress := by
  obtain h | ⟨a, n, v, a', n', v', h⟩ := writeFrame_cases s src x
  · rw [h]
    exact congrArg Prod.fst (exchFault_settled _ _ _ _ _)
  · rw [h]
    exact progress_of_jobPart ((bytesWrite_jobPart _ _ _ _ _).trans (bytesWrite_jobPart _ _ _ _ _))

theorem frameIn_progress (store : Ecc) (s : State) (src l : Nat) (e : Bool) : (frameIn store s src l e).progress = s.progress :=
  congrArg Prod.fst (frameIn_settled store s src l e)

theorem takeGather_progress (store : Ecc) (s : State) (src : Nat) (x : Frame) :
    (takeGather store s src x).progress = s.progress := by
  unfold takeGather
  dsimp only
  split
  · rfl
  split
  · split
    · rw [frameIn_progress]
      exact (congrArg Prod.fst (creditFrame_onlyMsgs _ _ _ _).settled).trans (writeFrame_progress _ _ _)
    · exact writeFrame_progress _ _ _
  · exact frameIn_progress _ _ _ _ _

theorem takeEarly_progress (store : Ecc) (s : State) : (takeEarly store s).progress = s.progress := by
  refine forAll_inv (fun u : State => u.progress = s.progress) _ (fun u y h => ?_) _ _ rfl
  split
  · exact (congrArg Prod.fst (exchFault_settled _ _ _ _ _)).trans h
  · exact (takeGather_progress _ _ _ _).trans h

/-! ## The commit (R324, R326) -/

/-- The boundary that the group has named is reached with the step in progress. -/
def Progress.atBoundary (x : Progress) : Bool := match x.boundary with | some b => seqGe x.step b | none => false

/-- The next step has the last index: none follows it. -/
def Progress.atLimit (x : Progress) : Bool := decide (x.step + 1 = 0xFFFFFFFF#32)

/-- The step that is committed is the last one that this member runs for now. -/
def Progress.stops (x : Progress) : Bool :=
  decide (x.jobState = 4) || (decide (x.jobState = 5) && x.atBoundary) || (decide (x.jobState = 2) && x.atBoundary) || x.atLimit

/-- STEP after the commit: the next step where the job goes on, else the one that is committed. -/
def Progress.shownNext (x : Progress) : Word := if x.stops then x.step else x.step + 1

def Progress.shows (x : Progress) (t : Word) : Progress := { x with shown := t }

/-- The progress once the next step has begun: STEP shows it where the job goes on. -/
def Progress.committed (x : Progress) : Progress :=
  (x.begun (x.step + 1)).shows x.shownNext

/-- The job comes to rest between two steps: at the last index it is complete, and a pause is answered. -/
def comeToRest (s : State) (limit pausing : Bool) : State :=
  let s := dropRoutes ((s.withMelvor fun m => { m with jobState := 3 }).withGrp fun g => { g with boundary := none })
  let s := if limit then postEvent s 0x0103 else s
  if pausing then postEvent (completeAll s 0x51 0 0) 0x0101 else s

theorem comeToRest_progress (s : State) (limit pausing : Bool) :
    (comeToRest s limit pausing).progress = { s.progress with jobState := 3, boundary := none } := by
  have hrest : (if limit then postEvent (dropRoutes ((s.withMelvor fun m => { m with jobState := 3 }).withGrp
        fun g => { g with boundary := none })) 0x0103
      else dropRoutes ((s.withMelvor fun m => { m with jobState := 3 }).withGrp fun g => { g with boundary := none })).progress =
      { s.progress with jobState := 3, boundary := none } :=
    (postEventIf_progress _ _ _).trans ((dropRoutes_progress _).trans rfl)
  unfold comeToRest
  dsimp only
  split
  · rw [postEvent_progress, completeAll_progress]
    exact hrest
  · exact hrest

/-- A commit begins the next step; then the job ends, comes to rest, or goes on. -/
theorem commitStep_eq (s : State) : ∃ u, u.progress = s.progress.committed ∧ commitStep s =
    if s.progress.jobState = 5 ∧ (s.progress.atBoundary = true ∨ s.progress.atLimit = true) then
      jobToNone (if s.progress.atLimit = true then postEvent u 0x0103 else u)
    else if (s.progress.jobState = 2 ∧ s.progress.atBoundary = true) ∨
        ((s.progress.jobState = 1 ∨ s.progress.jobState = 2) ∧ s.progress.atLimit = true) then
      comeToRest u s.progress.atLimit (decide (s.progress.jobState = 2))
    else u := by
  unfold commitStep
  dsimp only
  have hbegun : (beginStep (s.withMelvor fun m => { m with step := s.melvor.step + 1 })).progress =
      s.progress.begun (s.progress.step + 1) := beginStep_progress _
  generalize beginStep (s.withMelvor fun m => { m with step := s.melvor.step + 1 }) = b at hbegun ⊢
  generalize hheld : holdShown _ s.melvor.jobState s.melvor.shown = h
  have hh : h.progress = s.progress.begun (s.progress.step + 1) := by
    rw [← hheld, holdShown_progress]
    split
    · exact (snapshotDue_progress _ _).trans hbegun
    · exact hbegun
  have hboundary : h.grp.boundary = s.grp.boundary := congrArg Progress.boundary hh
  rw [hboundary]
  exact ⟨_, (postEventIf_progress _ _ _).trans (congrArg (fun x => x.shows s.progress.shownNext) hh), rfl⟩

section Outcomes
variable {s : State}

/-- A stopping job ends at its boundary, or where the step index has run out. -/
theorem commitStep_ends (hstop : s.progress.jobState = 5) (h : s.progress.atBoundary = true ∨ s.progress.atLimit = true) :
    (commitStep s).progress.jobState = 0 ∧ (commitStep s).progress.job = none ∧
      (commitStep s).progress.shown = s.progress.step := by
  obtain ⟨u, hu, hcommit⟩ := commitStep_eq s
  have hstops : s.progress.stops = true := by
    rcases h with h | h <;> simp [Progress.stops, hstop, h]
  obtain ⟨hstate, hjob, hshown⟩ := jobToNone_progress (if s.progress.atLimit = true then postEvent u 0x0103 else u)
  rw [hcommit, if_pos ⟨hstop, h⟩]
  refine ⟨hstate, hjob, hshown.trans ?_⟩
  rw [postEventIf_progress, hu, Progress.committed, Progress.shows, Progress.shownNext, if_pos hstops]

/-- A pausing job comes to rest at its boundary, and any where the step index has run out. -/
theorem commitStep_rests (h : (s.progress.jobState = 2 ∧ s.progress.atBoundary = true) ∨
      ((s.progress.jobState = 1 ∨ s.progress.jobState = 2) ∧ s.progress.atLimit = true)) :
    (commitStep s).progress =
      { (s.progress.begun (s.progress.step + 1)).shows s.progress.step with jobState := 3, boundary := none } := by
  obtain ⟨u, hu, hcommit⟩ := commitStep_eq s
  have hnot : ¬(s.progress.jobState = 5 ∧ (s.progress.atBoundary = true ∨ s.progress.atLimit = true)) := by
    rintro ⟨h5, -⟩
    simp [h5] at h
  have hstops : s.progress.stops = true := by
    rcases h with ⟨h2, hat⟩ | ⟨-, hat⟩
    · simp [Progress.stops, h2, hat]
    · simp [Progress.stops, hat]
  rw [hcommit, if_neg hnot, if_pos h, comeToRest_progress, hu, Progress.committed, Progress.shownNext, if_pos hstops]

/-- A running job goes on with the next step. -/
theorem commitStep_goesOn (hrun : s.progress.jobState = 1) (hmore : s.progress.atLimit = false) :
    (commitStep s).progress = (s.progress.begun (s.progress.step + 1)).shows (s.progress.step + 1) := by
  obtain ⟨u, hu, hcommit⟩ := commitStep_eq s
  have hstops : s.progress.stops = false := by simp [Progress.stops, hrun, hmore]
  rw [hcommit, if_neg (by simp [hrun]), if_neg (by simp [hrun, hmore]), hu, Progress.committed, Progress.shownNext, hstops,
    if_neg (by decide)]

end Outcomes

/-- A step is its own boundary. -/
theorem seqGe_self (t : Word) : seqGe t t = true := by simp [seqGe]

theorem atBoundary_of_eq {x : Progress} (h : x.boundary = some x.step) : x.atBoundary = true := by
  rw [Progress.atBoundary, h]
  exact seqGe_self x.step

section Commit
variable {s : State} {j : Job} (store : Ecc) (hjob : s.melvor.job = some j) (hfw : s.fwOn = true) (hon : s.exchOn = true)
  (hsent : s.grp.doneSent = true) (htop : s.grp.top = true → s.grp.doneCovered ≥ s.grp.modules.toNat)
  (htable : s.tableBlocked = false) (hearly : s.earlyBlocked = false)
include hjob hfw hon hsent htop htable hearly

/-- COMMIT of the step in progress, at a member that has sent DONE and at the top once every member is done. -/
theorem exec_commit_due : ∃ w u, w.progress = s.progress ∧ exec (.commit s.melvor.step store) s = .next u ∧
    u.progress = (commitStep w).progress := by
  have hexec : exec (.commit s.melvor.step store) s = execCommit s.melvor.step store s := rfl
  simp only [State.exchOn, Bool.and_eq_true] at hon
  obtain ⟨⟨⟨hgrp, hactive⟩, -⟩, -⟩ := hon
  have hcovered : (s.grp.top && decide (s.grp.doneCovered < s.grp.modules.toNat)) = false := by
    cases ht : s.grp.top with
    | true => rw [decide_eq_false (Nat.not_lt.2 (htop ht)), Bool.and_false]
    | false => rfl
  have hw : (if s.grp.top = true then s else sendDown s (ctlMsg 0x14 0 0 s.melvor.step.toNat)).progress = s.progress :=
    ReadOnly.progress (.ite (.refl s) (sendDown_readOnly s _))
  refine ⟨_, _, hw, ?_, takeEarly_progress store _⟩
  simp [hexec, execCommit, hgrp, hactive, hfw, hjob, hsent, hcovered, htable, hearly]

theorem exec_commit_ends (hstop : s.progress.jobState = 5) (h : s.progress.atBoundary = true ∨ s.progress.atLimit = true) :
    ∃ u, exec (.commit s.melvor.step store) s = .next u ∧ u.progress.jobState = 0 ∧ u.progress.job = none ∧
      u.progress.shown = s.progress.step := by
  obtain ⟨w, u, hw, hexec, hu⟩ := exec_commit_due store hjob hfw hon hsent htop htable hearly
  rw [← hw] at hstop h
  refine ⟨u, hexec, ?_⟩
  rw [hu, ← hw]
  exact commitStep_ends hstop h

theorem exec_commit_rests (h : (s.progress.jobState = 2 ∧ s.progress.atBoundary = true) ∨
      ((s.progress.jobState = 1 ∨ s.progress.jobState = 2) ∧ s.progress.atLimit = true)) :
    ∃ u, exec (.commit s.melvor.step store) s = .next u ∧ u.progress =
      { (s.progress.begun (s.progress.step + 1)).shows s.progress.step with jobState := 3, boundary := none } := by
  obtain ⟨w, u, hw, hexec, hu⟩ := exec_commit_due store hjob hfw hon hsent htop htable hearly
  rw [← hw] at h ⊢
  exact ⟨u, hexec, hu.trans (commitStep_rests h)⟩

theorem exec_commit_goesOn (hrun : s.progress.jobState = 1) (hmore : s.progress.atLimit = false) :
    ∃ u, exec (.commit s.melvor.step store) s = .next u ∧
      u.progress = (s.progress.begun (s.progress.step + 1)).shows (s.progress.step + 1) := by
  obtain ⟨w, u, hw, hexec, hu⟩ := exec_commit_due store hjob hfw hon hsent htop htable hearly
  rw [← hw] at hrun hmore ⊢
  exact ⟨u, hexec, hu.trans (commitStep_goesOn hrun hmore)⟩

end Commit

end Sys2Proof.Machine

open Sys2Proof Sys2Proof.Machine

/-- Settles O44: messages, tile errors and HBM accesses leave the agreement and the progress of the job, so that each row
changes them by its own rule. -/
theorem agreeAndCommit : Obligations.AgreeAndCommit := by
  unfold Obligations.AgreeAndCommit
  intro s j g t hjob hfw hon
  refine ⟨fun hsent hfinal hred => ?agreeUpSend, fun nv sat n hbell hroom => ?agreeUp,
    fun nv sat htop hsent hagreed hfree => ?agreeDown, fun hagreed hsent hdone => ?doneSend,
    fun n hbell hroom => ?doneMsg, fun hsent htop htable hearly store => ?commit⟩
  case agreeUpSend =>
    have hread := recordRead_agreement s t
    have hcover := coverAgree_agreement ((recordRead s t).withGrp fun g => { g with agreeSent := true, agreeUs := 0 })
      (s.gradFlags t).1 (s.gradFlags t).2 1
    rw [State.withGrp_grp, State.withGrp_melvor, grp_of_agreement hread, melvor_of_agreement hread] at hcover
    obtain ⟨hgrp, hmelvor⟩ := Prod.mk.inj hcover
    refine ⟨_, exec_agreeUpSend_due hjob hfw hon hsent hfinal hred, ?_, ?_, ?_, ?_, hmelvor⟩ <;> rw [hgrp]
  case agreeUp =>
    obtain ⟨hgrp, hmelvor⟩ := Prod.mk.inj (coverAgree_agreement s nv sat n)
    refine ⟨_, exec_agreeUp_taken nv sat hon hbell hroom, ?_, ?_, ?_, hmelvor⟩ <;> rw [hgrp]
  case agreeDown =>
    obtain ⟨u, hu, hexec⟩ := exec_agreeDown_due nv sat hjob hfw hon htop hsent hagreed hfree
    obtain ⟨hgrp, hstep, hloss, hgrel⟩ := applyAgree_released u j (if g.top then g.gnv else nv) (if g.top then g.gsat else sat)
    rw [melvor_of_agreement hu] at hstep hloss hgrel
    exact ⟨_, hexec, (congrArg Group.agreed hgrp).trans (noteAgree_agreed _ _ _ _), hstep, hloss, hgrel⟩
  case doneSend =>
    obtain ⟨hgrp, hmelvor⟩ := Prod.mk.inj (coverDone_agreement (s.withGrp fun g => { g with doneSent := true }) 1)
    refine ⟨_, exec_doneSend_due hjob hfw hon hagreed hsent hdone, ?_, ?_, hmelvor⟩ <;> rw [hgrp] <;> rfl
  case doneMsg =>
    obtain ⟨hgrp, hmelvor⟩ := Prod.mk.inj (coverDone_agreement s n)
    exact ⟨_, exec_doneMsg_taken hon hbell hroom, congrArg Group.doneCovered hgrp, hmelvor⟩
  case commit =>
    have hends := exec_commit_ends store hjob hfw hon hsent htop htable hearly
    have hrests := exec_commit_rests store hjob hfw hon hsent htop htable hearly
    refine ⟨fun hlimit => ⟨fun hrun => ?_, fun hstop => ?_⟩, fun hstop hb => ?_, fun hmore hrun => ?_, fun hpause hb => ?_⟩
    · obtain ⟨u, hexec, hu⟩ := hrests (.inr ⟨hrun, decide_eq_true hlimit⟩)
      exact ⟨u, hexec, congrArg Progress.step hu, congrArg Progress.shown hu, congrArg Progress.jobState hu⟩
    · obtain ⟨u, hexec, hstate, hnone, -⟩ := hends hstop (.inr (decide_eq_true hlimit))
      exact ⟨u, hexec, hstate, hnone⟩
    · obtain ⟨u, hexec, hstate, hnone, hshown⟩ := hends hstop (.inl (atBoundary_of_eq hb))
      exact ⟨u, hexec, hshown, hstate, hnone⟩
    · obtain ⟨u, hexec, hu⟩ :=
        exec_commit_goesOn store hjob hfw hon hsent htop htable hearly hrun (decide_eq_false hmore)
      exact ⟨u, hexec, congrArg Progress.step hu, (congrArg Progress.jobState hu).trans hrun, congrArg Progress.shown hu,
        fun _ => congrArg Progress.jindex hu, congrArg Progress.jstep hu, congrArg Progress.agreeSent hu,
        congrArg Progress.doneSent hu⟩
    · obtain ⟨u, hexec, hu⟩ := hrests (.inl ⟨hpause, atBoundary_of_eq hb⟩)
      exact ⟨u, hexec, congrArg Progress.step hu, congrArg Progress.shown hu, congrArg Progress.jobState hu,
        congrArg Progress.boundary hu⟩
end

section
/-! SUPPORT. The mesh (spec 02, 08): the neighbours of a tile, what the transfers of a slot move and what they leave, and
when a slot completes or stalls. -/

namespace Sys2Proof.Machine

/-! ## One element of a fold -/

/-- A fold over distinct elements of which only `a` changes the part `p` of the state, as `g` does; `I` is what the steps
keep. -/
theorem forAll_at {α β γ : Type} [DecidableEq α] {f : β → α → β} {p : β → γ} {g : γ → γ} {a : α} {I : β → Prop}
    (hI : ∀ u x, I u → I (f u x)) (hother : ∀ u x, I u → x ≠ a → p (f u x) = p u) (hat : ∀ u, I u → p (f u a) = g (p u)) :
    ∀ (l : List α) (s : β), l.Nodup → I s → p (forAll l s f) = if a ∈ l then g (p s) else p s
  | [], _, _, _ => rfl
  | x :: l, s, hl, hs => by
    obtain ⟨hx, hl⟩ := List.nodup_cons.mp hl
    have ih := forAll_at hI hother hat l (f s x) hl (hI s x hs)
    by_cases hxa : x = a
    · subst hxa
      rw [if_neg hx, hat s hs] at ih
      rw [if_pos List.mem_cons_self]
      exact ih
    · rw [hother s x hs hxa] at ih
      simp only [List.mem_cons, Ne.symm hxa, false_or]
      exact ih

/-! ## Neighbours (R30, R32) -/

/-- The tile beyond an output is another one, and each output leads to an input of its own. -/
theorem beyond_tile {s : State} {t o v i : Nat} (h : s.beyond t o = .tile v i) :
    v ≠ t ∧ ((o = 0 ∧ i = 2) ∨ (o = 1 ∧ i = 3) ∨ (o = 2 ∧ i = 0) ∨ (o = 3 ∧ i = 1)) := by
  unfold State.beyond at h
  have hrow : rowOf t = t / 128 := rfl
  have hcol : colOf t = t % 128 := rfl
  dsimp only at h
  repeat' split at h
  all_goals simp only [Peer.tile.injEq, reduceCtorEq] at h
  all_goals omega

theorem beyond_ne {s : State} {t o v i : Nat} (h : s.beyond t o = .tile v i) : v ≠ t := (beyond_tile h).1

theorem beyond_inj {s : State} {t o o' v i : Nat} (h : s.beyond t o = .tile v i) (h' : s.beyond t o' = .tile v i) :
    o = o' := by
  have hin := (beyond_tile h).2
  have hin' := (beyond_tile h').2
  omega

/-! ## A slot's attempt (R40, R46, R49, R50) -/

/-- The outputs whose owner presents a token that they cannot take, and those whose owner has nothing to present. -/
def State.lackOut (s : State) (t : Nat) : List Nat :=
  let x := s.tile t
  x.router.owned.filter fun o => x.present (x.router.field o) o != .null && !canTake s t o
def State.lackIn (s : State) (t : Nat) : List Nat :=
  let x := s.tile t
  x.router.owned.filter fun o => x.present (x.router.field o) o == .absent

/-- Every reason why the slot does not complete is a held link or a gateway (R49). -/
def State.slotHeld (s : State) (t : Nat) : Bool :=
  let outHeld (o : Nat) : Bool :=
    match s.beyond t o with
    | .tile u _ => (s.tile u).router.held
    | .gateway _ _ _ => true
    | .none => false
  (s.lackOut t).all outHeld && (s.lackIn t).all fun o => sourceHeld s t o

theorem exec_slot {s : State} {t : TileId} (h : OnTile s t) :
    exec (.slot t none []) s = .next (slotEffect t.toNat none [] s) :=
  atIsland_of_on (slotEffect t.toNat none []) h.1 h.2

/-- The outcome of a slot without a violation recorded in an earlier cycle of it. -/
theorem slotEffect_due {s : State} {t : Nat} (hdue : (s.tile t).slotDue = true) (hfirst : (s.tile t).router.violated = none) :
    slotEffect t none [] s =
      let done := (s.lackOut t).isEmpty && (s.lackIn t).isEmpty
      let s1 := if done then completeSlot s t else stallSlot s t (!(s.lackOut t).isEmpty) (s.slotHeld t)
      match (s.tile t).violation with
      | none => s1
      | some v => violate s1 t (s.tile t).router.slotCnt done v := by
  unfold slotEffect
  simp only [hdue, hfirst, Bool.not_true, Bool.false_eq_true, if_false]
  cases (s.tile t).violation <;> rfl

/-- A stalled slot counts in one of the three counters, and without HOLD in the watchdog (R46, R49, R52). -/
theorem stallSlot_eq (s : State) (t : Nat) (out held : Bool) :
    stallSlot s t out held = s.setTile t ((s.tile t).withRouter fun r => { r with
      stalled := true, held := held, wdCount := if held then 0 else r.wdCount + if (s.tile t).core.state = 1 then 1 else 0
      stallHold := if held then satAdd r.stallHold 1 else r.stallHold
      stallOut := if !held && out then satAdd r.stallOut 1 else r.stallOut
      stallIn := if !held && !out then satAdd r.stallIn 1 else r.stallIn }) := by
  have hrun : b2n (decide ((s.tile t).core.state = 1)) = if (s.tile t).core.state = 1 then 1 else 0 := by simp [b2n]
  unfold stallSlot
  rw [← hrun]
  cases held
  · cases out <;> rfl
  · rfl

/-- A slot that lacks something stalls. -/
theorem slotEffect_stalls {s : State} {t : Nat} (hdue : (s.tile t).slotDue = true) (hclaim : (s.tile t).violation = none)
    (hfirst : (s.tile t).router.violated = none) (hlack : s.lackOut t ≠ [] ∨ s.lackIn t ≠ []) :
    slotEffect t none [] s = stallSlot s t (!(s.lackOut t).isEmpty) (s.slotHeld t) := by
  have hdone : ((s.lackOut t).isEmpty && (s.lackIn t).isEmpty) = false := by
    simpa [or_iff_not_imp_left] using hlack
  rw [slotEffect_due hdue hfirst, hclaim, hdone]
  rfl

end Sys2Proof.Machine

open Sys2Proof Sys2Proof.Machine

/-- Settles O12: what the slot lacks is what `slotEffect` finds, and a stall counts it once. -/
theorem slotStalls : Obligations.SlotStalls := by
  unfold Obligations.SlotStalls
  intro s t x r lackOut lackIn outHeld held hon hdue hclaim hfirst hlack
  rw [exec_slot hon, slotEffect_stalls hdue hclaim hfirst hlack]
  rw [stallSlot_eq, Bool.not_not]
  rfl
end

section
/-! SUPPORT. Entries and arrivals (spec 02, 08): the entry that follows, the queue that a token enters, and the tile fault of
one that cannot be corrected. -/

namespace Sys2Proof.Machine

/-! ## The next entry (R39) -/

/-- The entry that follows the current one, unless it halts the router. -/
def Router.nextEntry (r : Router) : Nat :=
  if entryWrap (r.entryWord r.entry.toNat) then 0 else (r.entry.toNat + 1) % 512

theorem Router.advance_halt {r : Router} (h : entryHalt (r.entryWord r.entry.toNat) = true) :
    r.advance = { r with halted := true, used := false, remain := 0 } := if_pos h

theorem Router.advance_next {r : Router} (h : entryHalt (r.entryWord r.entry.toNat) = false) :
    r.advance = { r with
      entry := BitVec.ofNat 9 r.nextEntry, used := false
      remain := BitVec.ofNat 16 (entryRepeat (r.entryWord r.nextEntry)) } := by
  have hentry : (if entryWrap (r.entryWord r.entry.toNat) then 0 else r.entry + 1) = BitVec.ofNat 9 r.nextEntry := by
    apply BitVec.eq_of_toNat_eq
    unfold Router.nextEntry
    split
    · rfl
    · rw [BitVec.toNat_add, BitVec.toNat_ofNat]
      exact (Nat.mod_mod _ _).symm
  have hindex : (BitVec.ofNat 9 r.nextEntry).toNat = r.nextEntry := by
    rw [BitVec.toNat_ofNat, Router.nextEntry]
    split
    · rfl
    · exact Nat.mod_mod _ _
  unfold Router.advance
  simp only [h, Bool.false_eq_true, if_false, hentry, hindex]

theorem exec_entryAdvance_due {s : State} {t : TileId} (h : OnTile s t) (hrun : (s.tile t.toNat).core.state = 1)
    (hused : (s.tile t.toNat).router.used = true) (hhalted : (s.tile t.toNat).router.halted = false)
    (hfrozen : (s.tile t.toNat).router.frozen = false) :
    exec (.entryAdvance t) s = .next (s.setTile t.toNat ((s.tile t.toNat).withRouter Router.advance)) := by
  refine (atIsland_of_on _ h.1 h.2).trans ?_
  simp only [hrun, hused, hhalted, hfrozen, Bool.false_eq_true, not_false_eq_true, and_self, if_true]

/-! ## Crossing buffers (R37, R42) -/

theorem returnRoom_tile_self (s : State) (t inp : Nat) : (returnRoom s t inp).tile t = s.tile t := by
  unfold returnRoom
  split
  · next v o h =>
    rw [State.modTile_eq, State.setTile_tile, if_neg (beyond_ne h).symm]
  · rfl
  · rfl

/-- The tile after the head of an input's crossing buffer has left it. -/
theorem popCross_tile_self (s : State) (t inp : Nat) :
    (popCross s t inp).tile t = (s.tile t).withRouter fun r => { r with
      cross := Sparse.mod [] r.cross inp (·.drop 1)
      laneOrder := if inp = 4 ∨ s.edgeDir t = some inp then r.laneOrder.erase (decide (inp = 4)) else r.laneOrder } := by
  rw [popCross, returnRoom_tile_self, State.modTile_eq, State.setTile_tile, if_pos rfl]

/-! ## The charge of a LINK_UE leaves the tiles (R372) -/

theorem setNoSpare_tile (s : State) (k : Nat) : (setNoSpare s).tile k = s.tile k :=
  (fireIf_tile _ _ _ _).trans (State.withRel_tile _ _ _)

theorem flashWrite_tile (s : State) (f : Flash → Flash) (k : Nat) : (flashWrite s f).tile k = s.tile k :=
  State.withFlash_tile _ _ _

theorem markRetire_tile (s : State) (t k : Nat) : (markRetire s t).tile k = s.tile k := by
  unfold markRetire
  split
  · rfl
  split
  · rfl
  split
  · exact (setNoSpare_tile _ _).trans (State.withRel_tile _ _ _)
  · exact (fireIf_tile _ _ _ _).trans ((State.withRel_tile _ _ _).trans (flashWrite_tile _ _ _))

theorem checkLink_tile (s : State) (t i k : Nat) : (checkLink s t i).tile k = s.tile k := by
  unfold checkLink
  split
  · split
    · split
      · exact markRetire_tile _ _ _
      · rfl
    · exact markRetire_tile _ _ _
  · rfl

theorem chargeLinkUe_tile (s : State) (t i k : Nat) : (chargeLinkUe s t i).tile k = s.tile k :=
  (checkLink_tile _ _ _ _).trans ((State.withFlash_tile _ _ _).trans (State.withFlash_tile _ _ _))

/-- The tile that finds a LINK_UE: the first fault is kept, and the tile stops (R34, R51). -/
theorem linkUe_tile_self (s : State) (t port : Nat) :
    (linkUe s t port).tile t = { s.tile t with
      router := ((s.tile t).router.record 3 port 0).halt
      core := { (s.tile t).core with state := stopState (s.tile t).core.state } } := by
  rw [linkUe, chargeLinkUe_tile, meshFault, State.modTile_eq, State.setTile_tile, if_pos rfl]

/-! ## TOKEN_ARRIVAL (R34, R42) -/

/-- The queue that token `k` of input `inp` is for. -/
def State.queueFor (s : State) (t inp : Nat) (k : Token) : Nat :=
  (if inp = 4 then (s.edgeDir t).getD 3 else inp) * 8 + k.tag.toNat / 16 % 8

theorem exec_tokenArrival {s : State} {t : TileId} (h : OnTile s t) (inp : Fin 5) (chk : Ecc) :
    exec (.tokenArrival t inp chk) s = .next (tokenArrivalEffect t.toNat inp.val chk s) := atIsland_of_on _ h.1 h.2

section Arrival
variable {s : State} {t inp : Nat} {k : Token} {rest : List Token} (hfrozen : (s.tile t).router.frozen = false)
  (hcross : Sparse.get [] (s.tile t).router.cross inp = k :: rest) (hlane : s.laneNext t inp = true)
include hfrozen hcross hlane

/-- A token for a queue goes into it where it has room, and else stays. -/
theorem tokenArrival_queue (hqueue : k.tag.toNat < 128) : tokenArrivalEffect t inp .ok s =
    let q := (s.tile t).router.queue (s.queueFor t inp k)
    if q.toks.length < q.depth then
      popCross (s.modTile t fun x => x.withRouter fun r => r.accept (s.queueFor t inp k) k) t inp
    else s := by
  have hbit : bit k.tag.toNat 7 = false := by
    rw [bit, Nat.div_eq_of_lt (by omega)]
    rfl
  unfold tokenArrivalEffect
  simp only [hcross, hfrozen, hlane, hbit, List.head?_cons, Bool.not_true, Bool.or_self, Bool.false_eq_true, if_false,
    reduceCtorEq]
  rfl

theorem tokenArrival_ue : tokenArrivalEffect t inp .ue s = linkUe (popCross s t inp) t inp := by
  unfold tokenArrivalEffect
  simp only [hcross, hfrozen, hlane, List.head?_cons, Bool.not_true, Bool.or_self, Bool.false_eq_true, if_false, if_true]

end Arrival

/-- A token that enters queue `q` leaves the crossing buffer of its input, as one step of the tile. -/
theorem popCross_accept (s : State) (t inp q : Nat) {k : Token} {rest : List Token}
    (hcross : Sparse.get [] (s.tile t).router.cross inp = k :: rest) :
    popCross (s.modTile t fun x => x.withRouter fun r => r.accept q k) t inp =
      returnRoom (s.setTile t ((s.tile t).withRouter fun r => { r with
        cross := Sparse.set [] r.cross inp rest
        laneOrder := if inp = 4 ∨ s.edgeDir t = some inp then r.laneOrder.erase (decide (inp = 4)) else r.laneOrder
        queues := Sparse.set {} r.queues q { r.queue q with
          toks := (r.queue q).toks ++ [k], accept := satAdd (r.queue q).accept 1 } })) t inp := by
  simp only [popCross, State.modTile_eq, State.setTile_tile, if_true, State.setTile_setTile, Tile.withRouter, Router.accept,
    Sparse.mod, hcross, List.drop_one, List.tail_cons]
  rfl

end Sys2Proof.Machine

open Sys2Proof Sys2Proof.Machine

/-- Settles O13: the three ways on from an entry, and the three ends of an arrival. -/
theorem entryAdvanceAndTokenArrival : Obligations.EntryAdvanceAndTokenArrival := by
  unfold Obligations.EntryAdvanceAndTokenArrival
  refine ⟨?advance, ?arrival⟩
  case advance =>
    intro s t x r e n hon hrun hused hhalted hfrozen q
    rw [exec_entryAdvance_due hon hrun hused hhalted hfrozen]
    have hq : r.advance = q := by
      by_cases hhalt : bit e 82 = true
      · exact (Router.advance_halt hhalt).trans (if_pos hhalt).symm
      · exact (Router.advance_next (eq_false_of_ne_true hhalt)).trans (if_neg hhalt).symm
    rw [← hq]
    rfl
  case arrival =>
    intro s t inp k rest x r d qk lanes hon hfrozen hcross hlane
    refine ⟨fun hqueue hroom => ?enters, fun hqueue hfull => ?stays, _,
      (exec_tokenArrival hon inp .ue).trans (congrArg _ (tokenArrival_ue hfrozen hcross hlane)), ?lost⟩
    case enters =>
      rw [exec_tokenArrival hon, tokenArrival_queue hfrozen hcross hlane hqueue]
      exact congrArg _ ((if_pos hroom).trans (popCross_accept s t.toNat inp.val qk hcross))
    case stays =>
      rw [exec_tokenArrival hon, tokenArrival_queue hfrozen hcross hlane hqueue]
      exact congrArg _ (if_neg (Nat.not_lt.2 hfull))
    case lost =>
      rw [linkUe_tile_self, popCross_tile_self]
      refine ⟨rfl, rfl, ?_, fun hfold => if_neg hfold⟩
      exact (Sparse.get_mod _ _ _ _ _).trans ((if_pos rfl).trans (congrArg (List.drop 1) hcross))
end

section
/-! SUPPORT. What a slot that completes moves (spec 02, 08; R40, R42, R50): its transfers change links, queues, crooks and the
send buffer; every other part of the tiles, the memory and the Melvor complex stay. -/

namespace Sys2Proof.Machine

/-! ## What transfers leave -/

/-- A tile without what the transfers of a slot change. -/
def Tile.still (x : Tile) : Tile :=
  { x with
    router := { x.router with room := [], credit := [], cross := [], laneOrder := [], queues := [], crooks := [] }
    core := { x.core with sendBuf := [] }
    island := { x.island with other := 0 } }

/-- The parts of the state that transfers leave. -/
structure Still where
  tile : Nat → Tile
  flash : Flash
  hbm : Sparse Byte
  melvor : Melvor

def State.still (s : State) : Still :=
  { tile := fun k => (s.tile k).still, flash := s.flash, hbm := s.hbm, melvor := s.melvor }

/-- The crossing buffer of input `i` of tile `k`. -/
def State.crossAt (s : State) (k i : Nat) : List Token := Sparse.get [] (s.tile k).router.cross i

theorem still_tile {s u : State} (h : u.still = s.still) (k : Nat) : (u.tile k).still = (s.tile k).still :=
  congrFun (congrArg Still.tile h) k

theorem still_beyond {s u : State} (h : u.still = s.still) (t o : Nat) : u.beyond t o = s.beyond t o := by
  have hflash : u.flash = s.flash := congrArg Still.flash h
  unfold State.beyond State.cols
  rw [hflash]

/-- The current entry's fields are no part of what transfers change. -/
theorem still_field {x y : Tile} (h : y.still = x.still) (o : Nat) : y.router.field o = x.router.field o := by
  have hsched : y.router.sched = x.router.sched := congrArg (fun z => z.router.sched) h
  have hentry : y.router.entry = x.router.entry := congrArg (fun z => z.router.entry) h
  simp only [Router.field, Router.entryWord, hsched, hentry]

theorem modTile_still (s : State) (t : Nat) {f : Tile → Tile} (h : ∀ x, (f x).still = x.still) :
    (s.modTile t f).still = s.still := by
  have htile (k : Nat) : ((s.modTile t f).tile k).still = (s.tile k).still := by
    rw [State.modTile_eq, State.setTile_tile]
    split
    · next hk => rw [hk, h]
    · rfl
  simp only [State.still, htile]
  rfl

theorem modTile_crossAt (s : State) (t : Nat) (f : Tile → Tile) (k i : Nat) : (s.modTile t f).crossAt k i =
    if k = t then Sparse.get [] (f (s.tile t)).router.cross i else s.crossAt k i := by
  rw [State.crossAt, State.modTile_eq, State.setTile_tile]
  split <;> rfl

/-- `u` differs from `s` in what transfers change, and no token has entered or left a crossing buffer. -/
structure CrossKept (s u : State) : Prop where
  still : u.still = s.still
  cross : u.crossAt = s.crossAt

theorem CrossKept.refl (s : State) : CrossKept s s := ⟨rfl, rfl⟩

theorem CrossKept.trans {s u w : State} (h : CrossKept s u) (h' : CrossKept u w) : CrossKept s w :=
  ⟨h'.still.trans h.still, h'.cross.trans h.cross⟩

theorem modTile_crossKept (s : State) (t : Nat) {f : Tile → Tile} (h : ∀ x, (f x).still = x.still)
    (hcross : ∀ x, (f x).router.cross = x.router.cross) : CrossKept s (s.modTile t f) := by
  refine ⟨modTile_still s t h, funext fun k => funext fun i => ?_⟩
  rw [modTile_crossAt, hcross]
  split
  · next hk => rw [hk, State.crossAt]
  · rfl

theorem modDrover_crossKept (s : State) (d : Nat) (f : Drover → Drover) : CrossKept s (s.modDrover d f) := ⟨rfl, rfl⟩

/-- A fold whose steps keep the crossing buffers keeps them. -/
theorem forAll_crossKept {α : Type} (l : List α) (s : State) (f : State → α → State) (hf : ∀ u x, CrossKept u (f u x)) :
    CrossKept s (forAll l s f) :=
  forAll_inv (CrossKept s) f (fun u x h => h.trans (hf u x)) l s (.refl s)

theorem returnCredit_crossKept (s : State) (t d q : Nat) : CrossKept s (returnCredit s t d q) := by
  unfold returnCredit
  split
  · exact modTile_crossKept _ _ (fun _ => rfl) (fun _ => rfl)
  · exact modDrover_crossKept _ _ _
  · exact .refl s

theorem returnRoom_crossKept (s : State) (t inp : Nat) : CrossKept s (returnRoom s t inp) := by
  unfold returnRoom
  split
  · exact modTile_crossKept _ _ (fun _ => rfl) (fun _ => rfl)
  · exact modDrover_crossKept _ _ _
  · exact .refl s

theorem popQueue_crossKept (s : State) (t k : Nat) : CrossKept s (popQueue s t k) := by
  refine .trans ?_ (returnCredit_crossKept _ _ _ _)
  exact modTile_crossKept _ _ (fun _ => rfl) (fun _ => rfl)

theorem crookTake_crossKept (s : State) (t : Nat) (x : Tile) (k : Nat) : CrossKept s (crookTake s t x k) := by
  unfold crookTake
  split
  · exact .refl s
  · exact .trans (forAll_crossKept _ _ _ fun u q => popQueue_crossKept u t q)
      (modTile_crossKept _ _ (fun _ => rfl) (fun _ => rfl))

/-! ## A direct source gives up its head (R40) -/

theorem popCross_still (s : State) (t inp : Nat) : (popCross s t inp).still = s.still :=
  (returnRoom_crossKept _ _ _).still.trans (modTile_still _ _ fun _ => rfl)

theorem popCross_crossAt (s : State) (t inp k i : Nat) : (popCross s t inp).crossAt k i =
    if k = t ∧ i = inp then (s.crossAt k i).drop 1 else s.crossAt k i := by
  rw [popCross, (returnRoom_crossKept _ _ _).cross, modTile_crossAt]
  by_cases hk : k = t
  · rw [hk, if_pos rfl]
    dsimp only [Tile.withRouter]
    rw [Sparse.get_mod]
    by_cases hi : i = inp
    · rw [hi, if_pos rfl, if_pos ⟨rfl, rfl⟩]; rfl
    · rw [if_neg hi, if_neg fun h => hi h.2]; rfl
  · rw [if_neg hk, if_neg fun h => hk h.1]

/-! ## A token is sent (R40, R68, R179) -/

/-- The TAG of a token that the owner of a field sends (Table 2.1). -/
def sentTag (f : Nat) (last : Bool) : Byte := BitVec.ofNat 8 (128 * b2n (fieldDirect f) + 16 * fieldQueue f + 8 * b2n last)

theorem sendToken_still (s : State) (t o : Nat) (k : Token) : (sendToken s t o k).still = s.still := by
  unfold sendToken
  split
  · exact modTile_still _ _ fun _ => rfl
  · rfl
  · rfl

/-- A token that is sent arrives in the crossing buffer beyond the output. -/
theorem sendToken_crossAt (s : State) (t o : Nat) (k : Token) (v i : Nat) : (sendToken s t o k).crossAt v i =
    if s.beyond t o = .tile v i then s.crossAt v i ++ [k] else s.crossAt v i := by
  unfold sendToken
  split
  · next w j h =>
    rw [modTile_crossAt, h]
    by_cases hv : v = w
    · subst hv
      rw [if_pos rfl]
      dsimp only [Tile.withRouter]
      rw [Sparse.get_mod]
      by_cases hi : i = j
      · subst hi; rw [if_pos rfl, if_pos rfl]; rfl
      · rw [if_neg hi, if_neg (by simpa using Ne.symm hi)]; rfl
    · rw [if_neg hv, if_neg (by simpa using fun h => absurd h.symm hv)]
  · next h => rw [h, if_neg Peer.noConfusion]; rfl
  · next h => rw [h, if_neg Peer.noConfusion]

/-- ROOM and credit of the output are used (R40). -/
def useLink (s : State) (t o : Nat) : State :=
  let f := (s.tile t).router.field o
  let gw : Bool := match s.beyond t o with | .gateway _ _ _ => true | _ => false
  (s.modTile t fun x => x.withRouter fun r =>
    let r := if gw then r else { r with room := Sparse.mod 0 r.room o (· - 1) }
    if gw || !fieldDirect f then { r with credit := Sparse.mod 0 r.credit (8 * o + fieldQueue f) (· - 1) } else r).modTile t
      fun x => x.chargeFree 24

theorem sendOn_eq (s : State) (t o : Nat) (data : Line) (last : Bool) : sendOn s t o data last =
    sendToken (useLink s t o) t o ⟨data, sentTag ((s.tile t).router.field o) last⟩ := rfl

theorem useLink_crossKept (s : State) (t o : Nat) : CrossKept s (useLink s t o) := by
  have hcharge (u : State) : CrossKept u (u.modTile t fun x => x.chargeFree 24) :=
    modTile_crossKept _ _ (fun _ => rfl) (fun _ => rfl)
  refine .trans ?_ (hcharge _)
  refine modTile_crossKept _ _ (fun x => ?_) (fun x => ?_)
  all_goals
    dsimp only [Tile.withRouter]
    split
    all_goals split
    all_goals rfl

theorem sendOn_still (s : State) (t o : Nat) (data : Line) (last : Bool) : (sendOn s t o data last).still = s.still := by
  rw [sendOn_eq, sendToken_still, (useLink_crossKept s t o).still]

theorem sendOn_crossAt (s : State) (t o : Nat) (data : Line) (last : Bool) (v i : Nat) :
    (sendOn s t o data last).crossAt v i = if s.beyond t o = .tile v i
      then s.crossAt v i ++ [⟨data, sentTag ((s.tile t).router.field o) last⟩] else s.crossAt v i := by
  rw [sendOn_eq, sendToken_crossAt, (useLink_crossKept s t o).cross, still_beyond (useLink_crossKept s t o).still]

/-! ## The transfers of a slot -/

/-- The owner of output `o`, in the tile as it stood when the slot began, sends what it presents. -/
def sendPresented (t : Nat) (x : Tile) (s : State) (o : Nat) : State :=
  match x.present (x.router.field o) o with
  | .tok d l => sendOn s t o d l
  | _ => s

/-- Every owner of the current entry sends. -/
def sendAll (s : State) (t : Nat) : State := forAll (s.tile t).router.owned s (sendPresented t (s.tile t))

/-- The state as a slot that completes leaves it, but for the slot counter, REMAIN and the watchdog. -/
def transferred (s : State) (t : Nat) : State :=
  forAll (s.tile t).router.owningCrooks (takeSources (sendAll s t) t (s.tile t)) fun u k => crookTake u t (s.tile t) k

theorem completeSlot_eq (s : State) (t : Nat) :
    completeSlot s t = (transferred s t).modTile t fun x => x.withRouter Router.completed := rfl

theorem sendPresented_still (t : Nat) (x : Tile) (s : State) (o : Nat) : (sendPresented t x s o).still = s.still := by
  unfold sendPresented
  split
  · exact sendOn_still _ _ _ _ _
  · rfl

theorem sendAll_still (s : State) (t : Nat) : (sendAll s t).still = s.still :=
  forAll_inv (fun u : State => u.still = s.still) _ (fun u o h => (sendPresented_still t _ u o).trans h) _ _ rfl

theorem owned_nodup (r : Router) : r.owned.Nodup := List.nodup_range.filter _

/-- Each token that an owner presents to a neighbour is in that neighbour's crossing buffer. -/
theorem sendAll_crossAt {s : State} {t o v i : Nat} (h : s.beyond t o = .tile v i) : (sendAll s t).crossAt v i =
    if o ∈ (s.tile t).router.owned then
      match (s.tile t).present ((s.tile t).router.field o) o with
      | .tok d l => s.crossAt v i ++ [⟨d, sentTag ((s.tile t).router.field o) l⟩]
      | _ => s.crossAt v i
    else s.crossAt v i := by
  refine forAll_at (I := fun u : State => u.still = s.still) (p := fun u : State => u.crossAt v i)
    (g := fun c => match (s.tile t).present ((s.tile t).router.field o) o with
      | .tok d l => c ++ [⟨d, sentTag ((s.tile t).router.field o) l⟩]
      | _ => c)
    (fun u o' hu => (sendPresented_still t _ u o').trans hu) (fun u o' hu hne => ?other) (fun u hu => ?sent)
    _ s (owned_nodup _) rfl
  case other =>
    unfold sendPresented
    split
    · rw [sendOn_crossAt, still_beyond hu, if_neg fun h' => hne (beyond_inj h' h)]
    · rfl
  case sent =>
    unfold sendPresented
    split
    · rw [sendOn_crossAt, still_beyond hu, if_pos h, still_field (still_tile hu t)]
    · rfl

/-- No output leads to an input of its own tile. -/
theorem sendAll_crossAt_self (s : State) (t i : Nat) : (sendAll s t).crossAt t i = s.crossAt t i := by
  refine (forAll_inv (fun u : State => u.still = s.still ∧ u.crossAt t i = s.crossAt t i) _ (fun u o hu => ?_) _ _
    ⟨rfl, rfl⟩).2
  refine ⟨(sendPresented_still t _ u o).trans hu.1, ?_⟩
  unfold sendPresented
  split
  · rw [sendOn_crossAt, if_neg fun h => beyond_ne h rfl, hu.2]
  · exact hu.2

/-- A direct source of the current entry reads input `i`. -/
def Router.readsInput (r : Router) (i : Nat) : Bool :=
  r.owned.any fun o => fieldKind (r.field o) == 1 && directInput (fieldIndex (r.field o)) == i

/-- The heads of the crossing buffers of tile `t` that direct sources of the slot read. -/
def popInputs (s : State) (t : Nat) (x : Tile) : State :=
  forAll ((List.range 5).filter fun i => (x.router.owned.map x.router.field).any fun f =>
    fieldKind f == 1 && directInput (fieldIndex f) == i) s fun s i => popCross s t i

theorem popInputs_still (s : State) (t : Nat) (x : Tile) : (popInputs s t x).still = s.still :=
  forAll_inv (fun u : State => u.still = s.still) _ (fun u i h => (popCross_still u t i).trans h) _ _ rfl

theorem popInputs_crossAt (s : State) (t : Nat) (x : Tile) {i : Nat} (hi : i < 5) : (popInputs s t x).crossAt t i =
    if x.router.readsInput i then (s.crossAt t i).drop 1 else s.crossAt t i := by
  refine (forAll_at (I := fun _ => True) (a := i) (p := fun u : State => u.crossAt t i) (g := List.drop 1)
    (fun _ _ _ => trivial)
    (fun u j _ hne => ?other) (fun u _ => ?popped) _ s (List.nodup_range.filter _) trivial).trans ?mem
  case other => rw [popCross_crossAt, if_neg fun h => hne h.2.symm]
  case popped => rw [popCross_crossAt, if_pos ⟨rfl, rfl⟩]
  case mem =>
    refine if_congr ?_ rfl rfl
    simp only [List.mem_filter, List.mem_range, hi, true_and, List.any_map, Router.readsInput]
    rfl

theorem popInputs_crossAt_other (s : State) {t v : Nat} (x : Tile) (h : v ≠ t) (i : Nat) :
    (popInputs s t x).crossAt v i = s.crossAt v i :=
  forAll_inv (fun u : State => u.crossAt v i = s.crossAt v i) _
    (fun u j hu => by rw [popCross_crossAt, if_neg fun h' => h h'.1, hu]) _ _ rfl

/-- Queues and the send buffer are no crossing buffers. -/
theorem takeSources_crossKept (s : State) (t : Nat) (x : Tile) : CrossKept (popInputs s t x) (takeSources s t x) := by
  have hqueues (l : List Nat) : CrossKept (popInputs s t x) (forAll l (popInputs s t x) fun s k => popQueue s t k) :=
    forAll_crossKept _ _ _ fun u k => popQueue_crossKept u t k
  unfold takeSources
  dsimp only
  split
  · exact (hqueues _).trans (modTile_crossKept _ _ (fun _ => rfl) (fun _ => rfl))
  · exact hqueues _

theorem transferred_crossKept (s : State) (t : Nat) :
    CrossKept (popInputs (sendAll s t) t (s.tile t)) (transferred s t) :=
  (takeSources_crossKept _ _ _).trans (forAll_crossKept _ _ _ fun u k => crookTake_crossKept u t _ k)

theorem transferred_still (s : State) (t : Nat) : (transferred s t).still = s.still := by
  rw [(transferred_crossKept s t).still, popInputs_still, sendAll_still]

theorem transferred_crossAt_self (s : State) (t : Nat) {i : Nat} (hi : i < 5) : (transferred s t).crossAt t i =
    if (s.tile t).router.readsInput i then (s.crossAt t i).drop 1 else s.crossAt t i := by
  rw [(transferred_crossKept s t).cross, popInputs_crossAt _ _ _ hi, sendAll_crossAt_self]

theorem transferred_crossAt_beyond {s : State} {t o v i : Nat} {d : Line} {l : Bool} (ho : o ∈ (s.tile t).router.owned)
    (hpres : (s.tile t).present ((s.tile t).router.field o) o = .tok d l) (h : s.beyond t o = .tile v i) :
    (transferred s t).crossAt v i = s.crossAt v i ++ [⟨d, sentTag ((s.tile t).router.field o) l⟩] := by
  rw [(transferred_crossKept s t).cross, popInputs_crossAt_other _ _ (beyond_ne h), sendAll_crossAt h, if_pos ho, hpres]

/-! ## The end of the slot (R39, R40, R50, R52) -/

/-- Tile `x` at the end of the slot, `y` being the tile after the transfers. -/
def Tile.slotEnd (x y : Tile) : Tile :=
  match x.violation with
  | none => y.withRouter Router.completed
  | some v => { y with
      router := (({ y.router.completed with slotCnt := x.router.slotCnt } : Router).record 1 v.1 v.2).halt
      core := { y.core with state := stopState y.core.state } }

theorem slotEnd_unclaimed {x : Tile} (y : Tile) (h : x.violation = none) : x.slotEnd y = y.withRouter Router.completed := by
  rw [Tile.slotEnd, h]

theorem slotEnd_claimed {x : Tile} (y : Tile) {v : Nat × Nat} (h : x.violation = some v) : x.slotEnd y = { y with
    router := (({ y.router.completed with slotCnt := x.router.slotCnt } : Router).record 1 v.1 v.2).halt
    core := { y.core with state := stopState y.core.state } } := by
  rw [Tile.slotEnd, h]

/-- A slot that lacks nothing completes. -/
theorem slotEffect_completes {s : State} {t : Nat} (hdue : (s.tile t).slotDue = true)
    (hfirst : (s.tile t).router.violated = none) (hout : s.lackOut t = []) (hin : s.lackIn t = []) :
    slotEffect t none [] s = (transferred s t).setTile t ((s.tile t).slotEnd ((transferred s t).tile t)) := by
  rw [slotEffect_due hdue hfirst, hout, hin]
  simp only [List.isEmpty_nil, Bool.and_self, if_true, completeSlot_eq, Tile.slotEnd, violate, State.modTile_eq]
  split
  · rfl
  · rw [State.setTile_setTile, State.setTile_tile, if_pos rfl]
    rfl

/-- What transfers leave of a tile is all of it but what they change. -/
theorem eq_of_still {x y : Tile} (h : y.still = x.still) : y = { x with
    router := { x.router with room := y.router.room, credit := y.router.credit, cross := y.router.cross
                              laneOrder := y.router.laneOrder, queues := y.router.queues, crooks := y.router.crooks }
    core := { x.core with sendBuf := y.core.sendBuf }
    island := { x.island with other := y.island.other } } :=
  congrArg (fun z : Tile => { z with
    router := { z.router with room := y.router.room, credit := y.router.credit, cross := y.router.cross
                              laneOrder := y.router.laneOrder, queues := y.router.queues, crooks := y.router.crooks }
    core := { z.core with sendBuf := y.core.sendBuf }
    island := { z.island with other := y.island.other } }) h

theorem slotEnd_cross (x y : Tile) : (x.slotEnd y).router.cross = y.router.cross := by
  unfold Tile.slotEnd
  split <;> rfl

theorem slotEnd_frame (x y : Tile) : (x.slotEnd y).wmem = y.wmem ∧ (x.slotEnd y).amem = y.amem ∧
    (x.slotEnd y).core.regs = y.core.regs ∧ (x.slotEnd y).core.fault = y.core.fault := by
  unfold Tile.slotEnd
  split <;> exact ⟨rfl, rfl, rfl, rfl⟩

theorem still_frame {x y : Tile} (h : y.still = x.still) : y.wmem = x.wmem ∧ y.amem = x.amem ∧
    y.core.regs = x.core.regs ∧ y.core.fault = x.core.fault := by
  rw [eq_of_still h]
  exact ⟨rfl, rfl, rfl, rfl⟩

theorem sentTag_eq (f : Nat) (l : Bool) :
    sentTag f l = BitVec.ofNat 8 (b2n (fieldDirect f) * 128 + fieldQueue f * 16 + b2n l * 8) := by
  rw [sentTag, Nat.mul_comm 128, Nat.mul_comm 16, Nat.mul_comm 8]

end Sys2Proof.Machine

open Sys2Proof Sys2Proof.Machine

/-- Settles O11: the slot ends in the state that its transfers leave, with the tile brought to the end of the slot. -/
theorem slotCompletes : Obligations.SlotCompletes := by
  unfold Obligations.SlotCompletes
  intro s t x r hon hdue hfirst hgo
  have hout : s.lackOut t.toNat = [] := by
    refine List.filter_eq_nil_iff.2 fun o ho => ?_
    obtain ⟨-, htake⟩ := hgo o ho
    simpa using htake
  have hin : s.lackIn t.toNat = [] := by
    refine List.filter_eq_nil_iff.2 fun o ho => ?_
    obtain ⟨hpres, -⟩ := hgo o ho
    simpa using hpres
  have hstill := transferred_still s t.toNat
  have htile := still_tile hstill
  refine ⟨_, (exec_slot hon).trans (congrArg _ (slotEffect_completes hdue hfirst hout hin)), ?router, ?sent, ?own, ?frame,
    congrArg Still.hbm hstill, congrArg Still.melvor hstill⟩
  case router =>
    rw [State.setTile_tile, if_pos rfl, eq_of_still (htile t.toNat)]
    cases hclaim : x.violation with
    | none =>
      rw [slotEnd_unclaimed _ hclaim]
      exact ⟨rfl, rfl, rfl, rfl, rfl, rfl, rfl, rfl, rfl, rfl, rfl, rfl, rfl, rfl⟩
    | some v =>
      rw [slotEnd_claimed _ hclaim]
      exact ⟨rfl, rfl, rfl, rfl, rfl, rfl, rfl, rfl, rfl, rfl, rfl, rfl, rfl, rfl⟩
  case sent =>
    intro o ho d l v i hpres hbeyond
    rw [State.setTile_tile, if_neg (beyond_ne hbeyond), ← sentTag_eq]
    exact transferred_crossAt_beyond ho hpres hbeyond
  case own =>
    intro i hi
    rw [State.setTile_tile, if_pos rfl, slotEnd_cross]
    exact transferred_crossAt_self s t.toNat hi
  case frame =>
    intro k
    rw [State.setTile_tile]
    split
    · next hk =>
      subst hk
      obtain ⟨hw, ha, hregs, hfault⟩ := slotEnd_frame (s.tile t.toNat) ((transferred s t.toNat).tile t.toNat)
      rw [hw, ha, hregs, hfault]
      exact still_frame (htile _)
    · exact still_frame (htile k)
end

section
/-! SUPPORT. The freeze of a fold (spec 02, 11; R54, R79, R260, R302): once the tiles and the drovers stand, neither the
report of the fault nor the end of the job moves them. -/

namespace Sys2Proof.Machine

/-! ## A fold that stands -/

/-- The fold is frozen with the tiles `T`, and every drover has stopped. -/
structure FoldStopped (T : Sparse Tile) (s : State) : Prop where
  tiles : s.tiles = T
  frozen : s.melvor.foldFrozen = true
  drovers : ∀ d < 16, (s.drover d).stopped = true

/-- The parts of the state by which a fold stands. -/
def standing (s : State) : Sparse Tile × Bool × Sparse Drover := (s.tiles, s.melvor.foldFrozen, s.drovers)

/-- A step that touches none of them. -/
theorem FoldStopped.of_standing {T : Sparse Tile} {s u : State} (h : FoldStopped T s) (hsame : standing u = standing s) :
    FoldStopped T u := by
  simp only [standing, Prod.mk.injEq] at hsame
  obtain ⟨ht, hm, hd⟩ := hsame
  refine ⟨ht.trans h.tiles, hm.trans h.frozen, fun d hlt => ?_⟩
  rw [State.drover, hd]
  exact h.drovers d hlt

theorem FoldStopped.ite {T : Sparse Tile} {u w : State} {c : Prop} [Decidable c] (hu : FoldStopped T u)
    (hw : FoldStopped T w) : FoldStopped T (if c then u else w) := by
  split
  · exact hu
  · exact hw

theorem forAll_foldStopped {α : Type} {T : Sparse Tile} (l : List α) {s : State} {f : State → α → State} (h : FoldStopped T s)
    (hf : ∀ u x, FoldStopped T u → FoldStopped T (f u x)) : FoldStopped T (forAll l s f) := forAll_inv _ f hf l s h

section Stopped
variable {T : Sparse Tile} {s : State} (h : FoldStopped T s)
include h

/-! ## Sources, messages, stops -/

theorem fire_foldStopped (n : Nat) : FoldStopped T (fire s n) := h.of_standing (by rfl)

theorem emit_foldStopped (o : Out) : FoldStopped T (s.emit o) := h.of_standing (by rfl)

theorem withSnap_foldStopped (f : Snapshot → Snapshot) : FoldStopped T (s.withSnap f) := h.of_standing (by rfl)

theorem withMelvor_foldStopped (f : Melvor → Melvor) (hf : (f s.melvor).foldFrozen = s.melvor.foldFrozen) :
    FoldStopped T (s.withMelvor f) := h.of_standing (Prod.ext rfl (Prod.ext hf rfl))

theorem withGrp_foldStopped (f : Group → Group) : FoldStopped T (s.withGrp f) := h.of_standing (by rfl)

theorem withRel_foldStopped (f : Reliability → Reliability) : FoldStopped T (s.withRel f) := h.of_standing (by rfl)

theorem fireIf_foldStopped (c : Bool) (n : Nat) : FoldStopped T (fireIf c s n) := .ite (fire_foldStopped h n) h

theorem setLost_foldStopped (c : Nat) : FoldStopped T (setLost s c) := .ite h (fire_foldStopped (h.of_standing (by rfl)) _)

theorem queueMsg_foldStopped (x : BitVec 128) (m : Nat) : FoldStopped T (queueMsg s x m) := by
  unfold queueMsg
  split
  · exact h.of_standing (by rfl)
  · exact h

theorem sendUp_foldStopped (x : BitVec 128) : FoldStopped T (sendUp s x) :=
  .ite h (queueMsg_foldStopped (h.of_standing (by rfl)) x _)

theorem sendDown_foldStopped (x : BitVec 128) : FoldStopped T (sendDown s x) :=
  .ite h (forAll_foldStopped _ (h.of_standing (by rfl)) fun _ _ hu => queueMsg_foldStopped hu x _)

theorem sendCtl_foldStopped (x : BitVec 128) : FoldStopped T (sendCtl s x) :=
  .ite (sendDown_foldStopped h x) (sendUp_foldStopped h x)

theorem broadcast_foldStopped (x : BitVec 128) : FoldStopped T (broadcast s x) :=
  forAll_foldStopped _ (h.of_standing (by rfl)) fun _ _ hu => hu.of_standing (by rfl)

/-- A stop of the drovers finds them stopped. -/
theorem stopDrovers_foldStopped : FoldStopped T (stopDrovers s) := by
  refine forAll_foldStopped _ h fun u d hu => ⟨hu.tiles, hu.frozen, fun e he => ?_⟩
  rw [State.modDrover_eq, State.setDrover_drover]
  split
  · rfl
  · exact hu.drovers e he

/-- A freeze finds the fold frozen. -/
theorem freezeFold_foldStopped : FoldStopped T (freezeFold s) := by
  have hdone : freezeFold s = s := if_pos (by rw [h.frozen, Bool.true_or])
  rw [hdone]
  exact h

theorem snapEnd_foldStopped : FoldStopped T (snapEnd s) := .ite (fireIf_foldStopped (h.of_standing (by rfl)) _ _) h

theorem fatalError_foldStopped (n : Nat) : FoldStopped T (fatalError s n) := by
  refine .ite (fire_foldStopped h n) (snapEnd_foldStopped (setLost_foldStopped ?_ 5))
  refine forAll_foldStopped _ (sendCtl_foldStopped (stopDrovers_foldStopped (freezeFold_foldStopped ?_)) _)
    fun u p hu => .ite (hu.of_standing (by rfl)) hu
  exact fire_foldStopped (h.of_standing (by rfl)) n

theorem foundPoison_foldStopped (a : Nat) : FoldStopped T (foundPoison s a) := by
  have hlost : FoldStopped T (if s.inKinds (journaledKinds ++ [4, 6, 0x0C]) a then setLost s 4 else s) :=
    .ite (setLost_foldStopped h 4) h
  exact .ite (fatalError_foldStopped hlost 145) hlost

/-! ## Accesses to memory -/

theorem countUe_foldStopped (a : Nat) (p : Bool) : FoldStopped T (countUe s a p) := by
  unfold countUe
  refine foundPoison_foldStopped ?_ a
  split
  · exact h.of_standing (by rfl)
  · exact fire_foldStopped (h.of_standing (by rfl)) _

theorem decodeLine_foldStopped (a e : Nat) : FoldStopped T (decodeLine s a e).1 := by
  unfold decodeLine
  dsimp only
  repeat' split
  all_goals exact h.of_standing (by rfl)

theorem readLine_foldStopped (a e : Nat) : FoldStopped T (readLine s a e).1 := by
  have hdecoded : FoldStopped T (decodeLine (countRead s a) a e).1 := decodeLine_foldStopped (h.of_standing (by rfl)) a e
  unfold readLine
  dsimp only
  split
  · exact hdecoded
  · exact hdecoded.of_standing (by rfl)
  · exact countUe_foldStopped hdecoded a _

theorem bytesRead_foldStopped (a n : Nat) : FoldStopped T (bytesRead s a n).1 :=
  forAll_inv (fun x : State × Bool × Nat => FoldStopped T x.1) _ (fun _ _ hx => readLine_foldStopped hx _ _) _ _ h

theorem hostFetch_foldStopped (p : Port) (c : Bool) (a n : Nat) : FoldStopped T (hostFetch s p c a n) :=
  .ite (forAll_foldStopped _ h fun _ _ hu => hu.of_standing (by rfl)) (h.of_standing (by rfl))

theorem hostStore_foldStopped (p : Port) (c : Bool) (a n v : Nat) : FoldStopped T (hostStore s p c a n v) :=
  .ite (forAll_foldStopped _ h fun _ _ hu => .ite (hu.of_standing (by rfl)) (hu.of_standing (by rfl)))
    (h.of_standing (by rfl))

theorem hostFlush_foldStopped (p : Port) (c : Bool) (a : Nat) : FoldStopped T (hostFlush s p c a) :=
  .ite h (h.of_standing (by rfl))

omit h in
theorem freshLines_foldStopped (n : Nat) : ∀ {s : State}, FoldStopped T s → FoldStopped T (s.freshLines n).2 := by
  induction n with
  | zero => intro s h; rw [State.freshLines]; exact h
  | succ n ih => intro s h; rw [freshLines_succ]; exact ih (h.of_standing (by rfl))

/-! ## The snapshot's copy before a write (R379) -/

theorem snapAt_foldStopped (o n : Nat) {k : State → Port → Nat → State}
    (hk : ∀ p a, FoldStopped T (k s p a)) : FoldStopped T (snapAt s o n k) :=
  .ite (snapEnd_foldStopped (h.of_standing (by rfl))) (.ite (snapEnd_foldStopped (h.of_standing (by rfl))) (hk _ _))

theorem snapStore_foldStopped (o n v : Nat) : FoldStopped T (snapStore s o n v) :=
  snapAt_foldStopped h o n fun p a => (hostStore_foldStopped h p _ a n v).of_standing (by rfl)

/-- A page that has been read for the snapshot is stored at its target. -/
theorem snapPage_foldStopped (page o n v : Nat) : FoldStopped T
    (if s.snap.busy then
      snapStore (s.withSnap fun y => { y with copied := Sparse.set 0 y.copied page v }) o n v else s) :=
  .ite (snapStore_foldStopped (h.of_standing (by rfl)) o n v) h

theorem snapCopy_foldStopped (page : Nat) : FoldStopped T (snapCopy s page) := by
  unfold snapCopy
  dsimp only
  split
  · exact h.of_standing (by rfl)
  · refine snapPage_foldStopped ?_ page _ _ _
    have hnoted := withSnap_foldStopped h fun x => { x with todo := x.todo.filter fun q => q ≠ page }
    split
    · split
      · dsimp only
        exact withSnap_foldStopped (hostFetch_foldStopped (freshLines_foldStopped _ hnoted) _ _ _ _) _
      · exact snapEnd_foldStopped (emit_foldStopped (.ite (hnoted.of_standing (by rfl)) hnoted) _)
    · exact bytesRead_foldStopped hnoted _ _

theorem beforeWrite_foldStopped (r : Requester) (a : Nat) : FoldStopped T (beforeWrite s r a) := by
  have hcopied : FoldStopped T (if s.snap.busy && s.snap.todo.contains (a / 4096) then snapCopy s (a / 4096) else s) :=
    .ite (snapCopy_foldStopped h _) h
  unfold beforeWrite
  dsimp only
  generalize (if s.snap.busy && s.snap.todo.contains (a / 4096) then snapCopy s (a / 4096) else s) = u at hcopied ⊢
  have hfull (c : Bool) : FoldStopped T (if c then setLost u 1 else u) := .ite (setLost_foldStopped hcopied 1) hcopied
  cases r with
  | foldPort _ => exact .ite (setLost_foldStopped (hfull _) 3) (hfull _)
  | _ => exact hfull _

theorem beforePages_foldStopped (r : Requester) (a n : Nat) : FoldStopped T (beforePages s r a n) :=
  forAll_foldStopped _ h fun _ _ hu => beforeWrite_foldStopped hu r _

theorem storeLine_foldStopped (a : Nat) (mask : BitVec 64) (d : Line) (e : Nat) : FoldStopped T (storeLine s a mask d e) := by
  have hread := readLine_foldStopped h a e
  unfold storeLine
  dsimp only
  split
  · exact h.of_standing (by rfl)
  · split <;> exact hread.of_standing (by rfl)

theorem bytesWrite_foldStopped (r : Requester) (a n v : Nat) : FoldStopped T (bytesWrite r s a n v) :=
  forAll_foldStopped _ h fun _ _ hu => storeLine_foldStopped (beforeWrite_foldStopped hu r _) _ _ _ _

/-! ## The failed step is undone (R377) -/

theorem readJournal_foldStopped (i : Nat) : FoldStopped T (readJournal s i).1 := by
  unfold readJournal
  dsimp only
  split
  · split
    · exact hostFetch_foldStopped h _ _ _ _
    · exact setLost_foldStopped (h.of_standing (by rfl)) 2
  · split
    · exact bytesRead_foldStopped (setLost_foldStopped h 2) _ _
    · exact bytesRead_foldStopped h _ _

theorem writePage_foldStopped (page v : Nat) : FoldStopped T (writePage s page v).1 := by
  unfold writePage
  dsimp only
  split
  · split
    · exact hostFlush_foldStopped (hostStore_foldStopped (beforePages_foldStopped h _ _ _) _ _ _ _ _) _ _ _
    · exact h.of_standing (by rfl)
  · exact bytesWrite_foldStopped h _ _ _ _

omit h in
theorem restorePages_foldStopped (l : List (Nat × Nat)) :
    ∀ {s : State}, FoldStopped T s → FoldStopped T (restorePages l s).1 := by
  induction l with
  | nil => intro s h; exact h
  | cons x l ih =>
    intro s h
    have hread := readJournal_foldStopped h x.1
    rw [restorePages]
    dsimp only
    split
    · exact hread
    · have hwritten := writePage_foldStopped hread x.2 (readJournal s x.1).2.2
      split
      · exact hwritten
      · exact ih hwritten

theorem undoStep_foldStopped (w : WriteBack) : FoldStopped T (undoStep s w).1 := by
  have hpages := restorePages_foldStopped (List.zip (List.range s.rel.jindex.length) s.rel.jindex) h
  unfold undoStep
  split
  · exact setLost_foldStopped h 2
  · exact h
  · dsimp only
    split
    · exact hpages
    · split
      · exact (bytesWrite_foldStopped hpages _ _ _ _).of_standing (by rfl)
      · exact hpages.of_standing (by rfl)

/-! ## Mailbox traffic -/

theorem putEntry_foldStopped (p : Port) (op status tag cmdSeq detail result : Nat) (noint : Bool) :
    FoldStopped T (putEntry s p op status tag cmdSeq detail result noint) :=
  .ite h (.ite (h.of_standing (by rfl)) (fireIf_foldStopped (h.of_standing (by rfl)) _ _))

omit h in
theorem flushEvents_foldStopped (p : Port) (n : Nat) :
    ∀ {s : State}, FoldStopped T s → FoldStopped T (flushEvents p n s) := by
  induction n with
  | zero => intro s h; exact h
  | succ n ih =>
    intro s h
    rw [flushEvents]
    split
    · exact h
    · exact .ite h (ih (putEntry_foldStopped (h.of_standing (by rfl)) _ _ _ _ _ _ _ _))

theorem boxSettle_foldStopped (p : Port) : FoldStopped T (boxSettle s p) :=
  fireIf_foldStopped ((flushEvents_foldStopped p _ h).of_standing (by rfl)) _ _

theorem portEvt_foldStopped (p : Port) (code : BitVec 16) (n : Nat) : FoldStopped T (portEvt s p code n) :=
  .ite (h.of_standing (by rfl)) (.ite (h.of_standing (by rfl)) (boxSettle_foldStopped (h.of_standing (by rfl)) p))

theorem postEvent_foldStopped (code : BitVec 16) : FoldStopped T (postEvent s code) := by
  have hsource : FoldStopped T (if eventWrites code && s.resultsWait then
      s.withMelvor fun m => { m with heldSrcs := m.heldSrcs ++ [eventSource code] }
    else fire s (eventSource code)) := .ite (h.of_standing (by rfl)) (fire_foldStopped h _)
  refine .ite h (.ite (forAll_foldStopped _ hsource fun u p hu => .ite (portEvt_foldStopped hu p code 0) hu) (.ite ?_ ?_))
  · exact hsource.of_standing (by rfl)
  · exact portEvt_foldStopped hsource _ code 0

theorem complete_foldStopped (p : Port) (e : Line) (status detail result : Nat) :
    FoldStopped T (complete s p e status detail result) := by
  refine boxSettle_foldStopped (.ite ?_ (putEntry_foldStopped ?_ _ _ _ _ _ _ _ _)) p
  · exact h.of_standing (by rfl)
  · exact h.of_standing (by rfl)

theorem completeJob_foldStopped (p : Port) (e : Line) : FoldStopped T (completeJob s p e) :=
  .ite (h.of_standing (by rfl)) (complete_foldStopped h _ _ _ _ _)

theorem completeAll_foldStopped (op status detail : Nat) : FoldStopped T (completeAll s op status detail) :=
  forAll_foldStopped _ h fun _ _ hu => .ite (completeJob_foldStopped hu _ _) (complete_foldStopped hu _ _ _ _ _)

theorem dropRoutes_foldStopped : FoldStopped T (dropRoutes s) := forAll_foldStopped _ h fun _ _ hu => hu.of_standing (by rfl)

/-! ## The job after the freeze (R302, R325) -/

theorem stepFailed_foldStopped : FoldStopped T (stepFailed s) := h.of_standing (by rfl)

theorem jobToNone_foldStopped : FoldStopped T (jobToNone s) := by
  have hheld : FoldStopped T (holdShown s s.melvor.jobState s.melvor.shown) := .ite (h.of_standing (by rfl)) h
  have hended := dropRoutes_foldStopped (completeAll_foldStopped (completeAll_foldStopped (withMelvor_foldStopped hheld
    (fun m => { m with jobState := 0 }) rfl) 0x53 0 0) 0x51 10 0)
  have hgone := withGrp_foldStopped (withMelvor_foldStopped hended
    (fun m => { m with job := none, replace := [], stopDue := false }) rfl)
    fun g => { g with grouped := false, relays := g.grouped && g.bellwether && !g.top, boundary := none, resumes := 0
                      contribs := [], early := [], routes := 0, freezeUp := none }
  exact .ite hgone (withRel_foldStopped hgone _)

theorem stopFailed_foldStopped : FoldStopped T (stopFailed s) := by
  refine .ite (jobToNone_foldStopped (stepFailed_foldStopped h)) (.ite (h.of_standing (by rfl)) ?_)
  exact jobToNone_foldStopped (stepFailed_foldStopped (undoStep_foldStopped h .ok))

theorem sendFreeze_foldStopped (cause : Nat) : FoldStopped T (sendFreeze s cause) := by
  have hsent (x : BitVec 128) := sendCtl_foldStopped h x
  unfold sendFreeze
  dsimp only
  split
  · exact .ite ((hsent _).of_standing (by rfl)) (hsent _)
  · split
    · exact broadcast_foldStopped h _
    · exact h

end Stopped

end Sys2Proof.Machine
end

section
/-! SUPPORT. Faults of the mesh (spec 02, 03, 11): the watchdog's fault, the fault tree, and the freeze of the fold. -/

namespace Sys2Proof.Machine

/-! ## The watchdog (R51, R52) -/

/-- The watchdog of a tile that runs and is not held is looked at. -/
theorem exec_noProgress_running {s : State} {t : TileId} (h : OnTile s t) (hrun : (s.tile t.toNat).core.state = 1)
    (hheld : (s.tile t.toNat).router.held = false) (hhalted : (s.tile t.toNat).router.halted = false)
    (hfrozen : (s.tile t.toNat).router.frozen = false) (hlimit : (s.tile t.toNat).router.wdLimit ≠ 0) :
    exec (.noProgress t) s = .next
      (if (s.tile t.toNat).router.wdLimit.toNat ≤ (s.tile t.toNat).router.wdCount then meshFault s t.toNat 2 7 0 else s) := by
  refine (atIsland_of_on _ h.1 h.2).trans (congrArg _ (if_congr ?_ rfl rfl))
  have hset : ¬(s.tile t.toNat).router.wdLimit = 0#32 := hlimit
  simp [hrun, hheld, hhalted, hfrozen, hset]

/-- A tile that runs stops with the fault (R51). -/
theorem meshFault_running {s : State} {t : Nat} (hrun : (s.tile t).core.state = 1) (code port claimant : Nat) :
    meshFault s t code port claimant = s.setTile t { s.tile t with
      router := ((s.tile t).router.record code port claimant).halt, core := { (s.tile t).core with state := 3 } } := by
  rw [meshFault, State.modTile_eq, hrun]
  rfl

/-! ## The fault tree (R79) -/

/-- A row reports the first of its tiles that faults. -/
theorem exec_faultTreeReport_first {s : State} (row : Fin 64) {c : Nat} (hc : c < s.cols)
    (hfault : (s.tile (idOf row.val c)).faulted = true) (hfirst : ∀ c' < c, (s.tile (idOf row.val c')).faulted = false) :
    exec (.faultTreeReport row) s = .next (fireIf (decide (Sparse.get 0 s.melvor.rowFaults row.val = 0))
      (s.withMelvor fun m => { m with rowFaults := Sparse.set 0 m.rowFaults row.val (idOf row.val c + 1)
                                      firstFault := some (m.firstFault.getD (idOf row.val c)) }) 48) := by
  have hfind : (((List.range s.cols).map (idOf row.val)).find? fun t => (s.tile t).faulted) = some (idOf row.val c) := by
    have hcol : ((List.range s.cols).find? ((fun t => (s.tile t).faulted) ∘ idOf row.val)) = some c :=
      List.find?_range_eq_some.2 ⟨hfault, List.mem_range.2 hc, fun c' h => by simpa using hfirst c' h⟩
    rw [List.find?_map, hcol]
    rfl
  have hexec : exec (.faultTreeReport row) s = execFaultTreeReport row s := rfl
  rw [hexec, execFaultTreeReport, hfind]

/-! ## The freeze (R54, R260) -/

/-- A tile after the freeze of the loaded fold. -/
def Tile.freeze (x : Tile) : Tile :=
  if x.inFold then { x with
    router := { x.router.halt with frozen := true }
    core := { x.core with state := stopState x.core.state } }
  else x

/-- What every entry becomes under a change that leaves the value of an unlisted key. -/
theorem Sparse.get_map {α : Type} (d : α) {g : α → α} (hd : g d = d) (m : Sparse α) (k : Nat) :
    Sparse.get d (m.map fun x => (x.1, g x.2)) k = g (Sparse.get d m k) := by
  induction m with
  | nil => exact hd.symm
  | cons x m ih =>
    simp only [List.map_cons, Sparse.get]
    split
    · rfl
    · exact ih

theorem freezeTiles_tile (s : State) (k : Nat) : (freezeTiles s).tile k = (s.tile k).freeze := by
  have htiles : (freezeTiles s).tiles = s.tiles.map fun x => (x.1, x.2.freeze) := by
    refine List.map_congr_left fun x _ => ?_
    unfold Tile.freeze
    split <;> rfl
  have hunlisted : Tile.freeze {} = {} := if_neg Bool.false_ne_true
  rw [State.tile, htiles]
  exact Sparse.get_map {} hunlisted s.tiles k

theorem freeze_memories (x : Tile) : x.freeze.wmem = x.wmem ∧ x.freeze.amem = x.amem := by
  unfold Tile.freeze
  split <;> exact ⟨rfl, rfl⟩

theorem stopState_ne_running (st : BitVec 2) : stopState st ≠ 1 := by
  unfold stopState
  split <;> decide

theorem freeze_inFold {x : Tile} (h : x.inFold = true) : x.freeze.router.frozen = true ∧ x.freeze.core.state ≠ 1 := by
  rw [Tile.freeze, if_pos h]
  exact ⟨rfl, stopState_ne_running _⟩

theorem stopDrovers_tiles (s : State) : (stopDrovers s).tiles = s.tiles :=
  forAll_inv (fun u : State => u.tiles = s.tiles) _ (fun u d h => (State.setDrover_tiles u d _).trans h) (List.range 16) s rfl

/-- The freeze of a fold that runs stops its tiles and every drover. -/
theorem freezeFold_stops {s : State} (hfold : s.melvor.fold.isSome = true) (hrunning : s.melvor.foldFrozen = false) :
    FoldStopped (freezeTiles s).tiles (freezeFold s) := by
  have hfreeze : freezeFold s =
      fire ((stopDrovers (freezeTiles s)).withMelvor fun m => { m with foldFrozen := true }) 49 := by
    refine if_neg ?_
    rw [hrunning, Bool.false_or, Option.isNone_iff_eq_none]
    exact Option.isSome_iff_ne_none.1 hfold
  rw [hfreeze]
  refine fire_foldStopped ⟨(State.withMelvor_tiles _ _).trans (stopDrovers_tiles _), rfl, fun d hd => ?_⟩ 49
  rw [State.withMelvor_drover, stopDrovers, forAll_modDrover_drover, if_pos hd]

/-- The report of the fault and the end of the job leave the fold as it stands. -/
theorem foldFault_foldStopped {T : Sparse Tile} {s : State} (h : FoldStopped T (freezeFold s)) (cause : Nat) (own : Bool) :
    FoldStopped T (foldFault s cause own) := by
  have hnoted := withMelvor_foldStopped h
    (fun m => { m with lastFault := some (faultReport (freezeFold s) cause), activatedSinceFault := false }) rfl
  have hsent := FoldStopped.ite (c := own = true) (sendFreeze_foldStopped hnoted cause) hnoted
  have hfaulted := withMelvor_foldStopped (stepFailed_foldStopped hsent) (fun m => { m with jobState := 4 }) rfl
  unfold foldFault
  dsimp only
  split
  · exact postEvent_foldStopped (completeAll_foldStopped (dropRoutes_foldStopped hfaulted) 0x51 0x12 0) 0x0102
  · exact .ite (stopFailed_foldStopped hsent) hsent

theorem exec_foldFreeze_tile {s : State} (hfw : s.fwOn = true) (hfold : s.melvor.fold.isSome = true)
    (hrunning : s.melvor.foldFrozen = false) (hfault : (s.melvor.rowFaults.any fun y => decide (y.2 ≠ 0)) = true) :
    exec .foldFreeze s = .next (foldFault s 1 true) := by
  have hexec : exec .foldFreeze s = execFoldFreeze s := rfl
  have hloaded : s.melvor.fold.isNone = false := by
    rw [Option.isNone_eq_false_iff]
    exact hfold
  rw [hexec, execFoldFreeze]
  simp only [hfw, hloaded, hrunning, hfault, Bool.not_true, Bool.or_self, Bool.false_eq_true, if_false, if_true]

end Sys2Proof.Machine

open Sys2Proof Sys2Proof.Machine

/-- Settles O14: the watchdog's fault, the report of the row's first fault, and the freeze, which what follows it keeps. -/
theorem noProgressAndFreeze : Obligations.NoProgressAndFreeze := by
  unfold Obligations.NoProgressAndFreeze
  intro s t x r
  refine ⟨fun hon hrun hheld hhalted hfrozen hlimit => ⟨fun hover => ?fault, fun hunder => ?none⟩,
    fun row c hc hfault hfirst => ⟨_, exec_faultTreeReport_first row hc hfault hfirst, ?report⟩,
    fun hfw hfold hrunning hfault => ⟨_, exec_foldFreeze_tile hfw hfold hrunning hfault, ?freeze⟩⟩
  case fault =>
    rw [exec_noProgress_running hon hrun hheld hhalted hfrozen hlimit, if_pos hover, meshFault_running hrun]
    rfl
  case none => rw [exec_noProgress_running hon hrun hheld hhalted hfrozen hlimit, if_neg (Nat.not_le.2 hunder)]
  case report =>
    rw [fireIf_melvor]
    exact ⟨rfl, fun hbit => by rw [decide_eq_false hbit]; rfl, fun hbit => by rw [decide_eq_true hbit]; rfl⟩
  case freeze =>
    obtain ⟨htiles, hstands, hdrovers⟩ := foldFault_foldStopped (freezeFold_stops hfold hrunning) 1 true
    have htile (k : Nat) : (foldFault s 1 true).tile k = (s.tile k).freeze := by
      rw [State.tile, htiles]
      exact freezeTiles_tile s k
    simp only [htile]
    exact ⟨hstands, fun k hk => freeze_inFold hk, fun k => freeze_memories _, hdrovers⟩
end

section
/-! SUPPORT. The clear registers (spec 02, 10-18; R55, R233, R266, R289, R292, R329, R351, R364, R385): which words they are,
and the clears of more than one record. -/

namespace Sys2Proof.Machine

/-! ## The words -/

theorem regListed_box_clear : ∀ p : Port, regListed (portBlock p) 0x44 = true := by decide
theorem regListed_port_clear : ∀ p : Port, regListed (portBlock p) 0x8003C = true := by decide
theorem regListed_hbm_clear : ∀ k : Stack, regListed (0x18 + k.val) 0x28 = true := by decide

/-- The command of a register, of an agent that may write it, is the effect of the write. -/
theorem exec_gated {s : State} {w : Agent} {b o : Nat} {f : State → State} {c : Instr}
    (hc : exec c s = .next (writeGate s w b o f)) (hlist : regListed b o = true) (hw : MayWrite s w b o) :
    exec c s = .next (f s) := hc.trans (congrArg _ (writeGate_of_mayWrite s w f hlist hw))

/-! ## Blocks with a rule of their own (R364, R385) -/

theorem relGate_of_mayControl {s : State} {w : Agent} (f : State → State) (h : s.mayControl w = true) : relGate s w f = f s :=
  if_pos h

/-- What the clear of the interrupt controller's counters does to a group. -/
def IrqGrp.cleared (x : IrqGrp) : IrqGrp := { x with mergeCnt := 0, msgCnt := 0 }

/-- The clear of every group, with the refused writes. -/
theorem clearIrq_melvor (s : State) : clearIrq s .melvor 1 =
    forAll (List.range 16) { s with irq := { s.irq with wrRefused := 0 } } fun s g => s.modIrqGrp g IrqGrp.cleared := rfl

/-- Another agent's write is counted. -/
theorem clearIrq_other {s : State} {w : Agent} (v : Nat) (h : w ≠ .melvor) :
    clearIrq s w v = { s with irq := { s.irq with wrRefused := satAdd s.irq.wrRefused 1 } } := by
  have hno : (w == .melvor) = false := by simpa using h
  rw [clearIrq, irqGate, hno]
  rfl

/-- What the clear of the groups leaves. -/
theorem clearGroups_rest (s : State) (l : List Nat) :
    let u := forAll l s fun s g => s.modIrqGrp g IrqGrp.cleared
    u.irq.wrRefused = s.irq.wrRefused ∧ u.irq.insvc = s.irq.insvc ∧ u.power = s.power ∧ u.melvor = s.melvor := by
  intro u
  exact forAll_inv (fun u : State => u.irq.wrRefused = s.irq.wrRefused ∧ u.irq.insvc = s.irq.insvc ∧ u.power = s.power ∧
    u.melvor = s.melvor) (fun s g => s.modIrqGrp g IrqGrp.cleared) (fun _ _ h => h) l s ⟨rfl, rfl, rfl, rfl⟩

/-- Each group is cleared once. -/
theorem clearGroups_irqGrp (s : State) (n : Nat) {g : Nat} (hg : g < n) :
    (forAll (List.range n) s fun s g => s.modIrqGrp g IrqGrp.cleared).irqGrp g = (s.irqGrp g).cleared := by
  refine (forAll_at (I := fun _ => True) (a := g) (p := fun u : State => u.irqGrp g) (g := IrqGrp.cleared)
    (fun _ _ _ => trivial)
    (fun u j _ hne => ?other) (fun u _ => ?cleared) _ s List.nodup_range trivial).trans (if_pos (List.mem_range.2 hg))
  case other => rw [State.modIrqGrp_eq, State.setIrqGrp_irqGrp, if_neg (Ne.symm hne)]
  case cleared => rw [State.modIrqGrp_eq, State.setIrqGrp_irqGrp, if_pos rfl]

end Sys2Proof.Machine

open Sys2Proof Sys2Proof.Machine

/-- Settles O46: each clear register is listed, so the write of an agent that may make it is the clear of its block. -/
theorem clearCounters : Obligations.ClearCounters := by
  unfold Obligations.ClearCounters
  intro s w p d k f
  refine ⟨fun h => ?box, fun h => ⟨?portCounts, ?portFault⟩, fun h => ?drover, fun h => ⟨?hbmErrors, ?hbmTraffic⟩,
    fun h => ?link, fun h => ?group, fun h => ?power, fun h => ?irq, fun hne h => ?irqOther,
    fun hctl => ⟨fun h => ?rel, fun h => ?snap⟩, fun h => ?sec⟩
  case box => exact exec_gated (f := fun s => s.modBox p fun b => b.clear 1) rfl (regListed_box_clear p) h
  case portCounts => exact exec_gated (f := fun s => s.modPort p fun x => x.clear 1) rfl (regListed_port_clear p) h
  case portFault => exact exec_gated (f := fun s => s.modPort p fun x => x.clear 2) rfl (regListed_port_clear p) h
  case drover =>
    exact exec_gated (f := fun s => s.modDrover d fun x => x.clear 1) rfl (regListed_drover d.isLt (by decide) (by decide)) h
  case hbmErrors => exact exec_gated (f := fun s => s.modCtl k fun c => c.clear 1) rfl (regListed_hbm_clear k) h
  case hbmTraffic => exact exec_gated (f := fun s => s.modCtl k fun c => c.clear 2) rfl (regListed_hbm_clear k) h
  case link => exact exec_gated (f := fun s => s.modLink f fun l => l.clear 1) rfl (regListed_link f.isLt (by decide)) h
  case group => exact exec_gated (f := fun s => s.withGrp fun g => g.clear 1) rfl (by decide) h
  case power => exact exec_gated (f := fun s => s.withPower fun p => p.clear 1) rfl (by decide) h
  case irq =>
    refine ⟨_, exec_gated rfl (by decide) h, ?_⟩
    obtain ⟨hrefused, hinsvc, hpower, hmelvor⟩ :=
      clearGroups_rest { s with irq := { s.irq with wrRefused := 0 } } (List.range 16)
    rw [clearIrq_melvor]
    exact ⟨hrefused, hinsvc, hpower, hmelvor, fun g hg => clearGroups_irqGrp _ 16 hg⟩
  case irqOther => exact (exec_gated rfl (by decide) h).trans (congrArg _ (clearIrq_other 1 hne))
  case rel => exact (exec_gated rfl (by decide) h).trans (congrArg _ (relGate_of_mayControl _ hctl))
  case sec => exact exec_gated (f := fun s => s.withSec fun x => x.clear 1) rfl (by decide) h
  case snap => exact (exec_gated rfl (by decide) h).trans (congrArg _ (relGate_of_mayControl _ hctl))
end

section
/-! SUPPORT. The operating point and droop (spec 15; R330-R334, R344-R350): what each command does to the controller's
registers, and to the tiles. -/

namespace Sys2Proof.Machine

/-- A command that changes the controller's registers only. -/
theorem next_withPower {s : State} {f : Power → Power} {q : Power} (h : f s.power = q) :
    (.next (s.withPower f) : Result) = .next { s with power := q } := by
  rw [← h]
  rfl

/-! ## The start of a change (R334, R346) -/

theorem beginChange_up {p : Power} {q : Point} (h : p.point.rank < q.rank) : beginChange p q =
    { p with changing := true, chgTo := q, deferred := false, deferEvals := 0, chg := .slewing } := if_pos h

theorem beginChange_down {p : Power} {q : Point} (h : q.rank < p.point.rank) : beginChange p q =
    { p with changing := true, chgTo := q, deferred := false, deferEvals := 0, point := q, chg := .relocking } :=
  if_neg (Nat.lt_asymm h)

theorem defer_first {p : Power} (h : p.deferred = false) : defer p = { p with
    deferred := true, deferSeen := true, deferEvals := 0
    chgDeferCnt := if p.deferSeen then p.chgDeferCnt else satAdd p.chgDeferCnt 1 } := by
  rw [defer, h]
  rfl

section Start
variable {s : State}

/-- Before stage 4 the array stays at Dawn (R405). -/
theorem exec_pointChangeStart_early (h : s.boot.stage < 4) : exec .pointChangeStart s = .next s :=
  next_withPower (if_pos (by rw [decide_eq_true h, Bool.or_true]))

theorem exec_pointChangeStart_due (h : s.boot.stage ≥ 4) (hidle : s.power.chg = .idle) (hnight : s.power.point ≠ .night)
    (htarget : s.power.target ≠ s.power.point) {q : Power}
    (hq : (if s.power.droopActive || s.power.droopWait then defer s.power else beginChange s.power s.power.target) = q) :
    exec .pointChangeStart s = .next { s with power := q } := by
  have hdue : s.power.due = true := by simp [Power.due, hidle, hnight, htarget]
  have hstage : decide (s.boot.stage < 4) = false := decide_eq_false (BitVec.not_lt.2 h)
  refine next_withPower ((if_neg ?_).trans hq)
  rw [hdue, hstage]
  decide

end Start

/-! ## Slew and relock (R330) -/

theorem exec_slewEnd_slewing {s : State} (h : s.power.chg = .slewing) : exec .slewEnd s = .next { s with
    power := freqStep { s.power with supply := s.power.mv s.power.chgTo } } := by
  refine next_withPower ?_
  dsimp only
  rw [h]

theorem exec_slewEnd_slewingDown {s : State} (h : s.power.chg = .slewingDown) : exec .slewEnd s = .next { s with
    power := endChange { s.power with supply := s.power.mv s.power.point } } := by
  refine next_withPower ?_
  dsimp only
  rw [h]

theorem exec_relockEnd_relocking {s : State} (h : s.power.chg = .relocking) : exec .relockEnd s =
    .next ((countRelock s).withPower fun p =>
      if p.supply > p.mv p.point then { p with chg := .slewingDown } else endChange p) :=
  congrArg _ (if_neg (not_not.2 h))

theorem countRelock_power (s : State) : (countRelock s).power = s.power :=
  forAll_inv (fun u : State => u.power = s.power) _ (fun u t h => (State.setTile_power u t _).trans h) s.allTiles s rfl

theorem cols_le (s : State) : s.cols ≤ 128 := by
  unfold State.cols Grade.cols
  split <;> decide

theorem allTiles_nodup (s : State) : s.allTiles.Nodup := by
  have hcols := cols_le s
  refine List.nodup_flatMap.2 ⟨fun r _ => List.Nodup.map (fun c c' h => by simpa [idOf] using h) List.nodup_range,
    List.nodup_range.imp fun hne t h h' => ?_⟩
  obtain ⟨c, hc, rfl⟩ := List.mem_map.1 h
  obtain ⟨c', hc', he⟩ := List.mem_map.1 h'
  have hlt := List.mem_range.1 hc
  have hlt' := List.mem_range.1 hc'
  unfold idOf at he
  omega

theorem mem_allTiles {s : State} {t : Nat} (h : s.tileOk t = true) : t ∈ s.allTiles := by
  simp only [State.tileOk, Bool.and_eq_true, decide_eq_true_eq] at h
  obtain ⟨⟨hid, hcol⟩, -⟩ := h
  refine List.mem_flatMap.2 ⟨t / 128, List.mem_range.2 (by omega), List.mem_map.2 ⟨t % 128, List.mem_range.2 hcol, ?_⟩⟩
  unfold idOf
  omega

/-- What a relock does to a tile. -/
def Tile.relocked (x : Tile) : Tile := x.withRouter fun r => { r with stretchCnt := satAdd r.stretchCnt 128 }

theorem countRelock_eq (s : State) : countRelock s = forAll s.allTiles s fun s t => s.modTile t Tile.relocked := rfl

/-- Every tile counts the relock once. -/
theorem countRelock_tile {s : State} {t : Nat} (h : s.tileOk t = true) : (countRelock s).tile t = (s.tile t).relocked := by
  rw [countRelock_eq]
  refine (forAll_at (I := fun _ => True) (a := t) (p := fun u : State => u.tile t) (g := Tile.relocked) (fun _ _ _ => trivial)
    (fun u k _ hne => ?other) (fun u _ => ?counted) _ s (allTiles_nodup s) trivial).trans (if_pos (mem_allTiles h))
  case other => rw [State.modTile_eq, State.setTile_tile, if_neg (Ne.symm hne)]
  case counted => rw [State.modTile_eq, State.setTile_tile, if_pos rfl]

theorem countRelock_frame (s : State) (t : Nat) :
    ((countRelock s).tile t).wmem = (s.tile t).wmem ∧ ((countRelock s).tile t).core = (s.tile t).core := by
  rw [countRelock_eq]
  refine forAll_inv (fun u : State => (u.tile t).wmem = (s.tile t).wmem ∧ (u.tile t).core = (s.tile t).core) _
    (fun u k hu => ?_) _ _ ⟨rfl, rfl⟩
  rw [State.modTile_eq, State.setTile_tile]
  split
  · next hk => rw [← hk]; exact hu
  · exact hu

theorem exec_droopWaitEnd_halted {s : State} (hwait : s.power.droopWait = true) (hhalted : s.power.chg = .halted) :
    exec .droopWaitEnd s = .next { s with power := { s.power with
      droopWait := false, chg := s.power.resumeStage, deferred := false, deferEvals := 0 } } := by
  refine next_withPower ?_
  rw [hwait]
  exact if_pos hhalted

/-! ## Phases (R332, R333) -/

/-- The phase that a window shows. -/
def State.windowPhase (s : State) (x : WindowFacts) : BitVec 2 :=
  if x.upeBusy then 2 else if x.mxeLow && s.exchanging then 3 else if x.mxePairT then 1 else 0

theorem exec_phaseWindow (x : WindowFacts) (s : State) : exec (.phaseWindow x) s = .next { s with
    power := Power.aim { s.power with
      lastPhase := s.windowPhase x
      phase := if s.windowPhase x = s.power.lastPhase then s.windowPhase x else s.power.phase } } := rfl

/-! ## Night (R349, R350) -/

theorem exec_nightEntry_due {s : State} (hreq : s.power.nightReq = true) (hjob : s.melvor.jobState = 0)
    (hloader : s.melvor.loaderBusy = false) (hnight : s.power.point ≠ .night) (hidle : s.power.chg = .idle)
    (hdrovers : ∀ d, s.droverIdle d = true) : exec .nightEntry s = .next { s with power := { s.power with
      point := .night, target := .night, deferred := false, deferSeen := false, deferEvals := 0, droopWait := false
      pointChgCnt := satAdd s.power.pointChgCnt 1 } } := by
  refine congrArg _ (if_pos ?_)
  simp [hreq, hjob, hloader, hnight, hidle, hdrovers]

theorem exec_nightReq_mayWrite {s : State} {w : Agent} (h : MayWrite s w 0x04 0x0C) (v : Bool) :
    exec (.nightReq w v) s = .next (powerGate s w fun s => writeNightReq s v) :=
  congrArg _ (writeGate_of_mayWrite s w _ (by decide) h)

theorem exec_nightReq_refused {s : State} {w : Agent} (h : MayWrite s w 0x04 0x0C) (hno : s.mayControl w = false) (v : Bool) :
    exec (.nightReq w v) s = .next { s with power := { s.power with pwrWrRefused := satAdd s.power.pwrWrRefused 1 } } := by
  rw [exec_nightReq_mayWrite h, powerGate, hno]
  rfl

theorem exec_nightReq_taken {s : State} {w : Agent} (h : MayWrite s w 0x04 0x0C) (hctl : s.mayControl w = true) (v : Bool) :
    exec (.nightReq w v) s = .next (writeNightReq s v) := by
  rw [exec_nightReq_mayWrite h, powerGate, if_pos hctl]

/-- Away from Night the exit ends the request only. -/
theorem nightExit_awake {s : State} (h : s.power.point ≠ .night) :
    nightExit s = { s with power := { s.power with nightReq := false } } :=
  congrArg (fun q => { s with power := q }) (if_neg h)

theorem nightExit_night {s : State} (h : s.power.point = .night) :
    nightExit s = { s with power := Power.aim { s.power with
      nightReq := false, point := .dawn, chg := .idle, changing := false, supply := s.power.dawnMv, nightBlockUs := 100000
      pointChgCnt := satAdd s.power.pointChgCnt 1 } } :=
  congrArg (fun q => { s with power := q }) (if_pos h)

theorem exec_nightIdleExpiry_due {s : State} (hms : s.power.nightIdleMs ≠ 0) (hblock : s.power.nightBlockUs = 0)
    (hnight : s.power.point ≠ .night) (hfold : s.melvor.fold = none) :
    exec .nightIdleExpiry s = .next { s with power := { s.power with nightReq := true } } := by
  have hruns : ¬s.foldRuns = true := by simp [State.foldRuns, hfold]
  exact congrArg _ (if_pos ⟨hms, hblock, hnight, hruns⟩)

/-! ## Droop (R344-R346) -/

/-- The tile whose island enters Hold after `cycles` cycles of the stage that the droop ends. -/
def Tile.heldByDroop (x : Tile) (cycles : Nat) : Tile := { x with
  island := { x.island with stage := 1, droop := true }
  router := { x.router with
    stretchCnt := if x.island.stage = 0 then x.router.stretchCnt else satAdd x.router.stretchCnt cycles } }

/-- The tile whose island leaves its stage after `cycles` cycles; leaving the last one clears its droop. -/
def Tile.stageLeft (x : Tile) (cycles : Nat) : Tile :=
  let n : BitVec 3 := if x.island.stage = 4 then 0 else x.island.stage + 1
  { x with
    island := { x.island with stage := n, droop := x.island.droop && decide (n ≠ 0) }
    router := { x.router with stretchCnt := satAdd x.router.stretchCnt cycles } }

/-- The stages follow each other, and the droop ends with the last one (R344). -/
theorem stageLeft_eq {x : Tile} {k : BitVec 3} (cycles : Nat) (hk : x.island.stage = k) (hlo : 1 ≤ k) (hhi : k ≤ 4) :
    x.stageLeft cycles = { x with
      island := { x.island with stage := if k = 4 then 0 else k + 1, droop := if k = 4 then false else x.island.droop }
      router := { x.router with stretchCnt := satAdd x.router.stretchCnt cycles } } := by
  have hdroop : (x.island.droop && decide ((if k = 4 then 0 else k + 1) ≠ 0)) = if k = 4 then false else x.island.droop := by
    by_cases hlast : k = 4
    · simp [hlast]
    · have hnext : k + 1 ≠ 0 := by bv_omega
      rw [if_neg hlast, if_neg hlast, decide_eq_true hnext, Bool.and_true]
  rw [Tile.stageLeft, hk]
  dsimp only
  rw [hdroop]

/-- The controller after a detector has fired. -/
def Power.drooped (p : Power) (stage : BitVec 3) : Power :=
  let p := { p with
    droopActive := true
    droopEvents := if decide (stage = 0) || decide (stage = 4) then satAdd p.droopEvents 1 else p.droopEvents }
  let p := if p.droopWait then { p with droopWait := false, chgDeferCnt := satAdd p.chgDeferCnt 1 } else p
  match p.chg with
  | .slewing => defer { p with chg := .halted, resumeStage := .slewing }
  | .slewingDown => defer { p with chg := .halted, resumeStage := .slewingDown }
  | _ => p

theorem exec_droopDetect (t : TileId) (cycles : Nat) (s : State) :
    exec (.droopDetect t cycles) s = execDroopDetect t cycles s := rfl
theorem exec_stretchStageEnd (t : TileId) (cycles : Nat) (s : State) :
    exec (.stretchStageEnd t cycles) s = execStretchStageEnd t cycles s := rfl

/-- With no change in progress nothing is deferred. -/
theorem drooped_idle {p : Power} {stage : BitVec 3} (hidle : p.chg = .idle) (hwait : p.droopWait = false) :
    p.drooped stage = { p with
      droopActive := true
      droopEvents := if stage = 0 ∨ stage = 4 then satAdd p.droopEvents 1 else p.droopEvents } := by
  unfold Power.drooped
  simp only [hwait, hidle, Bool.false_eq_true, if_false, Bool.or_eq_true, decide_eq_true_eq]

/-- A slew is halted, and its change deferred. -/
theorem drooped_slewing {p : Power} {stage : BitVec 3} (hslewing : p.chg = .slewing) (hwait : p.droopWait = false)
    (hfirst : p.deferred = false) (hstage : stage = 0) : p.drooped stage = { p with
      droopActive := true, droopEvents := satAdd p.droopEvents 1, chg := .halted, resumeStage := .slewing
      deferred := true, deferSeen := true, deferEvals := 0
      chgDeferCnt := if p.deferSeen then p.chgDeferCnt else satAdd p.chgDeferCnt 1 } := by
  unfold Power.drooped
  simp only [hwait, hslewing, hstage, decide_true, Bool.true_or, Bool.false_eq_true, if_false, if_true]
  exact defer_first hfirst

section Droop
variable {s : State} {t : TileId} (h : OnTile s t) (cycles : Nat)
include h

theorem exec_droopDetect_blind (hchg : s.power.chg = .relocking) : exec (.droopDetect t cycles) s = .next s := by
  rw [exec_droopDetect, execDroopDetect, atIsland_of_on _ h.1 h.2]
  exact congrArg _ (if_pos (.inl hchg))

theorem exec_droopDetect_seen (hchg : s.power.chg ≠ .relocking) (hstage : (s.tile t.toNat).island.stage ≠ 1) :
    exec (.droopDetect t cycles) s = .next { s.setTile t.toNat ((s.tile t.toNat).heldByDroop cycles) with
      power := s.power.drooped (s.tile t.toNat).island.stage } := by
  rw [exec_droopDetect, execDroopDetect, atIsland_of_on _ h.1 h.2]
  exact congrArg _ (if_neg (not_or.2 ⟨hchg, hstage⟩))

theorem exec_stretchStageEnd_stretched (hstage : (s.tile t.toNat).island.stage ≠ 0) :
    exec (.stretchStageEnd t cycles) s = .next (
      let u := s.setTile t.toNat ((s.tile t.toNat).stageLeft cycles)
      { u with power := { s.power with
        droopActive := u.droops
        droopWait := s.power.droopWait ||
          (s.power.droopActive && !u.droops && (s.power.deferred || s.power.chg == .halted)) } }) := by
  rw [exec_stretchStageEnd, execStretchStageEnd, atIsland_of_on _ h.1 h.2]
  exact congrArg _ (if_neg hstage)

end Droop

end Sys2Proof.Machine

open Sys2Proof Sys2Proof.Machine

/-- Settles O47: the registers that each command leaves, and, of a droop and of a stage that ends, the tile. -/
theorem operatingPointAndDroop : Obligations.OperatingPointAndDroop := by
  unfold Obligations.OperatingPointAndDroop
  refine ⟨?controller, ?island⟩
  case controller =>
    intro s p on
    refine ⟨exec_pointChangeStart_early, fun hstage hidle hnight htarget => ?start, fun h => exec_slewEnd_slewing h,
      fun h => exec_slewEnd_slewingDown h, fun h => ?relock, fun hwait hhalted => ?waitEnd, fun x hupe hmxe => ?phase,
      fun x hupe => ?update, fun hreq hjob hloader hnight hidle hdrovers =>
        exec_nightEntry_due hreq hjob hloader hnight hidle hdrovers, fun w hw => ?nightReq,
      fun hms hblock hnight hfold => ?idleExpiry⟩
    case start =>
      refine ⟨fun hdroop hwait => ?_, fun hdroop hfirst => exec_pointChangeStart_due hstage hidle hnight htarget
        ((if_pos (Bool.or_eq_true_iff.2 (.inl hdroop))).trans (defer_first hfirst))⟩
      have hfree : (s.power.droopActive || s.power.droopWait) = false := Bool.or_eq_false_iff.2 ⟨hdroop, hwait⟩
      have hstarts {q : Power} (hq : beginChange s.power s.power.target = q) :=
        exec_pointChangeStart_due hstage hidle hnight htarget ((if_neg (ne_true_of_eq_false hfree)).trans hq)
      exact ⟨fun hup => hstarts (beginChange_up hup), fun hdown => hstarts (beginChange_down hdown)⟩
    case relock =>
      refine ⟨_, exec_relockEnd_relocking h, ?_, fun t ht => ?_, fun t => ?_⟩
      · rw [State.withPower_power, countRelock_power]; rfl
      · rw [State.withPower_tile, countRelock_tile ht]; rfl
      · rw [State.withPower_tile]; exact countRelock_frame s t
    case waitEnd => exact exec_droopWaitEnd_halted hwait hhalted
    case phase =>
      have hphase : s.windowPhase x = if x.mxePairT then 1 else 0 := by simp [State.windowPhase, hupe, hmxe]
      rw [exec_phaseWindow, hphase]
      refine ⟨fun hsame => ?_, fun hother => ?_⟩
      · rw [if_pos hsame.symm, ← hsame]
      · rw [if_neg (Ne.symm hother)]
    case update =>
      have hphase : s.windowPhase x = 2 := if_pos hupe
      refine ⟨_, exec_phaseWindow x s, hphase, ?_⟩
      rw [hphase]
      exact if_congr eq_comm rfl rfl
    case nightReq =>
      refine ⟨fun hctl => exec_nightReq_taken hw hctl true, fun hctl hawake => ?_, fun hctl hnight => ?_,
        fun hno v => exec_nightReq_refused hw hno v⟩
      · exact (exec_nightReq_taken hw hctl false).trans (congrArg _ (nightExit_awake hawake))
      · exact ⟨_, (exec_nightReq_taken hw hctl false).trans (congrArg _ (nightExit_night hnight)), rfl, rfl, rfl⟩
    case idleExpiry => exact exec_nightIdleExpiry_due hms hblock hnight hfold
  case island =>
    intro s t cycles p x i hold hon
    refine ⟨fun hidle hwait hstage => ?idle, fun hslewing hwait hfirst hstage => ?slewing,
      fun h => exec_droopDetect_blind hon cycles h, fun k hk hlo hhi => ?stage⟩
    case idle =>
      rw [exec_droopDetect_seen hon cycles (by rw [hidle]; decide) hstage, drooped_idle hidle hwait]
      rfl
    case slewing =>
      rw [exec_droopDetect_seen hon cycles (by rw [hslewing]; decide) (by rw [hstage]; decide),
        drooped_slewing hslewing hwait hfirst hstage]
      rfl
    case stage =>
      have hstretched : i.stage ≠ 0 := by rw [hk]; bv_omega
      rw [exec_stretchStageEnd_stretched hon cycles hstretched, stageLeft_eq cycles hk hlo hhi]
      rfl
end

section
/-! SUPPORT. Invariants that every step keeps (spec 02, 03, 10, 14, 15, 17): what each part of the module that an invariant
speaks of may hold, and the few updates of these parts that the steps make. -/

namespace Sys2Proof.Machine

/-- What the queues, buffers, counts and memories of the module may hold, each by itself, closed under the updates that the
commands make of it: so every command keeps it (`Invariant.step`). The depths of R67, R71, R76, R306, R337, R369, R372 and
the canonical forms of the memories are such invariants. -/
structure Invariant where
  /-- a tile's send buffer, and the commands and summaries that an engine has queued -/
  sendBuf : List SendMsg → Prop
  commands : List Cmd → Prop
  summaries : List (BitVec 128) → Prop
  wmem : Sparse Byte → Prop
  amem : Sparse (BitVec 48) → Prop
  /-- an HBM controller's tie token, its grants in a frame, and those since the scrub's last -/
  tok : Nat → Prop
  frame : Nat → Prop
  sinceScrub : Nat → Prop
  replayBuf : List SentFlit → Prop
  service : List Nat → Prop
  samples : List Nat → Prop
  hbm : Sparse Byte → Prop
  sendBuf_nil : sendBuf []
  sendBuf_sublist {l k : List SendMsg} : k.Sublist l → sendBuf l → sendBuf k
  sendBuf_push {l : List SendMsg} {m : SendMsg} : l.length < 4 → sendBuf l → sendBuf (l ++ [m])
  commands_nil : commands []
  commands_sublist {l k : List Cmd} : k.Sublist l → commands l → commands k
  commands_push {l : List Cmd} {c : Cmd} : l.length < 8 → commands l → commands (l ++ [c])
  summaries_nil : summaries []
  summaries_sublist {l k : List (BitVec 128)} : k.Sublist l → summaries l → summaries k
  summaries_push {l : List (BitVec 128)} {r : BitVec 128} : l.length < 4 → summaries l → summaries (l ++ [r])
  wmem_nil : wmem []
  wmem_set {m : Sparse Byte} {a : Nat} {v : Byte} : wmem m → wmem (Sparse.set 0 m a v)
  amem_nil : amem []
  amem_set {m : Sparse (BitVec 48)} {a : Nat} {v : BitVec 48} : amem m → amem (Sparse.set 0 m a v)
  tok_lt {n : Nat} : n < 32 → tok n
  frame_lt {n : Nat} : n < 16 → frame n
  sinceScrub_le {n : Nat} : n ≤ 255 → sinceScrub n
  replayBuf_nil : replayBuf []
  replayBuf_sublist {l k : List SentFlit} : k.Sublist l → replayBuf l → replayBuf k
  replayBuf_push {l : List SentFlit} {x : SentFlit} : l.length < 512 → replayBuf l → replayBuf (l ++ [x])
  service_nil : service []
  service_push {l : List Nat} {t : Nat} : l.length < 64 → service l → service (l ++ [t])
  samples_nil : samples []
  samples_push {l : List Nat} {w : Nat} : samples l → samples ((w :: l).take 10)
  hbm_nil : hbm []
  hbm_set {m : Sparse Byte} {a : Nat} {v : Byte} : hbm m → hbm (Sparse.set 0 m a v)
  hbm_filter {m : Sparse Byte} {p : Nat × Byte → Bool} : hbm m → hbm (m.filter p)

namespace Invariant

/-! ## One unit -/

/-- The queues of an engine. -/
def EngOk (I : Invariant) (q : EngQ) : Prop := I.commands q.queue ∧ I.summaries q.summs

/-- The send buffer of a tile core. -/
def CoreOk (I : Invariant) (c : TileCore) : Prop := I.sendBuf c.sendBuf

/-- The queues of the three engines. -/
def MxeOk (I : Invariant) (y : Mxe) : Prop := I.EngOk y.q
def VxeOk (I : Invariant) (y : Vxe) : Prop := I.EngOk y.q
def UpeOk (I : Invariant) (y : Upe) : Prop := I.EngOk y.q

/-- The queues and memories of a tile. -/
def TileOk (I : Invariant) (x : Tile) : Prop :=
  I.CoreOk x.core ∧ I.MxeOk x.mxe ∧ I.VxeOk x.vxe ∧ I.UpeOk x.upe ∧ I.wmem x.wmem ∧ I.amem x.amem

/-- The counts of an HBM controller. -/
def CtlOk (I : Invariant) (c : HbmCtl) : Prop := I.tok c.tok ∧ I.frame c.frame ∧ I.sinceScrub c.sinceScrub

/-- The replay buffer of a fold link's port. -/
def LinkOk (I : Invariant) (l : LinkPort) : Prop := I.replayBuf l.replayBuf

/-- The service record of module flash. -/
def FlashOk (I : Invariant) (f : Flash) : Prop := I.service f.service

/-- The samples of the input power. -/
def PowerOk (I : Invariant) (p : Power) : Prop := I.samples p.samples

/-- The parts that an invariant speaks of. -/
def Parts (I : Invariant) (tiles : Sparse Tile) (ctls : Sparse HbmCtl) (links : Sparse LinkPort) (service samples : List Nat)
    (hbm : Sparse Byte) : Prop :=
  (∀ x ∈ tiles, I.TileOk x.2) ∧ (∀ c ∈ ctls, I.CtlOk c.2) ∧ (∀ l ∈ links, I.LinkOk l.2) ∧
  I.service service ∧ I.samples samples ∧ I.hbm hbm

/-- The invariant holds of the state. -/
def Holds (I : Invariant) (s : State) : Prop :=
  I.Parts s.tiles s.hbmCtl s.links s.flash.service s.power.samples s.hbm

/-- The invariant holds of the state of a pair. -/
def HoldsFst {α : Type} (I : Invariant) (y : State × α) : Prop := I.Holds y.1

def HoldsSnd {α : Type} (I : Invariant) (y : α × State) : Prop := I.Holds y.2

/-- The invariant holds of the next state of a command. -/
def After (I : Invariant) : Result → Prop
  | .next s => I.Holds s
  | _ => True

/-- The invariant holds of the state that the operation of a word leaves. -/
def Ends (I : Invariant) : OpEnd → Prop
  | .retire s _ | .fault s _ _ | .stop s | .meshStop s => I.Holds s
  | .block _ => True

variable {I : Invariant}

theorem wmem_writeBytes {m : Sparse Byte} {a v n : Nat} (h : I.wmem m) : I.wmem (writeBytes m a v n) := by
  induction n generalizing m a v with
  | zero => exact h
  | succ n ih => exact ih (I.wmem_set h)

theorem hbm_writeBytes {m : Sparse Byte} {a v n : Nat} (h : I.hbm m) : I.hbm (writeBytes m a v n) := by
  induction n generalizing m a v with
  | zero => exact h
  | succ n ih => exact ih (I.hbm_set h)

theorem hbm_writeMasked {m : Sparse Byte} {a mask v n : Nat} (h : I.hbm m) : I.hbm (writeMasked m a mask v n) := by
  induction n generalizing m a mask v with
  | zero => exact h
  | succ n ih => exact ih (iteInduction (motive := I.hbm) (fun _ => I.hbm_set h) fun _ => h)

theorem engOk_empty : I.EngOk {} := ⟨I.commands_nil, I.summaries_nil⟩

theorem tileOk_reset : I.TileOk {} :=
  ⟨I.sendBuf_nil, engOk_empty, engOk_empty, engOk_empty, I.wmem_nil, I.amem_nil⟩

theorem ctlOk_reset : I.CtlOk {} := ⟨I.tok_lt (by decide), I.frame_lt (by decide), I.sinceScrub_le (by decide)⟩

/-! ## Sparse storage -/

/-- Each listed value of a map satisfies `P`. -/
theorem get_of_forall {α : Type} {P : α → Prop} {d : α} {m : Sparse α} {a : Nat} (h : ∀ x ∈ m, P x.2) (hd : P d) :
    P (Sparse.get d m a) := by
  induction m with
  | nil => exact hd
  | cons x r ih =>
    obtain ⟨k, v⟩ := x
    rw [Sparse.get]
    split
    · exact h (k, v) List.mem_cons_self
    · exact ih fun x hx => h x (List.mem_cons_of_mem _ hx)

theorem forall_ins {α : Type} {P : α → Prop} {m : Sparse α} {a : Nat} {v : α} (h : ∀ x ∈ m, P x.2) (hv : P v) :
    ∀ x ∈ Sparse.ins m a v, P x.2 := by
  induction m with
  | nil => simpa [Sparse.ins] using hv
  | cons x r ih =>
    obtain ⟨hx, hr⟩ := List.forall_mem_cons.1 h
    rw [Sparse.ins]
    split
    · exact List.forall_mem_cons.2 ⟨hv, h⟩
    · exact List.forall_mem_cons.2 ⟨hx, ih hr⟩

theorem forall_filter {α : Type} {P : α → Prop} {m : Sparse α} {p : Nat × α → Bool} (h : ∀ x ∈ m, P x.2) :
    ∀ x ∈ m.filter p, P x.2 := fun x hx => h x (List.mem_filter.1 hx).1

theorem forall_set {α : Type} [DecidableEq α] {P : α → Prop} {d : α} {m : Sparse α} {a : Nat} {v : α} (h : ∀ x ∈ m, P x.2)
    (hv : P v) : ∀ x ∈ Sparse.set d m a v, P x.2 := by
  rw [Sparse.set]
  split
  · exact forall_filter h
  · exact forall_ins (forall_filter h) hv

/-! ## The updates of the state -/

section Updates

variable {s : State} {c : Prop} [Decidable c]

protected theorem Holds.ite {u v : State} (hu : I.Holds u) (hv : I.Holds v) : I.Holds (if c then u else v) :=
  iteInduction (fun _ => hu) fun _ => hv

protected theorem Holds.forAll {α : Type} {l : List α} {f : State → α → State} (h : I.Holds s)
    (hf : ∀ u a, I.Holds u → I.Holds (f u a)) : I.Holds (forAll l s f) :=
  forAll_inv I.Holds f hf l s h

protected theorem Holds.forAll_fst {α β : Type} {l : List α} {x : State × β} {f : State × β → α → State × β} (h : I.Holds x.1)
    (hf : ∀ y a, I.Holds y.1 → I.Holds (f y a).1) : I.Holds (forAll l x f).1 :=
  forAll_inv (fun y => I.Holds y.1) f hf l x h

protected theorem Holds.tile (h : I.Holds s) (t : Nat) : I.TileOk (s.tile t) := get_of_forall h.1 tileOk_reset

protected theorem Holds.ctl (h : I.Holds s) (k : Nat) : I.CtlOk (s.ctl k) := get_of_forall h.2.1 ctlOk_reset

protected theorem Holds.link (h : I.Holds s) (f : Nat) : I.LinkOk (s.link f) :=
  get_of_forall h.2.2.1 I.replayBuf_nil

protected theorem Holds.service (h : I.Holds s) : I.service s.flash.service := h.2.2.2.1

protected theorem Holds.samples (h : I.Holds s) : I.samples s.power.samples := h.2.2.2.2.1

protected theorem Holds.hbm (h : I.Holds s) : I.hbm s.hbm := h.2.2.2.2.2

protected theorem Holds.setTile {t : Nat} {x : Tile} (h : I.Holds s) (hx : I.TileOk x) : I.Holds (s.setTile t x) :=
  ⟨forall_set h.1 hx, h.2⟩

protected theorem Holds.modTile {t : Nat} {f : Tile → Tile} (h : I.Holds s) (hf : ∀ x, I.TileOk x → I.TileOk (f x)) :
    I.Holds (s.modTile t f) := h.setTile (hf _ (h.tile t))

protected theorem Holds.setCtl {k : Nat} {c : HbmCtl} (h : I.Holds s) (hc : I.CtlOk c) : I.Holds (s.setCtl k c) :=
  ⟨h.1, forall_set h.2.1 hc, h.2.2⟩

protected theorem Holds.modCtl {k : Nat} {f : HbmCtl → HbmCtl} (h : I.Holds s) (hf : ∀ c, I.CtlOk c → I.CtlOk (f c)) :
    I.Holds (s.modCtl k f) := h.setCtl (hf _ (h.ctl k))

protected theorem Holds.setLink {f : Nat} {l : LinkPort} (h : I.Holds s) (hl : I.LinkOk l) : I.Holds (s.setLink f l) :=
  ⟨h.1, h.2.1, forall_set h.2.2.1 hl, h.2.2.2⟩

protected theorem Holds.modLink {f : Nat} {g : LinkPort → LinkPort} (h : I.Holds s) (hg : ∀ l, I.LinkOk l → I.LinkOk (g l)) :
    I.Holds (s.modLink f g) := h.setLink (hg _ (h.link f))

protected theorem Holds.withFlash {f : Flash → Flash} (h : I.Holds s) (hf : ∀ x, I.FlashOk x → I.FlashOk (f x)) :
    I.Holds (s.withFlash f) := ⟨h.1, h.2.1, h.2.2.1, hf _ h.2.2.2.1, h.2.2.2.2⟩

protected theorem Holds.withPower {f : Power → Power} (h : I.Holds s) (hf : ∀ p, I.PowerOk p → I.PowerOk (f p)) :
    I.Holds (s.withPower f) := ⟨h.1, h.2.1, h.2.2.1, h.2.2.2.1, hf _ h.2.2.2.2.1, h.2.2.2.2.2⟩

protected theorem Holds.withHbm {m : Sparse Byte} (h : I.Holds s) (hm : I.hbm m) : I.Holds { s with hbm := m } :=
  ⟨h.1, h.2.1, h.2.2.1, h.2.2.2.1, h.2.2.2.2.1, hm⟩

protected theorem Holds.withTiles {m : Sparse Tile} (h : I.Holds s) (hm : ∀ x ∈ m, I.TileOk x.2) :
    I.Holds { s with tiles := m } := ⟨hm, h.2⟩

/-! What an invariant does not speak of. -/

protected theorem Holds.setDrover {d : Nat} {x : Drover} (h : I.Holds s) : I.Holds (s.setDrover d x) := h
protected theorem Holds.modDrover {d : Nat} {f : Drover → Drover} (h : I.Holds s) : I.Holds (s.modDrover d f) := h
protected theorem Holds.setPort {p : Nat} {x : HostPort} (h : I.Holds s) : I.Holds (s.setPort p x) := h
protected theorem Holds.modPort {p : Nat} {f : HostPort → HostPort} (h : I.Holds s) : I.Holds (s.modPort p f) := h
protected theorem Holds.setBox {p : Nat} {x : Mailbox} (h : I.Holds s) : I.Holds (s.setBox p x) := h
protected theorem Holds.modBox {p : Nat} {f : Mailbox → Mailbox} (h : I.Holds s) : I.Holds (s.modBox p f) := h
protected theorem Holds.setIrqGrp {g : Nat} {x : IrqGrp} (h : I.Holds s) : I.Holds (s.setIrqGrp g x) := h
protected theorem Holds.modIrqGrp {g : Nat} {f : IrqGrp → IrqGrp} (h : I.Holds s) : I.Holds (s.modIrqGrp g f) := h
protected theorem Holds.setSecPort {p : Nat} {x : SecPort} (h : I.Holds s) : I.Holds (s.setSecPort p x) := h
protected theorem Holds.modSecPort {p : Nat} {f : SecPort → SecPort} (h : I.Holds s) : I.Holds (s.modSecPort p f) := h
protected theorem Holds.withMelvor {f : Melvor → Melvor} (h : I.Holds s) : I.Holds (s.withMelvor f) := h
protected theorem Holds.withRel {f : Reliability → Reliability} (h : I.Holds s) : I.Holds (s.withRel f) := h
protected theorem Holds.withSnap {f : Snapshot → Snapshot} (h : I.Holds s) : I.Holds (s.withSnap f) := h
protected theorem Holds.withSec {f : Security → Security} (h : I.Holds s) : I.Holds (s.withSec f) := h
protected theorem Holds.withGrp {f : Group → Group} (h : I.Holds s) : I.Holds (s.withGrp f) := h
protected theorem Holds.withBoot {f : Boot → Boot} (h : I.Holds s) : I.Holds (s.withBoot f) := h
protected theorem Holds.withFlashIf {f : FlashIf → FlashIf} (h : I.Holds s) : I.Holds (s.withFlashIf f) := h
protected theorem Holds.emit {o : Out} (h : I.Holds s) : I.Holds (s.emit o) := h

/-- A state with the same parts. -/
protected theorem Holds.of_eq {u : State} (h : I.Holds s) (ht : u.tiles = s.tiles) (hc : u.hbmCtl = s.hbmCtl)
    (hl : u.links = s.links) (hf : u.flash.service = s.flash.service) (hp : u.power.samples = s.power.samples)
    (hh : u.hbm = s.hbm) : I.Holds u := by
  rw [Holds, ht, hc, hl, hf, hp, hh]
  exact h

/-- An update of other fields. -/
protected theorem Holds.record {pe : List Instr} {ou : List Out} {fr : Nat} {dr : Sparse Drover} {ar : Arb} {poi : Sparse Bool}
    {ba : Sparse Nat} {wa : List Wait} {pts : Sparse HostPort} {mb : Sparse Mailbox} {me : Melvor} {gr : Group} {ir : Irq}
    {re : Reliability} {sn : Snapshot} {se : Security} {bo : Boot} {fi : FlashIf} {sm : BitVec 28} {ta : Tap} {cl : Nat}
    (h : I.Holds s) : I.Holds {
      pending := pe, out := ou, free := fr, tiles := s.tiles, drovers := dr, arb := ar, hbm := s.hbm, poison := poi, bad := ba
      hbmCtl := s.hbmCtl, waiting := wa, ports := pts, mbox := mb, melvor := me, links := s.links, grp := gr
      power := s.power, irq := ir, rel := re, snap := sn, sec := se, flash := s.flash, boot := bo, flashIf := fi
      smbPtr := sm, tap := ta, clockUs := cl } := h

protected theorem HoldsFst.mk {α : Type} {a : α} (h : I.Holds s) : I.HoldsFst (s, a) := h

theorem HoldsSnd.snd {α : Type} {y : α × State} (h : I.HoldsSnd y) : I.Holds y.2 := h

protected theorem After.next (h : I.Holds s) : I.After (.next s) := h

protected theorem Ends.ite {u v : OpEnd} (hu : I.Ends u) (hv : I.Ends v) : I.Ends (if c then u else v) :=
  iteInduction (fun _ => hu) fun _ => hv

end Updates

section TileUpdates

variable {x : Tile} {c : Prop} [Decidable c]

protected theorem TileOk.ite {y z : Tile} (hy : I.TileOk y) (hz : I.TileOk z) : I.TileOk (if c then y else z) :=
  iteInduction (fun _ => hy) fun _ => hz
protected theorem CoreOk.ite {c1 c2 : TileCore} (h1 : I.CoreOk c1) (h2 : I.CoreOk c2) : I.CoreOk (if c then c1 else c2) :=
  iteInduction (fun _ => h1) fun _ => h2
protected theorem MxeOk.ite {y1 y2 : Mxe} (h1 : I.MxeOk y1) (h2 : I.MxeOk y2) : I.MxeOk (if c then y1 else y2) :=
  iteInduction (fun _ => h1) fun _ => h2
protected theorem VxeOk.ite {y1 y2 : Vxe} (h1 : I.VxeOk y1) (h2 : I.VxeOk y2) : I.VxeOk (if c then y1 else y2) :=
  iteInduction (fun _ => h1) fun _ => h2
protected theorem UpeOk.ite {y1 y2 : Upe} (h1 : I.UpeOk y1) (h2 : I.UpeOk y2) : I.UpeOk (if c then y1 else y2) :=
  iteInduction (fun _ => h1) fun _ => h2
protected theorem CtlOk.ite {c1 c2 : HbmCtl} (h1 : I.CtlOk c1) (h2 : I.CtlOk c2) : I.CtlOk (if c then c1 else c2) :=
  iteInduction (fun _ => h1) fun _ => h2
protected theorem LinkOk.ite {l1 l2 : LinkPort} (h1 : I.LinkOk l1) (h2 : I.LinkOk l2) : I.LinkOk (if c then l1 else l2) :=
  iteInduction (fun _ => h1) fun _ => h2
protected theorem FlashOk.ite {f1 f2 : Flash} (h1 : I.FlashOk f1) (h2 : I.FlashOk f2) : I.FlashOk (if c then f1 else f2) :=
  iteInduction (fun _ => h1) fun _ => h2
protected theorem PowerOk.ite {p1 p2 : Power} (h1 : I.PowerOk p1) (h2 : I.PowerOk p2) : I.PowerOk (if c then p1 else p2) :=
  iteInduction (fun _ => h1) fun _ => h2

protected theorem TileOk.forAll {α : Type} {l : List α} {f : Tile → α → Tile} (h : I.TileOk x)
    (hf : ∀ y a, I.TileOk y → I.TileOk (f y a)) : I.TileOk (forAll l x f) :=
  forAll_inv I.TileOk f hf l x h

/-- An update of other fields. -/
protected theorem TileOk.record {b : Bool} {r : Router} {fl : Sparse Nat} {d : Decl} {w : Bool} {i : Island} {re : TileRel}
    {ba : Sparse Nat} (hx : I.TileOk x) : I.TileOk {
      inFold := b, router := r, core := x.core, mxe := x.mxe, vxe := x.vxe, upe := x.upe, wmem := x.wmem, amem := x.amem
      flaws := fl, decl := d, world := w, island := i, rel := re, bankTok := ba } := hx

protected theorem TileOk.wmem (hx : I.TileOk x) : I.wmem x.wmem := hx.2.2.2.2.1

protected theorem TileOk.amem (hx : I.TileOk x) : I.amem x.amem := hx.2.2.2.2.2

/-- An update of the memories, and of fields that an invariant does not speak of. -/
protected theorem TileOk.withMemories {b : Bool} {r : Router} {fl : Sparse Nat} {d : Decl} {w : Bool} {i : Island} {re : TileRel}
    {ba : Sparse Nat} {wm : Sparse Byte} {am : Sparse (BitVec 48)} (hx : I.TileOk x) (hw : I.wmem wm) (ha : I.amem am) :
    I.TileOk {
      inFold := b, router := r, core := x.core, mxe := x.mxe, vxe := x.vxe, upe := x.upe, wmem := wm, amem := am, flaws := fl
      decl := d, world := w, island := i, rel := re, bankTok := ba } :=
  ⟨hx.1, hx.2.1, hx.2.2.1, hx.2.2.2.1, hw, ha⟩

protected theorem TileOk.withRouter {f : Router → Router} (h : I.TileOk x) : I.TileOk (x.withRouter f) := h
protected theorem TileOk.withRel {f : TileRel → TileRel} (h : I.TileOk x) : I.TileOk (x.withRel f) := h

protected theorem TileOk.withCore {f : TileCore → TileCore} (h : I.TileOk x)
    (hf : ∀ c, I.CoreOk c → I.CoreOk (f c)) : I.TileOk (x.withCore f) := ⟨hf _ h.1, h.2⟩

protected theorem TileOk.withCore' {f : TileCore → TileCore} (h : I.TileOk x) (hf : I.CoreOk (f x.core)) :
    I.TileOk (x.withCore f) := ⟨hf, h.2⟩

protected theorem TileOk.withMxe {f : Mxe → Mxe} (h : I.TileOk x) (hf : ∀ y, I.MxeOk y → I.MxeOk (f y)) :
    I.TileOk (x.withMxe f) := ⟨h.1, hf _ h.2.1, h.2.2⟩
protected theorem TileOk.withVxe {f : Vxe → Vxe} (h : I.TileOk x) (hf : ∀ y, I.VxeOk y → I.VxeOk (f y)) :
    I.TileOk (x.withVxe f) := ⟨h.1, h.2.1, hf _ h.2.2.1, h.2.2.2⟩
protected theorem TileOk.withUpe {f : Upe → Upe} (h : I.TileOk x) (hf : ∀ y, I.UpeOk y → I.UpeOk (f y)) :
    I.TileOk (x.withUpe f) := ⟨h.1, h.2.1, h.2.2.1, hf _ h.2.2.2.1, h.2.2.2.2⟩

protected theorem Holds.modCore {s : State} {t : Nat} {f : TileCore → TileCore} (h : I.Holds s)
    (hf : ∀ c, I.CoreOk c → I.CoreOk (f c)) : I.Holds (s.modCore t f) :=
  h.modTile fun _ hx => hx.withCore hf

end TileUpdates

end Invariant

end Sys2Proof.Machine
end

section
/-! SUPPORT. Each operation and command of the model keeps an invariant. -/

namespace Sys2Proof.Machine.Invariant

variable {I : Invariant} {s : State}

protected theorem Holds.holdShown {state : BitVec 3} {step : Word} (h : I.Holds s) : I.Holds (holdShown s state step) :=
  .ite (.withMelvor h) h

protected theorem Holds.fire {n : Nat} (h : I.Holds s) : I.Holds (fire s n) :=
  .modIrqGrp h

protected theorem Holds.fireIf {c : Bool} {n : Nat} (h : I.Holds s) : I.Holds (fireIf c s n) :=
  .ite (.fire h) h

protected theorem Holds.putEntry {p : Port} {op status tag cmdSeq detail result : Nat} {noint : Bool} (h : I.Holds s) :
    I.Holds (putEntry s p op status tag cmdSeq detail result noint) :=
  .ite h (.ite (.setBox h) (.fireIf (.emit (.setBox h))))

protected theorem Holds.flushEvents {p : Port} {n : Nat} (h : I.Holds s) : I.Holds (flushEvents p n s) := by
  induction n generalizing s with
  | zero => exact h
  | succ n ih =>
    rw [flushEvents]
    split
    · exact h
    · exact .ite h (ih (.putEntry (.setBox h)))

protected theorem Holds.boxSettle {p : Port} (h : I.Holds s) : I.Holds (boxSettle s p) :=
  .fireIf (.setBox (.flushEvents h))

protected theorem Holds.complete {p : Port} {e : Line} {status detail result : Nat} (h : I.Holds s) :
    I.Holds (complete s p e status detail result) :=
  .boxSettle (.ite (.modBox (.withMelvor h)) (.putEntry (.withMelvor h)))

protected theorem Holds.completeJob {p : Port} {e : Line} (h : I.Holds s) : I.Holds (completeJob s p e) :=
  .ite (.withMelvor h) (.complete h)

protected theorem Holds.completeAll {op status detail : Nat} (h : I.Holds s) : I.Holds (completeAll s op status detail) :=
  .forAll h fun _ _ hu => .ite (.completeJob hu) (.complete hu)

protected theorem Holds.dropRoutes (h : I.Holds s) : I.Holds (dropRoutes s) :=
  .forAll h fun _ _ hu => .modLink hu fun _ hl => hl

protected theorem Holds.jobToNone (h : I.Holds s) : I.Holds (jobToNone s) := by
  unfold jobToNone
  extract_lets s1 s2 s3 s4
  have hs1 : I.Holds s1 := .withMelvor (.holdShown h)
  have hs2 : I.Holds s2 := .completeAll (.completeAll hs1)
  have hs3 : I.Holds s3 := .withMelvor (.dropRoutes hs2)
  have hs4 : I.Holds s4 := .withGrp hs3
  exact .ite hs4 (.withRel hs4)

protected theorem Holds.stepFailed (h : I.Holds s) : I.Holds (stepFailed s) :=
  .withMelvor h

protected theorem Holds.setLost {cause : Nat} (h : I.Holds s) : I.Holds (setLost s cause) :=
  .ite h (.fire (.withRel h))

protected theorem Holds.hostFetch {p : Port} {coh : Bool} {hpa n : Nat} (h : I.Holds s) : I.Holds (hostFetch s p coh hpa n) :=
  .ite (.forAll h fun _ _ hu => .emit hu) (.emit h)

protected theorem Holds.fresh (h : I.Holds s) : I.Holds (s.fresh).2 :=
  .record h

protected theorem Holds.decodeLine {a err : Nat} (h : I.Holds s) : I.Holds (decodeLine s a err).1 := by
  unfold decodeLine
  extract_lets _ _ _ s1 _ f g
  have hs1 : I.Holds s1 := .record h
  have hf : I.Holds f.2 := .fresh hs1
  have hg : I.Holds g.2 := .fresh hf
  split
  · exact hs1
  · split
    · exact hs1
    · split
      · exact hs1
      · split
        · exact hs1
        · exact hg

protected theorem Holds.countRead {a : Nat} (h : I.Holds s) : I.Holds (countRead s a) :=
  .modCtl h fun _ hc => hc

protected theorem Holds.countHbmCe {a : Nat} (h : I.Holds s) : I.Holds (countHbmCe s a) :=
  .modCtl h fun _ hc => hc

protected theorem Holds.stopDrovers (h : I.Holds s) : I.Holds (stopDrovers s) :=
  .forAll h fun _ _ hu => .modDrover hu

protected theorem Holds.freezeTiles (h : I.Holds s) : I.Holds (freezeTiles s) := by
  refine h.withTiles fun y hy => ?_
  obtain ⟨x, hx, rfl⟩ := List.mem_map.1 hy
  have hok : I.TileOk x.2 := h.1 x hx
  split
  · exact .record hok
  · exact hok

protected theorem Holds.freezeFold (h : I.Holds s) : I.Holds (freezeFold s) :=
  .ite h (.fire (.withMelvor (.stopDrovers (.freezeTiles h))))

protected theorem Holds.queueOn {f : Nat} {x : BitVec 128} (h : I.Holds s) : I.Holds (queueOn s f x) :=
  .modLink h fun _ hl => hl

protected theorem Holds.queueMsg {x : BitVec 128} {m : Nat} (h : I.Holds s) : I.Holds (queueMsg s x m) := by
  unfold queueMsg
  split
  · exact .queueOn h
  · exact h

protected theorem Holds.sendDown {x : BitVec 128} (h : I.Holds s) : I.Holds (sendDown s x) :=
  .ite h (.forAll (.emit h) fun _ _ hu => .queueMsg hu)

protected theorem Holds.sendUp {x : BitVec 128} (h : I.Holds s) : I.Holds (sendUp s x) :=
  .ite h (.queueMsg (.emit h))

protected theorem Holds.sendCtl {x : BitVec 128} (h : I.Holds s) : I.Holds (sendCtl s x) :=
  .ite (.sendDown h) (.sendUp h)

protected theorem Holds.snapEnd (h : I.Holds s) : I.Holds (snapEnd s) :=
  .ite (.fireIf (.withSnap h)) h

protected theorem Holds.fatalError {src : Nat} (h : I.Holds s) : I.Holds (fatalError s src) :=
  .ite (.fire h) (.snapEnd (.setLost (.forAll (.sendCtl (.stopDrovers (.freezeFold (.fire (.withRel h))))) fun _ _ hu => .ite
      (.emit (.withRel hu)) hu)))

protected theorem Holds.foundPoison {a : Nat} (h : I.Holds s) : I.Holds (foundPoison s a) :=
  .ite (.fatalError (.ite (.setLost h) h)) (.ite (.setLost h) h)

protected theorem Holds.countUe {a : Nat} {poison : Bool} (h : I.Holds s) : I.Holds (countUe s a poison) := by
  unfold countUe
  extract_lets _ c c2 s1
  have hc : I.CtlOk c := h.ctl _
  have hc2 : I.CtlOk c2 := hc
  have hs1 : I.Holds s1 := by
    unfold s1
    split
    · exact .setCtl h hc2
    · exact .fire (.setCtl h hc2)
  exact .foundPoison hs1

protected theorem Holds.readLine {a err : Nat} (h : I.Holds s) : I.Holds (readLine s a err).1 := by
  unfold readLine
  extract_lets _ r
  have hr : I.Holds r.1 := .decodeLine (.countRead h)
  split
  · exact hr
  · exact .countHbmCe hr
  · exact .countUe hr

protected theorem Holds.bytesRead {a n : Nat} (h : I.Holds s) : I.Holds (bytesRead s a n).1 :=
  .forAll_fst h fun _ _ hu => .readLine hu

protected theorem Holds.readJournal {i : Nat} (h : I.Holds s) : I.Holds (readJournal s i).1 := by
  unfold readJournal
  extract_lets a
  split
  · split
    · exact .hostFetch h
    · exact .setLost (.emit h)
  · split
    · exact .bytesRead (.setLost h)
    · exact .bytesRead h

protected theorem Holds.hostFlush {p : Port} {coh : Bool} {hpa : Nat} (h : I.Holds s) : I.Holds (hostFlush s p coh hpa) :=
  .ite h (.emit h)

protected theorem Holds.hostStore {p : Port} {coh : Bool} {hpa n v : Nat} (h : I.Holds s) :
    I.Holds (hostStore s p coh hpa n v) :=
  .ite (.forAll h fun _ _ hu => .ite (.emit hu) (.emit (.fresh (.emit hu)))) (.emit h)

protected theorem Holds.freshLines {n : Nat} (h : I.Holds s) : I.Holds (s.freshLines n).2 := by
  induction n generalizing s with
  | zero => exact h
  | succ n ih =>
    rw [State.freshLines]
    generalize (_ + _ : Nat) = v
    exact (ih h.fresh : I.Holds (s.fresh.2.freshLines n).2)

protected theorem Holds.worldRefused (h : I.Holds s) : I.Holds (worldRefused s) :=
  .withSec h

protected theorem Holds.snapAt {o n : Nat} {k : State → Port → Nat → State} (h : I.Holds s)
    (hk : ∀ u v w, I.Holds u → I.Holds (k u v w)) : I.Holds (snapAt s o n k) :=
  .ite (.snapEnd (.emit h)) (.ite (.snapEnd (.emit (.worldRefused h))) (hk _ _ _ h))

protected theorem Holds.snapStore {o n v : Nat} (h : I.Holds s) : I.Holds (snapStore s o n v) :=
  .snapAt h fun _ _ _ hu => .withSnap (.hostStore hu)

protected theorem Holds.snapCopy {page : Nat} (h : I.Holds s) : I.Holds (snapCopy s page) := by
  unfold snapCopy
  extract_lets a s1
  have hs1 : I.Holds s1 := .withSnap h
  split
  · exact hs1
  · extract_lets n f y r
    have hr : I.Holds r.2 := by
      unfold r
      split
      · split
        · exact .withSnap (.hostFetch (.freshLines hs1))
        · exact .snapEnd (.emit (.ite (.worldRefused hs1) hs1))
      · exact .bytesRead hs1
    exact .ite (.snapStore (.withSnap hr)) hr

protected theorem Holds.beforeWrite {r : Requester} {a : Nat} (h : I.Holds s) : I.Holds (beforeWrite s r a) := by
  unfold beforeWrite
  extract_lets _ s1 s2
  have hs1 : I.Holds s1 := .ite (.snapCopy h) h
  have hs2 : I.Holds s2 := .ite (.setLost hs1) hs1
  split
  · exact .ite (.setLost hs2) hs2
  · exact hs2

protected theorem Holds.beforePages {r : Requester} {a n : Nat} (h : I.Holds s) : I.Holds (beforePages s r a n) :=
  .forAll h fun _ _ hu => .beforeWrite hu

protected theorem Holds.countWrite {a : Nat} (h : I.Holds s) : I.Holds (countWrite s a) :=
  .modCtl h fun _ hc => hc

protected theorem Holds.storeLine {a : Nat} {mask : BitVec 64} {d : Line} {err : Nat} (h : I.Holds s) :
    I.Holds (storeLine s a mask d err) := by
  unfold storeLine
  extract_lets k s1 x s2 s3
  have hs1 : I.Holds s1 := .countWrite h
  have hs2 : I.Holds s2 := .countWrite (.readLine h)
  have hs3 : I.Holds s3 := .withHbm (.record hs2) (hbm_writeMasked (hbm_writeBytes hs2.hbm))
  exact .ite (.withHbm (.record hs1) (hbm_writeBytes hs1.hbm)) (.ite (.modCtl hs3 fun _ hc => hc) hs3)

protected theorem Holds.writeLine {r : Requester} {a : Nat} {mask : BitVec 64} {d : Line} {err : Nat} (h : I.Holds s) :
    I.Holds (writeLine s r a mask d err) :=
  .storeLine (.beforeWrite h)

protected theorem Holds.bytesWrite {r : Requester} {a n v : Nat} (h : I.Holds s) : I.Holds (bytesWrite r s a n v) :=
  .forAll h fun _ _ hu => .writeLine hu

protected theorem Holds.writePage {page v : Nat} (h : I.Holds s) : I.Holds (writePage s page v).1 := by
  unfold writePage
  split
  · extract_lets coh
    split
    · exact .hostFlush (.hostStore (.beforePages h))
    · exact .emit h
  · exact .bytesWrite h

protected theorem Holds.restorePages {l : List (Nat × Nat)} (h : I.Holds s) : I.Holds (restorePages l s).1 := by
  induction l generalizing s with
  | nil => exact h
  | cons x rest ih =>
    rw [restorePages]
    split
    · exact .readJournal h
    · dsimp only
      split
      · exact .writePage (.readJournal h)
      · exact ih (.writePage (.readJournal h))

protected theorem Holds.melvorWrite {a n v : Nat} (h : I.Holds s) : I.Holds (melvorWrite s a n v) :=
  .bytesWrite h

protected theorem Holds.undoStep {w : WriteBack} (h : I.Holds s) : I.Holds (undoStep s w).1 := by
  unfold undoStep
  split
  · exact .setLost h
  · exact h
  · extract_lets r j u
    have hr : I.Holds r.1 := .restorePages h
    have hu : I.Holds u := by
      unfold u
      split
      · exact .melvorWrite hr
      · exact hr
    split
    · exact hr
    · exact .withRel (.withMelvor hu)

protected theorem Holds.stopFailed (h : I.Holds s) : I.Holds (stopFailed s) :=
  .ite (.jobToNone (.stepFailed h)) (.ite (.withRel (.withMelvor h)) (.jobToNone (.stepFailed (.undoStep h))))

protected theorem Holds.finishStop (h : I.Holds s) : I.Holds (finishStop s) :=
  .ite (.stopFailed h) h

protected theorem Holds.underSecure {p : Port} {sec : Bool} {f : State → State} (h : I.Holds s)
    (hf : ∀ u, I.Holds u → I.Holds (f u)) : I.Holds (underSecure s p sec f) :=
  .ite (hf _ h) (.ite (.modPort (hf _ (.modPort h))) (hf _ (.modPort h)))

protected theorem Holds.portEvent {p kind bar : Nat} {addr : Addr} {rid : BitVec 16} (h : I.Holds s) :
    I.Holds (portEvent s p kind bar addr rid) := by
  unfold portEvent
  extract_lets x y
  split
  · exact .setPort h
  · exact .fire (.setPort h)

protected theorem Holds.addressFault {w : Agent} {bar : Nat} {off : Addr} (h : I.Holds s) :
    I.Holds (addressFault s w bar off) := by
  unfold addressFault
  split
  · exact .emit (.portEvent h)
  · exact .emit h

protected theorem Holds.writeGate {w : Agent} {b off : Nat} {f : State → State} (h : I.Holds s)
    (hf : ∀ u, I.Holds u → I.Holds (f u)) : I.Holds (writeGate s w b off f) := by
  unfold writeGate
  refine .ite h ?_
  split
  · exact .ite h (hf _ h)
  · exact .emit h
  · exact .ite (hf _ h) h
  · exact .ite h (.ite (.addressFault h) (.ite (.emit (.worldRefused (.portEvent h))) (hf _ h)))

protected theorem Holds.cfgErr {p : Port} (h : I.Holds s) : I.Holds (cfgErr s p) :=
  .fireIf (.modBox h)

protected theorem Holds.boxStop {p : Port} (h : I.Holds s) : I.Holds (boxStop s p) :=
  .withMelvor (.modBox h)

protected theorem Holds.writeEnable {p : Port} {en cmdCoh cplCoh : Bool} (h : I.Holds s) :
    I.Holds (writeEnable s p en cmdCoh cplCoh) := by
  unfold writeEnable
  extract_lets _ s1 s2
  have hs1 : I.Holds s1 := .ite (.ite (.cfgErr h) h) (.setBox h)
  have hs2 : I.Holds s2 := .modBox hs1
  exact .ite (.ite (.boxStop hs1) (.modBox hs1)) (.ite hs1 (.ite (.cfgErr (.modBox hs1)) (.modPort hs2)))

protected theorem Holds.writeRing {p : Port} {f : Mailbox → Mailbox} (h : I.Holds s) : I.Holds (writeRing s p f) :=
  .ite (.cfgErr h) (.modBox h)

protected theorem Holds.writeCmdProd {p : Port} {v : Nat} (h : I.Holds s) : I.Holds (writeCmdProd s p v) :=
  .boxSettle (.modBox h)

protected theorem Holds.writeCplCons {p : Port} {v : Nat} (h : I.Holds s) : I.Holds (writeCplCons s p v) :=
  .boxSettle (.modBox h)

protected theorem Holds.writeBox {p : Port} {o v : Nat} (h : I.Holds s) : I.Holds (writeBox s p o v) := by
  unfold writeBox
  split
  · exact .writeEnable h
  · exact .ite (.modBox h) h
  · exact .writeRing h
  · exact .writeRing h
  · exact .writeRing h
  · exact .writeRing h
  · exact .writeRing h
  · exact .writeRing h
  · exact .writeCmdProd h
  · exact .writeCplCons h
  · exact .modBox h
  · exact h

protected theorem Holds.writePort {p : Port} {o v : Nat} (h : I.Holds s) : I.Holds (writePort s p o v) := by
  unfold writePort
  split
  · exact .modPort h
  · exact .modPort h
  · exact h

/-! ## Interrupts -/

protected theorem Holds.irqGate {ok : Bool} {f : State → State} (h : I.Holds s) (hf : ∀ u, I.Holds u → I.Holds (f u)) :
    I.Holds (irqGate s ok f) :=
  .ite (hf _ h) (.record h)

protected theorem Holds.writePend {w : Agent} {g : Nat} {v : BitVec 16} (h : I.Holds s) : I.Holds (writePend s w g v) :=
  .irqGate h fun _ hu => .modIrqGrp hu

protected theorem Holds.writeIrqEnable {w : Agent} {g : Nat} {v : BitVec 16} (h : I.Holds s) :
    I.Holds (writeIrqEnable s w g v) :=
  .irqGate h fun _ hu => .modIrqGrp hu

protected theorem Holds.writeSet {w : Agent} {g : Nat} {v same : BitVec 16} (h : I.Holds s) : I.Holds (writeSet s w g v same) :=
  .irqGate h fun _ hu => .forAll hu fun _ _ hv => .fireIf hv

protected theorem Holds.setService {d : Nat} {g : Option Nat} (h : I.Holds s) : I.Holds (s.setService d g) :=
  .record h

protected theorem Holds.endService {g : Nat} (h : I.Holds s) : I.Holds (endService s g) :=
  .forAll h fun _ _ hu => .ite (.setService hu) hu

protected theorem Holds.writeRoute {w : Agent} {g : Nat} {r : BitVec 3} {holdoff : BitVec 16} (h : I.Holds s) :
    I.Holds (writeRoute s w g r holdoff) :=
  .irqGate h fun _ hu => .ite (.modIrqGrp hu) (.modIrqGrp (.endService hu))

protected theorem Holds.writeEoi {w : Agent} {g : Nat} {v : Bool} (h : I.Holds s) : I.Holds (writeEoi s w g v) :=
  .irqGate h fun _ hu => .ite (.endService hu) hu

protected theorem Holds.writeIrqOther {w : Agent} (h : I.Holds s) : I.Holds (writeIrqOther s w) :=
  .irqGate h fun _ hu => hu

protected theorem Holds.clearIrq {w : Agent} {v : Nat} (h : I.Holds s) : I.Holds (clearIrq s w v) :=
  .irqGate h fun _ hu => .ite (.forAll (.record hu) fun _ _ hv => .modIrqGrp hv) hu

protected theorem Holds.emitVector {p : Port} {v : Nat} (h : I.Holds s) : I.Holds (emitVector s p v) :=
  .emit h

protected theorem Holds.flushMsix {p : Port} (h : I.Holds s) : I.Holds (flushMsix s p) :=
  .forAll h fun _ _ hu => .ite (.emitVector (.setPort hu)) hu

protected theorem Holds.writeMsix {p : Port} {o v : Nat} (h : I.Holds s) : I.Holds (writeMsix s p o v) :=
  .ite (.flushMsix (.modPort h)) h

protected theorem Holds.writeIrq {w : Agent} {o v : Nat} (h : I.Holds s) : I.Holds (writeIrq s w o v) := by
  unfold writeIrq
  refine .ite ?_ ?_
  · split
    · exact .writePend h
    · exact .writeIrqEnable h
    · exact .writeSet h
    · exact .writeRoute h
    · exact .writeEoi h
    · exact .writeIrqOther h
  · refine .ite (.clearIrq h) (.ite (.writeIrqOther h) ?_)
    split
    · exact .writeMsix h
    · exact h

protected theorem Holds.powerGate {w : Agent} {f : State → State} (h : I.Holds s) (hf : ∀ u, I.Holds u → I.Holds (f u)) :
    I.Holds (powerGate s w f) :=
  .ite (hf _ h) (.withPower h fun _ hp => hp)

protected theorem PowerOk.aim {p : Power} (hp : I.PowerOk p) : I.PowerOk (p.aim) :=
  hp

protected theorem Holds.nightExit (h : I.Holds s) : I.Holds (nightExit s) :=
  .withPower h fun _ hp => .ite (.aim hp) hp

protected theorem Holds.writeNightReq {v : Bool} (h : I.Holds s) : I.Holds (writeNightReq s v) :=
  .ite (.withPower h fun _ hp => hp) (.nightExit h)

protected theorem PowerOk.clear {p : Power} {v : Nat} (hp : I.PowerOk p) : I.PowerOk (p.clear v) :=
  .ite hp hp

protected theorem Holds.writePower {w : Agent} {o v : Nat} (h : I.Holds s) : I.Holds (writePower s w o v) := by
  unfold writePower
  extract_lets own
  have hown {f : Power → Power} (hf : ∀ p, I.PowerOk p → I.PowerOk (f p)) : I.Holds (own f) :=
    .powerGate h fun _ hu => .withPower hu hf
  split
  · exact hown fun _ hp => hp
  · exact hown fun _ hp => .aim hp
  · exact .powerGate h fun _ hu => .withPower (.writeNightReq hu) fun _ hp => hp
  · exact hown fun _ hp => hp
  · exact hown fun _ hp => hp
  · exact .withPower h fun _ hp => .clear hp
  · exact .withPower h fun _ hp => hp
  · exact h

protected theorem Holds.ownWrite {w : Agent} {q : Nat} {f : Port → State} (h : I.Holds s) (hf : ∀ u, I.Holds (f u)) :
    I.Holds (ownWrite s w q f) := by
  unfold ownWrite
  split
  · exact .ite (hf _) h
  · exact h

protected theorem Holds.setReplayErr (h : I.Holds s) : I.Holds (setReplayErr s) :=
  .fireIf (.withSec h)

protected theorem Holds.issueNonce {dom : Nat} (h : I.Holds s) : I.Holds (issueNonce s dom).2 :=
  .withSec h

protected theorem Holds.renewNonce {p : Port} (h : I.Holds s) : I.Holds (renewNonce s p) :=
  .modSecPort (.issueNonce h)

protected theorem Holds.endRequest {p : Port} {r : Nat} (h : I.Holds s) : I.Holds (endRequest s p r) :=
  .ite (.renewNonce (.modSecPort h)) (.fire (.withSec (.renewNonce (.modSecPort h))))

protected theorem Holds.extendMeas {i : Nat} {d : Line} (h : I.Holds s) : I.Holds (extendMeas s i d) :=
  .withSec h

protected theorem Holds.measureWorld (h : I.Holds s) : I.Holds (measureWorld s) :=
  .extendMeas h

protected theorem Holds.nameBoundary (h : I.Holds s) : I.Holds (nameBoundary s) :=
  .ite (.withGrp h) h

protected theorem Holds.sendControl {act : Nat} (h : I.Holds s) : I.Holds (sendControl s act) :=
  .ite (.sendCtl h) h

protected theorem Holds.pauseJob (h : I.Holds s) : I.Holds (pauseJob s) :=
  .ite (.nameBoundary (.sendControl (.withMelvor h))) h

/-! ## Mailboxes -/

protected theorem Holds.portEvt {p : Port} {code : BitVec 16} {merged : Nat} (h : I.Holds s) :
    I.Holds (portEvt s p code merged) :=
  .ite (.setBox h) (.ite (.setBox h) (.boxSettle (.setBox h)))

protected theorem Holds.setOwner {o : Nat} (h : I.Holds s) : I.Holds (setOwner s o) := by
  unfold setOwner
  extract_lets _ s1 s2 _ s3 s4
  have hs1 : I.Holds s1 := .withMelvor h
  have hs2 : I.Holds s2 := .ite (.withFlashIf hs1) hs1
  have hs3 : I.Holds s3 := by
    unfold s3
    refine .ite ?_ hs2
    split
    · exact .ite (.record hs2) hs2
    · exact hs2
  have hs4 : I.Holds s4 := .forAll hs3 fun _ _ hu => .fireIf hu
  exact .ite h (.ite (.forAll (.withMelvor hs4) fun _ _ hu => .portEvt hu) hs4)

protected theorem Holds.postEvent {code : BitVec 16} (h : I.Holds s) : I.Holds (postEvent s code) :=
  .ite h (.ite (.forAll (.ite (.withMelvor h) (.fire h)) fun _ _ hu => .ite (.portEvt hu) hu)
      (.ite (.withMelvor (.ite (.withMelvor h) (.fire h))) (.portEvt (.ite (.withMelvor h) (.fire h)))))

protected theorem Holds.setHandover {p : Option Port} (h : I.Holds s) : I.Holds (setHandover s p) :=
  .ite (.withMelvor h) (.fire (.fire (.withMelvor h)))

protected theorem Holds.endHandovers {status : Nat} (h : I.Holds s) : I.Holds (endHandovers s status) :=
  .forAll (.setHandover h) fun _ _ hu => .complete hu

protected theorem Holds.grantClaim {p : Port} {e : Line} (h : I.Holds s) : I.Holds (grantClaim s p e) :=
  .ite (.complete (.endHandovers (.setOwner h))) (.complete h)

protected theorem Holds.vacate (h : I.Holds s) : I.Holds (vacate s) := by
  unfold vacate
  extract_lets claim s1 s2 s3
  have hs2 : I.Holds s2 := .ite (.postEvent (.setOwner h)) (.setOwner h)
  have hs3 : I.Holds s3 := by
    unfold s3
    cases claim with
    | none => exact hs2
    | some c => exact .grantClaim hs2
  exact .ite (.endHandovers hs3) hs3

protected theorem Holds.vacateOwner (h : I.Holds s) : I.Holds (vacateOwner s) :=
  .pauseJob (.vacate h)

protected theorem Holds.setSecure {p : Port} {v : Bool} (h : I.Holds s) : I.Holds (setSecure s p v) :=
  .ite h (.ite (.vacateOwner (.measureWorld (.fire (.modPort h)))) (.measureWorld (.fire (.modPort h))))

protected theorem Holds.measurePolicy (h : I.Holds s) : I.Holds (measurePolicy s) :=
  .extendMeas h

protected theorem Holds.flashWrite {f : Flash → Flash} (h : I.Holds s) (hf : ∀ x, I.FlashOk x → I.FlashOk (f x)) :
    I.Holds (flashWrite s f) := .withFlash h fun x hx => hf x hx

/-! ## Security -/

protected theorem Holds.setKey {k : Option (List Byte)} (h : I.Holds s) : I.Holds (setKey s k) :=
  .fire (.measurePolicy (.flashWrite h fun _ hf => hf))

protected theorem Holds.performRequest {p : Port} {c : Nat} (h : I.Holds s) : I.Holds (performRequest s p c) := by
  unfold performRequest
  split
  · exact .endRequest (.setSecure h)
  · exact .endRequest (.setSecure h)
  · exact .endRequest (.setKey h)
  · exact .endRequest (.setSecure (.setSecure (.setKey h)))
  · exact .modSecPort (.withSec h)
  · exact .endRequest (.measurePolicy (.flashWrite h fun _ hf => hf))

protected theorem Holds.writeSecCmd {p : Port} {c : Nat} {flashErr : Bool} (h : I.Holds s) :
    I.Holds (writeSecCmd s p c flashErr) :=
  .ite (.withSec h) (.ite (.performRequest (.ite (.setReplayErr h) h)) (.endRequest (.ite (.setReplayErr h) h)))

protected theorem Holds.regionGate {w : Agent} {off : Nat} {f : State → State} (h : I.Holds s)
    (hf : ∀ u, I.Holds u → I.Holds (f u)) : I.Holds (regionGate s w off f) := by
  unfold regionGate
  split
  · exact .ite (.emit (.worldRefused (.portEvent h))) (.ite (hf _ h) (.worldRefused h))
  · exact .ite (hf _ h) (.worldRefused h)

protected theorem Holds.setRegionErr (h : I.Holds s) : I.Holds (setRegionErr s) :=
  .withSec h

protected theorem Holds.applyEntry {e : Nat} (h : I.Holds s) : I.Holds (applyEntry s e) :=
  .ite h (.measureWorld (.withSec h))

protected theorem Holds.writeFlags {e : Nat} {valid secure : Bool} (h : I.Holds s) : I.Holds (writeFlags s e valid secure) :=
  .ite (.setRegionErr h) (.ite (.applyEntry (.withSec h)) (.withSec (.withSec h)))

protected theorem Holds.writeRegion {e word v : Nat} (h : I.Holds s) : I.Holds (writeRegion s e word v) := by
  unfold writeRegion
  split
  · exact .withSec h
  · exact .withSec h
  · exact .writeFlags h

protected theorem Holds.writeTileMap {i v : Nat} (h : I.Holds s) : I.Holds (writeTileMap s i v) :=
  .forAll h fun _ _ hu => .ite (.withSec hu) hu

protected theorem Holds.writeSecurity {w : Agent} {o v : Nat} (h : I.Holds s) : I.Holds (writeSecurity s w o v) := by
  unfold writeSecurity
  refine .ite (.ite (.withSec h) h) ?_
  refine .ite (.withSec h) ?_
  refine .ite (.ite (.ownWrite h fun _ => .writeSecCmd h) h) ?_
  refine .ite (.ite h (.regionGate h fun _ hu => .writeRegion hu)) ?_
  exact .ite (.regionGate h fun _ hu => .writeTileMap hu) (.ite (.ownWrite h fun _ => .modSecPort h) h)

protected theorem Holds.writeDrover {w : Agent} {d o v : Nat} (h : I.Holds s) : I.Holds (writeDrover s w d o v) := by
  unfold writeDrover
  split
  · exact .modDrover h
  · exact .modDrover h
  · exact .modDrover h
  · exact .ite h (.record h)
  · exact h

protected theorem CtlOk.clear {c : HbmCtl} {v : Nat} (hc : I.CtlOk c) : I.CtlOk (c.clear v) :=
  .ite (.ite hc hc) (.ite hc hc)

protected theorem Holds.writeHbm {k o v : Nat} (h : I.Holds s) : I.Holds (writeHbm s k o v) :=
  .ite (.modCtl h fun _ hc => .clear hc) h

protected theorem Holds.exchFault {code port stream src : Nat} (h : I.Holds s) :
    I.Holds (exchFault s code port stream src) := by
  unfold exchFault
  split
  · exact h
  · exact .fire (.withGrp h)

protected theorem Holds.portDown {f : FoldPort} (h : I.Holds s) : I.Holds (portDown s f) := by
  unfold portDown
  extract_lets l s1 s2
  have hs2 : I.Holds s2 := .fireIf (.setLink h I.replayBuf_nil)
  exact .ite (.exchFault hs2) hs2

protected theorem Holds.writeHoldDown {f : FoldPort} {v : Bool} (h : I.Holds s) : I.Holds (writeHoldDown s f v) :=
  .ite (.ite h (.modLink (.ite (.portDown h) h) fun _ hl => hl)) (.ite (.emit (.setLink h (h.link _))) h)

protected theorem Holds.startRetrain {f : FoldPort} (h : I.Holds s) : I.Holds (startRetrain s f) :=
  .ite h (.ite (.emit (.setLink h (h.link _))) (.emit (.emit (.setLink h (h.link _)))))

protected theorem LinkOk.clear {l : LinkPort} {v : Nat} (hl : I.LinkOk l) : I.LinkOk (l.clear v) :=
  .ite hl hl

protected theorem Holds.writeLink {f : FoldPort} {o v : Nat} (h : I.Holds s) : I.Holds (writeLink s f o v) := by
  unfold writeLink
  extract_lets s1
  have hs1 : I.Holds s1 := .writeHoldDown h
  split
  · exact .ite (.startRetrain hs1) hs1
  · exact .modLink h fun _ hl => hl
  · exact .modLink h fun _ hl => .clear hl
  · exact .ite h (.ite (.withGrp h) (.ite (.withGrp h) (.ite (.withGrp h) h)))

protected theorem Holds.relGate {w : Agent} {f : State → State} (h : I.Holds s) (hf : ∀ u, I.Holds u → I.Holds (f u)) :
    I.Holds (relGate s w f) :=
  .ite (hf _ h) h

protected theorem Holds.setNoSpare (h : I.Holds s) : I.Holds (setNoSpare s) :=
  .fireIf (.withRel h)

protected theorem Holds.markRetire {t : Nat} (h : I.Holds s) : I.Holds (markRetire s t) := by
  unfold markRetire
  refine .ite h (.ite h ?_)
  split
  · exact .setNoSpare (.withRel h)
  next hroom =>
    have hwrite : I.Holds (flashWrite s fun f => { f with service := f.service ++ [t] }) :=
      ⟨h.1, h.2.1, h.2.2.1, I.service_push (Nat.lt_of_not_ge hroom) h.service, h.2.2.2.2⟩
    exact .fireIf (.withRel hwrite)

protected theorem Holds.checkTile {t : Nat} (h : I.Holds s) : I.Holds (checkTile s t) :=
  .ite (.markRetire h) h

protected theorem Holds.checkLink {t i : Nat} (h : I.Holds s) : I.Holds (checkLink s t i) := by
  refine .ite (.ite ?_ (.markRetire h)) h
  split
  · exact .markRetire h
  · exact h

protected theorem Holds.checkTriggers (h : I.Holds s) : I.Holds (checkTriggers s) :=
  .forAll (.forAll h fun _ _ hu => .checkTile hu) fun _ _ hu => .checkLink hu

protected theorem Holds.writeReliability {o v : Nat} (h : I.Holds s) : I.Holds (writeReliability s o v) := by
  unfold writeReliability
  split
  · exact .withRel h
  · exact .checkTriggers (.withRel h)
  · exact .withRel h
  · exact .withRel h
  · exact h

protected theorem Holds.stepFire {read : State → Word} {upd : State → State} {n : Nat} (h : I.Holds s)
    (hupd : ∀ u, I.Holds u → I.Holds (upd u)) : I.Holds (stepFire s read upd n) :=
  .fireIf (hupd _ h)

protected theorem Holds.startSnapshot {t : Word} (h : I.Holds s) : I.Holds (startSnapshot s t) := by
  unfold startSnapshot
  split
  · exact h
  · exact .ite (.snapEnd (.withSnap h)) (.withSnap h)

protected theorem Holds.snapshotDue {t : Word} (h : I.Holds s) : I.Holds (snapshotDue s t) :=
  .ite (.stepFire (.withSnap h) fun _ hu => .withSnap hu) (.startSnapshot h)

protected theorem Holds.snapStart (h : I.Holds s) : I.Holds (snapStart s) :=
  .ite (.snapshotDue h) (.withSnap h)

protected theorem Holds.restoreBegin (h : I.Holds s) : I.Holds (restoreBegin s) :=
  .ite (.snapAt (.withSnap h) fun _ _ _ hu => .hostFetch hu) h

protected theorem Holds.writeSnapCmd {v : Nat} (h : I.Holds s) : I.Holds (writeSnapCmd s v) :=
  .ite (.restoreBegin (.ite (.snapEnd (.ite (.snapStart h) h)) (.ite (.snapStart h) h)))
      (.ite (.snapEnd (.ite (.snapStart h) h)) (.ite (.snapStart h) h))

protected theorem Holds.writeSnapshot {o v : Nat} (h : I.Holds s) : I.Holds (writeSnapshot s o v) := by
  unfold writeSnapshot
  split
  · exact .writeSnapCmd h
  · exact .withSnap h
  · exact .withSnap h
  · exact .withSnap h
  · exact .withSnap h
  · exact .withSnap h
  · exact h

protected theorem Holds.rstRefused (h : I.Holds s) : I.Holds (rstRefused s) :=
  .withBoot h

protected theorem Holds.cleared {b : Boot} (h : I.Holds s) : I.Holds (s.cleared b) := by
  change I.Parts [] [] [] s.flash.service [] []
  exact ⟨List.forall_mem_nil _, List.forall_mem_nil _, List.forall_mem_nil _, h.service, I.samples_nil, I.hbm_nil⟩

/-! ## Boot -/

protected theorem Holds.moduleReset {cause : Nat} (h : I.Holds s) : I.Holds (moduleReset s cause) :=
  .ite h (.ite (.stopDrovers (.withPower (.cleared h) fun _ hp => hp)) (.withPower (.cleared h) fun _ hp => hp))

protected theorem Holds.writeRstReq {w : Agent} {key : BitVec 16} {req : Bool} (h : I.Holds s) :
    I.Holds (writeRstReq s w key req) :=
  .ite (.rstRefused h) (.ite (.moduleReset h) h)

protected theorem Holds.writeTripClr {w : Agent} {v : Bool} (h : I.Holds s) : I.Holds (writeTripClr s w v) :=
  .ite (.rstRefused h) (.ite (.withFlash h fun _ hf => hf) h)

protected theorem Holds.flashGate {w : Agent} {idle : Bool} {f : State → State} (h : I.Holds s)
    (hf : ∀ u, I.Holds u → I.Holds (f u)) : I.Holds (flashGate s w idle f) :=
  .ite (.withFlashIf h) (hf _ h)

protected theorem Holds.writeFlCmd {w : Agent} {c : Nat} (h : I.Holds s) : I.Holds (writeFlCmd s w c) :=
  .flashGate h fun _ hu => .withFlashIf hu

protected theorem Holds.writeFlPage {w : Agent} {v : Nat} (h : I.Holds s) : I.Holds (writeFlPage s w v) :=
  .flashGate h fun _ hu => .withFlashIf hu

protected theorem Holds.writeFlData {w : Agent} {off v : Nat} (h : I.Holds s) : I.Holds (writeFlData s w off v) :=
  .flashGate h fun _ hu => .withFlashIf hu

protected theorem Holds.writeClock {w : Agent} {o v : Nat} (h : I.Holds s) : I.Holds (writeClock s w o v) := by
  unfold writeClock
  split
  · exact .writeRstReq h
  · exact .writeTripClr h
  · exact .writeFlCmd h
  · exact .writeFlPage h
  · exact .ite (.writeFlData h) h

protected theorem Holds.regEffect {w : Agent} {b o v : Nat} (h : I.Holds s) : I.Holds (regEffect s w b o v) := by
  unfold regEffect
  refine .ite (.ite (.writeBox h) (.writePort h)) ?_
  refine .ite (.writeIrq h) ?_
  refine .ite (.writePower h) ?_
  refine .ite (.writeSecurity h) ?_
  refine .ite (.writeDrover h) ?_
  refine .ite (.writeHbm h) ?_
  refine .ite (.writeLink h) ?_
  refine .ite (.relGate h fun _ hu => .writeReliability hu) ?_
  exact .ite (.relGate h fun _ hu => .writeSnapshot hu) (.ite (.writeClock h) h)

protected theorem Holds.regWrite {w : Agent} {b o v : Nat} (h : I.Holds s) : I.Holds (regWrite s w b o v) :=
  .writeGate h fun _ hu => .regEffect hu

protected theorem Holds.withRid {old : State} {p : Port} {rid : BitVec 16} {new : State} (_ : I.Holds old) (hnew : I.Holds new)
    : I.Holds (withRid old p rid new) := by
  unfold withRid
  split
  · exact hnew
  · exact .modPort hnew

protected theorem Holds.barFail {p : Port} {bar kind : Nat} {r : Tlp} (h : I.Holds s) : I.Holds (barFail s p bar kind r) :=
  .emit (.portEvent h)

protected theorem Holds.barRefuse {p : Port} {bar : Nat} {r : Tlp} {x : Reach} (h : I.Holds s) :
    I.Holds (barRefuse s p bar r x) :=
  .barFail (.ite (.modPort (.ite (.worldRefused h) h)) (.ite (.worldRefused h) h))

protected theorem Holds.bar0Do {p : Port} {r : Tlp} (h : I.Holds s) : I.Holds (bar0Do s p r) :=
  .ite (.ite (.portEvent h) (.withRid h (.ite (.regWrite (.regWrite h)) (.regWrite h)))) (.ite (.barRefuse h) (.emit h))

protected theorem Holds.writePoisoned {r : Requester} {a : Nat} {mask : BitVec 64} {d : Line} (h : I.Holds s) :
    I.Holds (writePoisoned s r a mask d) := by
  unfold writePoisoned
  extract_lets k s1 s2 s3
  have hs1 : I.Holds s1 := .beforeWrite h
  have hs2 : I.Holds s2 := .ite hs1 (.modCtl (.readLine hs1) fun _ hc => hc)
  have hs3 : I.Holds s3 := .countWrite hs2
  exact .withHbm (.record hs3) (hbm_writeMasked hs3.hbm)

protected theorem Holds.bar2Do {p : Port} {r : Tlp} (h : I.Holds s) : I.Holds (bar2Do s p r) :=
  .ite (.ite (.forAll (.portEvent h) fun _ _ hu => .writePoisoned hu) (.forAll h fun _ _ hu => .writeLine hu))
      (.emit (.ite (.portEvent (.bytesRead h)) (.bytesRead h)))

/-! ## Accesses -/

protected theorem TileOk.recode {x : Tile} {c : Nat × Nat} (hx : I.TileOk x) : I.TileOk (x.recode c) := .record hx

protected theorem TileOk.writeW {x : Tile} {a n v : Nat} (hx : I.TileOk x) : I.TileOk (x.writeW a n v) :=
  .withMemories hx (wmem_writeBytes hx.wmem) hx.amem

protected theorem TileOk.writeA {x : Tile} {w : Nat} {v : BitVec 48} (hx : I.TileOk x) : I.TileOk (x.writeA w v) :=
  .withMemories hx hx.wmem (I.amem_set hx.amem)

protected theorem TileOk.writeAByte {x : Tile} {a : Nat} {v : Byte} (hx : I.TileOk x) : I.TileOk (x.writeAByte a v) :=
  .writeA hx

protected theorem CoreOk.clear {c : TileCore} {v : Nat} (hc : I.CoreOk c) : I.CoreOk (c.clear v) :=
  .ite hc hc

protected theorem TileOk.withFlaw {x : Tile} {k : Nat} {e : Ecc} (hx : I.TileOk x) : I.TileOk (x.withFlaw k e) :=
  .ite hx (.record hx)

protected theorem Holds.setCount {t : Nat} {x : TileCount} (h : I.Holds s) : I.Holds (s.setCount t x) :=
  .withFlash h fun _ hf => hf

protected theorem Holds.chargeCe {t : Nat} {acc : Bool} (h : I.Holds s) : I.Holds (chargeCe s t acc) :=
  .checkTile (.setCount h)

protected theorem Holds.chargeUe {t : Nat} (h : I.Holds s) : I.Holds (chargeUe s t) :=
  .checkTile (.setCount h)

protected theorem Holds.bar4Check {t off n : Nat} {chk : Ecc} (h : I.Holds s) : I.Holds (bar4Check s t off n chk).1 := by
  unfold bar4Check
  extract_lets c s1
  have hs1 : I.Holds s1 := .ite h (.modTile h fun _ hx => .withFlaw hx)
  split
  · exact h
  · split
    · exact hs1
    · exact .chargeCe hs1
    · exact .chargeUe hs1

/-- A 32-bit write of a tile window that is performed. -/
theorem some_unless {c : Prop} [Decidable c] {x y : Tile} (hx : I.TileOk x)
    (hy : (if c then none else some x) = some y) : I.TileOk y := by
  split at hy
  · cases hy
  · cases hy; exact hx

theorem writeReg_ok {x y : Tile} {r v : Nat} (hx : I.TileOk x) (hy : x.writeReg r v = some y) : I.TileOk y := by
  rw [Tile.writeReg] at hy
  split at hy
  · cases hy; exact .withRouter hx
  · split at hy
    · cases hy; exact .withRouter hx
    · split at hy
      · cases hy; exact .withCore hx fun _ hc => .clear hc
      · split at hy
        · exact some_unless (.withRouter hx) hy
        · cases hy; exact hx

theorem write32_ok {x y : Tile} {off v : Nat} (hy : x.write32 off v = some y) (hx : I.TileOk x) : I.TileOk y := by
  rw [Tile.write32] at hy
  split at hy
  · cases hy
  · split at hy
    · exact some_unless (.writeW hx) hy
    · split at hy
      · exact some_unless (.forAll hx fun _ _ h => .writeAByte h) hy
      · split at hy
        · refine some_unless ?_ hy
          exact .withCore hx fun _ hc => hc
        · split at hy
          · exact writeReg_ok hx hy
          · cases hy

protected theorem HoldsFst.ite {α : Type} {c : Prop} [Decidable c] {u v : State × α} (hu : I.HoldsFst u) (hv : I.HoldsFst v) :
    I.HoldsFst (if c then u else v) := iteInduction (fun _ => hu) fun _ => hv

protected theorem Holds.iteFst {α : Type} {c : Prop} [Decidable c] {u v : State × α} (hu : I.Holds u.1) (hv : I.Holds v.1) :
    I.Holds (if c then u else v).1 := HoldsFst.ite hu hv

theorem barWrite32_ok {p : Port} {bar : Tlp} {t : Nat} {z : Option Tile} (h : I.Holds s) (hz : ∀ y, z = some y → I.TileOk y) :
    I.Holds (match z with
      | some y => (s.setTile t y, true)
      | none => (barFail s p 2 1 bar, false)).1 := by
  cases z with
  | none => exact .barFail h
  | some y => exact .setTile h (hz y rfl)

protected theorem Holds.bar4Do {p : Port} {half : Bool} {bar : Tlp} {chk : Ecc} (h : I.Holds s) :
    I.Holds (bar4Do s p half bar chk) := by
  unfold bar4Do
  extract_lets +onlyGivenNames r
  clear_value r
  refine .ite (.ite (.portEvent (.nightExit h)) (.forAll_fst (.nightExit h) fun y i hy => ?_)) ?_
  · exact .iteFst hy (.iteFst (.barFail hy) (barWrite32_ok hy fun z hz => write32_ok hz (hy.tile _)))
  · exact .ite (.barFail (.nightExit h)) (.emit (.ite (.portEvent (.bar4Check (.nightExit h))) (.bar4Check (.nightExit h))))

protected theorem Holds.memRdDo {p : Port} {k : MemOp} {a : Nat} {m : MetaValue} {err : Nat} (h : I.Holds s) :
    I.Holds (memRdDo s p k a m err) :=
  .ite (.emit (.ite h (.modPort h))) (.emit (.ite (.ite (.portEvent (.readLine h)) (.readLine h))
      (.modPort (.ite (.portEvent (.readLine h)) (.readLine h)))))

protected theorem Holds.memVoid {p : Port} {cmp : Bool} (h : I.Holds s) : I.Holds (memVoid s p cmp) :=
  .emit h

protected theorem Holds.memRefuse {p : Port} {a : Addr} {x : Reach} {cmp : Bool} (h : I.Holds s) :
    I.Holds (memRefuse s p a x cmp) :=
  .memVoid (.portEvent (.ite (.modPort (.ite (.worldRefused h) h)) (.ite (.worldRefused h) h)))

protected theorem Holds.memWrDo {p : Port} {a : Nat} {mask : BitVec 64} {d : Line} {poison : Bool} (h : I.Holds s) :
    I.Holds (memWrDo s p a mask d poison) :=
  .emit (.ite (.modPort (.writePoisoned (.portEvent h))) (.writeLine h))

protected theorem Holds.cacheLine {p : Port} {line : Nat} {c : CacheLine} (h : I.Holds s) : I.Holds (cacheLine s p line c) := by
  unfold cacheLine
  extract_lets s1
  have hs1 : I.Holds s1 := by
    unfold s1
    split
    · exact .ite (.emit (.modPort h)) h
    · exact h
  exact .modPort hs1

protected theorem Holds.melvorStore {p : Port} {hpa n v : Nat} (h : I.Holds s) : I.Holds (melvorStore s p hpa n v) := by
  unfold melvorStore
  refine .ite (.forAll h fun u x hu => ?_) (.hostFlush (.hostStore h))
  extract_lets d f r
  have hr : I.Holds r.2 := by
    unfold r
    split
    · exact .ite hu (.emit hu)
    · exact .emit (.fresh hu)
  exact .ite (.emit (.modPort hu)) (.cacheLine hr)

protected theorem Holds.hostWord {w : Agent} {a v : Nat} (h : I.Holds s) : I.Holds (hostWord s w a v) := by
  unfold hostWord
  split
  · exact .ite (.melvorStore (.beforePages h)) (.hostStore (.beforePages h))
  · exact h

protected theorem Holds.performAccess {w : Wait} (h : I.Holds s) : I.Holds (performAccess s w) := by
  unfold performAccess
  split
  · exact .underSecure h fun _ hu => .bar0Do hu
  · split
    · exact .bar2Do h
    · exact .bar2Do (.barRefuse h)
  · exact .bar4Do h
  · exact .memRdDo h
  · exact .ite (.memRefuse h) (.memWrDo h)
  · exact .hostWord h
  · exact h

protected theorem Holds.retryList {l kept : List Wait} (h : I.Holds s) : I.Holds (retryList l kept s) := by
  induction l generalizing kept s with
  | nil => exact .record h
  | cons c r ih =>
    rw [retryList]
    exact .ite (.record h) (.ite (ih h) (ih (.performAccess h)))

protected theorem Holds.retry (h : I.Holds s) : I.Holds (retry s) :=
  .finishStop (.ite h (.retryList h))

protected theorem Holds.emitFlit {f : FoldPort} {nak : Bool} {ftype : Nat} {x : SentFlit} (h : I.Holds s) :
    I.Holds (emitFlit s f nak ftype x) :=
  .emit (.modLink h fun _ hl => hl)

protected theorem Holds.sendFlit {f : FoldPort} {ctrl : Bool} {sids : List Nat} {body : List Line} {tags : List Byte}
    (h : I.Holds s) (hroom : (s.link f).replayBuf.length < 512) : I.Holds (sendFlit s f ctrl sids body tags) :=
  .emitFlit (.setLink h (I.replayBuf_push hroom (h.link f)))

theorem sendFlit_setLink {f : FoldPort} {y : LinkPort} {ctrl : Bool} {sids : List Nat} {body : List Line} {tags : List Byte}
    (h : I.Holds s) (hroom : (s.link f).replayBuf.length < 512) (hy : y.replayBuf = (s.link f).replayBuf) :
    I.Holds (sendFlit (s.setLink f y) f ctrl sids body tags) := by
  refine .sendFlit (.setLink h ?_) ?_
  · rw [LinkOk, hy]; exact h.link f
  · simpa [hy] using hroom

protected theorem Holds.pump {f : FoldPort} {n : Nat} (h : I.Holds s) : I.Holds (pump f n s) := by
  induction n generalizing s with
  | zero => exact h
  | succ n ih =>
    rw [pump]
    dsimp only
    split
    · exact h
    next hgo =>
      simp only [Bool.or_eq_true, decide_eq_true_eq, not_or, not_le] at hgo
      refine .ite (ih (sendFlit_setLink h hgo.2 ?_)) (.ite h (ih (sendFlit_setLink h hgo.2 ?_))) <;> rfl

protected theorem Holds.pumpAll {f : FoldPort} (h : I.Holds s) : I.Holds (pumpAll s f) :=
  .pump h

protected theorem Holds.publish (h : I.Holds s) : I.Holds (publish s) :=
  .ite h (.boxSettle (.boxSettle (.forAll (.forAll (.withMelvor h) fun _ _ hu => .fire hu) fun _ _ hu => .complete hu)))

protected theorem Holds.settle (h : I.Holds s) : I.Holds (settle s) :=
  .publish (.forAll (.ite h (.retry h)) fun _ _ hu => .ite (.pumpAll hu) hu)

protected theorem Holds.countUs (h : I.Holds s) : I.Holds (countUs s) :=
  .forAll (.ite (.withSnap (.withPower (.withGrp (.withMelvor (.withBoot h))) fun _ hp => hp))
      (.withPower (.withGrp (.withMelvor (.withBoot h))) fun _ hp => hp)) fun _ _ hu => .modDrover hu

protected theorem Holds.tick (h : I.Holds s) : I.Holds (tick s) :=
  .ite (.settle (.countUs (.record h))) (.record h)

protected theorem After.atTile {t : TileId} {f : State → State} (h : I.Holds s) (hf : ∀ u, I.Holds u → I.Holds (f u)) :
    I.After (atTile t s f) :=
  .next (.ite (hf _ h) h)

protected theorem After.atIsland {t : TileId} {f : State → State} (h : I.Holds s) (hf : ∀ u, I.Holds u → I.Holds (f u)) :
    I.After (atIsland t s f) :=
  .atTile h fun _ hu => .ite (hf _ hu) hu

protected theorem Holds.meshFault {t code port claimant : Nat} (h : I.Holds s) : I.Holds (meshFault s t code port claimant) :=
  .modTile h fun _ hx => .record hx

protected theorem Holds.chargeLinkUe {t i : Nat} (h : I.Holds s) : I.Holds (chargeLinkUe s t i) :=
  .checkLink (.withFlash (.setCount h) fun _ hf => hf)

protected theorem Holds.returnUe {t o : Nat} (h : I.Holds s) : I.Holds (returnUe s t o) := by
  unfold returnUe
  extract_lets s1
  have hs1 : I.Holds s1 := .meshFault h
  split
  · exact .chargeLinkUe hs1
  · exact hs1

protected theorem Holds.linkUe {t port : Nat} (h : I.Holds s) : I.Holds (linkUe s t port) :=
  .chargeLinkUe (.meshFault h)

protected theorem Holds.returnCredit {t d q : Nat} (h : I.Holds s) : I.Holds (returnCredit s t d q) := by
  unfold returnCredit
  split
  · exact .modTile h fun _ hx => .withRouter hx
  · exact .modDrover h
  · exact h

protected theorem Holds.popQueue {t k : Nat} (h : I.Holds s) : I.Holds (popQueue s t k) :=
  .returnCredit (.modTile h fun _ hx => .withRouter hx)

protected theorem Holds.sendToken {t o : Nat} {k : Token} (h : I.Holds s) : I.Holds (sendToken s t o k) := by
  unfold sendToken
  split
  · exact .modTile h fun _ hx => .withRouter hx
  · exact .modDrover h
  · exact h

protected theorem TileOk.chargeFree {x : Tile} {n : Nat} (hx : I.TileOk x) : I.TileOk (x.chargeFree n) :=
  .record hx

protected theorem Holds.sendOn {t o : Nat} {data : Line} {last : Bool} (h : I.Holds s) : I.Holds (sendOn s t o data last) :=
  .sendToken (.modTile (.modTile h fun _ hx => .withRouter hx) fun _ hx => .chargeFree hx)

protected theorem Holds.returnRoom {t inp : Nat} (h : I.Holds s) : I.Holds (returnRoom s t inp) := by
  unfold returnRoom
  split
  · exact .modTile h fun _ hx => .withRouter hx
  · exact .modDrover h
  · exact h

protected theorem Holds.popCross {t inp : Nat} (h : I.Holds s) : I.Holds (popCross s t inp) :=
  .returnRoom (.modTile h fun _ hx => .withRouter hx)

protected theorem Holds.takeSources {t : Nat} {x : Tile} (h : I.Holds s) : I.Holds (takeSources s t x) := by
  unfold takeSources
  extract_lets r fs inputs queues s1 s2
  have hs2 : I.Holds s2 := .forAll (.forAll h fun _ _ hu => .popCross hu) fun _ _ hu => .popQueue hu
  exact .ite (.modTile hs2 fun _ hx => .withCore hx fun _ hc => I.sendBuf_sublist (List.drop_sublist 1 _) hc) hs2

protected theorem Holds.crookTake {t : Nat} {x : Tile} {k : Nat} (h : I.Holds s) : I.Holds (crookTake s t x k) := by
  unfold crookTake
  split
  · exact h
  · exact .modTile (.forAll h fun _ _ hu => .popQueue hu) fun _ hx1 => .withRouter hx1

protected theorem Holds.completeSlot {t : Nat} (h : I.Holds s) : I.Holds (completeSlot s t) := by
  refine .modTile (.forAll (.takeSources (.forAll h fun u o hu => ?_)) fun _ _ hu => .crookTake hu)
    fun _ hx => .withRouter hx
  split
  · exact .sendOn hu
  · exact hu

protected theorem Holds.countCe {t inp : Nat} (h : I.Holds s) : I.Holds (countCe s t inp) :=
  .modTile h fun _ hx => .withRouter hx

/-! ## The mesh -/

protected theorem Holds.stallSlot {t : Nat} {lackOut held : Bool} (h : I.Holds s) : I.Holds (stallSlot s t lackOut held) :=
  .modTile h fun _ hx => .withRouter hx

protected theorem Holds.violate {t : Nat} {slot : BitVec 64} {done : Bool} {v : Nat × Nat} (h : I.Holds s) :
    I.Holds (violate s t slot done v) :=
  .modTile h fun _ hx => .ite (.record hx) (.record hx)

protected theorem Holds.slotEffect {t : Nat} {ret : Option (Fin 5)} {heads : List (Fin 32 × Ecc)} (h : I.Holds s) :
    I.Holds (slotEffect t ret heads s) := by
  unfold slotEffect
  extract_lets _ _ _ _ _ _ _ _ _ s1
  have hs1 : I.Holds s1 := .ite (.completeSlot (.forAll h fun _ _ hu => .countCe hu)) (.stallSlot h)
  refine .ite h ?_
  split
  · exact .returnUe h
  · split
    · exact .linkUe (.popQueue h)
    · split
      · exact hs1
      · exact .violate hs1

protected theorem After.execSlot {t : TileId} {ret : Option (Fin 5)} {heads : List (Fin 32 × Ecc)} (h : I.Holds s) :
    I.After (execSlot t ret heads s) :=
  .atIsland h fun _ hu => .slotEffect hu

protected theorem After.execEntryAdvance {t : TileId} (h : I.Holds s) : I.After (execEntryAdvance t s) :=
  .atIsland h fun _ hu => .ite (.setTile hu (.withRouter (hu.tile _))) hu

protected theorem Holds.tokenArrivalEffect {t inp : Nat} {chk : Ecc} (h : I.Holds s) :
    I.Holds (tokenArrivalEffect t inp chk s) := by
  unfold tokenArrivalEffect
  extract_lets _ s1
  have hs1 : I.Holds s1 := .ite (.countCe h) h
  split
  · exact h
  · refine .ite h ?_
    exact .ite (.linkUe (.popCross h)) (.ite hs1 (.ite (.popCross (.modTile hs1 fun _ hx => .withRouter hx)) h))

protected theorem After.execTokenArrival {t : TileId} {inp : Fin 5} {chk : Ecc} (h : I.Holds s) :
    I.After (execTokenArrival t inp chk s) :=
  .atIsland h fun _ hu => .tokenArrivalEffect hu

protected theorem After.execNoProgress {t : TileId} (h : I.Holds s) : I.After (execNoProgress t s) :=
  .atIsland h fun _ hu => .ite (.meshFault hu) hu

protected theorem Holds.maintWrite {w : Agent} {t off v : Nat} (h : I.Holds s) : I.Holds (maintWrite s w t off v) := by
  unfold maintWrite
  extract_lets barOff worldBad s1
  have hs1 : I.Holds s1 := .nightExit h
  refine .ite (.addressFault (.ite (.worldRefused h) h)) ?_
  split
  next hx => exact .setTile hs1 (write32_ok hx (hs1.tile t))
  · exact .addressFault hs1

protected theorem Holds.tileWrite {w : Agent} {t off v : Nat} (h : I.Holds s) : I.Holds (tileWrite s w t off v) :=
  .ite (.maintWrite h) (.addressFault h)

protected theorem After.execMeshWdLimit {w : Agent} {t : TileId} {v : Word} (h : I.Holds s) :
    I.After (execMeshWdLimit w t v s) :=
  .next (.tileWrite h)

protected theorem After.execClrStall {w : Agent} {t : TileId} (h : I.Holds s) : I.After (execClrStall w t s) :=
  .next (.tileWrite h)

protected theorem After.execClrCe {w : Agent} {t : TileId} (h : I.Holds s) : I.After (execClrCe w t s) :=
  .next (.tileWrite h)

protected theorem After.execFaultTreeReport {row : Fin 64} (h : I.Holds s) : I.After (execFaultTreeReport row s) := by
  unfold execFaultTreeReport
  refine .next ?_
  split
  · exact h
  · exact .fireIf (.withMelvor h)

protected theorem Holds.broadcast {x : BitVec 128} (h : I.Holds s) : I.Holds (broadcast s x) :=
  .forAll (.emit h) fun _ _ hu => .queueOn hu

protected theorem Holds.sendFreeze {cause : Nat} (h : I.Holds s) : I.Holds (sendFreeze s cause) := by
  refine .ite (.ite (.withGrp (.sendCtl h)) (.sendCtl h)) ?_
  split
  · exact .broadcast h
  · exact h

protected theorem Holds.foldFault {cause : Nat} {own : Bool} (h : I.Holds s) : I.Holds (foldFault s cause own) := by
  unfold foldFault
  extract_lets s1 s2 _ s3 s4
  have hs1 : I.Holds s1 := .freezeFold h
  have hs2 : I.Holds s2 := .withMelvor hs1
  have hs3 : I.Holds s3 := .ite (.sendFreeze hs2) hs2
  have hs4 : I.Holds s4 := .dropRoutes (.withMelvor (.stepFailed hs3))
  exact .ite (.postEvent (.completeAll hs4)) (.ite (.stopFailed hs3) hs3)

protected theorem After.execFoldFreeze (h : I.Holds s) : I.After (execFoldFreeze s) :=
  .next (.ite h (.ite (.foldFault h) (.ite (.foldFault h) h)))

protected theorem PowerOk.defer {p : Power} (hp : I.PowerOk p) : I.PowerOk (defer p) := by
  unfold defer
  exact .ite hp hp

protected theorem After.execDroopDetect {t : TileId} {cycles : Nat} (h : I.Holds s) :
    I.After (execDroopDetect t cycles s) := by
  refine .atIsland h fun u hu => .ite hu (.withPower (.modTile hu fun _ hx => .record hx) fun p hp => ?_)
  extract_lets q q2
  have hq2 : I.PowerOk q2 := PowerOk.ite (c := q.droopWait = true) hp hp
  split
  · exact .defer hq2
  · exact .defer hq2
  · exact hq2

protected theorem After.execStretchStageEnd {t : TileId} {cycles : Nat} (h : I.Holds s) :
    I.After (execStretchStageEnd t cycles s) :=
  .atIsland h fun _ hu => .ite hu (.withPower (.modTile hu fun _ hx => .record hx) fun _ hp => hp)

protected theorem Holds.tileWrite32 {w : Agent} {a v : Nat} (h : I.Holds s) : I.Holds (tileWrite32 s w a v) :=
  .ite (.addressFault h) (.tileWrite h)

protected theorem After.execTileMaintWrite {w : Agent} {a : Addr} {v : Word} (h : I.Holds s) :
    I.After (execTileMaintWrite w a v s) :=
  .next (.tileWrite32 h)

protected theorem Holds.reachTogether {k : Nat} {l : List LineReq} (h : I.Holds s) : I.Holds (reachTogether s k l) := by
  unfold reachTogether
  extract_lets tok
  split
  · exact h
  · refine .forAll (.ite (.modCtl h fun _ hc => ?_) h) fun _ _ hu => .modCtl hu fun _ hc => hc
    exact ⟨I.tok_lt (Nat.mod_lt _ (by decide)), hc.2⟩

protected theorem Holds.memWrite32 {w : Agent} {a v : Nat} (h : I.Holds s) : I.Holds (memWrite32 s w a v) := by
  unfold memWrite32
  extract_lets no
  have hno {u : State} (hu : I.Holds u) : I.Holds (no u) := .addressFault hu
  split
  · exact hno h
  · split
    · exact .reachTogether h
    · exact hno (.worldRefused h)
    · exact hno h
  · exact .ite (hno h) (.ite (hno (.worldRefused h)) (.ite (.record h) (.hostWord h)))

protected theorem Holds.devWrite32 {w : Agent} {a v : Nat} (h : I.Holds s) : I.Holds (devWrite32 s w a v) :=
  .ite (.ite (.regWrite h) h) (.ite (.tileWrite32 h) (.ite (.memWrite32 h) (.addressFault h)))

protected theorem After.execRegisterWrite {w : Agent} {a : Addr} {bytes : Nat} {v : BitVec 64} (h : I.Holds s) :
    I.After (execRegisterWrite w a bytes v s) :=
  .next (.ite (.devWrite32 h) (.ite (.devWrite32 (.devWrite32 h)) (.addressFault h)))

protected theorem CoreOk.tick {c : TileCore} {n : Nat} (hc : I.CoreOk c) : I.CoreOk (c.tick n) :=
  hc

protected theorem CoreOk.hold {c : TileCore} {w : Nat} (hc : I.CoreOk c) : I.CoreOk (c.hold w) :=
  hc

protected theorem Holds.retire {t next : Nat} (h : I.Holds s) : I.Holds (retire s t next) :=
  .modTile h fun _ hx => .record hx

protected theorem Holds.retireEnd {t pc : Nat} (h : I.Holds s) : I.Holds (retireEnd s t pc) :=
  .modCore (.retire h) fun _ hc => hc

protected theorem Holds.coreFault {t : Nat} {f : CoreFault} (h : I.Holds s) : I.Holds (coreFault s t f) :=
  .ite (.chargeUe (.modTile h fun _ hx => .record hx)) (.modTile h fun _ hx => .record hx)

protected theorem Holds.finish {t pc w : Nat} {same : Bool} {e : OpEnd} {u : State} (he : I.Ends e) (hu : I.Holds u) :
    I.Holds (finish t pc w same e u) := by
  have hdual {v : State} (hv : I.Holds v) : I.Holds (if same = true then
      v.modCore t fun c => { c with dual := satAdd c.dual 1 } else v.modTile t fun x => x.chargeFree 6) :=
    .ite (.modCore hv fun _ hc => hc) (.modTile hv fun _ hx => .chargeFree hx)
  unfold finish
  cases e with
  | retire v n => exact .modCore (hdual (.retire he)) fun _ hc => hc
  | stop v => exact .modCore (hdual (.retireEnd he)) fun _ hc => hc
  | fault v code info => exact .coreFault (hdual he)
  | meshStop v => exact hdual he
  | block on => exact .modCore hu fun _ hc => hc

protected theorem CoreOk.launch {c : TileCore} {w : Nat} (hc : I.CoreOk c) : I.CoreOk (c.launch w) :=
  hc

protected theorem Ends.launch {t w : Nat} {e : OpEnd} (he : I.Ends e) : I.Ends (e.launch t w) := by
  cases e with
  | retire u n => exact Holds.modTile he fun _ hx => .withCore hx fun _ hc => hc
  | fault | block | stop | meshStop => exact he

protected theorem Holds.issue {i : Issue} {mine : Nat → Bool} {op : Nat → State → OpEnd} (h : I.Holds s)
    (hop : ∀ w u, I.Holds u → I.Ends (op w u)) : I.Holds (issue i mine op s) := by
  unfold issue
  extract_lets t x pc w second s1 s2
  have hs1 : I.Holds s1 := .ite h (.modCore h fun _ hc => hc)
  have hs2 : I.Holds s2 := .ite (.modCore hs1 fun _ hc => hc) hs1
  exact .ite h (.ite (.finish hs1 hs1) (.ite (.finish hs2 hs2) (.ite (.finish hs2 hs2)
    (.ite (.finish (.launch (hop _ _ hs2)) hs2) (.finish hs2 hs2)))))

protected theorem After.row {code : Nat} {i : Issue} {op : Nat → Nat → State → OpEnd}
    (hop : ∀ t w u, I.Holds u → I.Ends (op t w u)) (h : I.Holds s) : I.After (row code i op s) :=
  .atIsland h fun _ hu => .issue hu fun _ _ hv => hop _ _ _ hv

protected theorem CoreOk.setG {c : TileCore} {n : Nat} {v : Word} (hc : I.CoreOk c) : I.CoreOk (c.setG n v) :=
  .ite hc hc

/-! ## The tile core -/

protected theorem Ends.opReg {t rd : Nat} {v : TileCore → Word} (h : I.Holds s) : I.Ends (opReg t rd v s) :=
  Holds.setTile h (.withCore (h.tile t) fun _ hc => .setG hc)

protected theorem Ends.opAlu {t w : Nat} (h : I.Holds s) : I.Ends (opAlu t w s) :=
  .opReg h

protected theorem After.execAlu {i : Issue} (h : I.Holds s) : I.After (execAlu i s) :=
  .row (fun _ _ _ hu => .opAlu hu) h

protected theorem Ends.opImm {fn t w : Nat} (h : I.Holds s) : I.Ends (opImm fn t w s) :=
  .opReg h

protected theorem After.execAddi {i : Issue} (h : I.Holds s) : I.After (execAddi i s) :=
  .row (fun _ _ _ hu => .opImm hu) h

protected theorem After.execAndi {i : Issue} (h : I.Holds s) : I.After (execAndi i s) :=
  .row (fun _ _ _ hu => .opImm hu) h

protected theorem After.execOri {i : Issue} (h : I.Holds s) : I.After (execOri i s) :=
  .row (fun _ _ _ hu => .opImm hu) h

protected theorem After.execXori {i : Issue} (h : I.Holds s) : I.After (execXori i s) :=
  .row (fun _ _ _ hu => .opImm hu) h

protected theorem After.execSlli {i : Issue} (h : I.Holds s) : I.After (execSlli i s) :=
  .row (fun _ _ _ hu => .opImm hu) h

protected theorem After.execSrli {i : Issue} (h : I.Holds s) : I.After (execSrli i s) :=
  .row (fun _ _ _ hu => .opImm hu) h

protected theorem After.execSrai {i : Issue} (h : I.Holds s) : I.After (execSrai i s) :=
  .row (fun _ _ _ hu => .opImm hu) h

protected theorem Ends.opLui {t w : Nat} (h : I.Holds s) : I.Ends (opLui t w s) :=
  .opReg h

protected theorem After.execLui {i : Issue} (h : I.Holds s) : I.After (execLui i s) :=
  .row (fun _ _ _ hu => .opLui hu) h

protected theorem CoreOk.setP {c : TileCore} {n : Nat} {v : Bool} (hc : I.CoreOk c) : I.CoreOk (c.setP n v) :=
  .ite hc hc

protected theorem Ends.opPred {t pd : Nat} {v : TileCore → Bool} (h : I.Holds s) : I.Ends (opPred t pd v s) :=
  Holds.setTile h (.withCore (h.tile t) fun _ hc => .setP hc)

protected theorem Ends.opCmp {t w : Nat} (h : I.Holds s) : I.Ends (opCmp t w s) :=
  .opPred h

protected theorem After.execCmp {i : Issue} (h : I.Holds s) : I.After (execCmp i s) :=
  .row (fun _ _ _ hu => .opCmp hu) h

protected theorem Ends.opCmpi {t w : Nat} (h : I.Holds s) : I.Ends (opCmpi t w s) :=
  .opPred h

protected theorem After.execCmpi {i : Issue} (h : I.Holds s) : I.After (execCmpi i s) :=
  .row (fun _ _ _ hu => .opCmpi hu) h

protected theorem Ends.opPlog {t w : Nat} (h : I.Holds s) : I.Ends (opPlog t w s) :=
  .opPred h

protected theorem After.execPlog {i : Issue} (h : I.Holds s) : I.After (execPlog i s) :=
  .row (fun _ _ _ hu => .opPlog hu) h

theorem chargeCe_tile (s : State) (t : Nat) (acc : Bool) (k : Nat) : (chargeCe s t acc).tile k = s.tile k := by
  unfold chargeCe checkTile
  extract_lets c
  generalize (if acc = true then _ else _ : TileCount) = m
  split
  · exact markRetire_tile _ _ _
  · rfl

theorem chargeCe_or_tile (c : Prop) [Decidable c] (s : State) (t : Nat) (acc : Bool) (k : Nat) :
    (if c then chargeCe s t acc else s).tile k = s.tile k := by
  split
  · exact chargeCe_tile s t acc k
  · rfl

/-- What a checked read goes on with has the tile's core as before. -/
protected theorem Ends.readChecked {t : Nat} {acc : Bool} {c : Nat × Nat} {e : Ecc} {info : Nat} {k : State → OpEnd}
    (h : I.Holds s) (hk : ∀ u, (u.tile t).core = (s.tile t).core → I.Holds u → I.Ends (k u)) :
    I.Ends (readChecked s t acc c e info k) := by
  unfold readChecked
  extract_lets s1
  have hs1 : I.Holds s1 := .modTile h fun _ hx => .withFlaw hx
  have hcore : (s1.tile t).core = (s.tile t).core := by
    simp only [s1, State.modTile_eq, State.setTile_tile, if_true]
    rw [Tile.withFlaw]
    split <;> rfl
  split
  · exact hk _ hcore hs1
  · exact hk _ (by rw [chargeCe_tile, hcore]) (.chargeCe hs1)
  · exact hs1

protected theorem Holds.useWm {t n : Nat} (h : I.Holds s) : I.Holds (useWm s t n) :=
  .modTile h fun _ hx => .chargeFree hx

protected theorem Ends.opLd {e : Ecc} {t w : Nat} (h : I.Holds s) : I.Ends (opLd e t w s) :=
  .ite h (.readChecked (.useWm h) fun _ _ hu => .opReg hu)

protected theorem After.execLd {i : Issue} {e : Ecc} (h : I.Holds s) : I.After (execLd i e s) :=
  .row (fun _ _ _ hu => .opLd hu) h

protected theorem Ends.opSt {t w : Nat} (h : I.Holds s) : I.Ends (opSt t w s) := by
  unfold opSt
  refine .ite h ?_
  exact Holds.modTile (.useWm h) fun _ hx => .writeW hx

protected theorem After.execSt {i : Issue} (h : I.Holds s) : I.After (execSt i s) :=
  .row (fun _ _ _ hu => .opSt hu) h

protected theorem Ends.opLda {e : Ecc} {t w : Nat} (h : I.Holds s) : I.Ends (opLda e t w s) := by
  unfold opLda
  refine .ite h (.readChecked h fun _ _ hu => ?_)
  exact Holds.modCore hu fun _ hc => .setG (.setG hc)

protected theorem After.execLda {i : Issue} {e : Ecc} (h : I.Holds s) : I.After (execLda i e s) :=
  .row (fun _ _ _ hu => .opLda hu) h

protected theorem Ends.opSta {t w : Nat} (h : I.Holds s) : I.Ends (opSta t w s) := by
  unfold opSta
  refine .ite h ?_
  exact Holds.modTile h fun _ hx => .writeA hx

protected theorem After.execSta {i : Issue} (h : I.Holds s) : I.After (execSta i s) :=
  .row (fun _ _ _ hu => .opSta hu) h

protected theorem Ends.opBranch {target : Int} {s1 : State} (h : I.Holds s) (hs1 : I.Holds s1) :
    I.Ends (opBranch target s s1) := .ite h hs1

protected theorem Ends.opBr {t w : Nat} (h : I.Holds s) : I.Ends (opBr t w s) := .opBranch h h

protected theorem After.execBr {i : Issue} (h : I.Holds s) : I.After (execBr i s) :=
  .row (fun _ _ _ hu => .opBr hu) h

protected theorem Ends.opJr {t w : Nat} (h : I.Holds s) : I.Ends (opJr t w s) := .ite h h

protected theorem After.execJr {i : Issue} (h : I.Holds s) : I.After (execJr i s) :=
  .row (fun _ _ _ hu => .opJr hu) h

protected theorem Ends.opBrl {t w : Nat} (h : I.Holds s) : I.Ends (opBrl t w s) :=
  .opBranch h (.modCore h fun _ hc => .setG hc)

protected theorem After.execBrl {i : Issue} (h : I.Holds s) : I.After (execBrl i s) :=
  .row (fun _ _ _ hu => .opBrl hu) h

protected theorem Ends.opSend {e : Ecc} {t w : Nat} (h : I.Holds s) : I.Ends (opSend e t w s) := by
  unfold opSend
  extract_lets x a
  refine .ite h ?_
  split
  · trivial
  next hroom =>
    refine .readChecked (.useWm h) fun u hcore hu => ?_
    have hcore : (u.tile t).core = x.core := by
      rw [hcore, useWm, State.modTile_eq, State.setTile_tile, if_pos rfl]; rfl
    refine Holds.setTile hu (.withCore' (hu.tile t) ?_)
    refine I.sendBuf_push ?_ (hu.tile t).1
    rw [hcore]; exact Nat.lt_of_not_ge hroom

protected theorem After.execSend {i : Issue} {e : Ecc} (h : I.Holds s) : I.After (execSend i e s) :=
  .row (fun _ _ _ hu => .opSend hu) h

protected theorem Holds.unblock {t : TileId} {on : Nat} {op : Nat → State → OpEnd}
    (hop : ∀ w u, I.Holds u → I.Ends (op w u)) (h : I.Holds s) : I.Holds (unblock t on op s) := by
  unfold unblock
  extract_lets x s1
  have hs1 : I.Holds s1 := .modTile h fun _ hx => .withCore hx fun _ hc => hc
  split
  · exact h
  · exact .ite h (.finish (.launch (hop _ _ hs1)) hs1)

protected theorem After.execSendUnblock {t : TileId} {e : Ecc} (h : I.Holds s) : I.After (execSendUnblock t e s) :=
  .atIsland h fun _ hu => .unblock (fun _ _ hv => .opSend hv) hu

protected theorem Ends.opRecv {chk : Ecc} {t w : Nat} (h : I.Holds s) : I.Ends (opRecv chk t w s) := by
  unfold opRecv
  extract_lets x a k s1 s2
  have hs1 : I.Holds s1 := .popQueue h
  have hs2 : I.Holds s2 := .ite (.countCe hs1) hs1
  refine .ite h ?_
  split
  · split
    · exact Holds.modCore h fun _ hc => .setP hc
    · trivial
  · extract_lets s3
    have hs3 : I.Holds s3 := .modTile (.useWm hs2) fun _ hx => .writeW hx
    split
    · exact Holds.linkUe hs1
    · exact Holds.ite (.modCore hs3 fun _ hc => .setP hc) hs3

protected theorem After.execRecv {i : Issue} {chk : Ecc} (h : I.Holds s) : I.After (execRecv i chk s) :=
  .row (fun _ _ _ hu => .opRecv hu) h

protected theorem After.execRecvUnblock {t : TileId} {chk : Ecc} (h : I.Holds s) : I.After (execRecvUnblock t chk s) :=
  .atIsland h fun _ hu => .unblock (fun _ _ hv => .opRecv hv) hu

protected theorem TileOk.eng {x : Tile} (hx : I.TileOk x) (e : Nat) : I.EngOk (x.eng e) := by
  unfold Tile.eng
  split
  · exact hx.2.1
  · exact hx.2.2.1
  · exact hx.2.2.2.1

protected theorem TileOk.setEng {x : Tile} {e : Nat} {q : EngQ} (hx : I.TileOk x) (hq : I.EngOk q) :
    I.TileOk (x.setEng e q) := by
  obtain ⟨hc, hm, hv, hu, hmem⟩ := hx
  unfold Tile.setEng
  split
  · exact ⟨hc, hq, hv, hu, hmem⟩
  · exact ⟨hc, hm, hq, hu, hmem⟩
  · exact ⟨hc, hm, hv, hq, hmem⟩

protected theorem Ends.opEnq {e : Ecc} {t w : Nat} (h : I.Holds s) : I.Ends (opEnq e t w s) := by
  unfold opEnq
  extract_lets x a q seq c
  have hq : I.EngOk q := (h.tile t).eng _
  refine .ite h ?_
  split
  · trivial
  next hroom =>
    refine .readChecked (.useWm h) fun u _ hu => ?_
    refine Holds.modTile hu fun y hy => .withCore (.setEng hy ⟨?_, hq.2⟩) fun _ hc => .setG hc
    exact I.commands_push (Nat.lt_of_not_ge hroom) hq.1

protected theorem After.execEnq {i : Issue} {e : Ecc} (h : I.Holds s) : I.After (execEnq i e s) :=
  .row (fun _ _ _ hu => .opEnq hu) h

protected theorem After.execEnqUnblock {t : TileId} {e : Ecc} (h : I.Holds s) : I.After (execEnqUnblock t e s) :=
  .atIsland h fun _ hu => .unblock (fun _ _ hv => .opEnq hv) hu

protected theorem Ends.opWaite {t w : Nat} (h : I.Holds s) : I.Ends (opWaite t w s) := .ite h trivial

protected theorem After.execWaite {i : Issue} (h : I.Holds s) : I.After (execWaite i s) :=
  .row (fun _ _ _ hu => .opWaite hu) h

protected theorem After.execWaiteRetire {t : TileId} (h : I.Holds s) : I.After (execWaiteRetire t s) :=
  .atIsland h fun _ hu => .unblock (fun _ _ hv => .opWaite hv) hu

protected theorem Ends.opSumm {t w : Nat} (h : I.Holds s) : I.Ends (opSumm t w s) := by
  unfold opSumm
  extract_lets x q
  have hq : I.EngOk q := (h.tile t).eng _
  split
  · trivial
  next r rest hsumms =>
    refine Holds.modTile h fun y hy => .withCore (.setEng hy ⟨hq.1, ?_⟩) fun _ hc => .setG (.setG (.setG (.setG hc)))
    exact I.summaries_sublist (hsumms ▸ List.sublist_cons_self r rest) hq.2

protected theorem After.execSumm {i : Issue} (h : I.Holds s) : I.After (execSumm i s) :=
  .row (fun _ _ _ hu => .opSumm hu) h

protected theorem After.execSummUnblock {t : TileId} (h : I.Holds s) : I.After (execSummUnblock t s) :=
  .atIsland h fun _ hu => .unblock (fun _ _ hv => .opSumm hv) hu

protected theorem Ends.opEnd {t w : Nat} (h : I.Holds s) : I.Ends (opEnd t w s) := h

protected theorem After.execEndOp {i : Issue} (h : I.Holds s) : I.After (execEndOp i s) :=
  .row (fun _ _ _ hu => .opEnd hu) h

protected theorem Ends.opTrap {t w : Nat} (h : I.Holds s) : I.Ends (opTrap t w s) := h

protected theorem After.execTrap {i : Issue} (h : I.Holds s) : I.After (execTrap i s) :=
  .row (fun _ _ _ hu => .opTrap hu) h

protected theorem After.execUnlistedOpWord {i : Issue} (h : I.Holds s) : I.After (execUnlistedOpWord i s) :=
  .atIsland h fun _ hu => .issue hu fun _ _ hv => hv

protected theorem After.execTilePartComplete {t : TileId} (h : I.Holds s) : I.After (execTilePartComplete t s) :=
  .atIsland h fun _ hu => .ite (.modCore hu fun _ hc => hc) hu

protected theorem After.execClrCnt {w : Agent} {t : TileId} (h : I.Holds s) : I.After (execClrCnt w t s) :=
  .next (.tileWrite h)

protected theorem Holds.engFault {t e detail : Nat} {c : Cmd} (h : I.Holds s) : I.Holds (engFault s t e detail c) :=
  .coreFault h

protected theorem Holds.engCmd {t e detail : Nat} {c : Cmd} (h : I.Holds s) : I.Holds (engCmd s t e detail c) :=
  .coreFault h

protected theorem TileOk.charge {x : Tile} {n : Nat} (hx : I.TileOk x) : I.TileOk (x.charge n) :=
  .record hx

protected theorem TileOk.zeroRead {x : Tile} {m n : Nat} {o : OutTile} (hx : I.TileOk x) : I.TileOk (x.zeroRead m n o) :=
  .forAll hx fun _ _ hx1 => .forAll hx1 fun _ _ hx2 => .writeA hx2

protected theorem TileOk.writeWords {x : Tile} {slot : Nat} {f : Nat → BitVec 48} (hx : I.TileOk x) :
    I.TileOk (x.writeWords slot f) :=
  .forAll hx fun _ _ hx1 => .writeA hx1

protected theorem TileOk.zeroSlot {x : Tile} {slot : Nat} (hx : I.TileOk x) : I.TileOk (x.zeroSlot slot) :=
  .writeWords hx

theorem writeRow_ok {c : Line} {n m : Nat} {o : OutTile} {w : WOut} (hw : I.TileOk w.x) :
    I.TileOk (writeRow c n o w m).x := by
  unfold writeRow
  extract_lets d cols i f cv
  split
  · exact forAll_inv (fun w : WOut => I.TileOk w.x) _ (fun _ _ hy => .writeW hy) _ _ hw
  · exact forAll_inv (fun w : WOut => I.TileOk w.x) _ (fun _ _ hy => .writeW (.writeW hy)) _ _ hw

theorem writeTile_ok {c : Line} {m n : Nat} {o : OutTile} {w : WOut} (hw : I.TileOk w.x) :
    I.TileOk (writeTile c m n w o).x := by
  unfold writeTile
  extract_lets v
  have hv : I.TileOk v.x := forAll_inv (fun w : WOut => I.TileOk w.x) _ (fun _ _ hy => writeRow_ok hy) _ _ hw
  split
  · exact .zeroRead hv
  · exact hv

theorem writeTiles_ok {c : Line} {m n : Nat} {l : List OutTile} {w : WOut} (hw : I.TileOk w.x) :
    I.TileOk (forAll l w (writeTile c m n)).x :=
  forAll_inv (fun w : WOut => I.TileOk w.x) _ (fun _ _ hy => writeTile_ok hy) _ _ hw

protected theorem TileOk.mxeFlush {x : Tile} {r : MxeRun} (hx : I.TileOk x) : I.TileOk (x.mxeFlush r) :=
  .ite (.withMxe (writeTiles_ok hx) fun _ hy => hy) (.withMxe (.forAll hx fun _ _ hy => .zeroSlot hy) fun _ hy => hy)

protected theorem TileOk.zeroOut {x : Tile} {o : OutTile} (hx : I.TileOk x) : I.TileOk (x.zeroOut o) :=
  .ite (.zeroSlot hx) (.zeroSlot (.forAll hx fun _ _ hx1 => .writeW hx1))

protected theorem TileOk.mxeBegin {x : Tile} {r : MxeRun} {m n k : Nat} (hx : I.TileOk x) : I.TileOk (x.mxeBegin r m n k) :=
  .ite (.mxeFlush (.withMxe hx fun _ hy => hy)) (.withMxe (.ite (.withMxe hx fun _ hy => hy)
      (.forAll (.withMxe hx fun _ hy => hy) fun _ _ hx1 => .zeroOut hx1)) fun _ hy => hy)

protected theorem Holds.mxeStart {t : Nat} {wm am : Ecc} (h : I.Holds s) : I.Holds (mxeStart t wm am s) := by
  unfold mxeStart
  extract_lets x
  split
  · exact h
  next r _ =>
    extract_lets c both d reads accs k wm1 am1 s1 s2
    have hs1 : I.Holds s1 := .ite (.chargeCe h) h
    have hs2 : I.Holds s2 := .ite (.chargeCe hs1) hs1
    exact .ite h (.ite (.engFault h) (.ite (.engCmd (.modTile hs1 fun _ hx => .withMxe hx fun _ hy => hy))
      (.ite (.engFault hs1) (.ite (.engFault hs1) (.modTile hs2 fun _ hx => .charge (.mxeBegin hx))))))

protected theorem VxeOk.loadTable {x : Tile} {a : Nat} {sel : Bool} (hx : I.TileOk x) : I.VxeOk (x.loadTable a sel) := by
  unfold Tile.loadTable
  exact .ite (c := sel = true) hx.2.2.1 hx.2.2.1

protected theorem TileOk.startVxe {x : Tile} {r : VxeRun} {load set : Prop} [Decidable load] [Decidable set] {a : Nat}
    {sel : Bool}
    {vl : BitVec 7} (hx : I.TileOk x) : I.TileOk (x.withVxe fun v =>
      let v := if load then x.loadTable a sel else v
      let v := if set then { v with vl := vl } else v
      { v with run := some r }) :=
  .withVxe hx fun v hv =>
    have hload : I.VxeOk (if load then x.loadTable a sel else v) := .ite (.loadTable hx) hv
    VxeOk.ite (c := set) hload hload

protected theorem Holds.vxeStart {t : Nat} {wm : Ecc} (h : I.Holds s) : I.Holds (vxeStart t wm s) := by
  unfold vxeStart
  extract_lets x
  split
  · exact h
  next r _ =>
    extract_lets c op go rows cols aux hrec reads rows_ wm1 s1 bad s2
    have hs1 : I.Holds s1 := .useWm h
    have hs2 : I.Holds s2 := .ite (.chargeCe hs1) hs1
    exact .ite h (.ite (.engFault hs1) (.ite (.engFault hs2) (.modTile hs2 fun _ hx => .startVxe hx)))

protected theorem Holds.upeStart {t : Nat} {wm : Ecc} (h : I.Holds s) : I.Holds (upeStart t wm s) := by
  unfold upeStart
  extract_lets x
  split
  · exact h
  next r _ =>
    have hread {c : Prop} [Decidable c] {n : Nat} : I.Holds (useWm (if c then chargeCe s t false else s) t n) :=
      .useWm (.ite (.chargeCe h) h)
    have hrun {r : Option UpeRun} {u : State} (hu : I.Holds u) :
        I.Holds (u.modTile t fun x => x.withUpe fun y => { y with run := r }) :=
      .modTile hu fun _ hx => .withUpe hx fun _ hy => hy
    exact .ite h (.ite (.engFault h) (.ite (.engCmd (hrun hread)) (.ite (.engCmd (hrun hread)) (.ite (.engFault hread)
      (hrun hread)))))

protected theorem After.execDepWaitEnd {t : TileId} {eng : Engine} {wm am : Ecc} (h : I.Holds s) :
    I.After (execDepWaitEnd t eng wm am s) := by
  refine .atIsland h fun _ hu => ?_
  split
  · exact .mxeStart hu
  · exact .vxeStart hu
  · exact .upeStart hu

/-- What an engine goes on with after its reads has the tile as before. -/
protected theorem Holds.engReads {t e : Nat} {c : Cmd} {wm am : Ecc} {k : State → State} (h : I.Holds s)
    (hk : ∀ u, u.tile t = s.tile t → I.Holds u → I.Holds (k u)) : I.Holds (engReads s t e c wm am k) := by
  unfold engReads
  extract_lets s1
  have hs1 : I.Holds s1 := .ite (.chargeCe h) h
  refine .ite (.engFault h) (.ite (.engFault hs1) (hk _ ?_ (.ite (.chargeCe hs1) hs1)))
  rw [chargeCe_or_tile, chargeCe_or_tile]

protected theorem TileOk.histWrite {x : Tile} {a : Nat} {req : Int} {push : Bool} (hx : I.TileOk x) :
    I.TileOk (x.histWrite a req push) :=
  .writeW hx

protected theorem TileOk.completeCmd {x : Tile} {e : Nat} {c : Cmd} {rcd : BitVec 128} (hx : I.TileOk x)
    (hroom : x.canPush e c = true) : I.TileOk (x.completeCmd e c rcd) := by
  have hq : I.EngOk (x.eng e) := hx.eng e
  refine .withRouter (.setEng hx ⟨hq.1, ?_⟩)
  by_cases hc : c.summ = true
  · simp only [hc, if_true]
    exact I.summaries_push (by simpa [Tile.canPush, hc] using hroom) hq.2
  · simpa [hc] using hq.2

protected theorem TileOk.mxeStats {x : Tile} {spilled : Bool} {visits : Nat} {paired : Bool} (hx : I.TileOk x) :
    I.TileOk (x.mxeStats spilled visits paired) :=
  .ite hx (.writeW (.writeW (.writeW (.writeW hx))))

theorem writeW_mxe (x : Tile) (a n v : Nat) : (x.writeW a n v).mxe = x.mxe := rfl

theorem mxeStats_mxe (x : Tile) (spilled : Bool) (visits : Nat) (paired : Bool) :
    (x.mxeStats spilled visits paired).mxe = x.mxe := by
  unfold Tile.mxeStats
  split
  · rfl
  · extract_lets a add
    simp only [add, writeW_mxe]

protected theorem TileOk.mxeFinish {x : Tile} {c : Cmd} {acc : SumAcc} {hist : HistRun} {visits : Nat} {paired : Bool}
    (hx : I.TileOk x) (hroom : x.canPush 0 c = true) : I.TileOk (x.mxeFinish c acc hist visits paired) := by
  unfold Tile.mxeFinish
  extract_lets maxv cv y
  have hy : I.TileOk y ∧ y.mxe = x.mxe := by
    unfold y
    split
    · split
      · exact ⟨.histWrite hx, rfl⟩
      · exact ⟨hx, rfl⟩
    · exact ⟨hx, rfl⟩
  obtain ⟨hy, hmxe⟩ := hy
  refine .completeCmd (.mxeStats hy) ?_
  simpa [Tile.canPush, Tile.eng, mxeStats_mxe, hmxe] using hroom

protected theorem Holds.mxeComplete {t : Nat} (h : I.Holds s) : I.Holds (mxeComplete t s) := by
  have hcomplete {c : Cmd} {e : Ecc × Ecc} {f : Tile → Tile}
      (hf : (s.tile t).canPush 0 c = true → I.TileOk (f (s.tile t))) :
      I.Holds (if (s.tile t).canPush 0 c then engReads s t 0 c e.1 e.2 fun s => s.modTile t f else s) := by
    split
    next hroom => exact .engReads h fun u htile hu => .setTile hu (htile ▸ hf hroom)
    · exact h
  unfold mxeComplete
  extract_lets x
  have hx : I.TileOk x := h.tile t
  split
  · exact h
  next r _ =>
    refine .ite h ?_
    split
    · exact .ite (.ite (hcomplete fun hroom => .withMxe (.mxeFinish hx hroom) fun _ hy => hy) h)
        (.ite (hcomplete fun hroom => .withMxe (.mxeFinish hx hroom) fun _ hy => hy) h)
    · exact .ite (hcomplete fun hroom => .withMxe (.mxeFinish hx hroom) fun _ hy => hy) h

protected theorem Holds.vxeComplete {t : Nat} (h : I.Holds s) : I.Holds (vxeComplete t s) := by
  unfold vxeComplete
  extract_lets x
  have hx : I.TileOk x := h.tile t
  split
  · exact h
  next r _ =>
    extract_lets c cv hrec
    split
    · exact h
    next hgo =>
      have hroom : x.canPush 1 r.cmd = true := by simp_all
      refine .engReads h fun u htile hu => .setTile hu ?_
      rw [htile]
      refine .withVxe (.completeCmd (.ite (.charge (.histWrite hx)) hx) ?_) fun _ hy => hy
      split <;> exact hroom

protected theorem Holds.upeComplete {t : Nat} (h : I.Holds s) : I.Holds (upeComplete t s) := by
  unfold upeComplete
  extract_lets x
  have hx : I.TileOk x := h.tile t
  split
  · exact h
  next r _ =>
    split
    · exact h
    next hgo =>
      have hroom : x.canPush 2 r.cmd = true := by simp_all
      exact .setTile h (.withUpe (.completeCmd hx hroom) fun _ hy => hy)

protected theorem After.execEngineComplete {t : TileId} {eng : Engine} (h : I.Holds s) :
    I.After (execEngineComplete t eng s) := by
  refine .atIsland h fun _ hu => ?_
  split
  · exact .mxeComplete hu
  · exact .vxeComplete hu
  · exact .upeComplete hu

/-! ## MXE -/

protected theorem TileOk.popMxe {x : Tile} (hx : I.TileOk x) : I.TileOk x.popMxe :=
  .withMxe hx fun _ hy => ⟨I.commands_sublist (List.drop_sublist 1 _) hy.1, hy.2⟩

protected theorem Holds.mxeTake {t : Nat} {mine : Nat → Bool} (h : I.Holds s) : I.Holds (mxeTake t mine s) := by
  unfold mxeTake
  extract_lets x s1
  have hx : I.TileOk x := h.tile _
  have hs1 : I.Holds s1 := .setTile h (.popMxe hx)
  split
  · exact h
  · exact .ite h (.ite (.engCmd hs1) (.modTile hs1 fun _ hx1 => .withMxe hx1 fun _ hy => hy))

protected theorem After.execMatmul {t : TileId} (h : I.Holds s) : I.After (execMatmul t s) :=
  .atIsland h fun _ hu => .mxeTake hu

protected theorem After.execAccFlush {t : TileId} (h : I.Holds s) : I.After (execAccFlush t s) :=
  .atIsland h fun _ hu => .mxeTake hu

protected theorem After.execAccDrop {t : TileId} (h : I.Holds s) : I.After (execAccDrop t s) :=
  .atIsland h fun _ hu => .mxeTake hu

protected theorem After.execPairPartnerTake {t : TileId} (h : I.Holds s) : I.After (execPairPartnerTake t s) := by
  refine .atIsland h fun u hu => ?_
  dsimp only
  split
  · have htaken : I.Holds (u.setTile t.toNat (u.tile t.toNat).popMxe) := .setTile hu (.popMxe (hu.tile _))
    exact .ite hu (.ite (.modTile htaken fun _ hx => .withMxe hx fun _ hy => hy)
      (.engCmd (.modTile htaken fun _ hx => .withMxe hx fun _ hy => hy)))
  · exact hu

protected theorem Holds.holdIssue {t : Nat} (h : I.Holds s) : I.Holds (holdIssue s t) :=
  .modTile h fun _ hx => .record hx

protected theorem TileOk.spillIn {x : Tile} {k : Nat} (hx : I.TileOk x) : I.TileOk (x.spillIn k) :=
  .writeWords hx

protected theorem TileOk.addRowBlock {x : Tile} {c : Line} {n k : Nat} {latch : List (List (Option Int) × Int)} {b : RowBlk}
    (hx : I.TileOk x) : I.TileOk (x.addRowBlock c n k latch b) :=
  .forAll hx fun _ _ hx1 => .writeA hx1

protected theorem TileOk.spillOut {x : Tile} {k : Nat} (hx : I.TileOk x) : I.TileOk (x.spillOut k) :=
  .zeroSlot (.forAll hx fun _ _ hx1 => .writeW hx1)

protected theorem TileOk.mxeStep {x : Tile} {r : MxeRun} (hx : I.TileOk x) : I.TileOk (x.mxeStep r) := by
  unfold Tile.mxeStep
  extract_lets b sd masked r1 x1 x2 x3 w0 w
  have hx1 : I.TileOk x1 := .ite (.spillIn hx) hx
  have hx2 : I.TileOk x2 := .ite hx1 (.addRowBlock hx1)
  have hx3 : I.TileOk x3 := .ite (.spillOut hx2) hx2
  have hw0 : I.TileOk w0.x := by
    unfold w0
    split <;> exact hx3
  exact .withMxe (writeTiles_ok hw0) fun _ hy => hy

protected theorem Holds.mxeRowBlock {t : Nat} {wm am : Ecc} (h : I.Holds s) : I.Holds (mxeRowBlock t wm am s) := by
  unfold mxeRowBlock
  extract_lets x
  split
  · exact h
  · exact .ite h (.ite (.holdIssue h) (.engReads h fun _ _ hu => .ite (.engFault hu) (.modTile hu fun _ hx =>
      .charge (.mxeStep hx))))

protected theorem After.execMxeRowBlock {t : TileId} {wm am : Ecc} (h : I.Holds s) : I.After (execMxeRowBlock t wm am s) :=
  .atIsland h fun _ hu => .mxeRowBlock hu

protected theorem After.execSlotWaitEnd {t : TileId} (h : I.Holds s) : I.After (execSlotWaitEnd t s) := by
  refine .atIsland h fun u hu => ?_
  dsimp only
  split
  · exact .ite (.setTile hu (.charge (.withMxe (hu.tile _) fun _ hy => hy))) hu
  · exact hu

/-! ## VXE -/

protected theorem Holds.vxeTake {t : Nat} {mine : Nat → Bool} (h : I.Holds s) : I.Holds (vxeTake t mine s) := by
  unfold vxeTake
  extract_lets x
  have hx : I.TileOk x := h.tile t
  split
  · exact h
  next c rest hqueue =>
    extract_lets s1
    have hs1 : I.Holds s1 := .setTile h (.withVxe hx fun _ hy => ⟨?_, hy.2⟩)
    · exact .ite h (.ite (.engCmd hs1) (.modTile hs1 fun _ hx => .withVxe hx fun _ hy => hy))
    · exact I.commands_sublist (hqueue ▸ List.sublist_cons_self c rest) hx.2.2.1.1

protected theorem After.execVmap {t : TileId} (h : I.Holds s) : I.After (execVmap t s) :=
  .atIsland h fun _ hu => .vxeTake hu

protected theorem After.execVstep {t : TileId} (h : I.Holds s) : I.After (execVstep t s) :=
  .atIsland h fun _ hu => .vxeTake hu

protected theorem After.execSetvl {t : TileId} (h : I.Holds s) : I.After (execSetvl t s) :=
  .atIsland h fun _ hu => .vxeTake hu

protected theorem After.execTload {t : TileId} (h : I.Holds s) : I.After (execTload t s) :=
  .atIsland h fun _ hu => .vxeTake hu

protected theorem VxeOk.setReg {v : Vxe} {r l : Nat} {x : LaneVal} (hv : I.VxeOk v) : I.VxeOk (v.setReg r l x) :=
  hv

protected theorem VxeOk.forAll {α : Type} {l : List α} {f : Vxe → α → Vxe} {v : Vxe} (h : I.VxeOk v)
    (hf : ∀ y a, I.VxeOk y → I.VxeOk (f y a)) : I.VxeOk (forAll l v f) := forAll_inv I.VxeOk f hf l v h

protected theorem VxeOk.vLoad {x : Tile} {er : Int} {d : Desc} {reg n : Nat} {at_ : Nat → Nat × Nat} {v : Vxe}
    (hv : I.VxeOk v) : I.VxeOk (vLoad x er d reg n at_ v) :=
  VxeOk.forAll hv fun _ _ hy => hy

protected theorem VxeOk.microOp {v : Vxe} {er : Int} {aux : Line} {w i c l : Nat} (hv : I.VxeOk v) :
    I.VxeOk (v.microOp er aux w i c l) :=
  .setReg hv

protected theorem TileOk.vStore {c : Line} {i j : Nat} {ls : List LaneVal} {w : Tile × SumAcc × HistRun}
    (hw : I.TileOk w.1) : I.TileOk (vStore c i j ls w).1 := by
  unfold vStore
  extract_lets d f cv er row vals per
  split
  · exact forAll_inv (fun w : Tile × SumAcc × HistRun => I.TileOk w.1) _ (fun _ _ hy => .writeW hy) _ _ hw
  · exact forAll_inv (fun w : Tile × SumAcc × HistRun => I.TileOk w.1) _ (fun _ _ hy => .writeW (.writeW hy)) _ _ hw

protected theorem TileOk.vxeStep {x : Tile} {r : VxeRun} (hx : I.TileOk x) : I.TileOk (x.vxeStep r) := by
  unfold Tile.vxeStep
  extract_lets c er vpr i j n lanes v v1 v2 v3 v4 ls acc x1 w red x2 acc1
  have hv1 : I.VxeOk v1 := VxeOk.ite (.vLoad hx.2.2.1) hx.2.2.1
  have hv2 : I.VxeOk v2 := VxeOk.ite (.vLoad hv1) hv1
  have hv3 : I.VxeOk v3 := VxeOk.ite (.vLoad hv2) hv2
  have hv4 : I.VxeOk v4 := VxeOk.forAll hv3 fun _ _ hy => VxeOk.forAll hy fun _ _ hz => VxeOk.microOp hz
  have hx1 : I.TileOk x1 := ⟨hx.1, hx.2.1, hv4, hx.2.2.2⟩
  have hw : I.TileOk w.1 := by
    unfold w
    split
    · exact .vStore hx1
    · exact hx1
  exact .withVxe (.ite hw (.writeW hw)) fun _ hy => hy

protected theorem After.execVxeVector {t : TileId} {wm tab : Ecc} (h : I.Holds s) : I.After (execVxeVector t wm tab s) := by
  refine .atIsland h fun u hu => ?_
  dsimp only
  split
  · exact hu
  next r _ =>
    have hread {c : Prop} [Decidable c] : I.Holds (if c then chargeCe u t.toNat false else u) := .ite (.chargeCe hu) hu
    exact .ite hu (.ite (.holdIssue hu) (.ite (.engFault hu) (.ite (.engFault hread)
      (.modTile hread fun _ hx => .charge (.vxeStep hx)))))

/-! ## UPE -/

protected theorem Holds.upeTake {t : Nat} {mine : Nat → Bool} (h : I.Holds s) : I.Holds (upeTake t mine s) := by
  unfold upeTake
  extract_lets x
  have hx : I.TileOk x := h.tile t
  split
  · exact h
  next c rest hqueue =>
    extract_lets s1
    have hs1 : I.Holds s1 := .setTile h (.withUpe hx fun _ hy => ⟨?_, hy.2⟩)
    · exact .ite h (.ite (.engCmd hs1) (.modTile hs1 fun _ hx => .withUpe hx fun _ hy => hy))
    · exact I.commands_sublist (hqueue ▸ List.sublist_cons_self c rest) hx.2.2.2.1.1

protected theorem After.execUblk {t : TileId} (h : I.Holds s) : I.After (execUblk t s) :=
  .atIsland h fun _ hu => .upeTake hu

protected theorem After.execUpart {t : TileId} (h : I.Holds s) : I.After (execUpart t s) :=
  .atIsland h fun _ hu => .upeTake hu

protected theorem After.execUapply {t : TileId} (h : I.Holds s) : I.After (execUapply t s) :=
  .atIsland h fun _ hu => .upeTake hu

protected theorem After.execUrows {t : TileId} (h : I.Holds s) : I.After (execUrows t s) :=
  .atIsland h fun _ hu => .upeTake hu

protected theorem Holds.jobSeed {t : Nat} (h : I.Holds s) : I.Holds (jobSeed s t).2 := by
  unfold jobSeed
  extract_lets _ f
  have hf : I.Holds f.2 := .fresh h
  split
  · exact h
  · split
    · exact h
    · exact hf

protected theorem TileOk.storeUnit {x0 : Tile} {d : TDesc} {u : Nat} {ein : Int} {vals : List SrcVal} {draws : List Nat}
    {kept : Nat → Bool} {w : Tile × List (Block × Nat)} (hw : I.TileOk w.1) :
    I.TileOk (storeUnit x0 d u ein vals draws kept w).1 :=
  forAll_inv (fun w : Tile × List (Block × Nat) => I.TileOk w.1) _ (fun _ _ hy => .writeW (.writeW hy)) _ _ hw

theorem storeUnit_or_ok {c : Prop} [Decidable c] {x0 y : Tile} {d : TDesc} {u : Nat} {ein : Int} {vals : List SrcVal}
    {draws : List Nat} {kept : Nat → Bool} (hy : I.TileOk y) :
    I.TileOk (if c then storeUnit x0 d u ein vals draws kept (y, []) else (y, [])).1 := by
  split
  · exact .storeUnit hy
  · exact hy

protected theorem TileOk.upeStep {x : Tile} {r : UpeRun} {seed : Nat} (hx : I.TileOk x) : I.TileOk (x.upeStep r seed) :=
  .ite (.withUpe (.ite (.forAll hx fun _ _ hy => .writeW hy) hx) fun _ hy => hy) (.withUpe
    (have hd := storeUnit_or_ok (storeUnit_or_ok (storeUnit_or_ok (.storeUnit hx)))
     .ite (.writeW hd) hd) fun _ hy => hy)

protected theorem After.execUpeUnit {t : TileId} {wm : Ecc} (h : I.Holds s) : I.After (execUpeUnit t wm s) := by
  refine .atIsland h fun u hu => ?_
  dsimp only
  split
  · exact hu
  · exact .ite hu (.ite (.holdIssue hu) (.ite (.engFault hu) (.modTile (.jobSeed (.ite (.chargeCe hu) hu)) fun _ hx =>
      .charge (.upeStep hx))))

/-! ## Drovers -/

protected theorem Holds.droverFault {d : Nat} {f : DroverFault} (h : I.Holds s) : I.Holds (droverFault s d f) := by
  unfold droverFault
  split
  · exact h
  · exact .fire (.modDrover h)

protected theorem Holds.queueFault {d code q row lane tag : Nat} (h : I.Holds s) :
    I.Holds (queueFault s d code q row lane tag) :=
  .droverFault h

protected theorem Holds.takeChan {d row lane ch : Nat} (h : I.Holds s) : I.Holds (takeChan s d row lane ch) :=
  .modTile (.modDrover h) fun _ hx => .withRouter hx

protected theorem Holds.modQueue {d q : Nat} {f : DQueue → DQueue} (h : I.Holds s) : I.Holds (s.modQueue d q f) :=
  .modDrover h

protected theorem Holds.takeOpen {d row lane : Nat} {r : Line} (h : I.Holds s) : I.Holds (takeOpen s d row lane r) :=
  .ite (.queueFault h) (.ite (.queueFault h) (.modQueue h))

protected theorem Holds.takeClose {d row lane : Nat} {r : Line} (h : I.Holds s) : I.Holds (takeClose s d row lane r) :=
  .ite (.queueFault h) (.ite (.modQueue h) (.modQueue h))

protected theorem Holds.xferAddr {d : DroverNo} {q row lane : Nat} {write : Bool} {x : Xfer} (h : I.Holds s) :
    I.Holds (xferAddr s d q row lane write x) :=
  .queueFault (.ite (.worldRefused h) h)

protected theorem Holds.takeXfer {d : DroverNo} {row lane : Nat} {r : Line} (h : I.Holds s) :
    I.Holds (takeXfer s d row lane r) :=
  .ite (.queueFault h) (.ite (.xferAddr h) (.modQueue (.modDrover h)))

protected theorem Holds.takeGo {d row lane : Nat} {r : Line} (h : I.Holds s) : I.Holds (takeGo s d row lane r) :=
  .ite (.queueFault h) (.ite (.modQueue h) (.modDrover h))

protected theorem Holds.takeCancel {d row lane : Nat} {r : Line} (h : I.Holds s) : I.Holds (takeCancel s d row lane r) := by
  refine .ite (.queueFault h) ?_
  split
  · exact .modDrover (.modQueue h)
  · exact .modDrover h

protected theorem Holds.takeRequest {d : DroverNo} {row lane : Nat} {r : Line} (h : I.Holds s) :
    I.Holds (takeRequest s d row lane r) := by
  unfold takeRequest
  split
  · exact .takeOpen h
  · exact .takeClose h
  · exact .takeXfer h
  · exact .takeGo h
  · exact .takeCancel h
  · exact .queueFault h

protected theorem After.requestRow {d : DroverNo} {row : Fin 8} {lane : Fin 2} {chk : Ecc} {mine : Nat → Bool} (h : I.Holds s)
    : I.After (requestRow d row lane chk mine s) := by
  refine .next ?_
  split
  · exact h
  · exact .ite h (.ite (.queueFault (.takeChan h)) (.ite h (.ite (.queueFault (.takeChan h))
      (.ite (.modQueue (.takeChan h)) (.takeRequest (.takeChan h))))))

protected theorem Holds.pushRx {d q : Nat} {ls : List Line} {last : Bool} (h : I.Holds s) : I.Holds (pushRx s d q ls last) :=
  .modQueue h

protected theorem Holds.creditStream {st : Stream} {n : Nat} (h : I.Holds s) : I.Holds (creditStream s st n) := by
  unfold creditStream
  split
  · exact .forAll h fun _ _ hu => .queueOn hu
  · exact h

protected theorem Holds.creditFrame {cls m n : Nat} (h : I.Holds s) : I.Holds (creditFrame s cls m n) :=
  .ite h (.creditStream h)

protected theorem Holds.deliverLayer {frames : List (Nat × Frame)} (h : I.Holds s) : I.Holds (deliverLayer s frames) := by
  induction frames generalizing s with
  | nil => exact h
  | cons x r ih =>
    rw [Machine.deliverLayer]
    refine ih (.creditFrame ?_)
    split
    · exact .pushRx h
    · exact h

protected theorem Holds.setLrel {l : Nat} {v : Word} (h : I.Holds s) : I.Holds (setLrel s l v) :=
  .forAll h fun _ _ hu => .modDrover hu

protected theorem Holds.gatherSettle {store : Ecc} (h : I.Holds s) : I.Holds (gatherSettle store s) :=
  .forAll_fst h fun _ _ hy => .iteFst hy (.iteFst hy (.iteFst hy (.iteFst (.exchFault hy)
    (.setLrel (.withGrp (.deliverLayer hy))))))

protected theorem After.execOpenReq {d : DroverNo} {row : Fin 8} {lane : Fin 2} {chk store : Ecc} (h : I.Holds s) :
    I.After (execOpenReq d row lane chk store s) := by
  have hrow : I.After (requestRow d row lane chk (fun o => !(2 ≤ o && o ≤ 5)) s) := .requestRow h
  unfold execOpenReq
  revert hrow
  cases requestRow d row lane chk (fun o => !(2 ≤ o && o ≤ 5)) s with
  | next t => exact fun ht => Holds.ite (.gatherSettle ht) ht
  | _ => exact fun _ => trivial

protected theorem After.execCloseReq {d : DroverNo} {row : Fin 8} {lane : Fin 2} {chk : Ecc} (h : I.Holds s) :
    I.After (execCloseReq d row lane chk s) :=
  .requestRow h

protected theorem After.execXferReq {d : DroverNo} {row : Fin 8} {lane : Fin 2} {chk : Ecc} (h : I.Holds s) :
    I.After (execXferReq d row lane chk s) :=
  .requestRow h

protected theorem After.execGoReq {d : DroverNo} {row : Fin 8} {lane : Fin 2} {chk : Ecc} (h : I.Holds s) :
    I.After (execGoReq d row lane chk s) :=
  .requestRow h

protected theorem After.execCancelReq {d : DroverNo} {row : Fin 8} {lane : Fin 2} {chk : Ecc} (h : I.Holds s) :
    I.After (execCancelReq d row lane chk s) :=
  .requestRow h

protected theorem Holds.streamSend {st : Stream} {l : List Token} (h : I.Holds s) : I.Holds (streamSend s st l) := by
  unfold streamSend
  split
  · exact .modLink h fun _ hl => hl
  · exact h

/-! ## The exchange -/

protected theorem Holds.addContrib {level src : Nat} {x : Frame} (h : I.Holds s) : I.Holds (addContrib s level src x) :=
  .ite h (.withGrp h)

protected theorem Holds.sendFrame {cls dst : Nat} {x : Frame} (h : I.Holds s) : I.Holds (sendFrame s cls dst x) :=
  .withGrp (.streamSend h)

protected theorem Holds.sendReduce {level dst : Nat} {x : Frame} (h : I.Holds s) : I.Holds (sendReduce s level dst x) :=
  .ite (.addContrib h) (.sendFrame h)

protected theorem Holds.writeFrame {src : Nat} {x : Frame} (h : I.Holds s) : I.Holds (writeFrame s src x).1 := by
  unfold writeFrame
  extract_lets _ _ _ _ _ _ s1
  have hs1 : I.Holds s1 := .bytesWrite h
  split
  · exact .exchFault h
  · exact .bytesWrite hs1

protected theorem Holds.frameIn {store : Ecc} {src l : Nat} {layerEnd : Bool} (h : I.Holds s) :
    I.Holds (frameIn store s src l layerEnd) :=
  .gatherSettle (.withGrp h)

protected theorem Holds.txFrame {store : Ecc} {p : Line} {x : Frame} (h : I.Holds s) : I.Holds (txFrame store s p x) :=
  .ite (.sendReduce h) (.ite (.writeFrame h) (.frameIn (.forAll (.writeFrame h) fun _ _ hu => .sendFrame hu)))

protected theorem Holds.txToken {store : Ecc} {d q : Nat} {k : Line} (h : I.Holds s) : I.Holds (txToken store s d q k) := by
  unfold txToken
  extract_lets y cls
  split
  · exact .ite (.exchFault h) (.modQueue (.ite (.withGrp (.ite (.withGrp h) h)) (.ite (.withGrp h) h)))
  next r _ =>
    have hsent {c : Prop} [Decidable c] {f : DQueue → DQueue} {x : Frame} :
        I.Holds (if c then s.modQueue d q f else txFrame store (s.modQueue d q f) r.hdr x) :=
      .ite (.modQueue h) (.txFrame (.modQueue h))
    exact .ite (.modQueue h) (.ite (.modQueue hsent) hsent)

protected theorem After.execDataTokenTake {d : DroverNo} {row : Fin 8} {lane : Fin 2} {ch : Fin 8} {chk store : Ecc}
    (h : I.Holds s) : I.After (execDataTokenTake d row lane ch chk store s) := by
  unfold execDataTokenTake
  refine .next ?_
  extract_lets _ s1
  have hs1 : I.Holds s1 := .takeChan h
  split
  · exact h
  · refine .ite h ?_
    split
    · refine .ite (.droverFault (.takeChan h)) (.ite h ?_)
      split
      · exact h
      · exact .streamSend (.modDrover hs1)
    · refine .ite h ?_
      split
      · exact .ite (.queueFault (.takeChan h)) h
      · refine .ite h ?_
        refine .ite (.queueFault (.takeChan h)) ?_
        refine .ite (.ite h (.txToken (.takeChan h))) ?_
        split
        · exact h
        · exact .ite h (.modQueue (.takeChan h))

protected theorem Holds.queueAddr {d : DroverNo} {q : Nat} {y : DQueue} {x : Xfer} (h : I.Holds s) :
    I.Holds (queueAddr s d q y x) :=
  .xferAddr h

protected theorem Holds.modXfer {d q id : Nat} {f : Xfer → Xfer} (h : I.Holds s) : I.Holds (s.modXfer d q id f) :=
  .modQueue h

protected theorem Holds.reachCtl {x : Access} (h : I.Holds s) : I.Holds (reachCtl s x) :=
  .modCtl h fun _ hc => hc

protected theorem Holds.issueUnit {d : DroverNo} {q : Nat} {x : Xfer} {write : Bool} (h : I.Holds s) :
    I.Holds (issueUnit s d q x write) := by
  unfold issueUnit
  extract_lets _ _ _ s1
  have hs1 : I.Holds s1 := .modXfer h
  split
  · exact .modXfer (.ite (.hostFlush (.hostStore (.beforeWrite (.beforeWrite hs1)))) (.hostFetch hs1))
  · exact .forAll hs1 fun _ _ hu => .reachCtl hu

protected theorem After.execBaleIssue {d : DroverNo} {q : Fin 32} (h : I.Holds s) : I.After (execBaleIssue d q s) := by
  refine .next ?_
  dsimp only
  split
  · exact h
  · exact .ite h (.ite (.queueAddr h) (.ite h (.issueUnit h)))

protected theorem Holds.present {d row lane : Nat} {k : Token} (h : I.Holds s) : I.Holds (present s d row lane k) :=
  .modTile (.modDrover h) fun _ hx => .withRouter hx

/-! ## Drovers -/

protected theorem Holds.presentAll {d row lanes q n : Nat} {l : List Token} (h : I.Holds s) :
    I.Holds (presentAll d row lanes q n s l).1 := by
  induction n generalizing s l with
  | zero => exact h
  | succ n ih =>
    cases l with
    | nil => exact h
    | cons k r =>
      cases r with
      | nil => exact .iteFst h (.present h)
      | cons k2 r2 => exact .iteFst h (.iteFst (ih (.present (.present h))) (ih (.present h)))

protected theorem Holds.creditBack {c : CutQ} {n : Nat} (h : I.Holds s) : I.Holds (creditBack s c n) := by
  unfold creditBack
  split
  · exact .creditStream h
  · exact h

protected theorem Holds.deliverCuts {d : Nat} (h : I.Holds s) : I.Holds (deliverCuts s d) := by
  refine .forAll h fun _ _ hu => ?_
  split
  · exact .ite (.creditBack (.modDrover (.presentAll hu))) hu
  · exact hu

protected theorem After.execBaleDeliver {d : DroverNo} {q : Fin 32} {buf : Ecc} (h : I.Holds s) :
    I.After (execBaleDeliver d q buf s) := by
  have hcut : I.Holds (deliverCuts s d) := .deliverCuts h
  refine .next (.ite h (.ite hcut (.ite (.modQueue (.presentAll hcut)) ?_)))
  dsimp only
  split
  · exact hcut
  · exact .ite hcut (.ite (.queueFault (.modQueue hcut)) (.ite hcut
      (.ite (.modDrover (.modQueue (.presentAll hcut))) (.modQueue (.presentAll hcut)))))

protected theorem After.execBaleWrite {d : DroverNo} {q : Fin 32} {buf : Ecc} (h : I.Holds s) :
    I.After (execBaleWrite d q buf s) := by
  refine .next ?_
  dsimp only
  split
  · exact h
  · exact .ite h (.ite (.queueAddr h) (.ite h (.ite (.queueFault (.modQueue h)) (.issueUnit h))))

protected theorem After.execXferComplete {d : DroverNo} {q : Fin 32} (h : I.Holds s) : I.After (execXferComplete d q s) := by
  refine .next ?_
  dsimp only
  split
  · exact h
  next x rest _ =>
    have hdone {c : Prop} [Decidable c] {f : DQueue → DQueue} {row lane : Nat} {k : Token} :
        I.Holds ((if c then present s d row lane k else s).modQueue d q f) := .modQueue (.ite (.present h) h)
    exact .ite h (.ite (.modDrover hdone) hdone)

protected theorem After.execSideGateIssue {d : DroverNo} {q : Fin 32} (h : I.Holds s) : I.After (execSideGateIssue d q s) := by
  refine .next ?_
  dsimp only
  split
  · exact h
  next x _ =>
    have hgate {f : Drover → Drover} {g : Xfer → Xfer} : I.Holds ((s.modDrover d f).modXfer d q x.id g) := .modXfer
        (.modDrover h)
    exact .ite h (.ite (.queueAddr h) (.ite h (.ite (.issueUnit hgate) hgate)))

protected theorem Holds.takeBehind {d : DroverNo} {q ch : Nat} {l : List Line} (h : I.Holds s) :
    I.Holds (takeBehind d q ch l s) := by
  induction l generalizing s with
  | nil => exact h
  | cons r rest ih =>
    have htaken : I.Holds (takeRequest s d (ch / 2) (ch % 2) r) := .takeRequest h
    exact .ite (.modQueue htaken) (ih htaken)

protected theorem After.execReleaseHoldEnd {d : DroverNo} {q : Fin 32} (h : I.Holds s) :
    I.After (execReleaseHoldEnd d q s) := by
  refine .next ?_
  dsimp only
  split
  · exact h
  · exact .ite h (.ite (.queueFault h) (.ite h (.ite (.queueAddr h) (.takeBehind (.modQueue h)))))

protected theorem After.execDeadlineMiss {d : DroverNo} {q : Fin 32} (h : I.Holds s) : I.After (execDeadlineMiss d q s) := by
  refine .next ?_
  dsimp only
  split
  · exact h
  · exact .fire (.modDrover (.modXfer h))

protected theorem After.execTimeout {d : DroverNo} {q : Fin 32} {row : Fin 8} {lane : Fin 2} (h : I.Holds s) :
    I.After (execTimeout d q row lane s) := by
  unfold execTimeout
  refine .next ?_
  refine .ite h ?_
  split
  · exact .queueFault h
  · split
    · exact .droverFault h
    · exact h

protected theorem After.execDroverClrCnt {w : Agent} {d : DroverNo} (h : I.Holds s) : I.After (execDroverClrCnt w d s) :=
  .next (.writeGate h fun _ hu => .modDrover hu)

protected theorem Holds.lineRefused {r : Requester} {a : Addr} {x : Reach} (h : I.Holds s) : I.Holds (lineRefused s r a x) := by
  unfold lineRefused
  extract_lets s1
  have hs1 : I.Holds s1 := .ite (.worldRefused h) h
  split
  · exact .portEvent (.ite (.modPort hs1) hs1)
  · exact .emit hs1
  · exact .emit hs1
  · exact .exchFault hs1
  · exact .snapEnd (.emit hs1)

protected theorem Holds.memoryDone {d : DroverNo} {q id l n : Nat} {v : List Line} {poison : Bool} (h : I.Holds s) :
    I.Holds (memoryDone s d q id l n v poison) := by
  unfold memoryDone
  extract_lets y
  split
  · exact h
  · exact .ite (.modDrover (.modXfer h)) (.modXfer h)

protected theorem Holds.noteWcRead {a : Nat} (h : I.Holds s) : I.Holds (noteWcRead s a) :=
  .ite h (.withRel h)

protected theorem Holds.lineAccess {x : Access} {err : Nat} (h : I.Holds s) : I.Holds (lineAccess s x err) := by
  unfold lineAccess
  extract_lets r a into s1 y
  have hinto {u : State} {v : List Line} {p : Bool} (hu : I.Holds u) : I.Holds (into u v p) := by
    unfold into
    split
    · exact .ite hu (.memoryDone hu)
    · exact hu
  have hs1 : I.Holds s1 := by
    unfold s1
    split
    · exact .noteWcRead h
    · exact h
  have hy : I.Holds y.1 := .readLine hs1
  exact .ite (hinto (.writeLine h)) (.ite (.emit hy) (hinto hy))

protected theorem CtlOk.granted {c : HbmCtl} {split : Bool} {x : Access} {l : List Access} (hc : I.CtlOk c) :
    I.CtlOk (c.granted split x l) := by
  obtain ⟨htok, hframe, _⟩ := hc
  refine ⟨?_, ?_, I.sinceScrub_le (Nat.min_le_left _ _)⟩
  · exact iteInduction (fun _ => I.tok_lt (Nat.mod_lt _ (by decide))) fun _ => htok
  · exact iteInduction (fun _ => I.frame_lt (Nat.mod_lt _ (by decide))) fun _ => hframe

protected theorem Holds.grantLine {k err : Nat} (h : I.Holds s) : I.Holds (grantLine s k err) := by
  unfold grantLine
  extract_lets l
  split
  · exact h
  · exact .lineAccess (.modCtl h fun _ hc => .granted hc)

protected theorem After.execHbmLineAccess {k : Stack} {reach : List LineReq} {err : Nat} (h : I.Holds s) :
    I.After (execHbmLineAccess k reach err s) :=
  .next (.publish (.retry (.grantLine (.forAll (.forAll h fun _ _ hu => .lineRefused hu) fun _ _ hu => .reachTogether hu))))

protected theorem After.execClrErr {w : Agent} {k : Stack} (h : I.Holds s) : I.After (execClrErr w k s) :=
  .next (.writeGate h fun _ hu => .modCtl hu fun _ hc => .clear hc)

protected theorem After.execClrTraffic {w : Agent} {k : Stack} (h : I.Holds s) : I.After (execClrTraffic w k s) :=
  .next (.writeGate h fun _ hu => .modCtl hu fun _ hc => .clear hc)

/-! ## HBM -/

protected theorem Holds.pinError {k pc pin : Nat} (h : I.Holds s) : I.Holds (pinError s k pc pin) :=
  .ite h (.ite (.setCtl (.stepFire (.fireIf h) fun _ hu => .withRel hu) (h.ctl _)) (.setCtl h (h.ctl _)))

protected theorem Holds.scrubAdvance {k : Nat} (h : I.Holds s) : I.Holds (scrubAdvance s k) := by
  have hnext {b : Prop} [Decidable b] {f g : HbmCtl → HbmCtl} (hf : ∀ c, I.CtlOk c → I.CtlOk (f c))
      (hg : ∀ c, I.CtlOk c → I.CtlOk (g c)) : I.Holds (s.modCtl k fun c => if b then f c else g c) :=
    .modCtl h fun c hc => .ite (hf c hc) (hg c hc)
  have hzero : ∀ c, I.CtlOk c → I.tok c.tok ∧ I.frame c.frame ∧ I.sinceScrub 0 := fun c hc =>
    ⟨hc.1, hc.2.1, I.sinceScrub_le (Nat.zero_le _)⟩
  exact .ite (.withRel (hnext hzero hzero)) (hnext hzero hzero)

protected theorem After.execHbmScrubRead {k : Stack} {line : Addr} {err : Nat} (h : I.Holds s) :
    I.After (execHbmScrubRead k line err s) := by
  refine .next ?_
  dsimp only
  refine .ite h (.scrubAdvance ?_)
  have hread {a e : Nat} : I.Holds (decodeLine (countRead s a) a e).1 := .decodeLine (.countRead h)
  split
  · exact hread
  · refine .forAll (.withRel (.countHbmCe (.countWrite ?_))) fun _ _ hu => .pinError hu
    exact .withHbm (.record hread) (hbm_writeBytes hread.hbm)
  · exact .stepFire (.countUe hread) fun _ hu => .withRel hu

protected theorem Holds.tileScrub {t : Nat} {acc : Bool} {word : Nat} {chk : Ecc} (h : I.Holds s) :
    I.Holds (tileScrub t acc word chk s) := by
  unfold tileScrub
  extract_lets _ _ s1 s2 _ _ s3 _ s4
  have hs1 : I.Holds s1 := .modTile h fun _ hx => .chargeFree (.withFlaw hx)
  have hs2 : I.Holds s2 := .chargeCe hs1
  have hs3 : I.Holds s3 := .modTile hs2 fun _ hx => .withRel hx
  have hs4 : I.Holds s4 := by
    unfold s4
    split
    · exact hs1
    · exact .ite (.checkTile (.setCount hs3)) hs3
    · exact .chargeUe (.stepFire hs1 fun _ hu => .withRel hu)
  exact .ite h (.modTile hs4 fun _ hx => .withRel hx)

protected theorem After.execTileScrubRead {t : TileId} {acc : Bool} {word : Nat} {chk : Ecc} (h : I.Holds s) :
    I.After (execTileScrubRead t acc word chk s) :=
  .atTile h fun _ hu => .tileScrub hu

protected theorem After.execTileScrubRewrite {t : TileId} (h : I.Holds s) : I.After (execTileScrubRewrite t s) := by
  refine .atIsland h fun _ hu => ?_
  split
  · exact hu
  · exact .withRel (.modTile hu fun _ hx => .withRel (.recode hx))

/-! ## Host ports -/

protected theorem Holds.hostAccess {p : Port} {c : Instr} (h : I.Holds s) : I.Holds (hostAccess s p c) :=
  .ite (.record h) (.performAccess h)

protected theorem After.execBar0Access {p : Port} {r : Tlp} (h : I.Holds s) : I.After (execBar0Access p r s) :=
  .next (.ite h (.ite (.barFail h) (.hostAccess h)))

protected theorem After.execBar2Access {p : Port} {r : Tlp} (h : I.Holds s) : I.After (execBar2Access p r s) := by
  refine .next (.ite h (.ite (.barFail h) (.ite (.barFail h) ?_)))
  dsimp only
  split
  · exact .hostAccess h
  · exact .ite (.hostAccess (.barRefuse h)) (.barRefuse h)

protected theorem After.execBar4Access {p : Port} {r : Tlp} {chk : Ecc} (h : I.Holds s) : I.After (execBar4Access p r chk s) :=
  .next (.ite h (.ite (.barFail h) (.ite (.barFail h) (.hostAccess h))))

protected theorem Holds.memAccess {p : Port} {write cmp : Bool} {a : Addr} {c : Instr} (h : I.Holds s) :
    I.Holds (memAccess s p write cmp a c) := by
  refine .ite h (.ite (.memVoid h) (.ite (.memRefuse h) ?_))
  split
  · exact .hostAccess h
  · exact .memRefuse h

protected theorem After.execMemRd {p : Port} {k : MemOp} {a : Addr} {m : MetaValue} {err : Nat} (h : I.Holds s) :
    I.After (execMemRd p k a m err s) :=
  .next (.memAccess h)

protected theorem After.execMemWr {p : Port} {a : Addr} {mask : BitVec 64} {d : Line} {poison : Bool} (h : I.Holds s) :
    I.After (execMemWr p a mask d poison s) :=
  .next (.memAccess h)

protected theorem Holds.flipWriteback {p : Port} {page : Nat} {x : Nat × Line} (h : I.Holds s) :
    I.Holds (flipWriteback p page s x) := by
  unfold flipWriteback
  extract_lets a
  split
  · exact .storeLine h
  · exact .lineRefused h

protected theorem After.execPageFlip {p : Port} {page : Nat} {wb : List (Nat × Line)} (h : I.Holds s) :
    I.After (execPageFlip p page wb s) :=
  .next (.ite h (.publish (.retry (.modPort (.forAll (.emit h) fun _ _ hu => .flipWriteback hu)))))

protected theorem After.execHostSnoop {p : Port} {hpa : Nat} {k : Snoop} (h : I.Holds s) :
    I.After (execHostSnoop p hpa k s) := by
  unfold execHostSnoop
  refine .next ?_
  refine .ite h ?_
  split
  · exact .emit h
  · exact .emit (.modPort h)

protected theorem After.execPortClrCnt {w : Agent} {p : Port} (h : I.Holds s) : I.After (execPortClrCnt w p s) :=
  .next (.writeGate h fun _ hu => .modPort hu)

protected theorem After.execClrFault {w : Agent} {p : Port} (h : I.Holds s) : I.After (execClrFault w p s) :=
  .next (.writeGate h fun _ hu => .modPort hu)

protected theorem Holds.endHostXfers {p : Port} (h : I.Holds s) : I.Holds (endHostXfers s p) := by
  refine .forAll h fun u d hu => .forAll hu fun v y hv => ?_
  extract_lets w w1
  have hw1 : I.Holds w1 := by
    unfold w1
    split
    · exact .queueFault (.modQueue hv)
    · exact .modQueue hv
  split
  · exact hw1
  · exact .queueFault (.modQueue hw1)

protected theorem Holds.dropRequests {p : Port} (h : I.Holds s) : I.Holds (dropRequests s p) :=
  .forAll (.record h) fun _ _ hu => .modCtl hu fun _ hc => hc

protected theorem Holds.setSpdm {x : Transport} {y : Spdm} (h : I.Holds s) : I.Holds (s.setSpdm x y) :=
  .withSec h

protected theorem Holds.dropMessages {p : Port} (h : I.Holds s) : I.Holds (dropMessages s p) :=
  .setService (.modPort h)

protected theorem Holds.removeFromJob {p : Port} (h : I.Holds s) : I.Holds (removeFromJob s p) := by
  unfold removeFromJob
  extract_lets s1 s2 s3 s4
  have hs1 : I.Holds s1 := .ite (.endHandovers h) h
  have hs2 : I.Holds s2 := .setSecure hs1
  have hs3 : I.Holds s3 := .ite (.vacateOwner hs2) hs2
  have hs4 : I.Holds s4 := .ite (.setLost hs3) hs3
  exact .ite (.withMelvor hs4) hs4

protected theorem Holds.removePort {p : Port} (h : I.Holds s) : I.Holds (removePort s p) := by
  unfold removePort
  extract_lets _ s1 s2 s3 s4 s5 s6 s7 _ s8
  have hs1 : I.Holds s1 := .modPort h
  have hs2 : I.Holds s2 := .endHostXfers hs1
  have hs3 : I.Holds s3 := .modPort hs2
  have hs4 : I.Holds s4 := .withMelvor (.modBox hs3)
  have hs5 : I.Holds s5 := .dropRequests hs4
  have hs6 : I.Holds s6 := .setSpdm (.dropMessages hs5)
  have hs7 : I.Holds s7 := .renewNonce (.removeFromJob hs6)
  have hs8 : I.Holds s8 := .ite (.snapEnd hs7) hs7
  exact .ite hs1 (.publish (.retry hs8))

protected theorem After.execPerstAssert {p : Port} (h : I.Holds s) : I.After (execPerstAssert p s) :=
  .next (.ite h (.removePort (.modPort h)))

protected theorem After.execDlDownTimeout {p : Port} (h : I.Holds s) : I.After (execDlDownTimeout p s) :=
  .next (.ite (.removePort (.modPort h)) h)

protected theorem After.execD3hotEntry {p : Port} (h : I.Holds s) : I.After (execD3hotEntry p s) :=
  .next (.ite (.removePort (.modPort h)) h)

protected theorem After.execFlr {p : Port} (h : I.Holds s) : I.After (execFlr p s) :=
  .next (.ite (.removePort (.modPort h)) h)

protected theorem After.execPerstDeassert {p : Port} {refclk : Bool} (h : I.Holds s) : I.After (execPerstDeassert p refclk s) :=
  .next (.ite (.modPort h) h)

protected theorem Holds.cxlEnable {p : Port} (h : I.Holds s) : I.Holds (cxlEnable s p) :=
  .modPort h

protected theorem After.execDlActiveReturn {p : Port} {speed : BitVec 3} {width : BitVec 5} (h : I.Holds s) :
    I.After (execDlActiveReturn p speed width s) :=
  .next (.ite h (.cxlEnable (.modPort h)))

protected theorem After.execD0Entry {p : Port} (h : I.Holds s) : I.After (execD0Entry p s) :=
  .next (.ite (.cxlEnable (.modPort h)) h)

protected theorem After.execFlrComplete {p : Port} (h : I.Holds s) : I.After (execFlrComplete p s) :=
  .next (.ite (.cxlEnable (.modPort h)) h)

protected theorem After.execEnable {w : Agent} {p : Port} {cmdCoh cplCoh : Bool} (h : I.Holds s) :
    I.After (execEnable w p cmdCoh cplCoh s) :=
  .next (.writeGate h fun _ hu => .writeEnable hu)

protected theorem After.execDisable {w : Agent} {p : Port} (h : I.Holds s) : I.After (execDisable w p s) :=
  .next (.writeGate h fun _ hu => .writeEnable hu)

protected theorem After.execCmdDoorbell {w : Agent} {p : Port} {v : Word} (h : I.Holds s) : I.After (execCmdDoorbell w p v s) :=
  .next (.writeGate h fun _ hu => .writeCmdProd hu)

protected theorem After.execCplDoorbell {w : Agent} {p : Port} {v : Word} (h : I.Holds s) : I.After (execCplDoorbell w p v s) :=
  .next (.writeGate h fun _ hu => .writeCplCons hu)

protected theorem Holds.fetchEntry {p : Port} (h : I.Holds s) : I.Holds (fetchEntry s p) :=
  .emit h

protected theorem Holds.refuse {p : Port} {e : Line} {status detail : Nat} (h : I.Holds s) :
    I.Holds (refuse s p e status detail) :=
  .putEntry h

protected theorem Holds.takeEntry {p : Port} {e : Line} {same : Bool} (h : I.Holds s) : I.Holds (takeEntry s p e same) := by
  unfold takeEntry
  extract_lets _ s1
  have hs1 : I.Holds s1 := .setBox h
  refine .ite (.refuse hs1) ?_
  refine .ite (.fire (.refuse (.modBox hs1))) ?_
  split
  · exact .refuse hs1
  · refine .ite (.refuse hs1) ?_
    refine .ite (.refuse hs1) (.ite (.refuse hs1) ?_)
    split
    · exact .refuse hs1
    · exact .withMelvor hs1

protected theorem After.execEntryFetch {p : Port} {e : Line} {same : Bool} {mem : Ecc} (h : I.Holds s) :
    I.After (execEntryFetch p e same mem s) :=
  .next (.ite h (.ite (.fatalError h) (.ite (.boxSettle (.takeEntry (.fetchEntry h))) (.modBox (.fetchEntry h)))))

protected theorem After.execRefetch {p : Port} {e : Line} {same : Bool} (h : I.Holds s) : I.After (execRefetch p e same s) :=
  .next (.ite h (.ite (.boxSettle (.takeEntry (.modPort (.fetchEntry h))))
      (.ite (.setBox (.modPort (.fetchEntry h))) (.boxSettle (.fire
          (.putEntry (.modPort (.setBox (.modPort (.fetchEntry h))))))))))

protected theorem After.execMailboxClrCnt {w : Agent} {p : Port} (h : I.Holds s) : I.After (execMailboxClrCnt w p s) :=
  .next (.writeGate h fun _ hu => .modBox hu)

/-! ## Mailboxes -/

protected theorem After.cmdRow {p : Port} {op : Nat} {f : State → Line → State} (h : I.Holds s)
    (hf : ∀ u v, I.Holds u → I.Holds (f u v)) : I.After (cmdRow p op s f) := by
  unfold cmdRow
  refine .next ?_
  split
  · exact .ite (hf _ _ h) h
  · exact h

protected theorem After.execHello {p : Port} (h : I.Holds s) : I.After (execHello p s) := by
  refine .cmdRow h fun _ _ hu => .ite (.complete hu) ?_
  split
  · exact .complete hu
  · exact .complete (.modBox hu)

protected theorem After.execNop {p : Port} (h : I.Holds s) : I.After (execNop p s) :=
  .cmdRow h fun _ _ hu => .complete hu

protected theorem Holds.markStarted {p : Port} {e : Line} (h : I.Holds s) : I.Holds (markStarted s p e) :=
  .withMelvor h

protected theorem After.execClaim {p : Port} (h : I.Holds s) : I.After (execClaim p s) :=
  .cmdRow h fun _ _ hu => .ite (.complete hu) (.ite (.ite (.complete (.setOwner hu)) (.complete hu))
      (.ite (.ite (.withMelvor (.markStarted hu)) (.complete hu)) (.complete hu)))

protected theorem After.execRelease {p : Port} (h : I.Holds s) : I.After (execRelease p s) :=
  .cmdRow h fun _ _ hu => .ite (.complete hu) (.vacate (.complete hu))

protected theorem After.execHandover {p : Port} (h : I.Holds s) : I.After (execHandover p s) :=
  .cmdRow h fun _ _ hu => .ite (.complete hu) (.ite (.complete hu) (.setHandover (.markStarted hu)))

protected theorem After.execHandoverGrant {p : Port} (h : I.Holds s) : I.After (execHandoverGrant p s) := by
  unfold execHandoverGrant
  refine .next ?_
  split
  · exact h
  · exact .ite h (.grantClaim h)

protected theorem After.execHandoverExpiry (h : I.Holds s) : I.After (execHandoverExpiry s) := by
  unfold execHandoverExpiry
  refine .next ?_
  split
  · exact h
  · exact .ite h (.endHandovers h)

protected theorem After.execStatus {p : Port} (h : I.Holds s) : I.After (execStatus p s) :=
  .cmdRow h fun _ _ hu => .complete hu

protected theorem Holds.bufWrite {a n v : Nat} (h : I.Holds s) : I.Holds (bufWrite s a n v) := by
  unfold bufWrite
  split
  · exact .melvorStore (.beforePages h)
  · exact .melvorWrite h

protected theorem After.execCounters {p : Port} {hostErr : Bool} (h : I.Holds s) : I.After (execCounters p hostErr s) :=
  .cmdRow h fun _ _ hu => .ite hu (.ite (.complete hu) (.complete (.bufWrite hu)))

protected theorem After.execFaultReport {p : Port} {hostErr : Bool} (h : I.Holds s) : I.After (execFaultReport p hostErr s) :=
  .cmdRow h fun _ _ hu => .ite hu (.ite (.complete hu) ((by split <;> exact .complete (.bufWrite hu))))

protected theorem After.execRegionAdd {p : Port} (h : I.Holds s) : I.After (execRegionAdd p s) := by
  refine .cmdRow h fun u e hu => ?_
  dsimp only
  split
  · exact .complete hu
  · split
    · exact .complete hu
    · exact .ite (.complete hu) (.ite (.complete hu) (.complete (.modPort hu)))

protected theorem After.execRegionDel {p : Port} (h : I.Holds s) : I.After (execRegionDel p s) :=
  .cmdRow h fun _ _ hu => .ite (.complete hu) (.ite (.complete hu) (.complete (.modPort hu)))

protected theorem After.execPwinSet {p : Port} (h : I.Holds s) : I.After (execPwinSet p s) :=
  .cmdRow h fun _ _ hu => .ite (.complete hu) (.ite (.complete (.modPort hu)) (.ite (.complete hu) (.complete (.modPort hu))))

protected theorem Holds.scanSecs {base img : Nat} {all l : List Sec} (h : I.Holds s) :
    I.Holds (scanSecs base img all l s).1 := by
  induction l generalizing s with
  | nil => exact h
  | cons x r ih =>
    exact .iteFst h (.iteFst (.iteFst (.bytesRead h) (.iteFst (.bytesRead h) (ih (.bytesRead h)))) (ih h))

protected theorem HoldsFst.bytesRead {a n : Nat} (h : I.Holds s) : I.HoldsFst (bytesRead s a n) := Holds.bytesRead h

protected theorem HoldsFst.scanSecs {base img : Nat} {all l : List Sec} (h : I.Holds s) :
    I.HoldsFst (scanSecs base img all l s) := Holds.scanSecs h

/-- The values are cleared as they come: the kernel would evaluate an image's bytes to compare two terms on them. -/
protected theorem HoldsFst.loadImage {slot : Nat} {w : Bool} (h : I.Holds s) : I.HoldsFst (loadImage s slot w) := by
  unfold loadImage
  extract_lets +onlyGivenNames base hd
  have hhd : I.HoldsFst hd := .bytesRead h
  clear_value hd
  refine HoldsFst.ite (.mk (.fresh (.fresh hhd))) (HoldsFst.ite (.mk hhd) ?_)
  extract_lets +onlyGivenNames t head
  have ht : I.HoldsFst t := .bytesRead hhd
  clear_value head t
  refine HoldsFst.ite (.mk ht) ?_
  extract_lets +onlyGivenNames all g
  have hg : I.HoldsFst g := .scanSecs ht
  clear_value g all
  split
  · exact .mk hg
  · refine HoldsFst.ite (.mk hg) ?_
    extract_lets +onlyGivenNames k
    have hk : I.HoldsFst k := .scanSecs hg
    clear_value k
    split
    · exact .mk hk
    · extract_lets r
      have hr : I.HoldsFst r := .bytesRead hk
      clear_value r
      exact HoldsFst.ite (.mk hr) (.mk hr)

protected theorem Holds.loaderResult {bad : Option Bad} {img dropped : Nat} (h : I.Holds s) :
    I.Holds (loaderResult s bad img dropped).2 :=
  .fresh h

protected theorem Holds.loaderEnd {p : Port} {e : Line} {bad : Option Bad} {img dropped : Nat} (h : I.Holds s) :
    I.Holds (loaderEnd s p e bad img dropped) := by
  unfold loaderEnd
  extract_lets s1 r
  have hs1 : I.Holds s1 := .fire (.withMelvor h)
  have hr : I.Holds r.2 := .loaderResult hs1
  split <;> exact .complete hr

protected theorem After.execImageStage {p : Port} (h : I.Holds s) : I.After (execImageStage p s) :=
  .cmdRow h fun u e hu => .ite (.complete hu) (.ite hu (.loaderEnd
    (HoldsFst.loadImage (slot := Line.bytes e 8 1) (w := (u.port p).secure) hu)))

protected theorem Holds.badState {p : Port} {e : Line} (h : I.Holds s) : I.Holds (badState s p e) :=
  .complete h

/-! ## The loader -/

protected theorem TileOk.discard {x : Tile} (hx : I.TileOk x) : I.TileOk x.discard :=
  ⟨I.sendBuf_nil, engOk_empty, engOk_empty, engOk_empty, hx.wmem, hx.amem⟩

protected theorem Holds.discardFold (h : I.Holds s) : I.Holds (discardFold s) := by
  unfold discardFold
  extract_lets s1 s2 s3
  have hs1 : I.Holds s1 := .freezeFold h
  have hs2 : I.Holds s2 := by
    unfold s2
    split
    · exact .forAll hs1 fun _ _ hu => .modTile hu fun _ hx => .discard hx
    · exact hs1
  have hs3 : I.Holds s3 := .withGrp hs2
  exact .forAll hs3 fun _ _ hu => .modDrover hu

protected theorem TileOk.unload {x : Tile} (hx : I.TileOk x) : I.TileOk (x.unload) :=
  .record hx

protected theorem Holds.unloadFold (h : I.Holds s) : I.Holds (unloadFold s) := by
  refine .withSec (.withMelvor (.withTiles h ?_))
  refine forall_filter (P := I.TileOk) fun x hx => ?_
  obtain ⟨y, hy, rfl⟩ := List.mem_map.1 hx
  exact .ite (.unload (h.1 y hy)) (h.1 y hy)

protected theorem TileOk.cleared {x : Tile} (hx : I.TileOk x) : I.TileOk x.cleared :=
  ⟨hx.1, hx.2.1, hx.2.2.1, hx.2.2.2.1, I.wmem_nil, I.amem_nil⟩

protected theorem Holds.movedTile {row : Nat} {old new : List Nat} {j : Nat} (h : I.Holds s) :
    I.TileOk (s.movedTile row old new j) := by
  unfold State.movedTile
  extract_lets x
  split
  · exact tileOk_reset
  next k _ =>
    have hy := h.tile (idOf row k)
    exact TileOk.ite hy (TileOk.cleared hy)

protected theorem Holds.moveRow {row : Nat} {old new : List Nat} (h : I.Holds s) : I.Holds (moveRow s row old new) :=
  .forAll (.record h) fun _ _ hu => .setCount (.setTile hu h.movedTile)

protected theorem Holds.unplace {t c : Nat} (h : I.Holds s) : I.Holds (unplace s t c) :=
  .withFlash (.setCount h) fun _ hf => hf

protected theorem Holds.retireTile {t c : Nat} (h : I.Holds s) : I.Holds (retireTile s t c) := by
  unfold retireTile
  extract_lets _ _ _ s1
  have hs1 : I.Holds s1 := .withFlash h fun _ hf => hf
  split
  · exact .withRel (.withFlash (.moveRow hs1) fun _ hf => hf)
  · exact .setNoSpare (.unplace hs1)

protected theorem Holds.setRowMaps (h : I.Holds s) : I.Holds (setRowMaps s) :=
  .withMelvor (.withRel (.forAll (.forAll h fun _ _ hu => .retireTile hu) fun _ _ hu => .unplace hu))

protected theorem Holds.applyTileMap (h : I.Holds s) : I.Holds (applyTileMap s) :=
  .ite h (.measureWorld (.forAll h fun _ _ hu => .modTile hu fun _ hx => .record (.cleared hx)))

theorem wmem_loadWmem {img : Nat} {l : List Sec} : I.wmem (loadWmem img l) :=
  forAll_inv I.wmem _ (fun _ _ hm => wmem_writeBytes hm) l [] I.wmem_nil

protected theorem TileOk.loadTile {img : Nat} {x : TileSecs} {wd : Word} {world : Bool} {y : Tile} (_ : I.TileOk y) :
    I.TileOk (loadTile img x wd world y) :=
  ⟨I.sendBuf_nil, engOk_empty, engOk_empty, engOk_empty, wmem_loadWmem, I.amem_nil⟩

protected theorem Holds.startCredits {t : Nat} (h : I.Holds s) : I.Holds (startCredits s t) :=
  .modTile h fun _ hx => .withRouter hx

protected theorem Holds.startDrover {cuts : List Cut} {d : Nat} (h : I.Holds s) : I.Holds (startDrover cuts s d) :=
  .modDrover h

protected theorem Holds.startFold {img slot dropped : Nat} (h : I.Holds s) : I.Holds (startFold s img slot dropped) := by
  unfold startFold
  extract_lets _ _ s1 s2 s3 s4 s5 s6 s7
  have hs1 : I.Holds s1 := .applyTileMap (.unloadFold h)
  have hs2 : I.Holds s2 := .forAll hs1 fun _ _ hu => .modTile hu fun _ hx => .loadTile hx
  have hs3 : I.Holds s3 := .forAll hs2 fun _ _ hu => .startCredits hu
  have hs4 : I.Holds s4 := .forAll hs3 fun _ _ hu => .startDrover hu
  have hs5 : I.Holds s5 := .forAll hs4 fun _ _ hu => .modTile hu fun _ hx => .withCore hx fun _ hc => hc
  have hs6 : I.Holds s6 := .withGrp hs5
  have hs7 : I.Holds s7 := .withSec (.extendMeas hs6)
  exact .withMelvor hs7

protected theorem Holds.finishActivation {p : Port} {e : Line} {img slot dropped : Nat} (h : I.Holds s) :
    I.Holds (finishActivation s p e img slot dropped) := by
  unfold finishActivation
  extract_lets s1 s2
  have hs1 : I.Holds s1 := .ite (.setRowMaps (.unloadFold h)) h
  have hs2 : I.Holds s2 := .withMelvor (.unloadFold hs1)
  split
  · exact .loaderEnd hs2
  · exact .loaderEnd (.startFold hs1)

protected theorem After.execImageActivate {p : Port} (h : I.Holds s) : I.After (execImageActivate p s) := by
  refine .cmdRow h fun u e hu => ?_
  extract_lets +onlyGivenNames s1 slot discard st
  have hs1 : I.Holds s1 := .nightExit hu
  refine .ite (.badState hs1) (.ite (.complete hs1) (.ite hs1 (.ite (.loaderEnd (.bytesRead hs1)) ?_)))
  extract_lets +onlyGivenNames r
  have hr : I.HoldsFst r := .loadImage hs1
  clear_value r
  split
  · exact .loaderEnd hr
  · exact .ite (.withMelvor (.unloadFold (.markStarted (.ite (.discardFold hr) hr))))
      (.finishActivation (.ite (.discardFold hr) hr))

protected theorem After.execPartitionStart {allActivated indicesDistinct : Bool} (h : I.Holds s) :
    I.After (execPartitionStart allActivated indicesDistinct s) := by
  unfold execPartitionStart
  refine .next ?_
  split
  · exact h
  · exact .ite h (.ite (.finishActivation h) (.loaderEnd (.withMelvor h)))

protected theorem Holds.melvorFetch {p : Port} {hpa n v : Nat} (h : I.Holds s) : I.Holds (melvorFetch s p hpa n v) :=
  .ite (.forAll h fun _ _ hu => .ite (.cacheLine (.emit (.fresh hu))) hu) (.emit h)

protected theorem Holds.tableRead {a n : Nat} (h : I.Holds s) : I.Holds (tableRead s a n) :=
  .bytesRead h

protected theorem Holds.groupRead {j : Job} {g : Nat} (h : I.Holds s) : I.Holds (groupRead s j g) :=
  .tableRead (.tableRead h)

protected theorem Holds.useRoutes (h : I.Holds s) : I.Holds (useRoutes s) :=
  .forAll h fun _ _ hu => .ite (.modLink hu fun _ hl => hl) hu

protected theorem Holds.initCredits (h : I.Holds s) : I.Holds (initCredits s) :=
  .forAll h fun _ _ hu => .modLink hu fun _ hl => hl

protected theorem Holds.fixRoutes {links : List GLink} (h : I.Holds s) : I.Holds (fixRoutes s links) :=
  .initCredits (.withGrp (.withGrp h))

protected theorem Holds.writeRecords {o n v : Nat} (h : I.Holds s) : I.Holds (writeRecords s o n v) :=
  .forAll h fun _ _ hu => .modTile hu fun _ hx => .writeW hx

protected theorem Holds.startRecords {j : Job} {start : Word} {lse : Nat} (h : I.Holds s) :
    I.Holds (startRecords s j start lse) :=
  .writeRecords h

protected theorem Holds.resetRel {v : Word} (h : I.Holds s) : I.Holds (resetRel s v) :=
  .forAll h fun _ _ hu => .modDrover hu

protected theorem Holds.badHold {d : DroverNo} {q : Nat} {y : DQueue} (h : I.Holds s) : I.Holds (badHold s d q y) := by
  unfold badHold
  split
  · exact .ite (.queueFault h) h
  · exact h

protected theorem Holds.checkHolds (h : I.Holds s) : I.Holds (checkHolds s) :=
  .forAll h fun _ _ hu => .forAll hu fun _ _ hv => .badHold hv

protected theorem Holds.beginStep (h : I.Holds s) : I.Holds (beginStep s) := by
  unfold beginStep
  extract_lets _ s1 _ s2 s3
  have hs1 : I.Holds s1 := .fireIf h
  have hs2 : I.Holds s2 := by
    unfold s2
    split
    · exact .tableRead hs1
    · exact hs1
  have hs3 : I.Holds s3 := .withRel hs2
  exact .withGrp hs3

protected theorem Holds.beginJob {j : Job} {ranks : List Nat} {i b : Nat} {links : List GLink} {cuts : List GCut}
    (h : I.Holds s) : I.Holds (beginJob s j ranks i b links cuts) := by
  unfold beginJob
  extract_lets _ s1 s2 s3 _ _ _ s4 s5 s6 s7 s8 s9
  have hs1 : I.Holds s1 := .withGrp h
  have hs2 : I.Holds s2 := .fire hs1
  have hs3 : I.Holds s3 := .useRoutes (.fixRoutes hs2)
  have hs4 : I.Holds s4 := .record hs3
  have hs5 : I.Holds s5 := .withSnap hs4
  have hs6 : I.Holds s6 := .withMelvor hs5
  have hs7 : I.Holds s7 := .startRecords (.resetRel hs6)
  have hs8 : I.Holds s8 := .forAll hs7 fun _ _ hu => .forAll hu fun _ _ hv => .modQueue hv
  have hs9 : I.Holds s9 := .forAll hs8 fun _ _ hu => .forAll hu fun _ _ hv => .modQueue hv
  exact .checkHolds (.completeAll (.beginStep hs9))

protected theorem Holds.refuseStart (h : I.Holds s) : I.Holds (refuseStart s) :=
  .completeAll (.withGrp (.withMelvor h))

protected theorem Holds.joinOne {j : Job} {kind : Nat} {x : Nat × Nat × Nat × BitVec 64 × Nat} (h : I.Holds s) :
    I.Holds (joinOne s j kind x) :=
  .ite h (.ite (.ite (.refuseStart h) h) (.ite (.refuseStart h) (.withGrp h)))

protected theorem Holds.joinGroup {d : Nat} {j : Job} (h : I.Holds s) : I.Holds (joinGroup s d j) :=
  .forAll (.broadcast (.withGrp (.withMelvor h))) fun _ _ hu => .joinOne hu

protected theorem After.execJobStart {p : Port} {desc : List Byte} {hostErr : Bool} (h : I.Holds s) :
    I.After (execJobStart p desc hostErr s) := by
  refine .cmdRow h fun u e hu => ?_
  have hn : I.Holds (nightExit u) := .nightExit hu
  refine .ite (.complete hn) (.ite (.complete hn) (.ite (.complete hn) (.ite (.complete hn) (.ite hn (.ite hn ?_)))))
  extract_lets s1 s2
  have hs1 : I.Holds s1 := by
    unfold s1
    split
    · exact .melvorFetch hn
    · exact .tableRead hn
  have hs2 : I.Holds s2 := .ite (.forAll hs1 fun _ _ hv => .groupRead hv) hs1
  split
  · exact .complete hs2
  · exact .ite (.complete hs2) (.ite (.beginJob (.markStarted hs2)) (.joinGroup (.markStarted hs2)))

/-! ## Jobs -/

protected theorem After.execJobPause {p : Port} (h : I.Holds s) : I.After (execJobPause p s) :=
  .cmdRow h fun _ _ hu => .ite (.pauseJob (.markStarted hu)) (.badState hu)

protected theorem Holds.renewRecords {j : Job} (h : I.Holds s) : I.Holds (renewRecords s j) :=
  .withGrp (.startRecords h)

protected theorem Holds.resumeJob (h : I.Holds s) : I.Holds (resumeJob s) := by
  unfold resumeJob
  split
  · exact h
  · exact .useRoutes (.withGrp (.withMelvor (.ite (.fixRoutes (.ite (.renewRecords h) h)) (.ite (.renewRecords h) h))))

protected theorem Holds.groupResumes (h : I.Holds s) : I.Holds (groupResumes s) := by
  unfold groupResumes
  extract_lets s1
  have hs1 : I.Holds s1 := .ite (.sendControl h) h
  split
  · exact .completeAll hs1
  · exact .ite (.completeAll hs1) (.completeAll (.resumeJob hs1))

protected theorem Holds.sendResume (h : I.Holds s) : I.Holds (sendResume s) :=
  .ite (.ite (.groupResumes (.withGrp h)) (.withGrp h)) (.sendControl h)

protected theorem Holds.noteErrors {found : List (Addr × Nat)} (h : I.Holds s) : I.Holds (noteErrors s found) :=
  .forAll h fun _ _ hu => .record hu

protected theorem Holds.replayStep {j : Job} (h : I.Holds s) : I.Holds (replayStep s j) :=
  .beginStep (.withGrp (.stepFire (.renewRecords (.resetRel h)) fun _ hu => .withRel hu))

protected theorem After.execJobResume {p : Port} {found : List (Addr × Nat)} {w : WriteBack} (h : I.Holds s) :
    I.After (execJobResume p found w s) := by
  refine .cmdRow h fun u e hu => ?_
  have hn : I.Holds (nightExit u) := .nightExit hu
  extract_lets s1 st s2 r
  have hr : I.Holds r.1 := .undoStep (.noteErrors (.withRel hn))
  split
  · exact .ite (.complete hn) (.badState hn)
  · exact .badState hn
  · exact .ite (.ite (.complete hn) (.ite (.badState hn) (.sendResume (.markStarted hn))))
      (.ite (.ite (.badState hn) (.ite (.complete hn) (.ite (.complete hn) (.ite (.withRel hn)
        (.ite (.sendResume (.markStarted (.replayStep hr))) (.complete (.withRel hr))))))) (.badState hn))

protected theorem After.execJobStop {p : Port} (h : I.Holds s) : I.After (execJobStop p s) := by
  refine .cmdRow h fun u e hu => .ite (.badState hu) ?_
  have hsent {n : Nat} : I.Holds (sendControl (markStarted u p e) n) := .sendControl (.markStarted hu)
  have hnow {n : Nat} {f : Melvor → Melvor} : I.Holds ((freezeFold (sendControl (markStarted u p e) n)).withMelvor f) :=
    .withMelvor (.freezeFold hsent)
  have hend {n : Nat} {f : Melvor → Melvor} : I.Holds ((sendControl (markStarted u p e) n).withMelvor f) := .withMelvor hsent
  exact .ite (.ite (.jobToNone hnow) (.stopFailed hnow)) (.ite (.jobToNone hend) (.ite (.stopFailed hend) (.nameBoundary hend)))

protected theorem After.execPlace {p : Port} (h : I.Holds s) : I.After (execPlace p s) := by
  refine .cmdRow h fun _ _ hu => ?_
  split
  · exact .complete hu
  · exact .ite (.complete hu) (.ite (.complete hu) (.ite (.complete hu)
      (.ite (.complete hu) (.ite (.complete hu) (.complete (.withMelvor hu))))))

protected theorem After.execGroup {p : Port} (h : I.Holds s) : I.After (execGroup p s) := by
  refine .cmdRow h fun _ _ hu => ?_
  split
  · exact .complete hu
  · exact .ite (.complete hu) (.ite (.complete hu) (.ite hu (.complete (.melvorWrite (.melvorWrite hu)))))

protected theorem Holds.sendAck {f : FoldPort} {nak : Bool} (h : I.Holds s) : I.Holds (sendAck s f nak) :=
  .emitFlit h

protected theorem Holds.discardFlit {f : FoldPort} (h : I.Holds s) : I.Holds (discardFlit s f) :=
  .ite h (.sendAck (.modLink h fun _ hl => hl))

protected theorem Holds.replay {f : FoldPort} (h : I.Holds s) : I.Holds (replay s f) :=
  .ite (.startRetrain (.forAll (.setLink h (h.link _)) fun _ _ hu => .emitFlit hu))
      (.forAll (.setLink h (h.link _)) fun _ _ hu => .emitFlit hu)

protected theorem Holds.slotIn {f : FoldPort} {sid : Nat} {k : Token} (h : I.Holds s) : I.Holds (slotIn s f sid k) := by
  unfold slotIn
  split
  · exact h
  · refine .ite ?_ ?_
    · split
      · exact .pumpAll (.modLink h fun _ hl => hl)
      · exact h
    · split
      · exact .modDrover h
      · split
        · exact .modDrover h
        · exact h

theorem acked_sublist (n : BitVec 12) (l : List SentFlit) : (acked n l).Sublist l := by
  unfold acked
  split
  · exact (List.drop_sublist 1 _).trans (List.dropWhile_sublist _)
  · exact List.Sublist.refl l

/-! ## Fold links -/

protected theorem After.execFlitReceive {f : FoldPort} {x : Flit} (h : I.Holds s) : I.After (execFlitReceive f x s) := by
  refine .next (.ite h ?_)
  extract_lets s1 left s2 s3 bad s4 s5 s6
  have hleft : I.replayBuf left := I.replayBuf_sublist (acked_sublist _ _) (h.link f)
  have hs1 : I.Holds s1 := .setLink h (h.link f)
  have hs2 : I.Holds s2 := .ite (.modLink hs1 fun _ _ => hleft) hs1
  have hs3 : I.Holds s3 := .ite (.replay hs2) hs2
  have hs4 : I.Holds s4 := .modLink hs3 fun _ hl => hl
  have hs5 : I.Holds s5 := .ite (.forAll hs4 fun _ _ hu => .slotIn hu) hs4
  have hs6 : I.Holds s6 := .ite hs3 (.ite (.ite (.sendAck hs5) hs5) (.ite hs3 (.discardFlit hs3)))
  exact .ite (.discardFlit (.modLink hs1 fun _ hl => hl)) (.ite (.discardFlit (.modLink hs1 fun _ hl => hl)) (.pumpAll hs6))

protected theorem After.execReplayTimeout {f : FoldPort} (h : I.Holds s) : I.After (execReplayTimeout f s) :=
  .next (.ite (.replay h) h)

protected theorem After.execAckTimer {f : FoldPort} (h : I.Holds s) : I.After (execAckTimer f s) :=
  .next (.ite (.sendAck h) h)

protected theorem After.execFecLockLoss {f : FoldPort} {a : Fin 8} (h : I.Holds s) : I.After (execFecLockLoss f a s) :=
  .next (.ite (.startRetrain h) h)

protected theorem After.execRetrain {w : Agent} {f : FoldPort} (h : I.Holds s) : I.After (execRetrain w f s) :=
  .next (.writeGate h fun _ hu => .startRetrain hu)

protected theorem Holds.setHalf {f : FoldPort} (h : I.Holds s) : I.Holds (setHalf s f) :=
  .fireIf (.modLink h fun _ hl => hl)

protected theorem After.execRetrainEnd {f : FoldPort} {badLanes : BitVec 8} {over10ms : Bool} (h : I.Holds s) :
    I.After (execRetrainEnd f badLanes over10ms s) := by
  have hdone {u : State} {c : Prop} [Decidable c] {g : LinkPort → LinkPort} (hu : I.Holds u)
      (hg : ∀ l, I.LinkOk l → I.LinkOk (g l)) :
      I.Holds (if c then pumpAll (u.modLink f g) f else u) := .ite (.pumpAll (.modLink hu hg)) hu
  exact .next (.ite h (.ite (.portDown h) (.ite (hdone (.modLink h fun _ hl => hl) fun _ hl => hl)
    (.ite (hdone (.setHalf h) fun _ hl => hl) (.portDown h)))))

protected theorem After.execHoldDown {w : Agent} {f : FoldPort} {v : Bool} (h : I.Holds s) : I.After (execHoldDown w f v s) :=
  .next (.writeGate h fun _ hu => .writeHoldDown hu)

protected theorem Holds.linkComplete {f : FoldPort} {version : Nat} (h : I.Holds s) : I.Holds (linkComplete s f version) :=
  .ite h (.ite (.portDown h) (.setLink h I.replayBuf_nil))

protected theorem After.execLinkHello {f : FoldPort} {version : BitVec 2} {rank : BitVec 12} {pport : BitVec 4} {ready : Bool}
    (h : I.Holds s) : I.After (execLinkHello f version rank pport ready s) := by
  unfold execLinkHello
  refine .next ?_
  extract_lets l s1 l2 _ _ _ s2 s3
  have hl : I.LinkOk l := h.link _
  have hs1 : I.Holds s1 := .ite h (.emit (.setLink h hl))
  have hl2 : I.LinkOk l2 := hs1.link _
  have hs2 : I.Holds s2 := .setLink hs1 hl2
  have hs3 : I.Holds s3 := .fireIf hs2
  exact .ite h (.linkComplete hs3)

protected theorem Holds.cutCredits {st : Stream} {n : Nat} (h : I.Holds s) : I.Holds (cutCredits s st n) :=
  .record h

protected theorem Holds.frameBack {st : Stream} {n : Nat} (h : I.Holds s) : I.Holds (frameBack s st n) := by
  unfold frameBack
  split
  · exact h
  · exact .withGrp h

protected theorem After.execCredit {f : FoldPort} {stream : Byte} {n : BitVec 16} (h : I.Holds s) :
    I.After (execCredit f stream n s) := by
  unfold execCredit
  refine .next ?_
  refine .ite h ?_
  split
  · exact h
  · exact .ite (.creditStream h) (.pumpAll (.modLink (.cutCredits (.frameBack h)) fun _ hl => hl))

protected theorem After.execJoin {f : FoldPort} {rank : BitVec 12} {kind : Byte} {part : BitVec 16} {key : BitVec 64}
    {modules : BitVec 16} (h : I.Holds s) : I.After (execJoin f rank kind part key modules s) := by
  unfold execJoin
  refine .next ?_
  extract_lets _ s1 _ _ s2
  have hs1 : I.Holds s1 := .withGrp h
  have hs2 : I.Holds s2 := .forAll hs1 fun _ _ hu => .queueOn hu
  refine .ite h (.ite h ?_)
  split
  · exact hs2
  · exact .joinOne hs2

protected theorem After.execGroupFormed {links : List GLink} {cuts : List GCut} (h : I.Holds s) :
    I.After (execGroupFormed links cuts s) := by
  unfold execGroupFormed
  refine .next ?_
  split
  · exact h
  · exact .ite h (.ite h (.ite (.refuseStart h) (.beginJob h)))

protected theorem After.execJoinTimeout (h : I.Holds s) : I.After (execJoinTimeout s) :=
  .next (.ite (.refuseStart h) h)

/-! ## The exchange -/

protected theorem After.execReduceFrame {f : FoldPort} {level : Fin 2} {src : Nat} {x : Frame} (h : I.Holds s) :
    I.After (execReduceFrame f level src x s) :=
  .next (.ite h (.addContrib (.modLink h fun _ hl => hl)))

protected theorem Holds.accumulate {obj j micro nelem : Nat} {eg : Int} {ws : List A44} (h : I.Holds s) :
    I.Holds (accumulate s obj j micro nelem eg ws) := by
  unfold accumulate
  extract_lets _ _ _ _ r _ s1 s2
  have hr : I.Holds r.1 := by
    unfold r
    split
    · exact h
    · exact .bytesRead h
  have hs1 : I.Holds s1 := .bytesWrite hr
  have hs2 : I.Holds s2 := .bytesWrite hs1
  exact .ite (.exchFault h) (.ite (.exchFault hr) (.withGrp hs2))

protected theorem After.execCombine {level : Fin 2} {obj frame micro : Nat} {store : Ecc} (h : I.Holds s) :
    I.After (execCombine level obj frame micro store s) := by
  refine .next ?_
  dsimp only
  split
  · exact h
  · exact h
  next c cs _ =>
    have hcredit {m n : Nat} : I.Holds (forAll (c :: cs) s fun s x => creditFrame s m x.src n) :=
      .forAll h fun _ _ hu => .creditFrame hu
    exact .ite h (.ite (.exchFault h) (.ite h (.ite h (.ite (.accumulate (.withGrp hcredit))
      (.sendReduce (.withGrp (.withGrp hcredit)))))))

protected theorem Holds.takeGather {store : Ecc} {src : Nat} {x : Frame} (h : I.Holds s) : I.Holds (takeGather store s src x) :=
  .ite h (.ite (.ite (.frameIn (.creditFrame (.writeFrame h))) (.writeFrame h)) (.frameIn (.withGrp h)))

protected theorem After.execGatherFrame {f : FoldPort} {src : Nat} {x : Frame} {store : Ecc} (h : I.Holds s) :
    I.After (execGatherFrame f src x store s) :=
  .next (.ite h (.ite (.withGrp h) (.ite h (.ite h (.takeGather h)))))

protected theorem After.execExchTimeout (h : I.Holds s) : I.After (execExchTimeout s) :=
  .next (.ite (.exchFault h) h)

protected theorem Holds.coverAgree {nv sat : Bool} {n : Nat} (h : I.Holds s) : I.Holds (coverAgree s nv sat n) :=
  .ite (.withGrp h) (.ite (.sendDown (.withGrp h)) (.sendUp (.withGrp h)))

protected theorem Holds.recordRead {step : Word} (h : I.Holds s) : I.Holds (recordRead s step) := by
  refine .forAll h fun u t hu => ?_
  dsimp only
  split
  · exact hu
  · exact .chargeCe hu
  · exact .chargeUe hu

protected theorem After.execAgreeUpSend (h : I.Holds s) : I.After (execAgreeUpSend s) := by
  unfold execAgreeUpSend
  refine .next ?_
  split
  · exact h
  · exact .ite h (.coverAgree (.withGrp (.recordRead h)))

protected theorem After.execAgreeUp {step : Word} {gnv gsat : Bool} {covered : Nat} (h : I.Holds s) :
    I.After (execAgreeUp step gnv gsat covered s) :=
  .next (.ite h (.coverAgree h))

protected theorem Holds.setGrel {g : Nat} {v : Word} (h : I.Holds s) : I.Holds (setGrel s g v) :=
  .forAll h fun _ _ hu => .modDrover hu

protected theorem Holds.applyAgree {j : Job} {nv sat : Bool} (h : I.Holds s) : I.Holds (applyAgree s j nv sat) :=
  .forAll (.withRel (.forAll (.withGrp (.writeRecords (.writeRecords (.withMelvor h)))) fun _ _ hu => .setGrel
      (.melvorWrite (.melvorWrite (.groupRead hu))))) fun _ _ hu => .ite (.setLrel hu) hu

protected theorem After.execAgreeDown {step : Word} {gnv gsat : Bool} (h : I.Holds s) :
    I.After (execAgreeDown step gnv gsat s) := by
  unfold execAgreeDown
  refine .next ?_
  extract_lets _ s1
  have hs1 : I.Holds s1 := .sendDown h
  split
  · exact h
  · exact .ite h (.ite (.applyAgree h) (.applyAgree hs1))

protected theorem Holds.coverDone {n : Nat} (h : I.Holds s) : I.Holds (coverDone s n) :=
  .ite (.withGrp h) (.ite (.sendDown (.withGrp h)) (.sendUp (.withGrp h)))

protected theorem After.execDoneSend (h : I.Holds s) : I.After (execDoneSend s) := by
  unfold execDoneSend
  refine .next ?_
  split
  · exact h
  · exact .ite h (.coverDone (.withGrp h))

protected theorem After.execDoneMsg {step : Word} {covered : Nat} (h : I.Holds s) : I.After (execDoneMsg step covered s) :=
  .next (.ite h (.coverDone h))

protected theorem Holds.takeEarly {store : Ecc} (h : I.Holds s) : I.Holds (takeEarly store s) :=
  .forAll (.withGrp h) fun _ _ hu => .ite (.exchFault hu) (.takeGather hu)

protected theorem Holds.commitStep (h : I.Holds s) : I.Holds (commitStep s) := by
  unfold commitStep
  extract_lets _ _ _ _ s1 _ s2 s3 _ _ _ _ _ _ s4 s5 _ s6 s7
  have hs1 : I.Holds s1 := .beginStep (.withMelvor h)
  have hs2 : I.Holds s2 := .ite (.snapshotDue hs1) hs1
  have hs3 : I.Holds s3 := .holdShown hs2
  have hs4 : I.Holds s4 := .withMelvor hs3
  have hs5 : I.Holds s5 := .ite (.postEvent hs4) hs4
  have hs6 : I.Holds s6 := .dropRoutes (.withGrp (.withMelvor hs5))
  have hs7 : I.Holds s7 := .ite (.postEvent hs6) hs6
  exact .ite (.jobToNone (.ite (.postEvent hs5) hs5)) (.ite (.ite (.postEvent (.completeAll hs7)) hs7) hs5)

protected theorem After.execCommit {step : Word} {store : Ecc} (h : I.Holds s) : I.After (execCommit step store s) :=
  .next (.ite h (.takeEarly (.commitStep (.ite h (.sendDown h)))))

protected theorem After.execFreeze {down : Bool} {origin : BitVec 16} {step : Word} {cause : Byte} (h : I.Holds s) :
    I.After (execFreeze down origin step cause s) :=
  have hdown {m : Nat} {f : Group → Group} : I.Holds ((sendDown s m).withGrp f) := .withGrp (.sendDown h)
  .next (.ite h (.ite (.ite hdown (.sendUp h)) (.ite (.ite (.foldFault (.broadcast h)) h)
    (.ite (.ite (.withGrp h) (.withGrp (.sendUp h))) (.ite (.withGrp h) (.ite hdown (.withGrp (.foldFault hdown))))))))

protected theorem Holds.groupAction {act : Action} {origin : BitVec 16} {step : Word} (h : I.Holds s) :
    I.Holds (groupAction act origin step s) := by
  have hrelay {m : Nat} {f : Melvor → Melvor} : I.Holds (sendDown (s.withMelvor f) m) := .sendDown (.withMelvor h)
  have hfrozen {m : Nat} {f : Melvor → Melvor} : I.Holds ((freezeFold (sendDown s m)).withMelvor f) :=
    .withMelvor (.freezeFold (.sendDown h))
  cases act with
  | pause => exact .ite (.withGrp hrelay) h
  | stop => exact .ite (.withGrp (.jobToNone hrelay)) (.ite (.withGrp (.stopFailed hrelay)) (.withGrp hrelay))
  | stopNow => exact .withGrp (.ite (.jobToNone hfrozen) (.stopFailed hfrozen))
  | resume =>
    exact .ite h (.ite (.ite (.groupResumes (.withGrp h)) (.withGrp h)) (.groupResumes (.sendDown h)))

protected theorem After.execControl {down : Bool} {act : Action} {origin : BitVec 16} {step : Word} (h : I.Holds s) :
    I.After (execControl down act origin step s) :=
  .next (.ite h (.ite (.ite (.sendUp h) (.withGrp (.sendDown h)))
      (.ite h (.ite (.sendUp (.nightExit h)) (.groupAction (.nightExit h))))))

protected theorem After.execFoldPortClrCnt {w : Agent} {f : FoldPort} (h : I.Holds s) : I.After (execFoldPortClrCnt w f s) :=
  .next (.writeGate h fun _ hu => .modLink hu fun _ hl => .clear hl)

protected theorem After.execGroupClrCnt {w : Agent} (h : I.Holds s) : I.After (execGroupClrCnt w s) :=
  .next (.writeGate h fun _ hu => .withGrp hu)

/-! ## Power -/

protected theorem After.execPhaseWindow {x : WindowFacts} (h : I.Holds s) : I.After (execPhaseWindow x s) :=
  .next (.withPower h fun _ hp => .aim hp)

protected theorem PowerOk.freqStep {p : Power} (hp : I.PowerOk p) : I.PowerOk (freqStep p) :=
  hp

protected theorem PowerOk.beginChange {p : Power} {q : Point} (hp : I.PowerOk p) : I.PowerOk (beginChange p q) :=
  .ite hp (.freqStep hp)

protected theorem After.execPointChangeStart (h : I.Holds s) : I.After (execPointChangeStart s) :=
  .next (.withPower h fun _ hp => .ite hp (.ite (.defer hp) (.beginChange hp)))

protected theorem PowerOk.endChange {p : Power} (hp : I.PowerOk p) : I.PowerOk (endChange p) :=
  hp

protected theorem After.execSlewEnd (h : I.Holds s) : I.After (execSlewEnd s) := by
  unfold execSlewEnd
  refine .next ?_
  refine .withPower h fun _ hp => ?_
  split
  · exact .freqStep hp
  · exact .endChange hp
  · exact hp

protected theorem Holds.countRelock (h : I.Holds s) : I.Holds (countRelock s) :=
  .forAll h fun _ _ hu => .modTile hu fun _ hx => .withRouter hx

protected theorem After.execRelockEnd (h : I.Holds s) : I.After (execRelockEnd s) :=
  .next (.ite h (.withPower (.countRelock h) fun _ hp => .ite hp (.endChange hp)))

protected theorem After.execDroopWaitEnd (h : I.Holds s) : I.After (execDroopWaitEnd s) :=
  .next (.withPower h fun _ hp => .ite hp (.ite hp (.ite (.ite (.beginChange hp) hp) hp)))

protected theorem Holds.roundFree {a b : Nat} (h : I.Holds s) : I.Holds (roundFree s a b).2 := by
  unfold roundFree
  extract_lets f
  have hf : I.Holds f.2 := .fresh h
  split
  · exact h
  · exact hf

protected theorem Holds.capSettle {f : Power → Power} (h : I.Holds s) (hf : ∀ u, I.PowerOk u → I.PowerOk (f u)) :
    I.Holds (capSettle s f) :=
  .fireIf (.withPower h fun _ hp => .aim (hf _ hp))

protected theorem PowerOk.actCeil {p : Power} {v : BitVec 17} (hp : I.PowerOk p) : I.PowerOk { p with actCeil := v } := hp

protected theorem PowerOk.ceilDown {p : Power} (hp : I.PowerOk p) : I.PowerOk (ceilDown p) := .actCeil hp

protected theorem PowerOk.evalDefer {p : Power} (hp : I.PowerOk p) : I.PowerOk (evalDefer p) :=
  .ite (.ite hp (.ceilDown hp)) hp

protected theorem PowerOk.capStep {p : Power} (hp : I.PowerOk p) : I.PowerOk (capStep p) :=
  .ite (.ceilDown hp) hp

protected theorem PowerOk.capUndo {p : Power} (hp : I.PowerOk p) : I.PowerOk (capUndo p) := .ite (.actCeil hp) hp

protected theorem PowerOk.evalCap {p : Power} {above low : Bool} (hp : I.PowerOk p) : I.PowerOk (evalCap p above low) :=
  .ite (.capStep hp) (.ite hp (.ite hp (.ite hp (.capUndo hp))))

protected theorem HoldsSnd.roundFree {a b : Nat} (h : I.Holds s) : I.HoldsSnd (roundFree s a b) := Holds.roundFree h

protected theorem PowerOk.estimate {p : Power} {e : BitVec 16} {b c : Nat} (hp : I.PowerOk p) :
    I.PowerOk { p with pEst := e, units10 := 0, baseSum := b, baseCnt := c } := hp

protected theorem After.execPowerEval (h : I.Holds s) : I.After (execPowerEval s) := by
  refine .next ?_
  extract_lets +onlyGivenNames num cap est
  have hest : I.HoldsSnd est := .roundFree h
  clear_value est
  exact .capSettle (.forAll (.withPower hest.snd fun _ hp => .estimate hp) fun _ _ hu => .modCtl hu fun _ hc => hc)
    fun _ hp => .evalDefer (.evalCap hp)

protected theorem After.execInputSample {watts : Nat} {valid : Bool} (h : I.Holds s) :
    I.After (execInputSample watts valid s) := by
  refine .next (.withPower h fun p hp => ?_)
  change I.samples (if valid then (watts :: p.samples).take 10 else p.samples)
  split
  · exact I.samples_push hp
  · exact hp

protected theorem After.execCalibration (h : I.Holds s) : I.After (execCalibration s) := by
  unfold execCalibration
  refine .next ?_
  extract_lets _ _ _ meas _ _ _ s1 _ _ _ _ r s2
  have hmeas : I.Holds meas.2 := .roundFree h
  have hs1 : I.Holds s1 := .withPower hmeas fun _ hp => hp
  have hr : I.Holds r.2 := .roundFree hs1
  have hs2 : I.Holds s2 := .ite (.fireIf (.withPower hs1 fun _ hp => hp)) (.ite hs1 (.withPower hr fun _ hp => hp))
  exact .ite (.capSettle hs2 fun _ hp => .capStep hp) hs2

protected theorem TileOk.bankTies {x : Tile} {ties : List (Fin 16 × List (Fin 5))} (hx : I.TileOk x) :
    I.TileOk (x.bankTies ties) :=
  .record hx

protected theorem After.execActivityWindowEnd {t : TileId} {ties : List (Fin 16 × List (Fin 5))} (h : I.Holds s) :
    I.After (execActivityWindowEnd t ties s) :=
  .atIsland h fun _ hu => .withPower (.modTile hu fun _ hx => .record hx) fun _ hp => hp

protected theorem Holds.trip {kind sensor temp : Nat} (h : I.Holds s) : I.Holds (trip s kind sensor temp) :=
  .withFlash (.withBoot (.withPower h fun _ hp => hp)) fun _ hf => hf

protected theorem After.execThermalEval {die : List (BitVec 8 × Bool)} {hbm : List (BitVec 8)} (h : I.Holds s) :
    I.After (execThermalEval die hbm s) := by
  unfold execThermalEval
  refine .next ?_
  extract_lets _ _ _ _ _ _ _ _ s1 s2 s3 s4 s5 s6 s7
  have hs1 : I.Holds s1 := .withPower h fun _ hp => .aim hp
  have hs2 : I.Holds s2 := .forAll hs1 fun _ _ hu => .modCtl hu fun _ hc => hc
  have hs3 : I.Holds s3 := .fireIf hs2
  have hs4 : I.Holds s4 := .fireIf hs3
  have hs5 : I.Holds s5 := .fireIf hs4
  have hs6 : I.Holds s6 := .fireIf hs5
  have hs7 : I.Holds s7 := .ite (.capSettle hs6 fun _ hp => .ceilDown hp) hs6
  split
  · exact .trip hs7
  · exact .trip hs7
  · exact hs7

protected theorem After.execNightEntry (h : I.Holds s) : I.After (execNightEntry s) :=
  .next (.ite (.withPower h fun _ hp => hp) h)

protected theorem After.execNightReq {w : Agent} {v : Bool} (h : I.Holds s) : I.After (execNightReq w v s) :=
  .next (.writeGate h fun _ hu => .powerGate hu fun _ hv => .writeNightReq hv)

protected theorem After.execNightIdleExpiry (h : I.Holds s) : I.After (execNightIdleExpiry s) :=
  .next (.ite (.withPower h fun _ hp => hp) h)

protected theorem After.execPowerClrCnt {w : Agent} (h : I.Holds s) : I.After (execPowerClrCnt w s) :=
  .next (.writeGate h fun _ hu => .withPower hu fun _ hp => .clear hp)

/-! ## Interrupts -/

protected theorem Holds.sendMessage {d g : Nat} (h : I.Holds s) : I.Holds (sendMessage s d g) :=
  .ite (.emit h) (.ite (.setPort h) (.emitVector h))

protected theorem After.execMessageSend {dest : Fin 3} (h : I.Holds s) : I.After (execMessageSend dest s) := by
  unfold execMessageSend
  refine .next ?_
  refine .ite h ?_
  split
  · exact h
  · exact .modIrqGrp (.setService (.sendMessage h))

protected theorem After.execHoldoffExpiry {g : IrqGroup} (h : I.Holds s) : I.After (execHoldoffExpiry g s) :=
  .next (.modIrqGrp h)

protected theorem After.execEoi {w : Agent} {g : IrqGroup} (h : I.Holds s) : I.After (execEoi w g s) :=
  .next (.writeGate h fun _ hu => .writeEoi hu)

protected theorem After.execSetSrc {w : Agent} {g : IrqGroup} {v same : BitVec 16} (h : I.Holds s) :
    I.After (execSetSrc w g v same s) :=
  .next (.writeGate h fun _ hu => .writeSet hu)

protected theorem After.execPend {w : Agent} {g : IrqGroup} {v : BitVec 16} (h : I.Holds s) : I.After (execPend w g v s) :=
  .next (.writeGate h fun _ hu => .writePend hu)

protected theorem After.execRoute {w : Agent} {g : IrqGroup} {r : BitVec 3} {holdoff : BitVec 16} (h : I.Holds s) :
    I.After (execRoute w g r holdoff s) :=
  .next (.writeGate h fun _ hu => .writeRoute hu)

protected theorem After.execMsixUnmask {p : Port} {vec : Option (Fin 16)} (h : I.Holds s) :
    I.After (execMsixUnmask p vec s) := by
  unfold execMsixUnmask
  refine .next ?_
  split <;> exact .flushMsix (.modPort h)

protected theorem After.execIrqClrCnt {w : Agent} (h : I.Holds s) : I.After (execIrqClrCnt w s) :=
  .next (.writeGate h fun _ hu => .clearIrq hu)

protected theorem After.execLockstepMismatch (h : I.Holds s) : I.After (execLockstepMismatch s) :=
  .next (.ite h (.fatalError (.withMelvor h)))

protected theorem Holds.copyPage {s0 : State} {page : Nat} (hs0 : I.Holds s0) : I.Holds (copyPage s0 page) := by
  unfold copyPage
  extract_lets s1 _ _ f x r t
  have hs1 : I.Holds s1 := .ite (.snapCopy hs0) hs0
  have hf : I.Holds f.2 := .freshLines hs1
  have hx : I.Holds x.1 := .bytesRead hs1
  have hr : I.Holds r.2 := by
    unfold r
    split
    · split
      · exact .hostFetch hf
      · exact .setLost (.emit hs1)
    · exact hx
  have ht : I.Holds t := by
    unfold t
    refine .ite hr ?_
    split
    · exact .ite (.withRel (.hostStore hr)) (.setLost (.emit hr))
    · exact .bytesWrite hr
  exact .ite ht (.withRel ht)

protected theorem After.execJournalCopy {page : Nat} (h : I.Holds s) : I.After (execJournalCopy page s) :=
  .next (.ite h (.retry (.copyPage h)))

/-! ## Reliability -/

protected theorem Holds.snapSeal {o n v phase : Nat} (h : I.Holds s) : I.Holds (snapSeal s o n v phase) :=
  .ite (.snapStore h) (.ite (.withSnap (.snapStore h)) (.withSnap (.hostFlush (.snapStore h))))

protected theorem After.execSnapshotComplete (h : I.Holds s) : I.After (execSnapshotComplete s) :=
  .next (.ite h (.ite (.ite (.snapSeal (.forAll h fun _ _ hu => .ite hu (.snapCopy hu)))
      (.forAll h fun _ _ hu => .ite hu (.snapCopy hu))) (.ite (.snapSeal h) h)))

protected theorem After.execSnapStart {w : Agent} (h : I.Holds s) : I.After (execSnapStart w s) :=
  .next (.writeGate h fun _ hu => .relGate hu fun _ hv => .snapStart hv)

protected theorem After.execAbort {w : Agent} (h : I.Holds s) : I.After (execAbort w s) :=
  .next (.writeGate h fun _ hu => .relGate hu fun _ hv => .snapEnd hv)

protected theorem Holds.restoreEnd {hdr : List Byte} {digestOk : Bool} (h : I.Holds s) : I.Holds (restoreEnd s hdr digestOk) :=
  .ite (.fireIf (.withSnap h)) (.fireIf (.withSnap h))

protected theorem After.execRestore {w : Agent} {hdr : List Byte} {digestOk : Bool} (h : I.Holds s) :
    I.After (execRestore w hdr digestOk s) :=
  .next (.ite (.restoreEnd (.ite h (.writeGate h fun _ hu => .relGate hu fun _ hv => .restoreBegin hv)))
      (.ite h (.writeGate h fun _ hu => .relGate hu fun _ hv => .restoreBegin hv)))

protected theorem After.execReliabilityClrCnt {w : Agent} (h : I.Holds s) : I.After (execReliabilityClrCnt w s) :=
  .next (.writeGate h fun _ hu => .relGate hu fun _ hv => .withRel hv)

protected theorem After.execSnapshotClrCnt {w : Agent} (h : I.Holds s) : I.After (execSnapshotClrCnt w s) :=
  .next (.writeGate h fun _ hu => .relGate hu fun _ hv => .withSnap hv)

/-! ## Security -/

protected theorem After.secRow {p : Port} {c : Nat} {flashErr : Bool} (h : I.Holds s) : I.After (secRow s p c flashErr) :=
  .next (.writeGate h fun _ hu => .writeSecCmd hu)

protected theorem After.execAuth {p : Port} {flashErr : Bool} (h : I.Holds s) : I.After (execAuth p flashErr s) :=
  .secRow h

protected theorem After.execDrop {p : Port} {flashErr : Bool} (h : I.Holds s) : I.After (execDrop p flashErr s) :=
  .secRow h

protected theorem After.execEnroll {p : Port} {flashErr : Bool} (h : I.Holds s) : I.After (execEnroll p flashErr s) :=
  .secRow h

protected theorem After.execReplace {p : Port} {flashErr : Bool} (h : I.Holds s) : I.After (execReplace p flashErr s) :=
  .secRow h

protected theorem After.execClearKey {p : Port} {flashErr : Bool} (h : I.Holds s) : I.After (execClearKey p flashErr s) :=
  .secRow h

protected theorem After.execSvnCommit {p : Port} {flashErr : Bool} (h : I.Holds s) : I.After (execSvnCommit p flashErr s) :=
  .secRow h

protected theorem After.execSecurityClrCnt {w : Agent} (h : I.Holds s) : I.After (execSecurityClrCnt w s) :=
  .next (.writeGate h fun _ hu => .withSec hu)

protected theorem After.execRegionTableWrite {w : Agent} {e : Fin 64} {word : Fin 3} {v : Word} (h : I.Holds s) :
    I.After (execRegionTableWrite w e word v s) :=
  .next (.writeGate h fun _ hu => .regionGate hu fun _ hv => .writeRegion hv)

protected theorem Holds.zeroUnits {u : List (Nat × Nat)} (h : I.Holds s) : I.Holds (zeroUnits s u) :=
  have hsnap : I.Holds (forAll (s.snap.todo.filter fun q => inUnits u (q * 4096)) s snapCopy) := .forAll h fun _ _ hv =>
      .snapCopy hv
  .forAll (.withHbm (.record hsnap) (I.hbm_filter hsnap.hbm)) fun _ _ hv => .modCtl hv fun _ hc => hc

protected theorem TileOk.overwritten {x : Tile} (hx : I.TileOk x) : I.TileOk x.overwritten :=
  ⟨hx.1, hx.2.1, hx.2.2.1, hx.2.2.2.1, I.wmem_nil, I.amem_nil⟩

/-- An update of each tile that is not at its reset value. -/
theorem Holds.mapTiles {f : Tile → Tile} {p : Nat × Tile → Bool} (h : I.Holds s) (hf : ∀ x, I.TileOk x → I.TileOk (f x)) :
    I.Holds { s with tiles := List.filter p (s.tiles.map fun x => (x.1, f x.2)) } := by
  refine .withTiles h (forall_filter (P := I.TileOk) fun x hx => ?_)
  obtain ⟨y, hy, rfl⟩ := List.mem_map.1 hx
  exact hf _ (h.1 y hy)

protected theorem Holds.finishClearKey {p : Port} (h : I.Holds s) : I.Holds (finishClearKey s p) := by
  refine .ite (.endRequest ?_) (.endRequest (.setSecure (.setSecure (.setKey (.measureWorld
    (.withSec (.mapTiles ?_ fun _ hx => .record hx)))))))
  · exact .mapTiles h fun _ hx => .overwritten hx
  · exact .mapTiles h fun _ hx => .overwritten hx

protected theorem Holds.laterClearKey {p : Port} (h : I.Holds s) : I.Holds (laterClearKey s p) :=
  .ite (.performRequest h) (.endRequest h)

protected theorem After.execClearingEnd (h : I.Holds s) : I.After (execClearingEnd s) := by
  have hzero {f : Security → Security} : I.Holds ((zeroUnits s s.sec.clearingUnits).withSec f) := .withSec (.zeroUnits h)
  refine .next (.ite h (.fire ?_))
  split
  · refine .forAll (.finishClearKey ?_) fun _ _ hu => .laterClearKey hu
    split
    · exact .applyEntry hzero
    · exact hzero
  · split
    · exact .applyEntry hzero
    · exact hzero

protected theorem After.execTileMapWrite {w : Agent} {i : Fin 256} {v : Word} (h : I.Holds s) :
    I.After (execTileMapWrite w i v s) :=
  .next (.writeGate h fun _ hu => .regionGate hu fun _ hv => .writeTileMap hv)

protected theorem Holds.spdmAnswer {x : Transport} {code : Nat} {content : List Byte} {sign : Bool} (h : I.Holds s) :
    I.Holds (spdmAnswer s x code content sign) :=
  .emit h

protected theorem Holds.spdmError {x : Transport} {code : Nat} (h : I.Holds s) : I.Holds (spdmError s x code) :=
  .spdmAnswer h

protected theorem After.spdmRow {x : Transport} {ok : Spdm → Bool} {f : State → State} (h : I.Holds s)
    (hf : ∀ u, I.Holds u → I.Holds (f u)) : I.After (spdmRow x ok s f) :=
  .next (.ite h (.ite (hf _ h) (.spdmError h)))

protected theorem After.execGetVersion {x : Transport} (h : I.Holds s) : I.After (execGetVersion x s) :=
  .spdmRow h fun _ hu => .spdmAnswer (.setSpdm hu)

protected theorem After.execGetCapabilities {x : Transport} (h : I.Holds s) : I.After (execGetCapabilities x s) :=
  .spdmRow h fun _ hu => .spdmAnswer (.setSpdm hu)

protected theorem After.execNegotiateAlgorithms {x : Transport} {mldsa shake : Bool} (h : I.Holds s) :
    I.After (execNegotiateAlgorithms x mldsa shake s) :=
  .spdmRow h fun _ hu => .spdmAnswer (.setSpdm hu)

protected theorem After.execGetDigests {x : Transport} (h : I.Holds s) : I.After (execGetDigests x s) :=
  .spdmRow h fun _ hu => .spdmAnswer hu

protected theorem After.execGetCertificate {x : Transport} {slot : Byte} {off len : Nat} (h : I.Holds s) :
    I.After (execGetCertificate x slot off len s) :=
  .spdmRow h fun _ hu => .ite (.spdmError hu) (.spdmAnswer hu)

protected theorem After.execChallenge {x : Transport} {slot : Byte} {nonce : BitVec 256} (h : I.Holds s) :
    I.After (execChallenge x slot nonce s) :=
  .spdmRow h fun _ hu => .ite (.spdmError hu) (.spdmAnswer (.issueNonce hu))

protected theorem After.execGetMeasurements {x : Transport} {index : Byte} {nonce : BitVec 256} (h : I.Holds s) :
    I.After (execGetMeasurements x index nonce s) :=
  .spdmRow h fun _ hu => .ite (.spdmError hu) (.spdmAnswer (.issueNonce hu))

/-! ## Boot -/

protected theorem After.execInputInRange (h : I.Holds s) : I.After (execInputInRange s) :=
  .next (.ite h (.cleared h))

protected theorem After.execPowerGood (h : I.Holds s) : I.After (execPowerGood s) :=
  .next (.ite h (.record (.cleared h)))

protected theorem Holds.sampleStraps {b : BootFacts} (h : I.Holds s) : I.Holds (sampleStraps s b) :=
  .withGrp h

protected theorem Holds.romHalt {err : BitVec 3} (h : I.Holds s) : I.Holds (romHalt s err) :=
  .withBoot (.withSec h)

protected theorem Holds.romSecret (h : I.Holds s) : I.Holds (romSecret s) :=
  .withSec h

protected theorem Holds.romKeys (h : I.Holds s) : I.Holds (romKeys s) :=
  .withSec h

protected theorem Holds.romMeasure {image : List Byte} (h : I.Holds s) : I.Holds (romMeasure s image) :=
  .withSec (.measurePolicy (.extendMeas (.extendMeas (.extendMeas h))))

protected theorem Holds.startTraining {f : Nat} (h : I.Holds s) : I.Holds (startTraining s f) :=
  .ite h (.emit (.modLink h fun _ hl => hl))

protected theorem Holds.romDone {slot : Bool} {svn : BitVec 16} {image : List Byte} (h : I.Holds s) :
    I.Holds (romDone s slot svn image) :=
  .forAll (.forAll (.withBoot (.withSec (.romMeasure h))) fun _ _ hu => .modCtl hu fun _ hc => hc) fun _ _ hu => .startTraining
      hu

protected theorem Holds.romStart {err : BitVec 3} (h : I.Holds s) : I.Holds (romStart s err) := by
  refine .ite (.romHalt h) ?_
  split
  · exact .romHalt h
  · exact .romDone h

protected theorem After.execRomExit {b : BootFacts} (h : I.Holds s) : I.After (execRomExit b s) := by
  unfold execRomExit
  refine .next ?_
  extract_lets s1 s2 s3
  have hs1 : I.Holds s1 := .sampleStraps h
  have hs2 : I.Holds s2 := .romSecret hs1
  have hs3 : I.Holds s3 := .romKeys hs2
  refine .ite h ?_
  exact .ite (.romHalt hs1) (.ite (.romHalt hs2) (.ite (.romHalt hs3) (.romStart (.flashWrite hs3 fun _ hf => hf))))

protected theorem Holds.clearTileMemories (h : I.Holds s) : I.Holds (clearTileMemories s) := .mapTiles h fun _ hx => .cleared hx

protected theorem After.execInitEnd (h : I.Holds s) : I.After (execInitEnd s) :=
  .next (.ite h (.forAll (.withBoot (.forAll (.clearTileMemories (.setRowMaps h)) fun _ _ hu => .modCtl hu fun _ hc => hc)) fun
      _ _ hu => .cxlEnable hu))

protected theorem CtlOk.wrLines {c : HbmCtl} {v : BitVec 64} (hc : I.CtlOk c) : I.CtlOk { c with wrLines := v } := hc

protected theorem Holds.overwriteHbm (h : I.Holds s) : I.Holds (overwriteHbm s) :=
  .forAll (.withHbm (.record h) I.hbm_nil) fun _ _ hu => .modCtl hu fun _ hc => .wrLines hc

protected theorem Holds.announceReady {f : FoldPort} (h : I.Holds s) : I.Holds (announceReady s f) :=
  .linkComplete (.ite (.emit h) h)

protected theorem After.execFwReady (h : I.Holds s) : I.After (execFwReady s) :=
  .next (.ite h (.publish (.retry (.checkTriggers (.forAll (.withMelvor (.withBoot (.overwriteHbm h))) fun _ _ hu =>
      .announceReady hu)))))

protected theorem After.execResetAssert (h : I.Holds s) : I.After (execResetAssert s) :=
  .next (.moduleReset (.withBoot h))

protected theorem After.execRstReq {w : Agent} {key : BitVec 16} (h : I.Holds s) : I.After (execRstReq w key s) :=
  .next (.writeGate h fun _ hu => .writeRstReq hu)

protected theorem After.execTripClr {w : Agent} (h : I.Holds s) : I.After (execTripClr w s) :=
  .next (.writeGate h fun _ hu => .writeTripClr hu)

protected theorem Holds.powerOff {en trip : Bool} (h : I.Holds s) : I.Holds (powerOff s en trip) :=
  .withPower (.cleared (.ite (.withFlash h fun _ hf => hf) h)) fun _ hp => hp

protected theorem After.execEnLow (h : I.Holds s) : I.After (execEnLow s) :=
  .next (.ite (.powerOff h) (.withBoot h))

protected theorem Holds.stopClocks (h : I.Holds s) : I.Holds (stopClocks s) :=
  .stopDrovers (.withPower h fun _ hp => hp)

protected theorem After.execInputOutOfRange {below : Bool} (h : I.Holds s) : I.After (execInputOutOfRange below s) :=
  .next (.ite (.withBoot (.stopClocks (.ite (.withBoot h) h))) (.ite (.withBoot h) h))

protected theorem After.execPowerStageOff (h : I.Holds s) : I.After (execPowerStageOff s) :=
  .next (.ite (.powerOff h) h)

/-! ## Registers -/

protected theorem After.smbRow {f : State → State} (h : I.Holds s) (hf : ∀ u, I.Holds u → I.Holds (f u)) :
    I.After (smbRow s f) :=
  .next (.ite (hf _ h) (.emit h))

protected theorem After.execSmbSetPointer {v : Word} {pecOk : Bool} (h : I.Holds s) : I.After (execSmbSetPointer v pecOk s) :=
  .smbRow h fun _ hu => .ite (.record hu) hu

protected theorem Holds.smbAdvance (h : I.Holds s) : I.Holds (smbAdvance s) :=
  .record h

protected theorem After.execSmbReadRegister (h : I.Holds s) : I.After (execSmbReadRegister s) :=
  .smbRow h fun _ hu => .smbAdvance (.emit (.ite hu (.emit hu)))

protected theorem After.execSmbWriteRegister {v : Word} {pecOk : Bool} (h : I.Holds s) :
    I.After (execSmbWriteRegister v pecOk s) :=
  .smbRow h fun _ hu => .ite hu (.ite (.emit (.smbAdvance hu)) (.regWrite (.smbAdvance hu)))

protected theorem After.execMctp {msg : List Byte} (h : I.Holds s) : I.After (execMctp msg s) :=
  .smbRow h fun _ hu => .ite (.emit hu) hu

protected theorem After.execAlertResponse (h : I.Holds s) : I.After (execAlertResponse s) :=
  .smbRow h fun _ hu => .ite (.emit hu) (.emit hu)

/-! ## Boot -/

protected theorem Holds.tapRow {t : Tap} (h : I.Holds s) : I.Holds (tapRow t s) :=
  .ite (.record h) h

protected theorem After.execBypass (h : I.Holds s) : I.After (execBypass s) :=
  .next (.tapRow h)

protected theorem After.execIdcode (h : I.Holds s) : I.After (execIdcode s) :=
  .next (.ite (.emit (.tapRow h)) h)

protected theorem After.execSamplePreload (h : I.Holds s) : I.After (execSamplePreload s) :=
  .next (.tapRow h)

protected theorem After.scanRow {t : Tap} (h : I.Holds s) : I.After (scanRow t s) :=
  .next (.ite (.withBoot (.tapRow h)) (.tapRow h))

protected theorem After.execExtest (h : I.Holds s) : I.After (execExtest s) :=
  .scanRow h

protected theorem After.execExtestPulse (h : I.Holds s) : I.After (execExtestPulse s) :=
  .scanRow h

protected theorem After.execExtestTrain (h : I.Holds s) : I.After (execExtestTrain s) :=
  .scanRow h

protected theorem After.execClamp (h : I.Holds s) : I.After (execClamp s) :=
  .scanRow h

protected theorem After.execHighz (h : I.Holds s) : I.After (execHighz s) :=
  .scanRow h

protected theorem After.execErase {w : Agent} {tied : List Agent} (h : I.Holds s) : I.After (execErase w tied s) :=
  .next (.forAll (.withFlashIf h) fun _ _ hu => .writeGate hu fun _ hv => .writeFlCmd hv)

protected theorem After.execProgram {w : Agent} (h : I.Holds s) : I.After (execProgram w s) :=
  .next (.writeGate h fun _ hu => .writeFlCmd hu)

protected theorem After.execVerify {w : Agent} (h : I.Holds s) : I.After (execVerify w s) :=
  .next (.writeGate h fun _ hu => .writeFlCmd hu)

protected theorem Holds.flashEnd {r : Nat} (h : I.Holds s) : I.Holds (flashEnd s r) :=
  .withFlashIf h

protected theorem FlashOk.setSlot {f : Flash} {b : Bool} {x : Sparse (List Byte)} (hf : I.FlashOk f) :
    I.FlashOk (f.setSlot b x) :=
  .ite hf hf

protected theorem Holds.eraseSlot (h : I.Holds s) : I.Holds (eraseSlot s) :=
  .withFlash h fun _ hf => .setSlot hf

protected theorem Holds.programPage {data : List Byte} (h : I.Holds s) : I.Holds (programPage s data) :=
  .withFlash h fun _ hf => .setSlot hf

protected theorem After.execFlashComplete {err : Bool} (h : I.Holds s) : I.After (execFlashComplete err s) := by
  unfold execFlashComplete
  refine .next ?_
  extract_lets _ f s1
  have hf : I.Holds f.2 := .freshLines h
  have hs1 : I.Holds s1 := .withFlashIf h
  refine .ite h ?_
  split
  · exact .ite (.flashEnd h) (.flashEnd (.eraseSlot h))
  · exact .ite (.flashEnd h) (.ite (.flashEnd (.programPage hf)) (.flashEnd (.programPage h)))
  · refine .ite (.flashEnd hs1) ?_
    split
    · exact .flashEnd hs1
    · exact .flashEnd (.withFlashIf hs1)

protected theorem After.execHolderTimeout (h : I.Holds s) : I.After (execHolderTimeout s) :=
  .next (.withFlashIf h)

protected theorem Holds.configWrite {p : Port} {dw : Nat} {v : Word} (h : I.Holds s) : I.Holds (configWrite s p dw v) := by
  unfold configWrite
  extract_lets _ _ _ s1 s2 s3 s4
  have hs1 : I.Holds s1 := .modPort h
  have hs2 : I.Holds s2 := .ite (.modPort hs1) hs1
  have hs3 : I.Holds s3 := .ite (.modPort hs2) hs2
  have hs4 : I.Holds s4 := .ite (.modPort hs3) hs3
  split
  · exact .modPort h
  · exact .ite (.flushMsix (.modPort hs4)) hs4

protected theorem After.execConfigurationRequest {p : Port} {write : Bool} {reg : BitVec 12} {v : Word} (h : I.Holds s) :
    I.After (execConfigurationRequest p write reg v s) :=
  .next (.ite h (.ite (.emit h) (.ite (.emit (.configWrite h)) (.emit h))))

protected theorem Holds.hostServed {d : DroverNo} {q : Nat} {x : Xfer} {p : HostReq} {r : HostEnd} (h : I.Holds s) :
    I.Holds (hostServed s d q x p r) := by
  unfold hostServed
  extract_lets _ s1
  have hs1 : I.Holds s1 := .modXfer h
  split
  · exact .ite h (.ite (.memoryDone hs1) (.memoryDone hs1))
  · exact .ite (.memoryDone hs1) h
  · exact .queueFault (.modQueue hs1)
  · exact .queueFault (.modQueue hs1)
  · exact .queueFault (.modQueue hs1)
  · exact .queueFault (.modQueue hs1)

protected theorem Holds.snapDone (h : I.Holds s) : I.Holds (snapDone s) :=
  .fire (.withSnap h)

protected theorem Holds.snapServed (h : I.Holds s) : I.Holds (snapServed s) := by
  unfold snapServed
  split
  · exact h
  · exact .ite (.snapDone (.withSnap h)) (.withSnap h)

protected theorem After.execHostCompletion {x : Requester} {q : Fin 32} {old : Bool} {r : HostEnd} (h : I.Holds s) :
    I.After (execHostCompletion x q old r s) := by
  refine .next ?_
  dsimp only
  split
  next d =>
    split
    · split
      · exact h
      · exact .ite (.queueFault (.modQueue h)) (.modQueue h)
    · split
      · exact h
      · split
        · exact h
        · exact .publish (.retry (.hostServed h))
  · exact .ite h (.ite (.retry (.snapEnd h)) (.snapServed h))
  · exact h

protected theorem After.execResetRelease (h : I.Holds s) : I.After (execResetRelease s) :=
  .next (.ite h (.ite (.moduleReset (.withBoot h)) (.withBoot h)))

/-! ## A step -/

protected theorem After.exec {i : Instr} (h : I.Holds s) : I.After (exec i s) := by
  unfold exec
  split
  · exact .execSlot h
  · exact .execEntryAdvance h
  · exact .execTokenArrival h
  · exact .execNoProgress h
  · exact .execMeshWdLimit h
  · exact .execClrStall h
  · exact .execClrCe h
  · exact .execFaultTreeReport h
  · exact .execFoldFreeze h
  · exact .execDroopDetect h
  · exact .execStretchStageEnd h
  · exact .execTileMaintWrite h
  · exact .execRegisterWrite h
  · exact .execAlu h
  · exact .execAddi h
  · exact .execAndi h
  · exact .execOri h
  · exact .execXori h
  · exact .execSlli h
  · exact .execSrli h
  · exact .execSrai h
  · exact .execLui h
  · exact .execCmp h
  · exact .execCmpi h
  · exact .execPlog h
  · exact .execLd h
  · exact .execSt h
  · exact .execLda h
  · exact .execSta h
  · exact .execBr h
  · exact .execJr h
  · exact .execBrl h
  · exact .execSend h
  · exact .execSendUnblock h
  · exact .execRecv h
  · exact .execRecvUnblock h
  · exact .execEnq h
  · exact .execEnqUnblock h
  · exact .execWaite h
  · exact .execWaiteRetire h
  · exact .execSumm h
  · exact .execSummUnblock h
  · exact .execEndOp h
  · exact .execTrap h
  · exact .execUnlistedOpWord h
  · exact .execTilePartComplete h
  · exact .execClrCnt h
  · exact .execDepWaitEnd h
  · exact .execEngineComplete h
  · exact .execMatmul h
  · exact .execAccFlush h
  · exact .execAccDrop h
  · exact .execPairPartnerTake h
  · exact .execMxeRowBlock h
  · exact .execSlotWaitEnd h
  · exact .execVmap h
  · exact .execVstep h
  · exact .execSetvl h
  · exact .execTload h
  · exact .execVxeVector h
  · exact .execUblk h
  · exact .execUpart h
  · exact .execUapply h
  · exact .execUrows h
  · exact .execUpeUnit h
  · exact .execOpenReq h
  · exact .execCloseReq h
  · exact .execXferReq h
  · exact .execGoReq h
  · exact .execCancelReq h
  · exact .execDataTokenTake h
  · exact .execBaleIssue h
  · exact .execBaleDeliver h
  · exact .execBaleWrite h
  · exact .execXferComplete h
  · exact .execSideGateIssue h
  · exact .execReleaseHoldEnd h
  · exact .execDeadlineMiss h
  · exact .execTimeout h
  · exact .execDroverClrCnt h
  · exact .execHbmLineAccess h
  · exact .execClrErr h
  · exact .execClrTraffic h
  · exact .execHbmScrubRead h
  · exact .execTileScrubRead h
  · exact .execTileScrubRewrite h
  · exact .execBar0Access h
  · exact .execBar2Access h
  · exact .execBar4Access h
  · exact .execMemRd h
  · exact .execMemWr h
  · exact .execPageFlip h
  · exact .execHostSnoop h
  · exact .execPortClrCnt h
  · exact .execClrFault h
  · exact .execPerstAssert h
  · exact .execDlDownTimeout h
  · exact .execD3hotEntry h
  · exact .execFlr h
  · exact .execPerstDeassert h
  · exact .execDlActiveReturn h
  · exact .execD0Entry h
  · exact .execFlrComplete h
  · exact .execEnable h
  · exact .execDisable h
  · exact .execCmdDoorbell h
  · exact .execCplDoorbell h
  · exact .execEntryFetch h
  · exact .execRefetch h
  · exact .execMailboxClrCnt h
  · exact .execHello h
  · exact .execNop h
  · exact .execClaim h
  · exact .execRelease h
  · exact .execHandover h
  · exact .execHandoverGrant h
  · exact .execHandoverExpiry h
  · exact .execStatus h
  · exact .execCounters h
  · exact .execFaultReport h
  · exact .execRegionAdd h
  · exact .execRegionDel h
  · exact .execPwinSet h
  · exact .execImageStage h
  · exact .execImageActivate h
  · exact .execPartitionStart h
  · exact .execJobStart h
  · exact .execJobPause h
  · exact .execJobResume h
  · exact .execJobStop h
  · exact .execPlace h
  · exact .execGroup h
  · exact .execFlitReceive h
  · exact .execReplayTimeout h
  · exact .execAckTimer h
  · exact .execFecLockLoss h
  · exact .execRetrain h
  · exact .execRetrainEnd h
  · exact .execHoldDown h
  · exact .execLinkHello h
  · exact .execCredit h
  · exact .execJoin h
  · exact .execGroupFormed h
  · exact .execJoinTimeout h
  · exact .execReduceFrame h
  · exact .execCombine h
  · exact .execGatherFrame h
  · exact .execExchTimeout h
  · exact .execAgreeUpSend h
  · exact .execAgreeUp h
  · exact .execAgreeDown h
  · exact .execDoneSend h
  · exact .execDoneMsg h
  · exact .execCommit h
  · exact .execFreeze h
  · exact .execControl h
  · exact .execFoldPortClrCnt h
  · exact .execGroupClrCnt h
  · exact .execPhaseWindow h
  · exact .execPointChangeStart h
  · exact .execSlewEnd h
  · exact .execRelockEnd h
  · exact .execDroopWaitEnd h
  · exact .execPowerEval h
  · exact .execInputSample h
  · exact .execCalibration h
  · exact .execActivityWindowEnd h
  · exact .execThermalEval h
  · exact .execNightEntry h
  · exact .execNightReq h
  · exact .execNightIdleExpiry h
  · exact .execPowerClrCnt h
  · exact .execMessageSend h
  · exact .execHoldoffExpiry h
  · exact .execEoi h
  · exact .execSetSrc h
  · exact .execPend h
  · exact .execRoute h
  · exact .execMsixUnmask h
  · exact .execIrqClrCnt h
  · exact .execLockstepMismatch h
  · exact .execJournalCopy h
  · exact .execSnapshotComplete h
  · exact .execSnapStart h
  · exact .execAbort h
  · exact .execRestore h
  · exact .execReliabilityClrCnt h
  · exact .execSnapshotClrCnt h
  · exact .execAuth h
  · exact .execDrop h
  · exact .execEnroll h
  · exact .execReplace h
  · exact .execClearKey h
  · exact .execSvnCommit h
  · exact .execSecurityClrCnt h
  · exact .execRegionTableWrite h
  · exact .execClearingEnd h
  · exact .execTileMapWrite h
  · exact .execGetVersion h
  · exact .execGetCapabilities h
  · exact .execNegotiateAlgorithms h
  · exact .execGetDigests h
  · exact .execGetCertificate h
  · exact .execChallenge h
  · exact .execGetMeasurements h
  · exact .execInputInRange h
  · exact .execPowerGood h
  · exact .execRomExit h
  · exact .execInitEnd h
  · exact .execFwReady h
  · exact .execResetAssert h
  · exact .execRstReq h
  · exact .execTripClr h
  · exact .execEnLow h
  · exact .execInputOutOfRange h
  · exact .execPowerStageOff h
  · exact .execSmbSetPointer h
  · exact .execSmbReadRegister h
  · exact .execSmbWriteRegister h
  · exact .execMctp h
  · exact .execAlertResponse h
  · exact .execBypass h
  · exact .execIdcode h
  · exact .execSamplePreload h
  · exact .execExtest h
  · exact .execExtestPulse h
  · exact .execExtestTrain h
  · exact .execClamp h
  · exact .execHighz h
  · exact .execErase h
  · exact .execProgram h
  · exact .execVerify h
  · exact .execFlashComplete h
  · exact .execHolderTimeout h
  · exact .execConfigurationRequest h
  · exact .execHostCompletion h
  · exact .execResetRelease h

protected theorem After.step (h : I.Holds s) : I.After (step s) := by
  unfold step
  split
  · exact .next (.tick h)
  · exact .exec (.record h)

end Sys2Proof.Machine.Invariant
end

section
/-! SUPPORT. The bounds of R67, R71, R76, R256, R285, R306, R337, R369 and R372 as an invariant. -/

namespace Sys2Proof.Machine

theorem length_push_le {α : Type} {n : Nat} {l : List α} {x : α} (h : l.length < n) : (l ++ [x]).length ≤ n := by
  simpa using h

/-- The bounds that the spec gives queues, buffers and counts; a memory's form is free. -/
def boundsInvariant : Invariant where
  sendBuf l := l.length ≤ 4
  commands l := l.length ≤ 8
  summaries l := l.length ≤ 4
  wmem _ := True
  amem _ := True
  tok n := n < 32
  frame n := n < 16
  sinceScrub n := n ≤ 255
  replayBuf l := l.length ≤ 512
  service l := l.length ≤ 64
  samples l := l.length ≤ 10
  hbm _ := True
  sendBuf_nil := Nat.zero_le _
  sendBuf_sublist h hl := h.length_le.trans hl
  sendBuf_push h _ := length_push_le h
  commands_nil := Nat.zero_le _
  commands_sublist h hl := h.length_le.trans hl
  commands_push h _ := length_push_le h
  summaries_nil := Nat.zero_le _
  summaries_sublist h hl := h.length_le.trans hl
  summaries_push h _ := length_push_le h
  wmem_nil := trivial
  wmem_set _ := trivial
  amem_nil := trivial
  amem_set _ := trivial
  tok_lt h := h
  frame_lt h := h
  sinceScrub_le h := h
  replayBuf_nil := Nat.zero_le _
  replayBuf_sublist h hl := h.length_le.trans hl
  replayBuf_push h _ := length_push_le h
  service_nil := Nat.zero_le _
  service_push h _ := length_push_le h
  samples_nil := Nat.zero_le _
  samples_push _ := List.length_take_le _ _
  hbm_nil := trivial
  hbm_set _ := trivial
  hbm_filter _ := trivial

theorem boundsInvariant_tileOk_iff (x : Tile) : boundsInvariant.TileOk x ↔ x.core.sendBuf.length ≤ 4 ∧
    ∀ q ∈ [x.mxe.q, x.vxe.q, x.upe.q], q.queue.length ≤ 8 ∧ q.summs.length ≤ 4 := by
  simp [Invariant.TileOk, Invariant.CoreOk, Invariant.MxeOk, Invariant.VxeOk, Invariant.UpeOk, Invariant.EngOk, boundsInvariant]

theorem bounded_iff_holds (s : State) : Bounded s ↔ boundsInvariant.Holds s := by
  simp only [Bounded, Invariant.Holds, Invariant.Parts, boundsInvariant_tileOk_iff]
  exact ⟨fun ⟨ht, hc, hl, hf, hp⟩ => ⟨ht, hc, hl, hf, hp, trivial⟩, fun ⟨ht, hc, hl, hf, hp, _⟩ => ⟨ht, hc, hl, hf, hp⟩⟩

end Sys2Proof.Machine

open Sys2Proof Sys2Proof.Machine

/-- Settles O60: the bounds are an invariant of the kind that every command and the idle step keep. -/
theorem boundsStep : Obligations.BoundsStep := by
  unfold Obligations.BoundsStep
  intro s t hs hstep
  have hnext : boundsInvariant.After (step s) := .step ((bounded_iff_holds s).1 hs)
  rw [hstep] at hnext
  exact (bounded_iff_holds t).2 hnext
end

section
/-! SUPPORT. The end of an issued Rolia word (R60-R66): what the tile is after a word that retires, faults or blocks. -/

namespace Sys2Proof.Machine

theorem Tile.canIssue_iff (x : Tile) : x.canIssue = true ↔
    x.core.state = 1 ∧ x.core.ended = false ∧ x.core.blocked = none ∧ x.router.frozen = false := by
  simp [Tile.canIssue, and_assoc]

theorem issued_eq (t w : Nat) (s : State) : issued t w s = s.setTile t ((s.tile t).withCore fun c => c.hold w) := rfl

theorem OpEnd.launch_retire (t w : Nat) (v : State) (next : Nat) :
    (OpEnd.retire v next).launch t w = .retire (v.setTile t ((v.tile t).withCore fun c => c.launch w)) next := rfl

theorem OpEnd.launch_fault (t w : Nat) (v : State) (code info : Nat) :
    (OpEnd.fault v code info).launch t w = .fault v code info := rfl

theorem OpEnd.launch_block (t w on : Nat) : (OpEnd.block on).launch t w = .block on := rfl

theorem OpEnd.launch_stop (t w : Nat) (v : State) : (OpEnd.stop v).launch t w = .stop v := rfl

theorem finish_retire (t pc w : Nat) (v : State) (next : Nat) (u : State) :
    finish t pc w false (.retire v next) u = v.setTile t (retired (v.tile t) w (v.tile t).core next) := by
  simp only [finish, retire, State.modCore, State.modTile_eq, State.setTile_tile, State.setTile_setTile, if_true,
    Bool.false_eq_true, if_false]
  rfl

theorem finish_stop (t pc w : Nat) (v u : State) : finish t pc w false (.stop v) u =
    v.setTile t (retired (v.tile t) w { (v.tile t).core with ended := true } pc) := by
  simp only [finish, retireEnd, retire, State.modCore, State.modTile_eq, State.setTile_tile, State.setTile_setTile, if_true,
    Bool.false_eq_true, if_false]
  rfl

theorem finish_block (t pc w on : Nat) (e : State) : finish t pc w false (.block on) e =
    e.setTile t ((e.tile t).withCore fun c => { c with
      first := none, wait := satAdd c.wait 1, blocked := some ⟨BitVec.ofNat 3 on, BitVec.ofNat 32 w, BitVec.ofNat 13 pc⟩ }) := rfl

/-- A core fault that is no error of a memory's code: the tile is not charged (R78). -/
theorem coreFault_eq {f : CoreFault} (h : f.code = 1 ∨ f.code = 2 ∨ f.code = 3 ∨ f.code = 9) (s : State) (t : Nat) :
    coreFault s t f = s.setTile t { s.tile t with
      core := { (s.tile t).core with
        fault := some ((s.tile t).core.fault.getD f), state := stopState (s.tile t).core.state }
      router := { (s.tile t).router with last := (s.tile t).router.last || (decide ((s.tile t).core.state = 1) &&
        !(s.tile t).router.used && !(s.tile t).router.halted && !(s.tile t).router.frozen) } } := by
  have hmem : ¬ (f.code = 4 ∨ f.code = 5 ∨ f.code = 6 ∨ (f.code = 8 ∧ (f.detail = 0x40 ∨ f.detail = 0x41))) := by
    rcases h with h | h | h | h <;> simp [h]
  rw [coreFault, if_neg hmem]
  rfl

/-- The fault of an issued word, first of its pair (R77). -/
theorem finish_fault {s : State} {t w code info : Nat} (u : State) (hrun : (s.tile t).core.state = 1)
    (hcode : code = 1 ∨ code = 2 ∨ code = 3 ∨ code = 9) :
    finish t (s.tile t).core.pc.toNat w false (.fault (issued t w s) code info) u =
      s.setTile t (coreStopped (s.tile t) w (BitVec.ofNat 4 code) (BitVec.ofNat 32 info)) := by
  have hbits : BitVec.ofNat 4 code = 1 ∨ BitVec.ofNat 4 code = 2 ∨ BitVec.ofNat 4 code = 3 ∨ BitVec.ofNat 4 code = 9 := by
    rcases hcode with rfl | rfl | rfl | rfl <;> simp
  have hhold : ((s.tile t).core.hold w).state = 1 := hrun
  simp only [finish, Bool.false_eq_true, if_false]
  rw [coreFault_eq hbits]
  simp only [issued_eq, State.modTile_eq, State.setTile_tile, State.setTile_setTile, if_true, Tile.withCore, Tile.chargeFree,
    hhold, stopState, decide_true, Bool.true_and, coreStopped, BitVec.ofNat_toNat, BitVec.setWidth_eq]
  rfl

/-! ## The rows of the words -/

theorem row_of_on {s : State} {i : Issue} {code : Nat} {op : Nat → Nat → State → OpEnd} (hon : OnTile s i.tile) :
    row code i op s = .next (issue i (fun o => o == code) (op i.tile.toNat) s) := atIsland_of_on _ hon.1 hon.2

/-- What the row of a legal word that is offered comes to. -/
theorem row_of_offers {s : State} {i : Issue} {code : Nat} {g : Bool} {op : Nat → Nat → State → OpEnd} (h : Offers s i code g) :
    row code i op s = .next (finish i.tile.toNat (s.tile i.tile.toNat).core.pc.toNat (s.wordAt i.tile) false
      (if g then (op i.tile.toNat (s.wordAt i.tile) (issued i.tile.toNat (s.wordAt i.tile) s)).launch i.tile.toNat (s.wordAt i.tile)
       else .retire (issued i.tile.toNat (s.wordAt i.tile) s) ((s.tile i.tile.toNat).core.pc.toNat + 1))
      (issued i.tile.toNat (s.wordAt i.tile) s)) := by
  obtain ⟨hon, hsame, hfetch, hcan, hop, hlegal, hguard, hfall⟩ := h
  have hinside : ¬ ((s.tile i.tile.toNat).core.pc.toNat = 8191 ∧ fallsThrough (s.wordAt i.tile) g = true) :=
    fun ⟨hpc, hf⟩ => by have := hfall hf; omega
  rw [row_of_on hon, issue_due i _ _ s hcan hsame hfetch (by simpa [State.wordAt] using hop)]
  simp only [State.wordAt] at hlegal hguard hinside ⊢
  rw [hguard, if_neg (by simp [hlegal]), if_neg hinside]

section Issues

variable {s : State} {i : Issue} {code : Nat} {op : Nat → Nat → State → OpEnd}

/-- The operation retires with tile `y`. -/
theorem row_of_retire (h : Issues s i code) {v : State} {y : Tile} {next : Nat}
    (hop : op i.tile.toNat (s.wordAt i.tile) (issued i.tile.toNat (s.wordAt i.tile) s) = .retire (v.setTile i.tile.toNat y) next) :
    row code i op s = .next (v.setTile i.tile.toNat (retired y (s.wordAt i.tile) (y.core.launch (s.wordAt i.tile)) next)) := by
  rw [row_of_offers h, if_pos rfl, hop, OpEnd.launch_retire, finish_retire]
  simp only [State.setTile_tile, State.setTile_setTile, if_true]
  rfl

/-- The operation raises a core fault that is no error of a code. -/
theorem row_of_fault (h : Issues s i code) {c info : Nat} (hc : c = 1 ∨ c = 2 ∨ c = 3 ∨ c = 9)
    (hop : op i.tile.toNat (s.wordAt i.tile) (issued i.tile.toNat (s.wordAt i.tile) s) =
      .fault (issued i.tile.toNat (s.wordAt i.tile) s) c info) :
    row code i op s = .next (s.setTile i.tile.toNat
      (coreStopped (s.tile i.tile.toNat) (s.wordAt i.tile) (BitVec.ofNat 4 c) (BitVec.ofNat 32 info))) := by
  have hrun : (s.tile i.tile.toNat).core.state = 1 := ((Tile.canIssue_iff _).1 h.2.2.2.1).1
  rw [row_of_offers h, if_pos rfl, hop, OpEnd.launch_fault, finish_fault _ hrun hc]

/-- The operation blocks on `on`. -/
theorem row_of_block (h : Issues s i code) {on : Nat}
    (hop : op i.tile.toNat (s.wordAt i.tile) (issued i.tile.toNat (s.wordAt i.tile) s) = .block on) :
    row code i op s = .next (s.setTile i.tile.toNat
      (blockedTile (s.tile i.tile.toNat) (s.wordAt i.tile) (BitVec.ofNat 3 on))) := by
  rw [row_of_offers h, if_pos rfl, hop, OpEnd.launch_block, finish_block]
  simp only [issued_eq, State.setTile_tile, State.setTile_setTile, if_true, BitVec.ofNat_toNat, BitVec.setWidth_eq]
  rfl

end Issues

/-- A word whose guard is false (R60). -/
theorem row_of_guard_false {s : State} {i : Issue} {code : Nat} {op : Nat → Nat → State → OpEnd} (h : Offers s i code false) :
    row code i op s = .next (s.setTile i.tile.toNat (retired (s.tile i.tile.toNat) (s.wordAt i.tile)
      ((s.tile i.tile.toNat).core.hold (s.wordAt i.tile)) ((s.tile i.tile.toNat).core.pc.toNat + 1))) := by
  rw [row_of_offers h, if_neg Bool.false_ne_true, finish_retire]
  simp only [issued_eq, State.setTile_tile, State.setTile_setTile, if_true]
  rfl

/-- An illegal word (R60): its row raises ILLEGAL. -/
theorem row_of_illegal {s : State} {i : Issue} {code : Nat} {op : Nat → Nat → State → OpEnd} (hon : OnTile s i.tile)
    (hsame : i.same = false) (hfetch : i.fetch = .ok) (hcan : (s.tile i.tile.toNat).canIssue = true)
    (hop : wOP (s.wordAt i.tile) = code) (hill : wIllegal (s.wordAt i.tile) = true) :
    row code i op s = .next (s.setTile i.tile.toNat
      (coreStopped (s.tile i.tile.toNat) (s.wordAt i.tile) 1 (BitVec.ofNat 32 (s.wordAt i.tile)))) := by
  have hrun : (s.tile i.tile.toNat).core.state = 1 := ((Tile.canIssue_iff _).1 hcan).1
  rw [row_of_on hon, issue_due i _ _ s hcan hsame hfetch (by simpa [State.wordAt] using hop)]
  simp only [State.wordAt] at hill ⊢
  rw [if_pos hill, finish_fault _ hrun (.inl rfl)]
  rfl

/-- A word of an unlisted operation (R61). -/
theorem unlistedOpWord_of_illegal {s : State} {i : Issue} (hon : OnTile s i.tile) (hsame : i.same = false)
    (hfetch : i.fetch = .ok) (hcan : (s.tile i.tile.toNat).canIssue = true) (hop : opListed (wOP (s.wordAt i.tile)) = false)
    (hill : wIllegal (s.wordAt i.tile) = true) :
    exec (.unlistedOpWord i) s = .next (s.setTile i.tile.toNat
      (coreStopped (s.tile i.tile.toNat) (s.wordAt i.tile) 1 (BitVec.ofNat 32 (s.wordAt i.tile)))) := by
  have hrun : (s.tile i.tile.toNat).core.state = 1 := ((Tile.canIssue_iff _).1 hcan).1
  change atIsland i.tile s _ = _
  rw [atIsland_of_on _ hon.1 hon.2, issue_due i _ _ s hcan hsame hfetch (by simpa [State.wordAt] using hop)]
  simp only [State.wordAt] at hill ⊢
  rw [if_pos hill, finish_fault _ hrun (.inl rfl)]
  rfl

/-- The row of each listed operation, as `row` of its code. -/
theorem exec_wordRow {r : Nat × (Issue → Instr)} (hr : r ∈ wordRows) (i : Issue) (s : State) :
    ∃ op : Nat → Nat → State → OpEnd, exec (r.2 i) s = row r.1 i op s := by
  simp only [wordRows, List.mem_cons, List.not_mem_nil, or_false] at hr
  rcases hr with rfl | rfl | rfl | rfl | rfl | rfl | rfl | rfl | rfl | rfl | rfl | rfl | rfl | rfl | rfl | rfl | rfl | rfl |
    rfl | rfl | rfl | rfl | rfl | rfl | rfl | rfl <;> exact ⟨_, rfl⟩

end Sys2Proof.Machine

open Sys2Proof Sys2Proof.Machine

/-- Settles O3: the guard is tested before the operation. -/
theorem guardFalse : Obligations.GuardFalse := by
  unfold Obligations.GuardFalse
  intro s i r hr hoffers x w
  obtain ⟨op, hexec⟩ := exec_wordRow hr i s
  rw [hexec, row_of_guard_false hoffers]

/-- Settles O4: the encoding is checked before the guard, in the row of each listed operation and in that of the rest. -/
theorem illegalWords : Obligations.IllegalWords := by
  unfold Obligations.IllegalWords
  intro s i hon hsame hfetch hcan hill w t
  refine ⟨fun r hr hop => ?_, fun hunlisted => ?_⟩
  · obtain ⟨op, hexec⟩ := exec_wordRow hr i s
    rw [hexec, row_of_illegal hon hsame hfetch hcan hop hill]
  · exact unlistedOpWord_of_illegal hon hsame hfetch hcan hunlisted hill

/-- Settles O5: such a word is illegal. -/
theorem ldaStaIllegalPair : Obligations.LdaStaIllegalPair := by
  unfold Obligations.LdaStaIllegalPair
  intro s i x w t hon hsame hfetch hcan hrd
  have hill {op : Nat} (hop : wOP w = op) (h : op = 0x12 ∨ op = 0x13) : wIllegal w = true := by
    rcases h with rfl | rfl <;> simp [wIllegal, hop, hrd]
  refine ⟨fun hop => ?_, fun hop => ?_⟩
  · exact row_of_illegal hon hsame hfetch hcan hop (hill hop (.inl rfl))
  · exact row_of_illegal hon hsame hfetch hcan hop (hill hop (.inr rfl))
end

section
/-! SUPPORT. Words of class A, X and P, and the registers and predicates that they write (R56, R61). -/

namespace Sys2Proof.Machine

theorem opReg_issued (t w rd : Nat) (v : TileCore → Word) (s : State) : opReg t rd v (issued t w s) =
    .retire (s.setTile t ((s.tile t).withCore fun c => (c.hold w).setG rd (v (c.hold w)))) ((s.tile t).core.pc.toNat + 1) := by
  simp only [opReg, issued_eq, State.setTile_tile, State.setTile_setTile, if_true]
  rfl

theorem opPred_issued (t w pd : Nat) (v : TileCore → Bool) (s : State) : opPred t pd v (issued t w s) =
    .retire (s.setTile t ((s.tile t).withCore fun c => (c.hold w).setP pd (v (c.hold w)))) ((s.tile t).core.pc.toNat + 1) := by
  simp only [opPred, issued_eq, State.setTile_tile, State.setTile_setTile, if_true]
  rfl

/-- A row whose operation changes the core only, by `f`. -/
theorem row_retires {s : State} {i : Issue} {code : Nat} {op : Nat → Nat → State → OpEnd} {f : TileCore → Nat → TileCore}
    {next : Nat} (h : Issues s i code)
    (hop : op i.tile.toNat (s.wordAt i.tile) (issued i.tile.toNat (s.wordAt i.tile) s) = .retire
      (s.setTile i.tile.toNat ((s.tile i.tile.toNat).withCore fun c => f (c.hold (s.wordAt i.tile)) (s.wordAt i.tile))) next) :
    row code i op s = .next (s.setTile i.tile.toNat (retired (s.tile i.tile.toNat) (s.wordAt i.tile)
      ((f ((s.tile i.tile.toNat).core.hold (s.wordAt i.tile)) (s.wordAt i.tile)).launch (s.wordAt i.tile)) next)) := by
  rw [row_of_retire h hop]
  rfl

/-- A row whose operation writes RD, in the form of Table 3.4. -/
theorem row_writesReg {s : State} {i : Issue} {code : Nat} {op : Nat → Nat → State → OpEnd} {v : TileCore → Nat → Word}
    (h : Issues s i code) (hop : ∀ t w s, op t w s = opReg t (wRD w) (fun c => v c w) s) :
    row code i op s = .next (s.setTile i.tile.toNat (retired (s.tile i.tile.toNat) (s.wordAt i.tile)
      ((((s.tile i.tile.toNat).core.hold (s.wordAt i.tile)).setG (wRD (s.wordAt i.tile))
        (v ((s.tile i.tile.toNat).core.hold (s.wordAt i.tile)) (s.wordAt i.tile))).launch (s.wordAt i.tile))
      ((s.tile i.tile.toNat).core.pc.toNat + 1))) :=
  row_retires (f := fun c w => c.setG (wRD w) (v c w)) h ((hop ..).trans (opReg_issued ..))

/-- The shift count of SLLI, SRLI and SRAI: bits 4 to 0 of IMM12. -/
theorem wImm12_shift (w : Nat) : (wImm12 w).toNat % 32 = bits w 4 0 := by
  have hlow : bits w 4 0 = bits w 11 0 % 32 := by
    simp only [bits]; omega
  have hlt : bits w 11 0 < 4096 := Nat.mod_lt _ (by decide)
  rw [hlow, wImm12, BitVec.toNat_ofInt, signed]
  generalize bits w 11 0 = n at hlt ⊢
  split <;> omega

@[simp] theorem TileCore.g_zero (c : TileCore) : c.g 0 = 0 := rfl

@[simp] theorem TileCore.p_zero (c : TileCore) : c.p 0 = true := rfl

@[simp] theorem TileCore.setG_zero (c : TileCore) (v : Word) : c.setG 0 v = c := rfl

@[simp] theorem TileCore.setP_zero (c : TileCore) (b : Bool) : c.setP 0 b = c := rfl

theorem TileCore.setG_g (c : TileCore) {n : Nat} (hn : n ≠ 0) (k : Nat) (v : Word) :
    (c.setG n v).g k = if k = n then v else c.g k := by
  simp only [TileCore.g, TileCore.setG, if_neg hn, Sparse.get_set]
  by_cases hk : k = 0
  · rw [if_pos hk, if_pos hk, if_neg (by omega)]
  · rw [if_neg hk, if_neg hk]

theorem getLsbD_mask {n k : Nat} (hk : k < 8) : (BitVec.ofNat 8 (2 ^ n)).getLsbD k = decide (n = k) := by
  rw [BitVec.getLsbD_ofNat, Nat.testBit_two_pow]
  simp [hk]

theorem TileCore.setP_p (c : TileCore) {n k : Nat} (hn : n ≠ 0) (hk8 : k < 8) (b : Bool) :
    (c.setP n b).p k = if k = n then b else c.p k := by
  simp only [TileCore.p, TileCore.setP, if_neg hn]
  by_cases hk : k = 0
  · rw [if_pos hk, if_pos hk, if_neg (by omega)]
  · rw [if_neg hk, if_neg hk]
    cases b
    · rw [if_neg Bool.false_ne_true, BitVec.getLsbD_and, BitVec.getLsbD_not, getLsbD_mask hk8]
      by_cases hkn : k = n
      · simp [hkn]
      · simp [hkn, Ne.symm hkn, hk8]
    · rw [if_pos rfl, BitVec.getLsbD_or, getLsbD_mask hk8]
      by_cases hkn : k = n
      · simp [hkn]
      · simp [hkn, Ne.symm hkn]

end Sys2Proof.Machine

open Sys2Proof Sys2Proof.Machine

/-- Settles O2: each row's operation writes RD or PD of the core, and a write is read back. -/
theorem registerAndPredicateWords : Obligations.RegisterAndPredicateWords := by
  unfold Obligations.RegisterAndPredicateWords
  refine ⟨fun s i => ?_, fun s i => ?_, fun c n k v b => ?_⟩
  · refine ⟨fun h => ?_, fun h => ?_, fun h => ?_, fun h => ?_, fun h => ?_, fun h => ?_, fun h => ?_, fun h => ?_, fun h => ?_⟩
    · exact row_writesReg (v := fun c w => aluFn (wFN w) (c.g (wRA w)) (c.g (wRB w))) h fun _ _ _ => rfl
    · exact row_writesReg (v := fun c w => c.g (wRA w) + wImm12 w) h fun _ _ _ => rfl
    · exact row_writesReg (v := fun c w => c.g (wRA w) &&& wImm12 w) h fun _ _ _ => rfl
    · exact row_writesReg (v := fun c w => c.g (wRA w) ||| wImm12 w) h fun _ _ _ => rfl
    · exact row_writesReg (v := fun c w => c.g (wRA w) ^^^ wImm12 w) h fun _ _ _ => rfl
    · refine row_writesReg (v := fun c w => c.g (wRA w) <<< bits w 4 0) h fun t w s => ?_
      simp only [opImm, aluFn, wImm12_shift]
    · refine row_writesReg (v := fun c w => c.g (wRA w) >>> bits w 4 0) h fun t w s => ?_
      simp only [opImm, aluFn, wImm12_shift]
    · refine row_writesReg (v := fun c w => (c.g (wRA w)).sshiftRight (bits w 4 0)) h fun t w s => ?_
      simp only [opImm, aluFn, wImm12_shift]
    · exact row_writesReg (v := fun _ w => BitVec.ofNat 32 (wImm16 w * 65536)) h fun _ _ _ => rfl
  · refine ⟨fun h => ?_, fun h => ?_, fun h => ?_⟩
    · exact row_retires (f := fun c w => c.setP (wPD w) (condFn (wCond w) (c.g (wCRA w)) (c.g (wCRB w)))) h (opPred_issued ..)
    · exact row_retires (f := fun c w => c.setP (wPD w) (condFn (wCond w) (c.g (wCRA w)) (wImm11 w))) h (opPred_issued ..)
    · exact row_retires (f := fun c w => c.setP (wPD w) (plogFn (wPFN w) (c.p (wPA w)) (c.p (wPB w)))) h (opPred_issued ..)
  · exact ⟨c.g_zero, c.p_zero, c.setG_zero v, c.setP_zero b, fun hn => c.setG_g hn k v, fun hn _ hk8 => c.setP_p hn hk8 b⟩
end

section
/-! SUPPORT. Branches (R62, R65). -/

namespace Sys2Proof.Machine

theorem opBranch_inside {target : Int} (h0 : 0 ≤ target) (h1 : target ≤ 8191) (s v : State) :
    opBranch target s v = .retire v target.toNat := if_neg (by omega)

theorem opBranch_outside {target : Int} (h : target < 0 ∨ target > 8191) (s v : State) :
    opBranch target s v = .fault s 3 (unsigned 32 target) := if_pos h

@[simp] theorem issued_tile (t w : Nat) (s : State) : (issued t w s).tile t = (s.tile t).withCore fun c => c.hold w := by
  simp [issued_eq]

theorem opBr_issued (t w : Nat) (s : State) :
    opBr t w (issued t w s) = opBranch ((s.tile t).core.pc.toNat + wOff22 w) (issued t w s) (issued t w s) := by
  rw [opBr, issued_tile]
  rfl

theorem opBrl_issued (t w : Nat) (s : State) :
    opBrl t w (issued t w s) = opBranch ((s.tile t).core.pc.toNat + wOff22 w) (issued t w s) (s.setTile t ((s.tile t).withCore
      fun c => (c.hold w).setG 31 (BitVec.ofNat 32 ((s.tile t).core.pc.toNat + 1)))) := by
  simp only [opBrl, State.modCore, State.modTile_eq, issued_eq, State.setTile_tile, if_true, State.setTile_setTile]
  rfl

theorem opJr_issued (t w : Nat) (s : State) : opJr t w (issued t w s) =
    if ((s.tile t).core.g (wRA w)).toNat ≥ 8192 then .fault (issued t w s) 3 ((s.tile t).core.g (wRA w)).toNat
    else .retire (issued t w s) ((s.tile t).core.g (wRA w)).toNat := by
  simp only [opJr, issued_tile]
  rfl

end Sys2Proof.Machine

open Sys2Proof Sys2Proof.Machine

/-- Settles O7: the target of each branch is tested against the bounds of instruction memory. -/
theorem branches : Obligations.Branches := by
  unfold Obligations.Branches
  intro s i t x w pc b j
  refine ⟨fun h0 h1 => ⟨fun h => ?_, fun h => ?_⟩, fun hj h => ?_, fun hb => ⟨fun h => ?_, fun h => ?_⟩, fun hj h => ?_⟩
  · exact row_retires (f := fun c _ => c) h ((opBr_issued ..).trans (opBranch_inside h0 h1 ..))
  · exact row_retires (f := fun c _ => c.setG 31 (BitVec.ofNat 32 (pc + 1))) h ((opBrl_issued ..).trans (opBranch_inside h0 h1 ..))
  · exact row_retires (f := fun c _ => c) h ((opJr_issued ..).trans (if_neg (Nat.not_le.2 hj)))
  · exact row_of_fault h (by decide) ((opBr_issued ..).trans (opBranch_outside hb ..))
  · exact row_of_fault h (by decide) ((opBrl_issued ..).trans (opBranch_outside hb ..))
  · exact row_of_fault h (by decide) ((opJr_issued ..).trans (if_pos hj))
end

section
/-! SUPPORT. Loads and stores (R57, R58): the checked read of a memory, and the operations on an issued word. -/

namespace Sys2Proof.Machine

/-! ## The checked read (R222, R223) -/

section Read

variable {y : Tile} {c : Nat × Nat} (s : State) (t : Nat) (acc : Bool) (info : Nat) (k : State → OpEnd)

theorem readChecked_ok (h : y.flaw c = .ok) : readChecked (s.setTile t y) t acc c .ok info k = k (s.setTile t y) := by
  simp [readChecked, Tile.withFlaw, h]

theorem readChecked_ce (h : y.flaw c = .ce) :
    readChecked (s.setTile t y) t acc c .ok info k = k (chargeCe (s.setTile t y) t acc) := by
  simp [readChecked, Tile.withFlaw, h]

theorem readChecked_ue (h : y.flaw c = .ue) :
    readChecked (s.setTile t y) t acc c .ok info k = .fault (s.setTile t y) (if acc then 6 else 5) info := by
  simp [readChecked, Tile.withFlaw, h]

end Read

/-- The tile of an issued word that uses a bank of working memory for a cycle. -/
def Tile.usingWm (x : Tile) (w : Nat) : Tile := (x.withCore fun c => c.hold w).chargeFree 8

theorem useWm_issued (t w : Nat) (s : State) : useWm (issued t w s) t 1 = s.setTile t ((s.tile t).usingWm w) := by
  simp only [useWm, State.modTile_eq, issued_eq, State.setTile_tile, State.setTile_setTile, if_true]
  rfl

/-- A word of working memory lies in one scrub word. -/
theorem writeW_four {a : Nat} (ha : a % 4 = 0) (x : Tile) (v : Nat) : x.writeW a 4 v =
    { x.recode (wmCodes a 4) with wmem := writeBytes x.wmem a v 4, rel := x.rel.touch (a / 64) (a / 64) } := by
  rw [Tile.writeW, show (a + 4 - 1) / 64 = a / 64 by omega]

/-! ## The operations -/

section Ops

variable {t w : Nat} {s : State} {a : Nat} (ha : eaOf (s.tile t).core w = a)

include ha

theorem held_eaOf : eaOf ((s.tile t).withCore fun c => c.hold w).core w = a := ha

theorem opLd_bad (e : Ecc) (h : a % 4 ≠ 0 ∨ a ≥ 0x100000) : opLd e t w (issued t w s) = .fault (issued t w s) 2 a := by
  simp only [opLd, issued_tile, held_eaOf ha]
  exact if_pos h

theorem opSt_bad (h : a % 4 ≠ 0 ∨ a ≥ 0x100000) : opSt t w (issued t w s) = .fault (issued t w s) 2 a := by
  simp only [opSt, issued_tile, held_eaOf ha]
  exact if_pos h

theorem opLda_bad (e : Ecc) (h : a ≥ 24576) : opLda e t w (issued t w s) = .fault (issued t w s) 2 a := by
  simp only [opLda, issued_tile, held_eaOf ha]
  exact if_pos h

theorem opSta_bad (h : a ≥ 24576) : opSta t w (issued t w s) = .fault (issued t w s) 2 a := by
  simp only [opSta, issued_tile, held_eaOf ha]
  exact if_pos h

/-- A legal LD, up to its check. -/
theorem opLd_issued (h4 : a % 4 = 0) (hin : a < 0x100000) : opLd .ok t w (issued t w s) =
    readChecked (s.setTile t ((s.tile t).usingWm w)) t false (wmCodes a 4) .ok a fun s =>
      opReg t (wRD w) (fun _ => BitVec.ofNat 32 ((s.tile t).readW a 4)) s := by
  simp only [opLd, issued_tile, held_eaOf ha, useWm_issued]
  exact if_neg (by omega)

theorem opLd_issued_ok (h4 : a % 4 = 0) (hin : a < 0x100000) (hflaw : (s.tile t).flaw (wmCodes a 4) = .ok) :
    opLd .ok t w (issued t w s) = .retire (s.setTile t (((s.tile t).usingWm w).withCore fun c =>
      c.setG (wRD w) (BitVec.ofNat 32 (readBytes (s.tile t).wmem a 4)))) ((s.tile t).core.pc.toNat + 1) := by
  rw [opLd_issued ha h4 hin, readChecked_ok (y := (s.tile t).usingWm w) s t _ _ _ hflaw]
  simp only [opReg, State.setTile_tile, State.setTile_setTile, if_true]
  rfl

theorem opSt_issued (h4 : a % 4 = 0) (hin : a < 0x100000) : opSt t w (issued t w s) =
    .retire (s.setTile t (((s.tile t).usingWm w).writeW a 4 ((s.tile t).core.g (wRD w)).toNat))
      ((s.tile t).core.pc.toNat + 1) := by
  simp only [opSt, held_eaOf ha, useWm_issued, nextPc, issued_tile, State.modTile_eq, State.setTile_tile,
    State.setTile_setTile, if_true]
  exact if_neg (by omega)

/-- A legal LDA, up to its check. -/
theorem opLda_issued (hin : a < 24576) : opLda .ok t w (issued t w s) =
    readChecked (s.setTile t ((s.tile t).withCore fun c => c.hold w)) t true (amCode a) .ok a fun s =>
      .retire (s.modCore t fun c => (c.setG (wRD w) (BitVec.ofNat 32 ((s.tile t).readA a).toNat)).setG (wRD w + 1)
        (BitVec.ofNat 32 (((s.tile t).readA a).toNat / 2 ^ 32))) (nextPc s t) := by
  simp only [opLda, issued_tile, held_eaOf ha]
  exact if_neg (by omega)

theorem opLda_issued_ok (hin : a < 24576) (hflaw : (s.tile t).flaw (amCode a) = .ok) :
    opLda .ok t w (issued t w s) = .retire (s.setTile t ((s.tile t).withCore fun c =>
      ((c.hold w).setG (wRD w) (BitVec.ofNat 32 (Sparse.get 0 (s.tile t).amem a).toNat)).setG (wRD w + 1)
        (BitVec.ofNat 32 ((Sparse.get 0 (s.tile t).amem a).toNat / 2 ^ 32)))) ((s.tile t).core.pc.toNat + 1) := by
  rw [opLda_issued ha hin, readChecked_ok (y := (s.tile t).withCore fun c => c.hold w) s t _ _ _ hflaw]
  simp only [State.modCore, State.modTile_eq, State.setTile_tile, State.setTile_setTile, if_true, nextPc]
  rfl

theorem opSta_issued (hin : a < 24576) : opSta t w (issued t w s) =
    .retire (s.setTile t (((s.tile t).withCore fun c => c.hold w).writeA a (BitVec.ofNat 48
      (((s.tile t).core.g (wRD w)).toNat + ((s.tile t).core.g (wRD w + 1)).toNat % 65536 * 2 ^ 32))))
      ((s.tile t).core.pc.toNat + 1) := by
  simp only [opSta, held_eaOf ha, nextPc, State.modTile_eq, issued_eq, State.setTile_tile, State.setTile_setTile,
    if_true]
  exact if_neg (by omega)

end Ops

end Sys2Proof.Machine

open Sys2Proof Sys2Proof.Machine

/-- Settles O6: each operation is its memory access on the tile that has waited for the word's operands. -/
theorem loadsAndStores : Obligations.LoadsAndStores := by
  unfold Obligations.LoadsAndStores
  intro s i t x w a bad core
  have ha : eaOf (s.tile t).core w = a := rfl
  refine ⟨fun h h4 hin hflaw => ?ld, fun h h4 hin => ⟨writeBytes x.wmem a (x.core.g (wRD w)).toNat 4, ?st, fun b => ?stored⟩,
    fun h hin hflaw => ?lda, fun h hin => ⟨Sparse.set 0 x.amem a _, ?sta, fun b => Sparse.get_set _ _ _ _ _⟩,
    fun hbad => ⟨fun h => ?ldBad, fun h => ?stBad⟩, fun hbad => ⟨fun h => ?ldaBad, fun h => ?staBad⟩⟩
  case ld => exact row_of_retire h (opLd_issued_ok ha h4 hin hflaw)
  case st =>
    have hrow := row_of_retire h (opSt_issued ha h4 hin)
    rw [writeW_four h4] at hrow
    exact hrow
  case stored => exact get_writeBytes 4 _ _ _ b
  case lda => exact row_of_retire h (opLda_issued_ok ha hin hflaw)
  case sta => exact row_of_retire h (opSta_issued ha hin)
  case ldBad => exact row_of_fault h (.inr (.inl rfl)) (opLd_bad ha _ hbad)
  case stBad => exact row_of_fault h (.inr (.inl rfl)) (opSt_bad ha hbad)
  case ldaBad => exact row_of_fault h (.inr (.inl rfl)) (opLda_bad ha _ hbad)
  case staBad => exact row_of_fault h (.inr (.inl rfl)) (opSta_bad ha hbad)
end

section
/-! SUPPORT. Writes of one key with a write of another between them. -/

namespace Sys2Proof.Machine

variable {α : Type}

/-- The entry at key `a` becomes `v`; every other entry stays. -/
def Sparse.revalue (a : Nat) (v : α) (p : Nat × α) : Nat × α := if p.1 = a then (a, v) else p

theorem Sparse.revalue_key (a : Nat) (v : α) (p : Nat × α) : (Sparse.revalue a v p).1 = p.1 := by
  unfold Sparse.revalue
  split
  · next h => exact h.symm
  · rfl

theorem Sparse.map_revalue_of_ne {m : Sparse α} {a : Nat} (v : α) (h : ∀ p ∈ m, p.1 ≠ a) : m.map (Sparse.revalue a v) = m :=
  (List.map_congr_left (g := id) fun p hp => if_neg (h p hp)).trans (List.map_id m)

theorem Sparse.ins_map_revalue {a b : Nat} (hb : b ≠ a) (v w : α) (m : Sparse α) :
    Sparse.ins (m.map (Sparse.revalue a v)) b w = (Sparse.ins m b w).map (Sparse.revalue a v) := by
  have hw : Sparse.revalue a v (b, w) = (b, w) := if_neg hb
  induction m with
  | nil => simp [Sparse.ins, hw]
  | cons p r ih =>
    obtain ⟨k, u⟩ := p
    have hk : Sparse.revalue a v (k, u) = (k, (Sparse.revalue a v (k, u)).2) := Prod.ext (Sparse.revalue_key a v _) rfl
    rw [List.map_cons, hk]
    simp only [Sparse.ins]
    split
    · rw [List.map_cons, List.map_cons, hw, ← hk]
    · rw [List.map_cons, ih, ← hk]

theorem Sparse.map_revalue_ins {m : Sparse α} {a : Nat} (v w : α) (h : ∀ p ∈ m, p.1 ≠ a) :
    (Sparse.ins m a v).map (Sparse.revalue a w) = Sparse.ins m a w := by
  have ha : Sparse.revalue a w (a, v) = (a, w) := if_pos rfl
  induction m with
  | nil => simp [Sparse.ins, ha]
  | cons p r ih =>
    have hp : Sparse.revalue a w p = p := if_neg (h p (by simp))
    have hr : ∀ q ∈ r, q.1 ≠ a := fun q hq => h q (by simp [hq])
    simp only [Sparse.ins]
    split
    · rw [List.map_cons, List.map_cons, ha, hp, Sparse.map_revalue_of_ne w hr]
    · rw [List.map_cons, hp, ih hr]

theorem Sparse.filter_map_revalue (m : Sparse α) (a b : Nat) (v : α) :
    (m.map (Sparse.revalue a v)).filter (fun p => p.1 ≠ b) = (m.filter fun p => p.1 ≠ b).map (Sparse.revalue a v) := by
  rw [List.filter_map]
  congr 2
  funext p
  simp only [Function.comp_apply, Sparse.revalue_key]

/-- What one key held does not matter once it is written again, although another key is written between. -/
theorem Sparse.set_between [DecidableEq α] (d : α) (m : Sparse α) {a b : Nat} (hb : b ≠ a) {v v' : α} (hv : v ≠ d) (hv' : v' ≠ d)
    (w z : α) : Sparse.set d (Sparse.set d (Sparse.set d m a v) b w) a z =
      Sparse.set d (Sparse.set d (Sparse.set d m a v') b w) a z := by
  have hm : ∀ p ∈ m.filter (fun p => p.1 ≠ a), p.1 ≠ a := by simp
  have hfirst : Sparse.set d m a v' = (Sparse.set d m a v).map (Sparse.revalue a v') := by
    simp only [Sparse.set, if_neg hv, if_neg hv', Sparse.map_revalue_ins v v' hm]
  have hsecond : Sparse.set d (Sparse.set d m a v') b w =
      (Sparse.set d (Sparse.set d m a v) b w).map (Sparse.revalue a v') := by
    rw [hfirst]
    generalize Sparse.set d m a v = l
    unfold Sparse.set
    rw [Sparse.filter_map_revalue]
    split
    · rfl
    · exact Sparse.ins_map_revalue hb v' w _
  have hrest : (Sparse.set d (Sparse.set d m a v') b w).filter (fun p => p.1 ≠ a) =
      (Sparse.set d (Sparse.set d m a v) b w).filter fun p => p.1 ≠ a := by
    rw [hsecond, Sparse.filter_map_revalue]
    exact Sparse.map_revalue_of_ne v' (by simp)
  generalize Sparse.set d (Sparse.set d m a v') b w = l at hrest ⊢
  unfold Sparse.set at hrest ⊢
  rw [hrest]

/-- A tile whose value does not matter, since it is written again after another tile. -/
theorem State.setTile_between (s : State) {t u : Nat} (hu : u ≠ t) {x x' : Tile} (hx : x ≠ {}) (hx' : x' ≠ {}) (y z : Tile) :
    ((s.setTile t x).setTile u y).setTile t z = ((s.setTile t x').setTile u y).setTile t z :=
  congrArg (fun tiles => { s with tiles }) (Sparse.set_between {} s.tiles hu hx hx' y z)

theorem Tile.ne_reset {x : Tile} (h : x.core.state = 1) : x ≠ {} := by
  rintro rfl
  exact absurd h (by decide)

end Sys2Proof.Machine
end

section
/-! SUPPORT. SEND and RECV (R66, R67, R69), issued and tried again: their operations on a tile with a given core. -/

namespace Sys2Proof.Machine

/-- Tile `t` has core `c`: the state of an issued word with the core that has waited, of a retried one with the core a cycle
later. -/
def State.setCore (s : State) (t : Nat) (c : TileCore) : State := s.setTile t { s.tile t with core := c }

@[simp] theorem State.setCore_tile (s : State) (t : Nat) (c : TileCore) :
    (s.setCore t c).tile t = { s.tile t with core := c } := by
  rw [State.setCore, State.setTile_tile, if_pos rfl]

@[simp] theorem State.setCore_setTile (s : State) (t : Nat) (c : TileCore) (y : Tile) :
    (s.setCore t c).setTile t y = s.setTile t y := State.setTile_setTile ..

theorem useWm_setCore (s : State) (t : Nat) (c : TileCore) :
    useWm (s.setCore t c) t 1 = s.setTile t ({ s.tile t with core := c }.chargeFree 8) := by
  rw [useWm, State.modTile_eq, State.setCore_setTile, State.setCore_tile]

/-! ## A blocked word that is tried again -/

section Unblock

variable {s : State} {t : TileId} {on : BitVec 3} {n w : Nat} {op : Nat → State → OpEnd}

/-- What the retry of a blocked word comes to. -/
theorem unblock_of_blocked (hn : on.toNat = n) (h : BlockedOn s t on w) : ∃ pc,
    atIsland t s (unblock t n op) = .next (finish t.toNat pc w false
      ((op w (s.setCore t.toNat ((s.tile t.toNat).core.tick 1))).launch t.toNat w)
      (s.setCore t.toNat ((s.tile t.toNat).core.tick 1))) := by
  obtain ⟨hon, hrun, hfrozen, b, hb, rfl, rfl⟩ := h
  refine ⟨b.pc.toNat, ?_⟩
  rw [atIsland_of_on _ hon.1 hon.2]
  unfold unblock
  simp only [hb]
  exact congrArg Host.Outcome.next (if_neg (by simp [hn, hrun, hfrozen]))

theorem unblock_of_retire (hn : on.toNat = n) (h : BlockedOn s t on w) {v : State} {y : Tile} {next : Nat}
    (hop : op w (s.setCore t.toNat ((s.tile t.toNat).core.tick 1)) = .retire (v.setTile t.toNat y) next) :
    atIsland t s (unblock t n op) = .next (v.setTile t.toNat (retired y w (y.core.launch w) next)) := by
  obtain ⟨pc, hun⟩ := unblock_of_blocked (op := op) hn h
  rw [hun, hop, OpEnd.launch_retire, finish_retire]
  simp only [State.setTile_tile, State.setTile_setTile, if_true]
  rfl

end Unblock

/-! ## The head of a queue leaves -/

theorem returnCredit_tile_self (s : State) (t d q : Nat) : (returnCredit s t d q).tile t = s.tile t := by
  unfold returnCredit
  split
  · next hb => rw [State.modTile_eq, State.setTile_tile, if_neg (beyond_ne hb).symm]
  · rw [State.modDrover_eq, State.setDrover_tile]
  · rfl

/-- The credit goes elsewhere: the tile's own value does not matter where it is written afterwards. -/
theorem returnCredit_setTile (s : State) {t : Nat} (d q : Nat) {x x' : Tile} (hx : x ≠ {}) (hx' : x' ≠ {}) (z : Tile) :
    (returnCredit (s.setTile t x) t d q).setTile t z = (returnCredit (s.setTile t x') t d q).setTile t z := by
  have hbeyond (y : Tile) : (s.setTile t y).beyond t d = s.beyond t d := rfl
  unfold returnCredit
  rw [hbeyond, hbeyond]
  split
  · next hb =>
    have hu := beyond_ne hb
    simp only [State.modTile_eq, State.setTile_tile, if_neg hu]
    exact State.setTile_between s hu hx hx' _ z
  · simp only [State.modDrover_eq, State.setTile_drover]
    change (((s.setTile t x).setTile t z).setDrover _ _) = (((s.setTile t x').setTile t z).setDrover _ _)
    rw [State.setTile_setTile, State.setTile_setTile]
  · rw [State.setTile_setTile, State.setTile_setTile]

theorem popQueue_tile_self (s : State) (t k : Nat) : (popQueue s t k).tile t = { s.tile t with
    router := { (s.tile t).router with
      queues := Sparse.mod {} (s.tile t).router.queues k fun q => { q with toks := q.toks.drop 1 } } } := by
  rw [popQueue, returnCredit_tile_self, State.modTile_eq, State.setTile_tile, if_pos rfl]
  rfl

theorem popQueue_setCore_tile (s : State) (t k : Nat) (c : TileCore) :
    (popQueue (s.setCore t c) t k).tile t = { s.tile t with core := c, router := ((popQueue s t k).tile t).router } := by
  rw [popQueue_tile_self, popQueue_tile_self, State.setCore_tile]

theorem popQueue_setCore {s : State} {t : Nat} {c : TileCore} (hrun : (s.tile t).core.state = 1) (hc : c.state = 1)
    (k : Nat) (z : Tile) : (popQueue (s.setCore t c) t k).setTile t z = (popQueue s t k).setTile t z := by
  unfold popQueue
  rw [State.modTile_eq, State.modTile_eq, State.setCore_setTile]
  exact returnCredit_setTile s _ _ (Tile.ne_reset (by simpa [Tile.withRouter] using hc))
    (Tile.ne_reset (by simpa [Tile.withRouter] using hrun)) z

/-! ## The operations -/

theorem lineAddr_iff (a : Nat) : lineAddr a = true ↔ a % 64 = 0 ∧ a < 0x100000 := by simp [lineAddr]

/-- A line of working memory lies in one scrub word. -/
theorem writeW_line {a : Nat} (ha : a % 64 = 0) (x : Tile) (v : Nat) : x.writeW a 64 v =
    { x.recode (wmCodes a 64) with wmem := writeBytes x.wmem a v 64, rel := x.rel.touch (a / 64) (a / 64) } := by
  rw [Tile.writeW, show (a + 64 - 1) / 64 = a / 64 by omega]

/-- The message that a SEND copies. -/
def Tile.sendMsg (x : Tile) (a w : Nat) : SendMsg :=
  ⟨BitVec.ofNat 512 (readBytes x.wmem a 64), BitVec.ofNat 3 (wOut w), BitVec.ofNat 9 (wEntry w), wLast w⟩

section Ops

variable {s : State} {t w a : Nat} {c : TileCore}

theorem opSend_room (ha : (c.g (wSRA w)).toNat = a) (hline : a % 64 = 0 ∧ a < 0x100000)
    (hflaw : (s.tile t).flaw (wmCodes a 64) = .ok) (hroom : c.sendBuf.length < 4) :
    opSend .ok t w (s.setCore t c) = .retire (s.setTile t ({ s.tile t with
      core := { c with sendBuf := c.sendBuf ++ [(s.tile t).sendMsg a w] } }.chargeFree 8)) (c.pc.toNat + 1) := by
  simp only [opSend, State.setCore_tile, ha, (lineAddr_iff a).2 hline, Bool.not_true, Bool.false_eq_true, if_false,
    if_neg (Nat.not_le.2 hroom), useWm_setCore]
  have hread : (Tile.chargeFree { s.tile t with core := c } 8).flaw (wmCodes a 64) = .ok := hflaw
  rw [readChecked_ok s t _ _ _ hread]
  simp only [State.modCore, State.modTile_eq, State.setTile_tile, State.setTile_setTile, if_true, nextPc]
  rfl

theorem opSend_full (ha : (c.g (wSRA w)).toNat = a) (hline : a % 64 = 0 ∧ a < 0x100000) (hfull : c.sendBuf.length ≥ 4) :
    opSend .ok t w (s.setCore t c) = .block 2 := by
  simp only [opSend, State.setCore_tile, ha, (lineAddr_iff a).2 hline, Bool.not_true, Bool.false_eq_true, if_false, if_pos hfull]

/-- The core that a RECV with NB = 1 tells of its token. -/
def TileCore.told (c : TileCore) (w : Nat) : TileCore := if wNB w then c.setP (wVPD w) true else c

theorem opRecv_takes {tok : Token} (ha : (c.g (wSRA w)).toNat = a) (hline : a % 64 = 0 ∧ a < 0x100000)
    (hrun : (s.tile t).core.state = 1) (hc : c.state = 1)
    (hhead : (s.tile t).router.head (wDir w * 8 + wQueue w) 1 0 = some tok) :
    let s1 := popQueue s t (wDir w * 8 + wQueue w)
    let y : Tile := Tile.chargeFree { s.tile t with core := c.told w, router := (s1.tile t).router } 8
    opRecv .ok t w (s.setCore t c) = .retire (s1.setTile t { y.recode (wmCodes a 64) with
      wmem := writeBytes y.wmem a tok.data.toNat 64, rel := y.rel.touch (a / 64) (a / 64) }) (c.pc.toNat + 1) := by
  intro s1 y
  rw [← writeW_line hline.1]
  simp only [y, s1, opRecv, State.setCore_tile, ha, (lineAddr_iff a).2 hline, Bool.not_true, Bool.false_eq_true, if_false, hhead,
    reduceCtorEq, useWm, State.modCore, State.modTile_eq, State.setTile_tile, State.setTile_setTile, if_true,
    popQueue_setCore_tile, popQueue_setCore hrun hc, nextPc, TileCore.told]
  cases wNB w <;> rfl

theorem opRecv_none (ha : (c.g (wSRA w)).toNat = a) (hline : a % 64 = 0 ∧ a < 0x100000)
    (hhead : (s.tile t).router.head (wDir w * 8 + wQueue w) 1 0 = none) : opRecv .ok t w (s.setCore t c) =
      if wNB w then .retire (s.setTile t { s.tile t with core := c.setP (wVPD w) false }) (c.pc.toNat + 1) else .block 1 := by
  simp only [opRecv, State.setCore_tile, ha, (lineAddr_iff a).2 hline, Bool.not_true, Bool.false_eq_true, if_false, hhead,
    State.modCore, State.modTile_eq, State.setCore_setTile, nextPc]
  rfl

end Ops

end Sys2Proof.Machine

open Sys2Proof Sys2Proof.Machine

/-- Settles O8: the operations of SEND and RECV, on the core of an issued word and on that of a retried one. -/
theorem sendAndReceive : Obligations.SendAndReceive := by
  unfold Obligations.SendAndReceive
  constructor
  · intro s i t x msg ok
    refine ⟨fun h hok hroom => ?_, fun h hok hfull => ?_, fun w h hok hroom => ?_⟩
    all_goals obtain ⟨hal, hin, hflaw⟩ := hok
    · exact row_of_retire h (opSend_room rfl ⟨hal, hin⟩ hflaw hroom)
    · exact row_of_block h (opSend_full rfl ⟨hal, hin⟩ hfull)
    · exact unblock_of_retire rfl h (opSend_room rfl ⟨hal, hin⟩ hflaw hroom)
  · intro s i t x a ok k told taken w0
    refine ⟨fun tok h hok hhead => ?_, fun w tok h hok hhead => ?_, fun h hok hhead hnb => ?_, fun h hok hhead hnb => ?_⟩
    · have hrun : x.core.state = 1 := ((Tile.canIssue_iff _).1 h.2.2.2.1).1
      exact ⟨_, row_of_retire h (opRecv_takes rfl hok hrun hrun hhead), fun b => get_writeBytes 64 _ _ _ b⟩
    · exact ⟨_, unblock_of_retire rfl h (opRecv_takes rfl hok h.2.1 h.2.1 hhead), fun b => get_writeBytes 64 _ _ _ b⟩
    · exact row_of_retire h ((opRecv_none (c := x.core.hold w0) rfl hok hhead).trans (if_pos hnb))
    · exact row_of_block h ((opRecv_none (c := x.core.hold w0) rfl hok hhead).trans (if_neg (by simp [hnb])))
end

section
/-! SUPPORT. ENQ, WAITE and SUMM (R66, R71, R75, R76), issued and tried again. -/

namespace Sys2Proof.Machine

/-- An engine's queue, the core and the activity are written apart. -/
theorem Tile.setEng_core_charge (x : Tile) (e : Nat) (q : EngQ) (c : TileCore) (f : TileCore → TileCore) (n : Nat) :
    ((Tile.chargeFree { x with core := c } n).setEng e q).withCore f = Tile.chargeFree { x.setEng e q with core := f c } n := by
  match e with
  | 0 => rfl
  | 1 => rfl
  | _ + 2 => rfl

theorem Tile.setEng_core (x : Tile) (e : Nat) (q : EngQ) (c : TileCore) (f : TileCore → TileCore) :
    (Tile.setEng { x with core := c } e q).withCore f = { x.setEng e q with core := f c } :=
  x.setEng_core_charge e q c f 0

/-- The record that an ENQ puts into a queue. -/
def Tile.enqCmd (x : Tile) (a w : Nat) (pc : BitVec 13) : Cmd :=
  ⟨BitVec.ofNat 512 (readBytes x.wmem a 64), (x.eng (wEng w)).enq + 1, wSumm w, pc⟩

/-- The core after a SUMM of record `r`. -/
def TileCore.summed (c : TileCore) (rd : Nat) (r : BitVec 128) : TileCore :=
  let g (j : Nat) : Word := BitVec.ofNat 32 (r.toNat / 2 ^ (32 * j))
  (((c.setG rd (g 0)).setG (rd + 1) (g 1)).setG (rd + 2) (g 2)).setG (rd + 3) (g 3)

section Ops

variable {s : State} {t w a : Nat} {c : TileCore}

theorem opEnq_room (ha : (c.g (wRA w)).toNat = a) (hline : a % 64 = 0 ∧ a < 0x100000)
    (hflaw : (s.tile t).flaw (wmCodes a 64) = .ok) (hroom : ((s.tile t).eng (wEng w)).queue.length < 8) :
    let q := (s.tile t).eng (wEng w)
    opEnq .ok t w (s.setCore t c) = .retire (s.setTile t (Tile.chargeFree { (s.tile t).setEng (wEng w)
      { q with queue := q.queue ++ [(s.tile t).enqCmd a w c.pc], enq := q.enq + 1 } with
        core := c.setG (wRD w) (q.enq + 1) } 8)) (c.pc.toNat + 1) := by
  intro q
  have hfree : ¬ (Tile.eng { s.tile t with core := c } (wEng w)).queue.length ≥ 8 := Nat.not_le.2 hroom
  simp only [opEnq, State.setCore_tile, ha, (lineAddr_iff a).2 hline, Bool.not_true, Bool.false_eq_true, if_false,
    if_neg hfree, useWm_setCore]
  have hread : (Tile.chargeFree { s.tile t with core := c } 8).flaw (wmCodes a 64) = .ok := hflaw
  rw [readChecked_ok s t _ _ _ hread]
  simp only [State.modTile_eq, State.setTile_tile, State.setTile_setTile, if_true, nextPc]
  rw [Tile.setEng_core_charge]
  rfl

theorem opEnq_full (ha : (c.g (wRA w)).toNat = a) (hline : a % 64 = 0 ∧ a < 0x100000)
    (hfull : ((s.tile t).eng (wEng w)).queue.length ≥ 8) : opEnq .ok t w (s.setCore t c) = .block 3 := by
  have hfull' : (Tile.eng { s.tile t with core := c } (wEng w)).queue.length ≥ 8 := hfull
  simp only [opEnq, State.setCore_tile, ha, (lineAddr_iff a).2 hline, Bool.not_true, Bool.false_eq_true, if_false, if_pos hfull']

theorem opWaite_eq : opWaite t w (s.setCore t c) =
    if seqGe ((s.tile t).eng (wEng w)).done (c.g (wRA w)) then .retire (s.setCore t c) (c.pc.toNat + 1) else .block 5 := by
  simp only [opWaite, State.setCore_tile, nextPc]
  rfl

theorem opSumm_some {r : BitVec 128} {rest : List (BitVec 128)} (h : ((s.tile t).eng (wEng w)).summs = r :: rest) :
    opSumm t w (s.setCore t c) = .retire (s.setTile t { (s.tile t).setEng (wEng w)
      { (s.tile t).eng (wEng w) with summs := rest } with core := c.summed (wRD w) r }) (c.pc.toNat + 1) := by
  have h' : (Tile.eng { s.tile t with core := c } (wEng w)).summs = r :: rest := h
  simp only [opSumm, State.setCore_tile, h', State.modTile_eq, State.setCore_setTile, nextPc]
  rw [Tile.setEng_core]
  rfl

theorem opSumm_none (h : ((s.tile t).eng (wEng w)).summs = []) : opSumm t w (s.setCore t c) = .block 4 := by
  have h' : (Tile.eng { s.tile t with core := c } (wEng w)).summs = [] := h
  simp only [opSumm, State.setCore_tile, h']

end Ops

end Sys2Proof.Machine

open Sys2Proof Sys2Proof.Machine

/-- Settles O9: the operations of ENQ, WAITE and SUMM, on the core of an issued word and on that of a retried one. -/
theorem enqueueWaitAndSummary : Obligations.EnqueueWaitAndSummary := by
  unfold Obligations.EnqueueWaitAndSummary
  constructor
  · intro s i t x a ok done w0
    refine ⟨fun h hok hroom => ?_, fun h hok hfull => ?_, fun w h hok hroom => ?_⟩
    all_goals obtain ⟨hal, hin, hflaw⟩ := hok
    · exact row_of_retire h (opEnq_room (c := x.core.hold w0) rfl ⟨hal, hin⟩ hflaw hroom)
    · exact row_of_block h (opEnq_full (c := x.core.hold w0) rfl ⟨hal, hin⟩ hfull)
    · exact unblock_of_retire rfl h (opEnq_room rfl ⟨hal, hin⟩ hflaw hroom)
  · intro s i t x reached w0 next summed
    have hge {w : Nat} : seqGe (x.eng (wEng w)).done (x.core.g (wRA w)) = true ↔ reached w := decide_eq_true_iff
    refine ⟨fun h hr => ?_, fun h hr => ?_, fun w h hr => ?_, fun r rest h hs => ?_, fun h hs => ?_, fun w r rest h hs => ?_⟩
    · exact row_of_retire h ((opWaite_eq (c := x.core.hold w0)).trans (if_pos (hge.2 hr)))
    · exact row_of_block h ((opWaite_eq (c := x.core.hold w0)).trans (if_neg (mt hge.1 hr)))
    · exact unblock_of_retire rfl h (opWaite_eq.trans (if_pos (hge.2 hr)))
    · exact row_of_retire h (opSumm_some (c := x.core.hold w0) hs)
    · exact row_of_block h (opSumm_none (c := x.core.hold w0) hs)
    · exact unblock_of_retire rfl h (opSumm_some hs)
end

section
/-! SUPPORT. END, the second of a pair, fetch errors and errors of the memories (R58, R62-R64, R77, R78, R80, R222, R223). -/

namespace Sys2Proof.Machine

/-! ## The charge of an error leaves the tiles (R372) -/

theorem fireIf_setTile (c : Bool) (s : State) (n u : Nat) (x : Tile) :
    fireIf c (s.setTile u x) n = (fireIf c s n).setTile u x := by cases c <;> rfl

theorem markRetire_setTile (s : State) (t u : Nat) (x : Tile) : markRetire (s.setTile u x) t = (markRetire s t).setTile u x := by
  have hpend : (s.setTile u x).retirePending t = s.retirePending t := rfl
  unfold markRetire
  simp only [State.setTile_sec, State.setTile_melvor, State.setTile_rel, State.setTile_flash, hpend,
    apply_ite (State.setTile · u x), setNoSpare, ← fireIf_setTile]
  rfl

theorem checkTile_setTile (s : State) (t u : Nat) (x : Tile) : checkTile (s.setTile u x) t = (checkTile s t).setTile u x := by
  have hdue : (s.setTile u x).retireDue t = s.retireDue t := rfl
  unfold checkTile
  rw [hdue, markRetire_setTile, apply_ite (State.setTile · u x)]

theorem chargeCe_setTile (s : State) (t u : Nat) (acc : Bool) (x : Tile) :
    chargeCe (s.setTile u x) t acc = (chargeCe s t acc).setTile u x := by
  unfold chargeCe
  rw [← checkTile_setTile]
  rfl

/-! ## Faults that are errors of a code -/

theorem stopState_running {st : BitVec 2} (h : st = 1) : stopState st = 3 := by
  rw [h]
  rfl

/-- The tile that raises core fault `f`. -/
def Tile.raised (x : Tile) (f : CoreFault) : Tile :=
  { x with
    core := { x.core with fault := some (x.core.fault.getD f), state := stopState x.core.state }
    router := { x.router with last := x.router.last ||
      (decide (x.core.state = 1) && !x.router.used && !x.router.halted && !x.router.frozen) } }

theorem coreFault_ue {f : CoreFault} (h : f.code = 4 ∨ f.code = 5 ∨ f.code = 6) (s : State) (t : Nat) :
    coreFault s t f = chargeUe (s.setTile t ((s.tile t).raised f)) t := by
  have hmem : f.code = 4 ∨ f.code = 5 ∨ f.code = 6 ∨ (f.code = 8 ∧ (f.detail = 0x40 ∨ f.detail = 0x41)) := by
    rcases h with h | h | h <;> simp [h]
  rw [coreFault, if_pos hmem]
  rfl

/-- An uncorrectable error that an issued word, first of its pair, finds. -/
theorem finish_fault_ue {code : Nat} (h : code = 4 ∨ code = 5 ∨ code = 6) (t pc w info : Nat) (v u : State) :
    finish t pc w false (.fault v code info) u = chargeUe (v.setTile t (((v.tile t).chargeFree 6).raised
      ⟨BitVec.ofNat 4 code, 0, 0, false, BitVec.ofNat 13 pc, BitVec.ofNat 32 info⟩)) t := by
  have hbits : BitVec.ofNat 4 code = 4 ∨ BitVec.ofNat 4 code = 5 ∨ BitVec.ofNat 4 code = 6 := by
    rcases h with rfl | rfl | rfl <;> simp
  simp only [finish, Bool.false_eq_true, if_false]
  rw [coreFault_ue hbits, State.modTile_eq, State.setTile_tile, if_pos rfl, State.setTile_setTile]

/-! ## The second of a pair -/

/-- The word at CORE_PC may issue beside the first of its pair (R63). -/
def PairsFirst (s : State) (i : Issue) : Prop :=
  ∃ r, (s.tile i.tile.toNat).core.first = some r ∧ pairs r (s.wordAt i.tile) = true

/-- The word at CORE_PC is offered as the second of a pair: R63 pairs it, and it waits for no operand. -/
def OffersSecond (s : State) (i : Issue) : Prop :=
  OnTile s i.tile ∧ (s.tile i.tile.toNat).canIssue = true ∧ i.same = true ∧ PairsFirst s i ∧
    (s.tile i.tile.toNat).core.pendingFor (wReads (s.wordAt i.tile)) = 0

/-- The tile after the second of a pair has retired: no cycle of its own, and DUAL_CNT counts. -/
def retiredSecond (x : Tile) (c : TileCore) (next : Nat) : Tile :=
  { x with
    core := { c with
      retired := satAdd c.retired 1, dual := satAdd c.dual 1, pc := BitVec.ofNat 13 next, blocked := none, first := none }
    router := { x.router with wdCount := 0 } }

theorem finish_second_retire (t pc w : Nat) (v : State) (next : Nat) (u : State) :
    finish t pc w true (.retire v next) u = v.setTile t (retiredSecond (v.tile t) (v.tile t).core next) := by
  simp only [finish, retire, State.modCore, State.modTile_eq, State.setTile_tile, State.setTile_setTile, if_true]
  rfl

theorem finish_second_fault {code : Nat} (h : code = 1 ∨ code = 2 ∨ code = 3 ∨ code = 9) (t pc w info : Nat) (v u : State) :
    finish t pc w true (.fault v code info) u = v.setTile t (((v.tile t).withCore fun c => { c with
      dual := satAdd c.dual 1 }).raised ⟨BitVec.ofNat 4 code, 0, 0, true, BitVec.ofNat 13 pc, BitVec.ofNat 32 info⟩) := by
  have hbits : BitVec.ofNat 4 code = 1 ∨ BitVec.ofNat 4 code = 2 ∨ BitVec.ofNat 4 code = 3 ∨ BitVec.ofNat 4 code = 9 := by
    rcases h with rfl | rfl | rfl | rfl <;> simp
  simp only [finish, if_true]
  rw [coreFault_eq hbits]
  simp only [State.modCore, State.modTile_eq, State.setTile_tile, State.setTile_setTile, if_true]
  rfl

section Row

variable {s : State} {i : Issue} {code : Nat} {op : Nat → Nat → State → OpEnd}

/-- A word offered as a second that R63 does not pair, or that waits for an operand. -/
theorem row_of_not_second (hon : OnTile s i.tile) (hsame : i.same = true)
    (h : ¬ (PairsFirst s i ∧ (s.tile i.tile.toNat).core.pendingFor (wReads (s.wordAt i.tile)) = 0)) :
    row code i op s = .next s := by
  rw [row_of_on hon]
  unfold issue
  simp only [hsame, Bool.true_and]
  refine congrArg Host.Outcome.next (if_pos ?_)
  cases hfirst : (s.tile i.tile.toNat).core.first with
  | none => simp
  | some r =>
    have hno : (pairs r (s.wordAt i.tile) && (s.tile i.tile.toNat).core.pendingFor (wReads (s.wordAt i.tile)) == 0) = false := by
      by_contra hyes
      rw [Bool.not_eq_false, Bool.and_eq_true, beq_iff_eq] at hyes
      exact h ⟨⟨r, hfirst, hyes.1⟩, hyes.2⟩
    simp only [State.wordAt] at hno
    simp only [hno, Bool.not_false, Bool.or_true]

/-- A legal word that issues as the second of a pair. -/
theorem row_of_second (h : OffersSecond s i) (hfetch : i.fetch = .ok) (hop : wOP (s.wordAt i.tile) = code)
    (hlegal : wIllegal (s.wordAt i.tile) = false) (hpc : (s.tile i.tile.toNat).core.pc.toNat < 8191) :
    row code i op s = .next (finish i.tile.toNat (s.tile i.tile.toNat).core.pc.toNat (s.wordAt i.tile) true
      (if (s.tile i.tile.toNat).core.guard (s.wordAt i.tile) then
        (op i.tile.toNat (s.wordAt i.tile) s).launch i.tile.toNat (s.wordAt i.tile)
       else .retire s ((s.tile i.tile.toNat).core.pc.toNat + 1)) s) := by
  obtain ⟨hon, hcan, hsame, ⟨r, hfirst, hpairs⟩, hready⟩ := h
  rw [row_of_on hon]
  unfold issue
  cases hguard : (s.tile i.tile.toNat).core.guard (s.wordAt i.tile)
  all_goals
    simp only [State.wordAt] at hop hlegal hpairs hready hguard ⊢
    simp only [hsame, hfirst, hpairs, hcan, hop, hready, hfetch, hlegal, hguard, Nat.ne_of_lt hpc, beq_self_eq_true,
      Bool.not_true, Bool.and_self, Bool.and_false, Bool.or_self, Bool.false_eq_true, if_false, if_true, reduceCtorEq, false_and]

/-- A second of a pair whose operation retires with tile `y`. -/
theorem row_of_second_retire (h : OffersSecond s i) (hfetch : i.fetch = .ok) (hopc : wOP (s.wordAt i.tile) = code)
    (hlegal : wIllegal (s.wordAt i.tile) = false) (hpc : (s.tile i.tile.toNat).core.pc.toNat < 8191)
    (hguard : (s.tile i.tile.toNat).core.guard (s.wordAt i.tile) = true) {v : State} {y : Tile} {next : Nat}
    (hop : op i.tile.toNat (s.wordAt i.tile) s = .retire (v.setTile i.tile.toNat y) next) :
    row code i op s = .next (v.setTile i.tile.toNat (retiredSecond y (y.core.launch (s.wordAt i.tile)) next)) := by
  rw [row_of_second h hfetch hopc hlegal hpc, if_pos hguard, hop, OpEnd.launch_retire, finish_second_retire]
  simp only [State.setTile_tile, State.setTile_setTile, if_true]
  rfl

/-- A second of a pair whose operation raises a core fault that is no error of a code. -/
theorem row_of_second_fault (h : OffersSecond s i) (hfetch : i.fetch = .ok) (hopc : wOP (s.wordAt i.tile) = code)
    (hlegal : wIllegal (s.wordAt i.tile) = false) (hpc : (s.tile i.tile.toNat).core.pc.toNat < 8191)
    (hguard : (s.tile i.tile.toNat).core.guard (s.wordAt i.tile) = true) {c info : Nat} (hc : c = 1 ∨ c = 2 ∨ c = 3 ∨ c = 9)
    (hop : op i.tile.toNat (s.wordAt i.tile) s = .fault s c info) :
    row code i op s = .next (s.setTile i.tile.toNat (((s.tile i.tile.toNat).withCore fun c => { c with
      dual := satAdd c.dual 1 }).raised
        ⟨BitVec.ofNat 4 c, 0, 0, true, (s.tile i.tile.toNat).core.pc, BitVec.ofNat 32 info⟩)) := by
  rw [row_of_second h hfetch hopc hlegal hpc, if_pos hguard, hop, OpEnd.launch_fault, finish_second_fault hc, BitVec.ofNat_toNat,
    BitVec.setWidth_eq]

/-- A fetch check that fails (R82). -/
theorem row_of_fetch_ue (hon : OnTile s i.tile) (hcan : (s.tile i.tile.toNat).canIssue = true) (hsame : i.same = false)
    (hfetch : i.fetch = .ue) (hop : wOP (s.wordAt i.tile) = code) :
    row code i op s = .next (finish i.tile.toNat (s.tile i.tile.toNat).core.pc.toNat (s.wordAt i.tile) false
      (.fault (issued i.tile.toNat 0 s) 4 (s.tile i.tile.toNat).core.pc.toNat) (issued i.tile.toNat 0 s)) := by
  rw [row_of_on hon]
  unfold issue
  simp only [State.wordAt] at hop ⊢
  simp only [hsame, hcan, hop, hfetch, beq_self_eq_true, Bool.not_true, Bool.false_and, Bool.or_self, Bool.false_eq_true,
    if_false, if_true, issued]

/-- A corrected fetch of a legal word whose guard is false. -/
theorem row_of_fetch_ce_guard_false (hon : OnTile s i.tile) (hcan : (s.tile i.tile.toNat).canIssue = true)
    (hsame : i.same = false) (hfetch : i.fetch = .ce) (hop : wOP (s.wordAt i.tile) = code)
    (hlegal : wIllegal (s.wordAt i.tile) = false) (hguard : (s.tile i.tile.toNat).core.guard (s.wordAt i.tile) = false)
    (hpc : (s.tile i.tile.toNat).core.pc.toNat < 8191) :
    row code i op s = .next (s.setTile i.tile.toNat (retired (s.tile i.tile.toNat) (s.wordAt i.tile)
      { (s.tile i.tile.toNat).core.hold (s.wordAt i.tile) with imemCe := satAdd (s.tile i.tile.toNat).core.imemCe 1 }
      ((s.tile i.tile.toNat).core.pc.toNat + 1))) := by
  rw [row_of_on hon]
  unfold issue
  simp only [State.wordAt] at hop hlegal hguard ⊢
  simp only [hsame, hcan, hop, hfetch, hlegal, hguard, Nat.ne_of_lt hpc, beq_self_eq_true, Bool.not_true, Bool.false_and,
    Bool.or_self, Bool.false_eq_true, if_false, if_true, reduceCtorEq, false_and]
  rw [finish_retire]
  simp only [State.modCore, State.modTile_eq, State.setTile_tile, State.setTile_setTile, if_true]
  rfl

/-- A word that falls through from the last word of instruction memory (R62). -/
theorem row_of_fall_through (hon : OnTile s i.tile) (hcan : (s.tile i.tile.toNat).canIssue = true) (hsame : i.same = false)
    (hfetch : i.fetch = .ok) (hop : wOP (s.wordAt i.tile) = code) (hlegal : wIllegal (s.wordAt i.tile) = false)
    (hpc : (s.tile i.tile.toNat).core.pc.toNat = 8191)
    (hfall : fallsThrough (s.wordAt i.tile) ((s.tile i.tile.toNat).core.guard (s.wordAt i.tile)) = true) :
    row code i op s = .next (s.setTile i.tile.toNat (coreStopped (s.tile i.tile.toNat) (s.wordAt i.tile) 3 8192)) := by
  have hrun : (s.tile i.tile.toNat).core.state = 1 := ((Tile.canIssue_iff _).1 hcan).1
  rw [row_of_on hon, issue_due i _ _ s hcan hsame hfetch (by simpa [State.wordAt] using hop)]
  simp only [State.wordAt] at hlegal hfall ⊢
  rw [if_neg (by simp [hlegal]), if_pos ⟨hpc, hfall⟩, finish_fault _ hrun (.inr (.inr (.inl rfl)))]
  rfl

/-- END: issue ends at its own index (R80). -/
theorem row_of_stop (h : Issues s i code)
    (hop : op i.tile.toNat (s.wordAt i.tile) (issued i.tile.toNat (s.wordAt i.tile) s) =
      .stop (issued i.tile.toNat (s.wordAt i.tile) s)) :
    row code i op s = .next (s.setTile i.tile.toNat (retired (s.tile i.tile.toNat) (s.wordAt i.tile)
      { (s.tile i.tile.toNat).core.hold (s.wordAt i.tile) with ended := true } (s.tile i.tile.toNat).core.pc.toNat)) := by
  rw [row_of_offers h, if_pos rfl, hop, OpEnd.launch_stop, finish_stop]
  simp only [issued_eq, State.setTile_tile, State.setTile_setTile, if_true]
  rfl

/-- An uncorrectable error that the operation finds. -/
theorem row_of_read_ue (h : Issues s i code) {c info : Nat} {y : Tile} (hc : c = 4 ∨ c = 5 ∨ c = 6)
    (hop : op i.tile.toNat (s.wordAt i.tile) (issued i.tile.toNat (s.wordAt i.tile) s) =
      .fault (s.setTile i.tile.toNat y) c info) :
    row code i op s = .next (chargeUe (s.setTile i.tile.toNat ((y.chargeFree 6).raised
      ⟨BitVec.ofNat 4 c, 0, 0, false, (s.tile i.tile.toNat).core.pc, BitVec.ofNat 32 info⟩)) i.tile.toNat) := by
  rw [row_of_offers h, if_pos rfl, hop, OpEnd.launch_fault, finish_fault_ue hc]
  simp only [State.setTile_tile, State.setTile_setTile, if_true, BitVec.ofNat_toNat, BitVec.setWidth_eq]

end Row

/-! ## Loads that find an error -/

section Reads

variable {s : State} {t w a : Nat} (ha : eaOf (s.tile t).core w = a)

include ha

theorem opLd_issued_ce (h4 : a % 4 = 0) (hin : a < 0x100000) (hflaw : (s.tile t).flaw (wmCodes a 4) = .ce) :
    opLd .ok t w (issued t w s) = .retire ((chargeCe s t false).setTile t (((s.tile t).usingWm w).withCore fun c =>
      c.setG (wRD w) (BitVec.ofNat 32 (readBytes (s.tile t).wmem a 4)))) ((s.tile t).core.pc.toNat + 1) := by
  rw [opLd_issued ha h4 hin, readChecked_ce (y := (s.tile t).usingWm w) s t _ _ _ hflaw, chargeCe_setTile]
  simp only [opReg, State.setTile_tile, State.setTile_setTile, if_true]
  rfl

theorem opLd_issued_ue (h4 : a % 4 = 0) (hin : a < 0x100000) (hflaw : (s.tile t).flaw (wmCodes a 4) = .ue) :
    opLd .ok t w (issued t w s) = .fault (s.setTile t ((s.tile t).usingWm w)) 5 a := by
  rw [opLd_issued ha h4 hin, readChecked_ue (y := (s.tile t).usingWm w) s t _ _ _ hflaw]
  rfl

theorem opLda_issued_ce (hin : a < 24576) (hflaw : (s.tile t).flaw (amCode a) = .ce) :
    opLda .ok t w (issued t w s) = .retire ((chargeCe s t true).setTile t ((s.tile t).withCore fun c =>
      ((c.hold w).setG (wRD w) (BitVec.ofNat 32 (Sparse.get 0 (s.tile t).amem a).toNat)).setG (wRD w + 1)
        (BitVec.ofNat 32 ((Sparse.get 0 (s.tile t).amem a).toNat / 2 ^ 32)))) ((s.tile t).core.pc.toNat + 1) := by
  rw [opLda_issued ha hin, readChecked_ce (y := (s.tile t).withCore fun c => c.hold w) s t _ _ _ hflaw, chargeCe_setTile]
  simp only [State.modCore, State.modTile_eq, State.setTile_tile, State.setTile_setTile, if_true, nextPc]
  rfl

theorem opLda_issued_ue (hin : a < 24576) (hflaw : (s.tile t).flaw (amCode a) = .ue) :
    opLda .ok t w (issued t w s) = .fault (s.setTile t ((s.tile t).withCore fun c => c.hold w)) 6 a := by
  rw [opLda_issued ha hin, readChecked_ue (y := (s.tile t).withCore fun c => c.hold w) s t _ _ _ hflaw]
  rfl

/-- A legal LD, the second of a pair, whose codes hold no error. -/
theorem opLd_second (h4 : a % 4 = 0) (hin : a < 0x100000) (hflaw : (s.tile t).flaw (wmCodes a 4) = .ok) :
    opLd .ok t w s = .retire (s.setTile t (((s.tile t).chargeFree 8).withCore fun c =>
      c.setG (wRD w) (BitVec.ofNat 32 (readBytes (s.tile t).wmem a 4)))) ((s.tile t).core.pc.toNat + 1) := by
  have hgood : ¬ (a % 4 ≠ 0 ∨ a ≥ 0x100000) := by omega
  simp only [opLd, ha, if_neg hgood, useWm, State.modTile_eq]
  rw [readChecked_ok (y := (s.tile t).chargeFree (8 * 1)) s t _ _ _ hflaw]
  simp only [opReg, State.setTile_tile, State.setTile_setTile, if_true]
  rfl

end Reads

theorem TileCore.setG_fault (c : TileCore) (n : Nat) (v : Word) : (c.setG n v).fault = c.fault := by
  unfold TileCore.setG
  split <;> rfl

theorem TileCore.setG_retired (c : TileCore) (n : Nat) (v : Word) : (c.setG n v).retired = c.retired := by
  unfold TileCore.setG
  split <;> rfl

/-! ## A tile's part -/

/-- The conditions of R80. -/
theorem Tile.partDone_iff (x : Tile) : x.partDone = true ↔ x.core.ended = true ∧ x.router.halted = true ∧
    x.core.sendBuf = [] ∧ ∀ e < 3, (x.eng e).queue = [] ∧ x.engBusy e = false := by
  simp [Tile.partDone, and_assoc]

theorem tilePartComplete_of_done {s : State} {t : TileId} (hon : OnTile s t) (hrun : (s.tile t.toNat).core.state = 1)
    (hdone : (s.tile t.toNat).partDone = true) : exec (.tilePartComplete t) s =
      .next (s.setTile t.toNat { s.tile t.toNat with core := { (s.tile t.toNat).core with state := 2 } }) := by
  change atIsland t s _ = _
  rw [atIsland_of_on _ hon.1 hon.2]
  exact congrArg Host.Outcome.next (if_pos ⟨hrun, hdone⟩)

end Sys2Proof.Machine

open Sys2Proof Sys2Proof.Machine

/-- Settles O10: the end of issue, the second of a pair, the fetch check and the loads that find an error, each by the
equation of its row. -/
theorem issueEndAndErrors : Obligations.IssueEndAndErrors := by
  unfold Obligations.IssueEndAndErrors
  constructor
  · intro s i t x w
    refine ⟨fun h => row_of_stop h rfl, fun h => row_of_fault h (by decide) rfl, fun hon hrun hended hhalted hbuf heng => ?_⟩
    exact tilePartComplete_of_done hon hrun (x.partDone_iff.2 ⟨hended, hhalted, hbuf, heng⟩)
  · intro s i t x w pc ea guard pairs_ fault second hon hcan
    have hrun : x.core.state = 1 := ((Tile.canIssue_iff _).1 hcan).1
    refine ⟨fun r hr hop hsame hno => ?notSecond, fun hsame hpairs hready hfetch hlegal hpc => ?second,
      fun r hr hop hsame hfetch => ?fetchUe, fun r hr hop hsame hfetch hlegal hguard hpc => ?fetchCe,
      fun r hr hop hsame hfetch hlegal hpc hfall => ?fall, fun h h4 hin => ⟨fun hflaw => ?ldCe, fun hflaw => ?ldUe⟩,
      fun h hin => ⟨fun hflaw => ?ldaCe, fun hflaw => ?ldaUe⟩⟩
    case notSecond =>
      obtain ⟨op, hexec⟩ := exec_wordRow hr i s
      rw [hexec, row_of_not_second hon hsame hno]
    case second =>
      have hoffers : OffersSecond s i := ⟨hon, hcan, hsame, hpairs, hready⟩
      refine ⟨fun r hr hop hguard => ?_, fun hop hguard => ?_, fun hop hguard h4 hin hflaw => ?_, fun hop hguard h4 => ?_⟩
      · obtain ⟨op, hexec⟩ := exec_wordRow hr i s
        rw [hexec, row_of_second hoffers hfetch hop hlegal hpc, if_neg (Bool.eq_false_iff.1 hguard),
          finish_second_retire]
        rfl
      · have haddi : opImm 0x00 t w s = .retire (s.setTile t (x.withCore fun c => c.setG (wRD w) (c.g (wRA w) + wImm12 w)))
          (pc + 1) := rfl
        exact row_of_second_retire hoffers hfetch hop hlegal hpc hguard haddi
      · exact row_of_second_retire hoffers hfetch hop hlegal hpc hguard (opLd_second rfl h4 hin hflaw)
      · have hbad : opLd .ok t w s = .fault s 2 ea := if_pos (.inl h4)
        exact ⟨_, row_of_second_fault hoffers hfetch hop hlegal hpc hguard (.inr (.inl rfl)) hbad, rfl,
          stopState_running hrun, rfl, rfl⟩
    case fetchUe =>
      obtain ⟨op, hexec⟩ := exec_wordRow hr i s
      rw [hexec, row_of_fetch_ue hon hcan hsame hfetch hop, finish_fault_ue (.inl rfl), issued_eq, State.setTile_setTile,
        State.setTile_tile, if_pos rfl, BitVec.ofNat_toNat, BitVec.setWidth_eq]
      exact ⟨_, rfl, rfl, stopState_running hrun, rfl, rfl, rfl, rfl⟩
    case fetchCe =>
      obtain ⟨op, hexec⟩ := exec_wordRow hr i s
      rw [hexec, row_of_fetch_ce_guard_false hon hcan hsame hfetch hop hlegal hguard hpc]
    case fall =>
      obtain ⟨op, hexec⟩ := exec_wordRow hr i s
      rw [hexec, row_of_fall_through hon hcan hsame hfetch hop hlegal hpc hfall]
    case ldCe => exact row_of_retire h (opLd_issued_ce rfl h4 hin hflaw)
    case ldUe =>
      exact ⟨_, row_of_read_ue h (.inr (.inl rfl)) (opLd_issued_ue rfl h4 hin hflaw), rfl, stopState_running hrun, rfl, rfl⟩
    case ldaCe =>
      refine ⟨_, row_of_retire h (opLda_issued_ce rfl hin hflaw), ?_, ?_, rfl⟩
      · exact (TileCore.setG_fault ..).trans (TileCore.setG_fault ..)
      · exact congrArg (satAdd · 1) ((TileCore.setG_retired ..).trans (TileCore.setG_retired ..))
    case ldaUe =>
      exact ⟨_, row_of_read_ue h (.inr (.inr rfl)) (opLda_issued_ue rfl hin hflaw), rfl, stopState_running hrun, rfl, rfl⟩
end

section
/-! SUPPORT. An engine takes a command (R74, R133, R169, R220). -/

namespace Sys2Proof.Machine

/-- ENG_CMD: the tile of engine `e` stops (R74, R78). -/
theorem engCmd_eq {s : State} {t : Nat} (hrun : (s.tile t).core.state = 1) (e k : Nat) (c : Cmd) :
    engCmd s t e k c = s.setTile t (engStopped (s.tile t) e k c) := by
  rw [engCmd, coreFault, if_neg (by simp)]
  simp only [State.modTile_eq, hrun, decide_true, Bool.true_and, stopState]
  rfl

theorem Tile.engOn_iff (x : Tile) : x.engOn = true ↔ x.core.state = 1 ∧ x.router.frozen = false := by
  simp [Tile.engOn]

theorem Tile.setEng_core_eq (x : Tile) (e : Nat) (q : EngQ) : (x.setEng e q).core = x.core := by
  match e with
  | 0 => rfl
  | 1 => rfl
  | _ + 2 => rfl

/-- The tile after engine `e` has taken command `c` from its queue, which keeps `rest`. -/
def Tile.taking (x : Tile) (e : Nat) (c : Cmd) (rest : List Cmd) : Tile :=
  let y := x.setEng e { x.eng e with queue := rest }
  if x.cmdCheck e c = 0 then y.tookCmd e c else engStopped y e (x.cmdCheck e c) c

section Take

variable {s : State} {t : Nat} {c : Cmd} {rest : List Cmd} {mine : Nat → Bool}

/-- What the check of a command that has left its queue decides. -/
theorem checked_eq_taking (hon : (s.tile t).engOn = true) (e : Nat) :
    let s1 := s.setTile t ((s.tile t).setEng e { (s.tile t).eng e with queue := rest })
    (if (s.tile t).cmdCheck e c ≠ 0 then engCmd s1 t e ((s.tile t).cmdCheck e c) c
     else s1.modTile t fun x => x.tookCmd e c) = s.setTile t ((s.tile t).taking e c rest) := by
  intro s1
  have htile : s1.tile t = (s.tile t).setEng e { (s.tile t).eng e with queue := rest } := by
    rw [State.setTile_tile, if_pos rfl]
  have hrun : (s1.tile t).core.state = 1 := by
    rw [htile, Tile.setEng_core_eq]
    exact ((Tile.engOn_iff _).1 hon).1
  by_cases hk : (s.tile t).cmdCheck e c = 0
  · rw [if_neg (not_not.2 hk), State.modTile_eq, htile, State.setTile_setTile, Tile.taking, if_pos hk]
  · rw [if_pos hk, engCmd_eq hrun, htile, State.setTile_setTile, Tile.taking, if_neg hk]

theorem mxeTake_due (hon : (s.tile t).engOn = true) (hidle : (s.tile t).engBusy 0 = false)
    (hq : ((s.tile t).eng 0).queue = c :: rest) (hmine : mine (rOpcode c.rcd) = true) :
    mxeTake t mine s = s.setTile t ((s.tile t).taking 0 c rest) := by
  rw [← checked_eq_taking hon 0]
  simp only [Tile.engBusy] at hidle
  simp only [Tile.eng] at hq
  simp only [mxeTake, Tile.popMxe, Tile.withMxe, hq, hon, hidle, hmine, List.drop_one, List.tail_cons, Bool.not_true, Bool.or_self,
    Bool.false_eq_true, if_false]
  rfl

theorem vxeTake_due (hon : (s.tile t).engOn = true) (hidle : (s.tile t).engBusy 1 = false)
    (hq : ((s.tile t).eng 1).queue = c :: rest) (hmine : mine (rOpcode c.rcd) = true) :
    vxeTake t mine s = s.setTile t ((s.tile t).taking 1 c rest) := by
  rw [← checked_eq_taking hon 1]
  simp only [Tile.engBusy] at hidle
  simp only [Tile.eng] at hq
  simp only [vxeTake, hq, hon, hidle, hmine, Bool.not_true, Bool.or_self, Bool.false_eq_true, if_false]
  rfl

theorem upeTake_due (hon : (s.tile t).engOn = true) (hidle : (s.tile t).engBusy 2 = false)
    (hq : ((s.tile t).eng 2).queue = c :: rest) (hmine : mine (rOpcode c.rcd) = true) :
    upeTake t mine s = s.setTile t ((s.tile t).taking 2 c rest) := by
  rw [← checked_eq_taking hon 2]
  simp only [Tile.engBusy] at hidle
  simp only [Tile.eng] at hq
  simp only [upeTake, hq, hon, hidle, hmine, Bool.not_true, Bool.or_self, Bool.false_eq_true, if_false]
  rfl

end Take

/-- Each row takes the head of its engine's queue. -/
theorem exec_takeRow {r : Nat × Nat × (TileId → Instr)} (hr : r ∈ takeRows) {s : State} {t : TileId} {c : Cmd} {rest : List Cmd}
    (hon : OnTile s t) (heng : (s.tile t.toNat).engOn = true) (hidle : (s.tile t.toNat).engBusy r.1 = false)
    (hq : ((s.tile t.toNat).eng r.1).queue = c :: rest) (hop : rOpcode c.rcd = r.2.1) :
    exec (r.2.2 t) s = .next (s.setTile t.toNat ((s.tile t.toNat).taking r.1 c rest)) := by
  have hrow {f : State → State} (hf : f s = s.setTile t.toNat ((s.tile t.toNat).taking r.1 c rest)) :
      atIsland t s f = .next (s.setTile t.toNat ((s.tile t.toNat).taking r.1 c rest)) := by
    rw [atIsland_of_on _ hon.1 hon.2, hf]
  simp only [takeRows, List.mem_cons, List.not_mem_nil, or_false] at hr
  rcases hr with rfl | rfl | rfl | rfl | rfl | rfl | rfl | rfl | rfl | rfl | rfl
  iterate 3 exact hrow (f := mxeTake _ _) (mxeTake_due heng hidle hq (by rw [hop]; rfl))
  iterate 4 exact hrow (f := vxeTake _ _) (vxeTake_due heng hidle hq (by rw [hop]; rfl))
  iterate 4 exact hrow (f := upeTake _ _) (upeTake_due heng hidle hq (by rw [hop]; rfl))

end Sys2Proof.Machine

open Sys2Proof Sys2Proof.Machine

/-- Settles O18: each row takes the head of its engine's queue, and the check decides. -/
theorem takeCommand : Obligations.TakeCommand := by
  unfold Obligations.TakeCommand
  intro s t c rest r hr x y hon heng hidle hq hop
  have hrow := exec_takeRow hr hon heng hidle hq hop
  refine ⟨fun hk => ?_, fun hk => ?_⟩
  · rw [hrow, Tile.taking, if_pos hk]
  · rw [hrow, Tile.taking, if_neg hk]
end

section
/-! SUPPORT. Completion of an engine's command (R73, R76, R128): what each engine's completion leaves unchanged. -/

namespace Sys2Proof.Machine

/-! ## Reads that find no error (R222, R223) -/

theorem Tile.flawWhere_of_sound {x : Tile} (h : x.flaws = []) (sel : Nat → Bool) : x.flawWhere sel = .ok := by
  rw [Tile.flawWhere, h]
  rfl

theorem Tile.flawWhere_of_none (x : Tile) {sel : Nat → Bool} (h : ∀ k, sel k = false) : x.flawWhere sel = .ok := by
  simp only [Tile.flawWhere, h, Bool.false_eq_true, if_false, List.foldl_fixed]
  rfl

theorem region_zero_hits (a lo hi : Nat) : (region a 0).hits lo hi = false := by simp [Rows.hits, region]

/-- A command that reads nothing of working memory finds no error. -/
theorem Tile.flawIn_of_empty (x : Tile) {l : List Rows} (h : ∀ r ∈ l, ∃ a, r = region a 0) : x.flawIn l = .ok := by
  refine x.flawWhere_of_none fun k => ?_
  have hno : l.any (fun r => r.hits (8 * k) (8 * k + 8)) = false := by
    refine List.any_eq_false.2 fun r hr => ?_
    obtain ⟨a, rfl⟩ := h r hr
    simp [region_zero_hits]
  rw [hno, Bool.and_false]

theorem engReads_ok (s : State) (t e : Nat) (c : Cmd) (k : State → State) : engReads s t e c .ok .ok k = k s := rfl

/-! ## Writes of working memory -/

/-- The tiles differ in working memory, its codes and its scrub at most. -/
structure Tile.SameUnits (x y : Tile) : Prop where
  core : y.core = x.core
  router : y.router = x.router
  mxe : y.mxe = x.mxe
  vxe : y.vxe = x.vxe
  upe : y.upe = x.upe
  amem : y.amem = x.amem

theorem Tile.SameUnits.refl (x : Tile) : x.SameUnits x := ⟨rfl, rfl, rfl, rfl, rfl, rfl⟩

theorem Tile.SameUnits.writeW {x y : Tile} (h : x.SameUnits y) (a n v : Nat) : x.SameUnits (y.writeW a n v) :=
  ⟨h.core, h.router, h.mxe, h.vxe, h.upe, h.amem⟩

theorem Tile.SameUnits.mxeStats {x y : Tile} (h : x.SameUnits y) (spilled : Bool) (visits : Nat) (paired : Bool) :
    x.SameUnits (y.mxeStats spilled visits paired) := by
  unfold Tile.mxeStats
  split
  · exact h
  · exact (((h.writeW ..).writeW ..).writeW ..).writeW ..

/-! ## The MXE -/

/-- The records that a completing command of the MXE writes: its history and the statistics. -/
def Tile.mxeRecorded (x : Tile) (c : Cmd) (acc : SumAcc) (hist : HistRun) (visits : Nat) (paired : Bool) : Tile :=
  let cv := Conv.ofNat (mConv c.rcd)
  let x := match hist.reqE with
    | some e => if rOpcode c.rcd ≠ 3 ∧ cv.hrec then x.histWrite (mHist c.rcd) e cv.push else x
    | none => x
  x.mxeStats acc.spill visits paired

theorem Tile.mxeFinish_eq (x : Tile) (c : Cmd) (acc : SumAcc) (hist : HistRun) (visits : Nat) (paired : Bool) :
    x.mxeFinish c acc hist visits paired = (x.mxeRecorded c acc hist visits paired).completeCmd 0 c
      (acc.record (min acc.max 0xFFFFFFFF) c.seq) := rfl

theorem Tile.mxeRecorded_same (x : Tile) (c : Cmd) (acc : SumAcc) (hist : HistRun) (visits : Nat) (paired : Bool) :
    x.SameUnits (x.mxeRecorded c acc hist visits paired) := by
  refine Tile.SameUnits.mxeStats ?_ ..
  split
  · split
    · exact (Tile.SameUnits.refl x).writeW ..
    · exact .refl x
  · exact .refl x

theorem Tile.mxeRecorded_of_no_record {x : Tile} {c : Cmd} (hstats : x.decl.mxeStats = 0xFFFFFFFF#32)
    (hhrec : (Conv.ofNat (mConv c.rcd)).hrec = false) (acc : SumAcc) (hist : HistRun) (visits : Nat) (paired : Bool) :
    x.mxeRecorded c acc hist visits paired = x := by
  unfold Tile.mxeRecorded
  cases hist.reqE <;> simp [hhrec, Tile.mxeStats, hstats]

/-- The MXE after the single command of run `r`, with summary `acc`. -/
def Tile.mxeClosed (x : Tile) (r : MxeRun) (acc : SumAcc) : Tile :=
  (x.mxeFinish r.cmd acc r.histD r.visits false).withMxe fun y =>
    { y with run := none, drain := [], waiting := false, held := heldAfter r }

/-- The end of a run without a partner, on a tile whose memories hold no error. -/
theorem mxeComplete_of_finished {s : State} {t : Nat} {r : MxeRun} (hon : (s.tile t).engOn = true)
    (hrun : (s.tile t).mxe.run = some r) (hstart : r.started = true) (hfin : r.finished = true) (hpart : r.partner = none)
    (hsound : (s.tile t).flaws = []) : ∃ acc, mxeComplete t s =
      if (s.tile t).canPush 0 r.cmd then s.setTile t ((s.tile t).mxeClosed r acc) else s := by
  refine ⟨if (heldAfter r).isSome then (s.tile t).heldAcc r.m r.n r.accD else r.accD, ?_⟩
  simp only [mxeComplete, hrun, hon, hstart, hpart, hfin, Bool.not_true, Bool.or_self, Bool.false_eq_true, if_false, if_true,
    Tile.mxeEndFlaws, Tile.flawIn, Tile.flawWhere_of_sound hsound, engReads_ok, State.modTile_eq]
  rfl

/-! ## The VXE and the UPE -/

/-- The end of a run without a history record. -/
theorem vxeComplete_of_finished {s : State} {t : Nat} {r : VxeRun} (hon : (s.tile t).engOn = true)
    (hrun : (s.tile t).vxe.run = some r) (hfin : r.finished = true) (hhrec : (Conv.ofNat (vConv r.cmd.rcd)).hrec = false) :
    vxeComplete t s = if (s.tile t).canPush 1 r.cmd then s.setTile t (((s.tile t).completeCmd 1 r.cmd
      (r.acc.record r.acc.max r.cmd.seq)).withVxe fun v => { v with run := none }) else s := by
  have hread : (s.tile t).flawIn [region (vHist r.cmd.rcd) 0] = .ok :=
    Tile.flawIn_of_empty _ fun q hq => ⟨_, List.mem_singleton.1 hq⟩
  cases hpush : (s.tile t).canPush 1 r.cmd <;>
    simp only [vxeComplete, hrun, hon, hfin, hhrec, hpush, hread, engReads_ok, State.modTile_eq, Bool.not_true, Bool.not_false,
      Bool.or_self, Bool.or_true, Bool.false_eq_true, and_false, if_false, if_true]

theorem upeComplete_of_finished {s : State} {t : Nat} {r : UpeRun} (hon : (s.tile t).engOn = true)
    (hrun : (s.tile t).upe.run = some r) (hfin : r.finished = true) :
    upeComplete t s = if (s.tile t).canPush 2 r.cmd then s.setTile t (((s.tile t).completeCmd 2 r.cmd
      (r.acc.record (min r.acc.max 0xFFFFFFFF) r.cmd.seq)).withUpe fun u => { u with run := none }) else s := by
  cases hpush : (s.tile t).canPush 2 r.cmd <;>
    simp only [upeComplete, hrun, hon, hfin, hpush, Bool.not_true, Bool.not_false, Bool.or_self, Bool.or_true,
      Bool.false_eq_true, if_false, if_true]

/-! ## What a completion leaves -/

/-- The tile `y` that the completion of command `c` of engine `k`, with summary `rcd`, leaves of `x`. -/
structure Tile.Completed (x y : Tile) (k : Nat) (c : Cmd) (rcd : BitVec 128) : Prop where
  eng : y.eng k = { x.eng k with done := c.seq, summs := if c.summ then (x.eng k).summs ++ [rcd] else (x.eng k).summs }
  idle : y.engBusy k = false
  core : y.core = x.core
  router : y.router = { x.router with wdCount := 0 }
  amem : y.amem = x.amem
  others : ∀ j < 3, j ≠ k → y.eng j = x.eng j ∧ y.engBusy j = x.engBusy j

theorem Tile.mxeClosed_completed (x : Tile) (r : MxeRun) (acc : SumAcc) :
    x.Completed (x.mxeClosed r acc) 0 r.cmd (acc.record (min acc.max 0xFFFFFFFF) r.cmd.seq) := by
  have hsame := x.mxeRecorded_same r.cmd acc r.histD r.visits false
  rw [Tile.mxeClosed, Tile.mxeFinish_eq]
  generalize x.mxeRecorded r.cmd acc r.histD r.visits false = z at hsame ⊢
  refine ⟨?_, rfl, hsame.core, ?_, hsame.amem, fun j hj hne => ?_⟩
  · simp only [Tile.completeCmd, Tile.withMxe, Tile.withRouter, Tile.setEng, Tile.eng, hsame.mxe]
  · simp only [Tile.completeCmd, Tile.withMxe, Tile.withRouter, Tile.setEng, hsame.router]
  · simp only [Tile.completeCmd, Tile.withMxe, Tile.withRouter, Tile.setEng]
    match j with
    | 0 => exact absurd rfl hne
    | 1 => simp only [Tile.eng, Tile.engBusy, hsame.vxe, and_self]
    | 2 => simp only [Tile.eng, Tile.engBusy, hsame.upe, and_self]

theorem Tile.vxeClosed_completed (x : Tile) (c : Cmd) (rcd : BitVec 128) :
    x.Completed ((x.completeCmd 1 c rcd).withVxe fun v => { v with run := none }) 1 c rcd := by
  refine ⟨rfl, rfl, rfl, rfl, rfl, fun j hj hne => ?_⟩
  match j with
  | 0 => exact ⟨rfl, rfl⟩
  | 1 => exact absurd rfl hne
  | 2 => exact ⟨rfl, rfl⟩

theorem Tile.upeClosed_completed (x : Tile) (c : Cmd) (rcd : BitVec 128) :
    x.Completed ((x.completeCmd 2 c rcd).withUpe fun u => { u with run := none }) 2 c rcd := by
  refine ⟨rfl, rfl, rfl, rfl, rfl, fun j hj hne => ?_⟩
  match j with
  | 0 => exact ⟨rfl, rfl⟩
  | 1 => exact ⟨rfl, rfl⟩
  | 2 => exact absurd rfl hne

theorem Tile.canPush_iff (x : Tile) (e : Nat) (c : Cmd) :
    x.canPush e c = true ↔ c.summ = false ∨ (x.eng e).summs.length < 4 := by simp [Tile.canPush]

theorem heldAfter_eq (r : MxeRun) : heldAfter r = if rOpcode r.cmd.rcd = 1 ∧ mOut r.cmd.rcd = 2 then
    some ⟨r.m, r.n, mEacc r.cmd.rcd, (r.m + 63) / 64 * ((r.n + 63) / 64)⟩ else none := by
  simp only [heldAfter, isMatmul, Bool.and_eq_true, decide_eq_true_eq]
  rfl

end Sys2Proof.Machine

open Sys2Proof Sys2Proof.Machine

/-- Settles O22: each engine's completion, whose tile is described field by field. -/
theorem engineComplete : Obligations.EngineComplete := by
  unfold Obligations.EngineComplete
  intro s t e c n x k ready hon heng hready
  have hexec (f : State → State) {y : Tile} (hf : f s = if x.canPush k c then s.setTile n y else s) :
      (c.summ = true → (x.eng k).summs.length ≥ 4 → atIsland t s f = .next s) ∧
      (c.summ = false ∨ (x.eng k).summs.length < 4 → atIsland t s f = .next (s.setTile n y)) := by
    rw [atIsland_of_on _ hon.1 hon.2, hf]
    refine ⟨fun hsumm hfull => ?_, fun hroom => ?_⟩
    · have hno : ¬ x.canPush k c = true := fun hyes => by
        rcases (x.canPush_iff k c).1 hyes with h | h
        · exact absurd (hsumm.symm.trans h) nofun
        · omega
      rw [if_neg hno]
    · rw [if_pos ((x.canPush_iff k c).2 hroom)]
  cases e with
  | mxe =>
    obtain ⟨r, hrun, rfl, hstart, hfin, hpart, hsound⟩ := hready
    obtain ⟨acc, hf⟩ := mxeComplete_of_finished heng hrun hstart hfin hpart hsound
    obtain ⟨hfull, hroom⟩ := hexec (mxeComplete n) hf
    obtain ⟨hdone, hidle, hcore, hrouter, hamem, hothers⟩ := x.mxeClosed_completed r acc
    refine ⟨hfull, fun h => ⟨_, _, hroom h, hdone, hidle, hcore, hrouter, hamem, hothers,
      fun hstats hhrec => ?_, fun r' _ hr' => ?_⟩⟩
    · rw [Tile.mxeClosed, Tile.mxeFinish_eq, Tile.mxeRecorded_of_no_record hstats hhrec]
      rfl
    · obtain rfl : r = r' := Option.some.inj (hrun.symm.trans hr')
      exact heldAfter_eq r
  | vxe =>
    obtain ⟨r, hrun, rfl, hstart, hfin, hhrec⟩ := hready
    obtain ⟨hfull, hroom⟩ := hexec (vxeComplete n) (vxeComplete_of_finished heng hrun hfin hhrec)
    obtain ⟨hdone, hidle, hcore, hrouter, hamem, hothers⟩ := x.vxeClosed_completed r.cmd (r.acc.record r.acc.max r.cmd.seq)
    exact ⟨hfull, fun h => ⟨_, _, hroom h, hdone, hidle, hcore, hrouter, hamem, hothers, fun _ _ => rfl,
      fun _ he => nomatch he⟩⟩
  | upe =>
    obtain ⟨r, hrun, rfl, hstart, hfin⟩ := hready
    obtain ⟨hfull, hroom⟩ := hexec (upeComplete n) (upeComplete_of_finished heng hrun hfin)
    obtain ⟨hdone, hidle, hcore, hrouter, hamem, hothers⟩ :=
      x.upeClosed_completed r.cmd (r.acc.record (min r.acc.max 0xFFFFFFFF) r.cmd.seq)
    exact ⟨hfull, fun h => ⟨_, _, hroom h, hdone, hidle, hcore, hrouter, hamem, hothers, fun _ _ => rfl,
      fun _ he => nomatch he⟩⟩
end

section
/-! SUPPORT. The partner of a pair, the end of a slot wait, and the starts of the engines (R74, R124, R126, R159, R213). -/

namespace Sys2Proof.Machine

/-! ## PAIR_PARTNER_TAKE and SLOT_WAIT_END -/

theorem pairPartnerTake_eq {s : State} {t : TileId} {r : MxeRun} {g : Cmd} {rest : List Cmd} (hon : OnTile s t)
    (heng : (s.tile t.toNat).engOn = true) (hrun : (s.tile t.toNat).mxe.run = some r) (hstart : r.started = false)
    (hpart : r.partner = none) (hmat : isMatmul r.cmd.rcd = true) (hpair : mPair r.cmd.rcd = true)
    (hq : (s.tile t.toNat).mxe.q.queue = g :: rest) :
    let x := s.tile t.toNat
    let q : EngQ := { x.mxe.q with queue := rest }
    exec (.pairPartnerTake t) s = .next (s.setTile t.toNat (
      if mxePairOk x.decl x.mxe.held r.cmd.rcd g.rcd g.seq then
        { x with mxe := { x.mxe with q := q, run := some { r with partner := some g } } }
      else engStopped { x with mxe := { x.mxe with q := q, run := none } } 0 0x0B r.cmd)) := by
  intro x q
  have hstate := ((Tile.engOn_iff _).1 heng).1
  have hexec : exec (.pairPartnerTake t) s = execPairPartnerTake t s := rfl
  rw [hexec, execPairPartnerTake, atIsland_of_on _ hon.1 hon.2]
  simp only [hrun, hq, heng, hpair, hmat, hpart, hstart, Option.isSome_none, Bool.not_true, Bool.or_self, Bool.false_eq_true,
    if_false]
  have hpop : (s.tile t.toNat).popMxe = { x with mxe := { x.mxe with q := q } } := by
    simp only [Tile.popMxe, Tile.withMxe, hq, List.drop_one, List.tail_cons, x, q]
  rw [hpop]
  split
  · rw [State.modTile_eq, State.setTile_tile, if_pos rfl, State.setTile_setTile]
    rfl
  · rw [State.modTile_eq, State.setTile_tile, if_pos rfl, State.setTile_setTile, engCmd_eq, State.setTile_tile, if_pos rfl,
      State.setTile_setTile]
    · rfl
    · rw [State.setTile_tile, if_pos rfl]
      exact hstate

/-- The largest of a list of numbers: no member exceeds it, and it is a member or 0. -/
theorem le_foldl_max (l : List Nat) : ∀ m : Nat, m ≤ l.foldl max m ∧ (∀ a ∈ l, a ≤ l.foldl max m) ∧
    (l.foldl max m = m ∨ l.foldl max m ∈ l) := by
  induction l with
  | nil => exact fun m => ⟨Nat.le_refl m, nofun, .inl rfl⟩
  | cons a l ih =>
    intro m
    obtain ⟨hle, hall, hmem⟩ := ih (max m a)
    rw [List.foldl_cons]
    refine ⟨by omega, fun b hb => ?_, ?_⟩
    · rcases List.mem_cons.1 hb with rfl | hb
      · omega
      · exact hall b hb
    · rcases hmem with hmem | hmem
      · rcases Nat.le_total m a with hma | hma
        · exact .inr (List.mem_cons.2 (.inl (hmem.trans (Nat.max_eq_right hma))))
        · exact .inl (hmem.trans (Nat.max_eq_left hma))
      · exact .inr (List.mem_cons_of_mem _ hmem)

/-- The array cycles until every slot that the current position needs has been read out. -/
def Mxe.slotWait (y : Mxe) (r : MxeRun) : Nat := (r.block.need.map fun i => Sparse.get 0 y.drain i).foldl max 0

theorem Mxe.drain_le_slotWait (y : Mxe) (r : MxeRun) : ∀ i ∈ r.block.need, Sparse.get 0 y.drain i ≤ y.slotWait r :=
  fun i hi => (le_foldl_max _ 0).2.1 _ (List.mem_map.2 ⟨i, hi, rfl⟩)

theorem Mxe.slotWait_attained (y : Mxe) (r : MxeRun) (h : y.slotWait r ≠ 0) :
    ∃ i ∈ r.block.need, Sparse.get 0 y.drain i = y.slotWait r := by
  rcases (le_foldl_max (r.block.need.map fun i => Sparse.get 0 y.drain i) 0).2.2 with h0 | hmem
  · exact absurd h0 h
  · exact List.mem_map.1 hmem

theorem slotWaitEnd_eq {s : State} {t : TileId} {r : MxeRun} (hon : OnTile s t) (heng : (s.tile t.toNat).engOn = true)
    (hrun : (s.tile t.toNat).mxe.run = some r) (hwait : (s.tile t.toNat).mxe.waiting = true) :
    let x := s.tile t.toNat
    exec (.slotWaitEnd t) s = .next (s.setTile t.toNat (Tile.spent { x with mxe := { x.mxe with
      drain := drainBy x.mxe.drain (x.mxe.slotWait r), waiting := false } } (120 * x.mxe.slotWait r))) := by
  intro x
  have hexec : exec (.slotWaitEnd t) s = execSlotWaitEnd t s := rfl
  rw [hexec, execSlotWaitEnd, atIsland_of_on _ hon.1 hon.2]
  simp only [hrun, heng, hwait, Bool.and_self, if_true]
  rfl

/-! ## Starts -/

section Start

variable {s : State} {t : Nat}

/-- No engine starts a command whose DEP is open. -/
theorem mxeStart_of_dep {r : MxeRun} (hrun : (s.tile t).mxe.run = some r) (hdep : (s.tile t).depOk r.cmd.rcd = false)
    (wm am : Ecc) : mxeStart t wm am s = s := by
  simp only [mxeStart, hrun, hdep, Bool.and_false, Bool.not_false, Bool.or_true, if_true]

theorem vxeStart_of_dep {r : VxeRun} (hrun : (s.tile t).vxe.run = some r) (hdep : (s.tile t).depOk r.cmd.rcd = false)
    (wm : Ecc) : vxeStart t wm s = s := by
  simp only [vxeStart, hrun, hdep, Bool.not_false, Bool.or_true, if_true]

theorem upeStart_of_dep {r : UpeRun} (hrun : (s.tile t).upe.run = some r) (hdep : (s.tile t).depOk r.cmd.rcd = false)
    (wm : Ecc) : upeStart t wm s = s := by
  simp only [upeStart, hrun, hdep, Bool.not_false, Bool.or_true, if_true]

/-- SETVL (R159). -/
theorem vxeStart_setVl {r : VxeRun} (heng : (s.tile t).engOn = true) (hrun : (s.tile t).vxe.run = some r)
    (hstart : r.started = false) (hdep : (s.tile t).depOk r.cmd.rcd = true) (hop : rOpcode r.cmd.rcd = 3) :
    ∃ r' : VxeRun, vxeStart t .ok s = s.setTile t { s.tile t with vxe := { (s.tile t).vxe with
        run := some r', vl := BitVec.ofNat 7 (setVl r.cmd.rcd) } } ∧ r'.cmd = r.cmd ∧ r'.finished = true := by
  have hwords (a b c : Nat) : rowWords [region a 0, region b 0, region c 0] = 0 := rfl
  simp only [vxeStart, hrun, heng, hstart, hdep, hop, Bool.not_true, Bool.or_self, Bool.false_eq_true, if_false, if_true,
    Nat.reduceEqDiff, or_self, false_and, hwords, useWm, State.modTile_eq, State.setTile_tile, State.setTile_setTile,
    not_false_eq_true, decide_true]
  exact ⟨_, rfl, rfl, rfl⟩

/-- A frozen group's command (R213). -/
theorem upeStart_frozen {r : UpeRun} (heng : (s.tile t).engOn = true) (hrun : (s.tile t).upe.run = some r)
    (hstart : r.started = false) (hdep : (s.tile t).depOk r.cmd.rcd = true) (hsound : (s.tile t).flaws = [])
    (hfrozen : gFrozen (BitVec.ofNat 512 ((s.tile t).readW (uGsr r.cmd.rcd) 64)) = true) :
    ∃ (r' : UpeRun) (k : Nat), upeStart t .ok s = s.setTile t { s.tile t with
        upe := { (s.tile t).upe with run := some r' }
        island := { (s.tile t).island with other := (s.tile t).island.other + k } } ∧
      r'.cmd = r.cmd ∧ r'.finished = true ∧ r'.acc.skip = true := by
  have hworse : Ecc.ok.worse .ok = .ok := rfl
  simp only [upeStart, hrun, heng, hstart, hdep, Tile.flawIn, Tile.flawWhere_of_sound hsound, hworse, reduceCtorEq, hfrozen,
    Bool.not_true, Bool.or_self, Bool.false_and, Bool.true_or, Bool.false_eq_true, if_false, useWm, State.modTile_eq,
    State.setTile_tile, State.setTile_setTile, if_true]
  exact ⟨_, _, rfl, rfl, rfl, rfl⟩

/-- A single MATMUL that no check stops, on a tile whose memories hold no error. -/
theorem mxeStart_matmul {r : MxeRun} (heng : (s.tile t).engOn = true) (hrun : (s.tile t).mxe.run = some r)
    (hstart : r.started = false) (hmat : isMatmul r.cmd.rcd = true) (hpair : mPair r.cmd.rcd = false) (hpart : r.partner = none)
    (hdep : (s.tile t).depOk r.cmd.rcd = true) (hsound : (s.tile t).flaws = [])
    (hcheck : (s.tile t).mxeStartCheck r.cmd.rcd ((s.tile t).mxeDims r.cmd.rcd).1 ((s.tile t).mxeDims r.cmd.rcd).2.1
      ((s.tile t).mxeDims r.cmd.rcd).2.2 none = 0) : ∃ n, mxeStart t .ok .ok s =
    s.setTile t (((s.tile t).mxeBegin r ((s.tile t).mxeDims r.cmd.rcd).1 ((s.tile t).mxeDims r.cmd.rcd).2.1
      ((s.tile t).mxeDims r.cmd.rcd).2.2).charge n) := by
  have hworse : Ecc.ok.worse .ok = .ok := rfl
  have hue : (Ecc.ok == Ecc.ue) = false := rfl
  have hce : (Ecc.ok == Ecc.ce) = false := rfl
  simp only [mxeStart, hrun, heng, hstart, hmat, hpair, hpart, hdep, Tile.flawIn, Tile.flawWhere_of_sound hsound, hworse, hue, hce,
    hcheck, Bool.not_true, Bool.and_self, Bool.and_false, Bool.false_and, Bool.or_self, Bool.false_eq_true, if_false,
    ne_eq, not_true_eq_false, State.modTile_eq]
  exact ⟨_, rfl⟩

end Start

/-! ## What the start of a MATMUL leaves -/

/-- The core and the router of a tile, which no write of its memories changes. -/
def Tile.coreRouter (x : Tile) : TileCore × Router := (x.core, x.router)

theorem forAll_coreRouter {α : Type} {f : Tile → α → Tile} (h : ∀ y a, (f y a).coreRouter = y.coreRouter) (l : List α)
    (x : Tile) : (forAll l x f).coreRouter = x.coreRouter :=
  forAll_inv (fun y => y.coreRouter = x.coreRouter) f (fun y a hy => (h y a).trans hy) l x rfl

theorem Tile.zeroSlot_coreRouter (x : Tile) (slot : Nat) : (x.zeroSlot slot).coreRouter = x.coreRouter := by
  unfold Tile.zeroSlot Tile.writeWords
  generalize List.range 4096 = l
  exact forAll_coreRouter (f := fun y i => y.writeA (slot * 4096 + i) 0) (fun _ _ => rfl) l x

theorem Tile.zeroOut_coreRouter (x : Tile) (o : OutTile) : (x.zeroOut o).coreRouter = x.coreRouter := by
  unfold Tile.zeroOut
  generalize List.range 4096 = l
  split
  · exact x.zeroSlot_coreRouter _
  · exact (Tile.zeroSlot_coreRouter _ _).trans
      (forAll_coreRouter (f := fun y i => y.writeW (x.decl.place o.spill + 8 * i) 8 0) (fun _ _ => rfl) l x)

/-- The tile on which a MATMUL begins: its slots are free, and zero where the command does not accumulate (R125, R126). -/
def Tile.slotsCleared (x : Tile) (r : MxeRun) : Tile :=
  let x := x.withMxe fun y => { y with drain := [], waiting := false }
  if mAccin r.cmd.rcd then x else forAll r.used x Tile.zeroOut

theorem Tile.slotsCleared_coreRouter (x : Tile) (r : MxeRun) : (x.slotsCleared r).coreRouter = x.coreRouter := by
  unfold Tile.slotsCleared
  split
  · rfl
  · exact (forAll_coreRouter Tile.zeroOut_coreRouter _ _).trans rfl

theorem Tile.slotsCleared_of_accin (x : Tile) {r : MxeRun} (h : mAccin r.cmd.rcd = true) :
    x.slotsCleared r = x.withMxe fun y => { y with drain := [], waiting := false } := if_pos h

/-- The run of a single MATMUL that begins with the dimensions `m` × `n` × `k`. -/
def Tile.begunRun (x : Tile) (r : MxeRun) (m n k : Nat) : MxeRun :=
  { r with
    m := m, n := n, k := k, mask := x.mxeMask r.cmd.rcd m n
    histD := { entries := x.mxeEntries r.cmd.rcd }
    accD := { spill := decide (cdiv m 64 * cdiv n 64 > 6) && decide (mOrder r.cmd.rcd = 1) } }

theorem Tile.mxeBegin_matmul (x : Tile) {r : MxeRun} (hmat : isMatmul r.cmd.rcd = true) (hpart : r.partner = none) (m n k : Nat) :
    x.mxeBegin r m n k = (x.slotsCleared (x.begunRun r m n k)).withMxe fun y =>
      { y with run := some { x.begunRun r m n k with started := true } } := by
  cases r with
  | mk =>
    simp only at hmat hpart
    subst hpart
    simp only [Tile.mxeBegin, hmat, Bool.not_true, Bool.false_eq_true, if_false]
    rfl

end Sys2Proof.Machine

open Sys2Proof Sys2Proof.Machine

/-- Settles O19: the partner of a pair, the slot wait, open DEPs and the starts, each by the equation of its row. -/
theorem pairDependAndSlotWaits : Obligations.PairDependAndSlotWaits := by
  unfold Obligations.PairDependAndSlotWaits
  intro s t n x hon heng
  have hexec {eng : Engine} {wm am : Ecc} {f : State → State} {u : State} (hf : f s = u)
      (hrow : exec (.depWaitEnd t eng wm am) s = atIsland t s f) : exec (.depWaitEnd t eng wm am) s = .next u := by
    rw [hrow, atIsland_of_on _ hon.1 hon.2, hf]
  refine ⟨fun r g rest hrun hstart hpart hmat hpair hq => ?pair, fun r hrun hwait => ?slot,
    fun r wm am hrun hdep => hexec (mxeStart_of_dep hrun hdep wm am) rfl,
    fun r wm am hrun hdep => hexec (vxeStart_of_dep hrun hdep wm) rfl,
    fun r wm am hrun hdep => hexec (upeStart_of_dep hrun hdep wm) rfl,
    fun r hrun hstart hdep hop => ?setVl, fun r hrun hstart hdep hsound => ?frozen,
    fun r hrun hstart hmat hpair hpart hdep hsound => ?matmul⟩
  case pair => exact pairPartnerTake_eq hon heng hrun hstart hpart hmat hpair hq
  case slot =>
    exact ⟨x.mxe.slotWait r, slotWaitEnd_eq hon heng hrun hwait, x.mxe.drain_le_slotWait r, x.mxe.slotWait_attained r⟩
  case setVl =>
    obtain ⟨r', hnext, hcmd, hfin⟩ := vxeStart_setVl heng hrun hstart hdep hop
    exact ⟨r', hexec hnext rfl, hcmd, hfin⟩
  case frozen =>
    intro g hfrozen
    obtain ⟨r', k, hnext, hrest⟩ := upeStart_frozen heng hrun hstart hdep hsound hfrozen
    exact ⟨r', k, hexec hnext rfl, hrest⟩
  case matmul =>
    intro d hcheck
    obtain ⟨units, hnext⟩ := mxeStart_matmul heng hrun hstart hmat hpair hpart hdep hsound hcheck
    obtain ⟨hcore, hrouter⟩ := Prod.mk.inj (x.slotsCleared_coreRouter (x.begunRun r d.1 d.2.1 d.2.2))
    rw [x.mxeBegin_matmul hmat hpart] at hnext
    refine ⟨_, hexec hnext rfl, hcore, hrouter, ⟨_, rfl, rfl, rfl, rfl, rfl⟩, fun hacc => ?_⟩
    have hclear := x.slotsCleared_of_accin (r := x.begunRun r d.1 d.2.1 d.2.2) hacc
    have hwmem := congrArg Tile.wmem hclear
    have hamem := congrArg Tile.amem hclear
    exact ⟨hwmem, hamem⟩
end

section
/-! SUPPORT. One position of each engine's work (R90, R118, R125, R144, R158, R205, R214): what it writes, what it leaves, and
what it charges its island (R335). -/

namespace Sys2Proof.Machine

/-- On a tile whose memories hold no error, the check of a read finds none. -/
theorem Tile.worse_flawWhere_of_sound {x : Tile} (h : x.flaws = []) (sel : Nat → Bool) : Ecc.ok.worse (x.flawWhere sel) = .ok := by
  rw [Tile.flawWhere_of_sound h]
  rfl

theorem Tile.worse_flawIn_of_sound {x : Tile} (h : x.flaws = []) (l : List Rows) : Ecc.ok.worse (x.flawIn l) = .ok :=
  Tile.worse_flawWhere_of_sound h _

/-! ## The rows of the engines on a tile whose memories hold no error -/

section Due

variable {s : State} {t : TileId}

/-- MXE_ROW_BLOCK of a MATMUL without a partner whose island may not issue: the block waits for a later window. -/
theorem mxeRowBlock_of_held {r : MxeRun} (hon : OnTile s t) (heng : (s.tile t.toNat).engOn = true)
    (hrun : (s.tile t.toNat).mxe.run = some r) (hstart : r.started = true) (hfin : r.finished = false)
    (hwait : (s.tile t.toNat).mxe.waiting = false) (hapart : r.apart = false) (hmask : r.masked r.block = false)
    (hmay : s.mayIssue t.toNat = false) (wm am : Ecc) :
    exec (.mxeRowBlock t wm am) s = .next (holdIssue s t.toNat) := by
  have hexec : exec (.mxeRowBlock t wm am) s = atIsland t s (mxeRowBlock t.toNat wm am) := rfl
  rw [hexec, atIsland_of_on _ hon.1 hon.2]
  simp only [mxeRowBlock, hrun, heng, hstart, hfin, hwait, MxeRun.waitsD, hapart, hmask, hmay, Bool.not_true, Bool.not_false,
    Bool.false_and, Bool.and_self, Bool.or_self, Bool.false_eq_true, if_false, if_true]

/-- MXE_ROW_BLOCK of a MATMUL without a partner that its island lets issue, or whose block is masked. -/
theorem mxeRowBlock_of_due {r : MxeRun} (hon : OnTile s t) (heng : (s.tile t.toNat).engOn = true)
    (hsound : (s.tile t.toNat).flaws = []) (hrun : (s.tile t.toNat).mxe.run = some r) (hstart : r.started = true)
    (hfin : r.finished = false) (hwait : (s.tile t.toNat).mxe.waiting = false) (hpart : r.partner = none)
    (hapart : r.apart = false) (hmay : r.masked r.block = true ∨ s.mayIssue t.toNat = true) :
    exec (.mxeRowBlock t .ok .ok) s = .next (s.setTile t.toNat (((s.tile t.toNat).mxeStep r).charge r.units)) := by
  have hexec : exec (.mxeRowBlock t .ok .ok) s = atIsland t s (mxeRowBlock t.toNat .ok .ok) := rfl
  have hissue : (!r.masked r.block && !s.mayIssue t.toNat) = false := by
    rcases hmay with h | h
    · rw [h, Bool.not_true, Bool.false_and]
    · rw [h, Bool.not_true, Bool.and_false]
  have hbegin : r.beginG (s.tile t.toNat) = r := by simp only [MxeRun.beginG, hpart]
  rw [hexec, atIsland_of_on _ hon.1 hon.2]
  simp only [mxeRowBlock, hrun, heng, hstart, hfin, hwait, hpart, MxeRun.waitsD, hapart, hissue, MxeRun.amFlaw,
    Tile.worse_flawIn_of_sound hsound, Tile.worse_flawWhere_of_sound hsound, engReads_ok, State.modTile_eq, hbegin,
    Bool.not_true, Bool.false_and, Bool.or_self, Bool.false_eq_true, if_false]

/-- VXE_VECTOR in a window whose units are spent: the vector waits for a later one. -/
theorem vxeVector_of_held {r : VxeRun} (hon : OnTile s t) (heng : (s.tile t.toNat).engOn = true)
    (hrun : (s.tile t.toNat).vxe.run = some r) (hstart : r.started = true) (hfin : r.finished = false)
    (hmay : s.mayIssue t.toNat = false) (wm tab : Ecc) :
    exec (.vxeVector t wm tab) s = .next (holdIssue s t.toNat) := by
  have hexec : exec (.vxeVector t wm tab) s = execVxeVector t wm tab s := rfl
  rw [hexec, execVxeVector, atIsland_of_on _ hon.1 hon.2]
  simp only [hrun, heng, hstart, hfin, hmay, Bool.not_true, Bool.not_false, Bool.or_self, Bool.false_eq_true, if_false, if_true]

theorem vxeVector_of_due {r : VxeRun} (hon : OnTile s t) (heng : (s.tile t.toNat).engOn = true)
    (hsound : (s.tile t.toNat).flaws = []) (hrun : (s.tile t.toNat).vxe.run = some r) (hstart : r.started = true)
    (hfin : r.finished = false) (hmay : s.mayIssue t.toNat = true) :
    exec (.vxeVector t .ok .ok) s = .next (s.setTile t.toNat (((s.tile t.toNat).vxeStep r).charge (150 + 8 * r.words))) := by
  have hexec : exec (.vxeVector t .ok .ok) s = execVxeVector t .ok .ok s := rfl
  have hue : (Ecc.ok == Ecc.ue) = false := rfl
  have hce : (Ecc.ok == Ecc.ce) = false := rfl
  rw [hexec, execVxeVector, atIsland_of_on _ hon.1 hon.2]
  simp only [hrun, heng, hstart, hfin, hmay, Tile.worse_flawIn_of_sound hsound, hue, hce, State.modTile_eq, Bool.not_true,
    Bool.and_false, Bool.or_self, Bool.false_eq_true, if_false]

/-- UPE_UNIT in a window whose units are spent: the unit waits for a later one. -/
theorem upeUnit_of_held {r : UpeRun} (hon : OnTile s t) (heng : (s.tile t.toNat).engOn = true)
    (hrun : (s.tile t.toNat).upe.run = some r) (hstart : r.started = true) (hfin : r.finished = false)
    (hmay : s.mayIssue t.toNat = false) (wm : Ecc) :
    exec (.upeUnit t wm) s = .next (holdIssue s t.toNat) := by
  have hexec : exec (.upeUnit t wm) s = execUpeUnit t wm s := rfl
  rw [hexec, execUpeUnit, atIsland_of_on _ hon.1 hon.2]
  simp only [hrun, heng, hstart, hfin, hmay, Bool.not_true, Bool.not_false, Bool.or_self, Bool.false_eq_true, if_false, if_true]

/-- A job record or a running job gives the seed, and no free value is used (R103, R206). -/
theorem jobSeed_state {n : Nat} (h : (s.tile n).decl.jobRec ≠ 0xFFFFFFFF#32 ∨ s.melvor.job.isSome) : (jobSeed s n).2 = s := by
  unfold jobSeed
  by_cases hrec : (s.tile n).decl.jobRec ≠ 0xFFFFFFFF#32
  · rw [if_pos hrec]
  · obtain ⟨j, hj⟩ := Option.isSome_iff_exists.1 (h.resolve_left hrec)
    simp only [if_neg hrec, hj]

theorem upeUnit_of_due {r : UpeRun} (hon : OnTile s t) (heng : (s.tile t.toNat).engOn = true)
    (hsound : (s.tile t.toNat).flaws = []) (hrun : (s.tile t.toNat).upe.run = some r) (hstart : r.started = true)
    (hfin : r.finished = false) (hmay : s.mayIssue t.toNat = true)
    (hseed : (s.tile t.toNat).decl.jobRec ≠ 0xFFFFFFFF#32 ∨ s.melvor.job.isSome) :
    exec (.upeUnit t .ok) s =
      .next (s.setTile t.toNat (((s.tile t.toNat).upeStep r (jobSeed s t.toNat).1).charge r.units)) := by
  have hexec : exec (.upeUnit t .ok) s = execUpeUnit t .ok s := rfl
  rw [hexec, execUpeUnit, atIsland_of_on _ hon.1 hon.2]
  simp only [hrun, heng, hstart, hfin, hmay, Tile.worse_flawIn_of_sound hsound, jobSeed_state hseed, State.modTile_eq,
    reduceCtorEq, Bool.not_true, Bool.or_self, Bool.false_eq_true, if_false]

end Due

/-! ## A row block (R90, R118, R144) -/

/-- A command without a partner has no block of a G. -/
theorem MxeRun.block_ofG {r : MxeRun} (hpart : r.partner = none) : r.block.ofG = false := by
  unfold MxeRun.block MxeRun.blockAt
  rw [hpart]
  by_cases horder : mOrder r.cmd.rcd = 0
  · exact congrArg RowBlk.ofG (if_pos horder)
  · exact congrArg RowBlk.ofG (if_neg horder)

/-- The run as its current block finds it: the first block to use a latch tile turns to it (R114). -/
def MxeRun.loaded (r : MxeRun) (x : Tile) : MxeRun := if r.block.latch then r.load x r.block else r

/-- The latch tile that the current block of a command without a partner uses. -/
theorem MxeRun.loaded_latch {r : MxeRun} (hpart : r.partner = none) (hapart : r.apart = false) (x : Tile) :
    (r.loaded x).latch = if r.block.latch then
      (if r.pos = 0 then x.latchTile r.cmd.rcd r.n r.k r.block.nt (r.block.k / 2) r.block.p else r.next) else r.latch := by
  unfold MxeRun.loaded
  by_cases hlatch : r.block.latch = true
  · rw [if_pos hlatch, if_pos hlatch]
    by_cases hpos : r.pos = 0 <;> simp [MxeRun.load, MxeRun.begins, MxeRun.readLatch, hpart, hapart, hpos]
  · rw [if_neg hlatch, if_neg hlatch]

/-- The latch tile that the first block of the tile before it reads (log 76). -/
theorem MxeRun.loaded_next {r : MxeRun} (hpart : r.partner = none) (hlatch : r.block.latch = true) (x : Tile) :
    (r.loaded x).next = match r.nextLatch r.block with
      | some z => x.latchTile r.cmd.rcd r.n r.k z.nt (z.k / 2) z.p
      | none => [] := by
  rw [MxeRun.loaded, if_pos hlatch]
  cases hz : r.nextLatch r.block with
  | none => simp only [MxeRun.load, hz]
  | some z => simp only [MxeRun.load, MxeRun.readLatch, hz, hpart]

/-- What row block `b` under record `c` adds to column `j` of its row: the aligned dot product of its operand block and of
column `j`'s block of the latch tile. -/
def Tile.rowProduct (x : Tile) (c : Line) (k : Nat) (latch : List (List (Option Int) × Int)) (b : RowBlk) (j : Nat) : A44 :=
  let dig := passDigits (mPasses c) b.p
  let a := x.operand (mA c) b.m b.k k dig.1
  let w := latch.getD (2 * j + b.k % 2) ([], 0)
  let p := dotBlock a.1 w.1
  A44.align p.1 p.2 (a.2 + w.2 + dig.2.2 - mEacc c)

theorem Tile.addRowBlock_eq (x : Tile) (c : Line) (n k : Nat) (latch : List (List (Option Int) × Int)) (b : RowBlk) :
    let base := b.slot * 4096 + b.m % 64 * 64
    x.addRowBlock c n k latch b = forAll (List.range (min 64 (n - 64 * b.nt))) x fun y j =>
      y.writeA (base + j) ((A44.ofBits (y.readA (base + j))).add (x.rowProduct c k latch b j)).toBits := rfl

/-- Each of `n` accumulator words from `base` on is rewritten once, from its own value. -/
theorem readA_rewritten (x : Tile) (base n : Nat) (f : Nat → BitVec 48 → BitVec 48) (k : Nat) :
    (forAll (List.range n) x fun y j => y.writeA (base + j) (f j (y.readA (base + j)))).readA k =
      if base ≤ k ∧ k < base + n then f (k - base) (x.readA k) else x.readA k := by
  induction n with
  | zero => exact (if_neg (by omega)).symm
  | succ n ih =>
    rw [forAll_range_succ, readA_writeA]
    by_cases hk : k = base + n
    · subst hk
      rw [ih, if_pos rfl, if_neg (by omega), if_pos (by omega), Nat.add_sub_cancel_left]
    · rw [if_neg hk, ih]
      exact if_congr (by omega) rfl rfl

theorem readA_addRowBlock (x : Tile) (c : Line) (n k : Nat) (latch : List (List (Option Int) × Int)) (b : RowBlk) (i : Nat) :
    let base := b.slot * 4096 + b.m % 64 * 64
    (x.addRowBlock c n k latch b).readA i = if base ≤ i ∧ i < base + min 64 (n - 64 * b.nt) then
      ((A44.ofBits (x.readA i)).add (x.rowProduct c k latch b (i - base))).toBits else x.readA i := by
  intro base
  rw [x.addRowBlock_eq]
  exact readA_rewritten x base _ (fun j v => ((A44.ofBits v).add (x.rowProduct c k latch b j)).toBits) i

/-- A row block changes accumulator memory only. -/
theorem addRowBlock_same (x : Tile) (c : Line) (n k : Nat) (latch : List (List (Option Int) × Int)) (b : RowBlk) :
    SameButAccumulator x (x.addRowBlock c n k latch b) ∧ (x.addRowBlock c n k latch b).island = x.island := by
  rw [x.addRowBlock_eq]
  refine forAll_inv (fun y => SameButAccumulator x y ∧ y.island = x.island) _ (fun y j h => ?_) _ _
    ⟨⟨rfl, rfl, rfl, rfl, rfl, rfl⟩, rfl⟩
  exact h

/-- The tile after the contributions of the current block of a MATMUL without a partner; a masked one has none. -/
def Tile.rowAdded (x : Tile) (r : MxeRun) : Tile :=
  if r.masked r.block then x else x.addRowBlock r.cmd.rcd r.n r.k (r.loaded x).latch r.block

theorem Tile.rowAdded_same (x : Tile) (r : MxeRun) : SameButAccumulator x (x.rowAdded r) ∧ (x.rowAdded r).island = x.island := by
  unfold Tile.rowAdded
  split
  · exact ⟨⟨rfl, rfl, rfl, rfl, rfl, rfl⟩, rfl⟩
  · exact addRowBlock_same ..

theorem Tile.readA_rowAdded (x : Tile) (r : MxeRun) (i : Nat) :
    let base := r.block.slot * 4096 + r.block.m % 64 * 64
    (x.rowAdded r).readA i = if r.masked r.block = false ∧ base ≤ i ∧ i < base + min 64 (r.n - 64 * r.block.nt) then
      ((A44.ofBits (x.readA i)).add (x.rowProduct r.cmd.rcd r.k (r.loaded x).latch r.block (i - base))).toBits
    else x.readA i := by
  intro base
  unfold Tile.rowAdded
  cases hmask : r.masked r.block with
  | true => simp only [if_true, Bool.true_eq_false, false_and, if_false]
  | false =>
    simp only [Bool.false_eq_true, if_false, true_and]
    exact readA_addRowBlock ..

/-- A block at which no visit of a spilled tile begins or ends and no tile is complete: its contributions, and the next
position. -/
theorem Tile.mxeStep_eq_rowAdded (x : Tile) {r : MxeRun} (hpart : r.partner = none) (henter : r.block.enter = false)
    (hleave : r.block.leave = false) (hout : r.block.out = []) :
    ∃ (r' : MxeRun) (drain : Sparse Nat) (waiting : Bool),
      x.mxeStep r = (x.rowAdded r).withMxe (fun y => { y with run := some r', drain := drain, waiting := waiting }) ∧
      r'.pos = r.pos + 1 ∧ r'.latch = (r.loaded x).latch ∧ r'.next = (r.loaded x).next := by
  have hside : r.side false = (r.cmd.rcd, r.n, r.k) := by simp only [MxeRun.side, hpart]
  have hpos : (r.loaded x).pos = r.pos := by
    unfold MxeRun.loaded
    split <;> rfl
  have hloaded : (if r.block.latch = true then r.load x r.block else r) = r.loaded x := rfl
  have hadded : (if r.masked r.block = true then x else
      x.addRowBlock r.cmd.rcd r.n r.k (r.loaded x).latch r.block) = x.rowAdded r := rfl
  have hnone {w : WOut} {f : WOut → OutTile → WOut} : forAll [] w f = w := rfl
  simp only [Tile.mxeStep, r.block_ofG hpart, hside, henter, hleave, hout, hloaded, hadded, hnone, Bool.false_eq_true, if_false]
  exact ⟨_, _, _, rfl, congrArg (· + 1) hpos, rfl, rfl⟩

/-! ## A vector and a unit: writes of working memory -/

/-- The tiles differ in working memory, its codes and its scrub at most: nothing is charged either. -/
structure Tile.OnlyWm (x y : Tile) : Prop extends x.SameUnits y where
  island : y.island = x.island

theorem Tile.OnlyWm.refl (x : Tile) : x.OnlyWm x := ⟨.refl x, rfl⟩

theorem Tile.OnlyWm.writeW {x y : Tile} (h : x.OnlyWm y) (a n v : Nat) : x.OnlyWm (y.writeW a n v) :=
  ⟨h.toSameUnits.writeW a n v, h.island⟩

/-! ## A vector (R156-R166) -/

/-- The VXE states have the same length register and the same tables. -/
structure Vxe.SameTables (v w : Vxe) : Prop where
  vl : w.vl = v.vl
  base0 : w.base0 = v.base0
  slope0 : w.slope0 = v.slope0
  base1 : w.base1 = v.base1
  slope1 : w.slope1 = v.slope1

theorem Vxe.SameTables.refl (v : Vxe) : v.SameTables v := ⟨rfl, rfl, rfl, rfl, rfl⟩

theorem Vxe.SameTables.setReg {v w : Vxe} (h : v.SameTables w) (r l : Nat) (a : LaneVal) : v.SameTables (w.setReg r l a) :=
  ⟨h.vl, h.base0, h.slope0, h.base1, h.slope1⟩

theorem Vxe.SameTables.forAll {α : Type} {f : Vxe → α → Vxe} {v w : Vxe} (h : v.SameTables w)
    (hf : ∀ u a, v.SameTables u → v.SameTables (f u a)) (l : List α) : v.SameTables (forAll l w f) :=
  forAll_inv v.SameTables f hf l w h

theorem Vxe.SameTables.vLoad {v w : Vxe} (h : v.SameTables w) (x : Tile) (er : Int) (d : Desc) (reg n : Nat)
    (at_ : Nat → Nat × Nat) : v.SameTables (vLoad x er d reg n at_ w) :=
  Vxe.SameTables.forAll h (fun _ _ hu => hu.setReg ..) _

theorem Vxe.SameTables.microOp {v u : Vxe} (h : v.SameTables u) (er : Int) (aux : Line) (w i c l : Nat) :
    v.SameTables (u.microOp er aux w i c l) := h.setReg ..

theorem Vxe.SameTables.ite {p : Prop} [Decidable p] {v w u : Vxe} (hw : v.SameTables w) (hu : v.SameTables u) :
    v.SameTables (if p then w else u) := by
  split
  · exact hw
  · exact hu

/-- The store of a vector's lanes writes working memory only. -/
theorem vStore_onlyWm {x : Tile} {w : Tile × SumAcc × HistRun} (h : x.OnlyWm w.1) (c : Line) (i j : Nat) (ls : List LaneVal) :
    x.OnlyWm (vStore c i j ls w).1 := by
  unfold vStore
  extract_lets d f cv er row vals per
  split
  · exact forAll_inv (fun w : Tile × SumAcc × HistRun => x.OnlyWm w.1) _ (fun _ _ hy => hy.writeW ..) _ _ h
  · exact forAll_inv (fun w : Tile × SumAcc × HistRun => x.OnlyWm w.1) _ (fun _ _ hy => (hy.writeW ..).writeW ..) _ _ h

/-- What a vector leaves: lane registers, working memory where it stores or reduces, and the next position. -/
theorem Tile.vxeStep_frame (x : Tile) (r : VxeRun) : ∃ (v : Vxe) (y : Tile) (r' : VxeRun),
    x.vxe.SameTables v ∧ Tile.OnlyWm { x with vxe := v } y ∧ x.vxeStep r = y.withVxe (fun u => { u with run := some r' }) ∧
    (vZen r.cmd.rcd = false → vRed r.cmd.rcd = 0 → y.wmem = x.wmem) ∧
    r'.pos = r.pos + 1 ∧ r'.finished = decide (r.pos + 1 ≥ r.rows * cdiv r.cols 64) := by
  unfold Tile.vxeStep
  extract_lets c er vpr i j n lanes v0 v1 v2 v3 v ls acc y0 w red y acc'
  have hv1 : x.vxe.SameTables v1 := .ite (.vLoad (.refl _) ..) (.refl _)
  have hv2 : x.vxe.SameTables v2 := .ite (hv1.vLoad ..) hv1
  have hv3 : x.vxe.SameTables v3 := .ite (hv2.vLoad ..) hv2
  have hv : x.vxe.SameTables v := hv3.forAll (fun _ _ hu => hu.forAll (fun _ _ hz => hz.microOp ..) _) _
  have hw : y0.OnlyWm w.1 := by
    unfold w
    split
    · exact vStore_onlyWm (.refl y0) ..
    · exact .refl y0
  have hy : y0.OnlyWm y := by
    unfold y
    split
    · exact hw
    · exact hw.writeW ..
  refine ⟨v, y, _, hv, hy, rfl, fun hz hred => ?_, rfl, rfl⟩
  have hstored : w.1 = y0 := by
    unfold w
    rw [if_neg (Bool.eq_false_iff.1 hz)]
  unfold y
  rw [if_pos hred, hstored]

/-! ## A unit (R205-R207, R214-R217) -/

/-- The store of a unit writes working memory only. -/
theorem storeUnit_onlyWm {x : Tile} {w : Tile × List (Block × Nat)} (h : x.OnlyWm w.1) (x0 : Tile) (d : TDesc) (u : Nat)
    (ein : Int) (vals : List SrcVal) (draws : List Nat) (kept : Nat → Bool) :
    x.OnlyWm (storeUnit x0 d u ein vals draws kept w).1 :=
  forAll_inv (fun w : Tile × List (Block × Nat) => x.OnlyWm w.1) _ (fun _ _ hy => (hy.writeW ..).writeW ..) _ _ h

/-- The same where the tensor may be unused. -/
theorem storeUnit_ite_onlyWm {x y : Tile} (h : x.OnlyWm y) (b : Bool) (x0 : Tile) (d : TDesc) (u : Nat)
    (ein : Int) (vals : List SrcVal) (draws : List Nat) (kept : Nat → Bool) :
    x.OnlyWm (if b then storeUnit x0 d u ein vals draws kept (y, []) else (y, [])).1 := by
  split
  · exact storeUnit_onlyWm h ..
  · exact h

/-- What a unit leaves: working memory, for UPART with its last unit only, and the next position. -/
theorem Tile.upeStep_frame (x : Tile) (r : UpeRun) (seed : Nat) : ∃ (y : Tile) (r' : UpeRun),
    x.OnlyWm y ∧ x.upeStep r seed = y.withUpe (fun u => { u with run := some r' }) ∧
    (rOpcode r.cmd.rcd = 2 → r.pos + 1 < uUnits r.cmd.rcd (xPitch r.aux) → y.wmem = x.wmem) ∧ r'.pos = r.pos + 1 := by
  unfold Tile.upeStep
  extract_lets c op units pl n regs u fin red y acc allKept g kept draws w a b wcv ex d acc1 acc2 rowEnd z
  by_cases hop : op = 2
  · rw [if_pos hop]
    have hy : x.OnlyWm y := by
      unfold y
      split
      · exact forAll_inv x.OnlyWm _ (fun _ _ hz => hz.writeW ..) _ _ (.refl x)
      · exact .refl x
    refine ⟨y, _, hy, rfl, fun _ hlt => ?_, rfl⟩
    have hfin : fin = false := decide_eq_false (Nat.not_le_of_lt hlt)
    unfold y
    rw [if_neg (Bool.eq_false_iff.1 hfin)]
  · rw [if_neg hop]
    have hw : x.OnlyWm w.1 := storeUnit_onlyWm (.refl x) ..
    have ha : x.OnlyWm a.1 := storeUnit_ite_onlyWm hw ..
    have hb : x.OnlyWm b.1 := storeUnit_ite_onlyWm ha ..
    have hd : x.OnlyWm d.1 := storeUnit_ite_onlyWm hb ..
    have hz : x.OnlyWm z := by
      unfold z
      split
      · exact hd.writeW ..
      · exact hd
    exact ⟨z, _, hz, rfl, fun h2 _ => absurd h2 hop, rfl⟩

end Sys2Proof.Machine

open Sys2Proof Sys2Proof.Machine

/-- Settles O20: each engine's row is one step of its work, charged to the island; the steps' frames give what they leave. -/
theorem engineWork : Obligations.EngineWork := by
  unfold Obligations.EngineWork
  intro s t n x late hon heng hsound
  refine ⟨fun r hrun hstart hfin hwait hpart hapart => ?mxe, fun r hrun hstart hfin => ?vxe,
    fun r hrun hstart hfin => ?upe⟩
  case mxe =>
    intro b c l
    refine ⟨fun hmask hmay => mxeRowBlock_of_held hon heng hrun hstart hfin hwait hapart hmask hmay .ok .ok,
      fun henter hleave hout hmay => ?_⟩
    obtain ⟨r', drain, waiting, hstep, hpos, hlatch, hnext⟩ := x.mxeStep_eq_rowAdded hpart henter hleave hout
    obtain ⟨⟨hwmem, hcore, hrouter, -⟩, hisland⟩ := x.rowAdded_same r
    have hl : (r.loaded x).latch = l := r.loaded_latch hpart hapart x
    refine ⟨_, mxeRowBlock_of_due hon heng hsound hrun hstart hfin hwait hpart hapart hmay, ?_⟩
    rw [hstep]
    refine ⟨hwmem, hcore, hrouter, ?_, ⟨r', rfl, hpos, hlatch.trans hl, fun hload => ?_⟩, fun k => ?_⟩
    · exact congrArg (fun i : Island => { i with units := i.units + r.units }) hisland
    · exact hnext.trans (r.loaded_next hpart hload x)
    · rw [← hl]
      exact x.readA_rowAdded r k
  case vxe =>
    refine ⟨fun hmay => vxeVector_of_held hon heng hrun hstart hfin hmay .ok .ok, fun hmay => ?_⟩
    obtain ⟨v, y, r', hv, hy, hstep, hwmem, hpos, hdone⟩ := x.vxeStep_frame r
    have hregs : x.vxe.SameTables y.vxe := hy.vxe ▸ hv
    refine ⟨_, vxeVector_of_due hon heng hsound hrun hstart hfin hmay, ?_⟩
    rw [hstep]
    exact ⟨hy.core, hy.router, hy.mxe, hy.upe, hy.amem, hregs.vl, hregs.base0, hregs.slope0, hregs.base1,
      hregs.slope1,
      congrArg (fun i : Island => { i with units := i.units + (150 + 8 * r.words) }) hy.island, hwmem, r', rfl, hpos, hdone⟩
  case upe =>
    refine ⟨fun hmay => upeUnit_of_held hon heng hrun hstart hfin hmay .ok, fun hmay hseed => ?_⟩
    obtain ⟨y, r', hy, hstep, hwmem, hpos⟩ := x.upeStep_frame r (jobSeed s n).1
    refine ⟨_, upeUnit_of_due hon heng hsound hrun hstart hfin hmay hseed, ?_⟩
    rw [hstep]
    exact ⟨hy.core, hy.router, hy.mxe, hy.vxe, hy.amem,
      congrArg (fun i : Island => { i with units := i.units + r.units }) hy.island, hwmem, r', rfl, hpos⟩
end

section
/-! SUPPORT. Writes of working memory in a row: what a list of them leaves, byte by byte. -/

namespace Sys2Proof.Machine

/-- A fold each of whose steps extends the list of what has been done, by what the step's element gives. -/
theorem forAll_flatMap {α β γ : Type} {P : β → List γ → Prop} {f : β → α → β} {g : α → List γ} :
    ∀ {l : List α} {s : β} {ws : List γ}, (∀ a ∈ l, ∀ u vs, P u vs → P (f u a) (vs ++ g a)) → P s ws →
      P (forAll l s f) (ws ++ l.flatMap g)
  | [], _, ws, _, h => by
    rw [List.flatMap_nil, List.append_nil]
    exact h
  | a :: l, s, ws, hf, h => by
    rw [List.flatMap_cons, ← List.append_assoc]
    exact forAll_flatMap (fun b hb => hf b (List.mem_cons_of_mem a hb)) (hf a List.mem_cons_self s ws h)

/-- The same where every element gives one entry. -/
theorem forAll_map {α β γ : Type} {P : β → List γ → Prop} {f : β → α → β} {g : α → γ} {l : List α} {s : β} {ws : List γ}
    (hf : ∀ a ∈ l, ∀ u vs, P u vs → P (f u a) (vs ++ [g a])) (h : P s ws) : P (forAll l s f) (ws ++ l.map g) := by
  rw [List.map_eq_flatMap]
  exact forAll_flatMap hf h

/-- Tile `y` is `x` after the writes `l` of working memory, first to last. -/
structure Tile.Wrote (x y : Tile) (l : List (Nat × Nat × Nat)) : Prop extends x.OnlyWm y where
  byte : ∀ a, Sparse.get 0 y.wmem a = wrote x.wmem l a

theorem Tile.Wrote.refl (x : Tile) : x.Wrote x [] := ⟨.refl x, fun _ => rfl⟩

theorem wrote_append_singleton (m : Sparse Byte) (l : List (Nat × Nat × Nat)) (a n v b : Nat) :
    wrote m (l ++ [(a, n, v)]) b = if a ≤ b ∧ b < a + n then BitVec.ofNat 8 (v / 256 ^ (b - a)) else wrote m l b := by
  rw [wrote, List.foldl_append]
  rfl

theorem Tile.Wrote.writeW {x y : Tile} {l : List (Nat × Nat × Nat)} (h : x.Wrote y l) (a n v : Nat) :
    x.Wrote (y.writeW a n v) (l ++ [(a, n, v)]) := by
  refine ⟨h.toOnlyWm.writeW a n v, fun b => ?_⟩
  have hbyte : Sparse.get 0 (y.writeW a n v).wmem b =
      if a ≤ b ∧ b < a + n then BitVec.ofNat 8 (v / 256 ^ (b - a)) else Sparse.get 0 y.wmem b := get_writeBytes n ..
  rw [hbyte, wrote_append_singleton, h.byte]

/-- A block and then its scale. -/
theorem Tile.Wrote.writeW_two {x y : Tile} {l : List (Nat × Nat × Nat)} (h : x.Wrote y l) (a n v a' n' v' : Nat) :
    x.Wrote ((y.writeW a n v).writeW a' n' v') (l ++ [(a, n, v), (a', n', v')]) := by
  rw [List.append_cons]
  exact (h.writeW a n v).writeW a' n' v'

end Sys2Proof.Machine
end

section
/-! SUPPORT. The results of a vector: the lanes that its sources and its chain leave, its store and its reduction word
(R151-R165). -/

namespace Sys2Proof.Machine

/-! ## A vector's lanes (R151, R156, R160) -/

/-- A 32-bit lane holds NV and the values within ±(2^31 − 1). -/
theorem ofW32_toW32 {v : Option Int} (h : ∀ z, v = some z → -laneMax ≤ z ∧ z ≤ laneMax) :
    ofW32 (BitVec.ofNat 32 (toW32 v)).toNat = v := by
  rw [BitVec.toNat_ofNat, Nat.mod_eq_of_lt (toW32_lt v)]
  cases v with
  | none => rfl
  | some z =>
    obtain ⟨hlo, hhi⟩ := h z rfl
    simp only [laneMax] at hlo hhi
    have hne : toW32 (some z) ≠ 2 ^ 31 := by
      simp only [toW32, unsigned]
      omega
    rw [ofW32, if_neg hne]
    refine congrArg some ?_
    have hmod : (toW32 (some z) : Int) = z % 2 ^ 32 := by
      simp only [toW32, unsigned]
      omega
    rw [signed, hmod]
    by_cases hz : 0 ≤ z
    · rw [if_pos (by omega)]
      omega
    · rw [if_neg (by omega)]
      omega

/-- A lane register keeps the value. -/
def LaneVal.Fits (a : LaneVal) : Prop := a.lane.val = a

theorem LaneVal.Fits.of_range {v : Option Int} (h : ∀ z, v = some z → -laneMax ≤ z ∧ z ≤ laneMax) (tag : Bool) :
    LaneVal.Fits ⟨v, tag⟩ := congrArg (LaneVal.mk · tag) (ofW32_toW32 h)

theorem LaneVal.Fits.nv (tag : Bool) : LaneVal.Fits ⟨none, tag⟩ :=
  .of_range (v := none) (fun _ h => nomatch h) tag

theorem clampTo_range {q : Int} (hq : 0 ≤ q) (x : Int) : -q ≤ clampTo q x ∧ clampTo q x ≤ q := by
  unfold clampTo
  split
  · omega
  · split <;> omega

theorem laneOf_fits (x : Int) (tag : Bool) : (laneOf x tag).Fits := by
  refine .of_range (fun z hz => ?_) _
  obtain rfl := Option.some.inj hz
  exact clampTo_range (by decide) x

theorem lane1_fits (a : LaneVal) (f : Int → Int) : (lane1 a f).Fits := by
  unfold lane1
  split
  · exact laneOf_fits ..
  · exact .nv _

theorem lane2_fits (a b : LaneVal) (f : Int → Int → Int) : (lane2 a b f).Fits := by
  unfold lane2
  split
  · exact laneOf_fits ..
  · exact .nv _

/-- What a register holds it keeps: a lane's value is NV or within ±(2^31 − 1). -/
theorem Lane.val_fits (l : Lane) : l.val.Fits := by
  refine .of_range (fun z hz => ?_) _
  have hlt := l.v.isLt
  simp only [ofW32, signed] at hz
  simp only [laneMax]
  split at hz
  · exact nomatch hz
  · split at hz <;> (obtain rfl := Option.some.inj hz; omega)

/-- The sixteen registers of lane `l`. -/
def Vxe.lane (v : Vxe) (l : Nat) : Nat → LaneVal := fun k => v.reg k l

theorem Vxe.lane_setReg_same (v : Vxe) (r l : Nat) (a : LaneVal) :
    (v.setReg r l a).lane l = Function.update (v.lane l) r a.lane.val := by
  funext k
  simp only [Vxe.lane, Vxe.reg, Vxe.setReg, Sparse.get_set, Function.update_apply]
  by_cases hk : k = r
  · rw [if_pos (by rw [hk]), if_pos hk]
  · rw [if_neg (by omega), if_neg hk]

theorem Vxe.lane_setReg_of_ne (v : Vxe) (r : Nat) (a : LaneVal) {j l : Nat} (hj : j < 64) (hl : l < 64) (hne : j ≠ l) :
    (v.setReg r j a).lane l = v.lane l := by
  funext k
  simp only [Vxe.lane, Vxe.reg, Vxe.setReg, Sparse.get_set]
  rw [if_neg (by omega)]

/-- A pass over the first `n` lanes that changes in each step one lane's registers, lane `l`'s by `g`. -/
theorem Vxe.lane_forAll {f : Vxe → Nat → Vxe} {g : (Nat → LaneVal) → Nat → LaneVal} {l : Nat}
    (hother : ∀ u j, j < 64 → j ≠ l → (f u j).lane l = u.lane l) (hat : ∀ u, (f u l).lane l = g (u.lane l)) (v : Vxe) :
    ∀ {n : Nat}, n ≤ 64 → (forAll (List.range n) v f).lane l = if l < n then g (v.lane l) else v.lane l
  | 0, _ => rfl
  | n + 1, hn => by
    have ih := Vxe.lane_forAll hother hat v (n := n) (by omega)
    rw [forAll_range_succ]
    by_cases hl : n = l
    · subst hl
      rw [hat, ih, if_neg (Nat.lt_irrefl n), if_pos (Nat.lt_succ_self n)]
    · rw [hother _ n (by omega) hl, ih]
      exact if_congr (by omega) rfl rfl

/-- The value that element `p` of source `d` gives a lane (R156). -/
def Tile.loadLane (x : Tile) (er : Int) (d : Desc) (p : Nat × Nat) : LaneVal :=
  let e := x.srcElem d p.1 p.2
  match e.1 with
  | none => ⟨none, e.2.2⟩
  | some v => laneOf (roundNE v (er - e.2.1)) e.2.2

theorem Tile.loadLane_fits (x : Tile) (er : Int) (d : Desc) (p : Nat × Nat) : (x.loadLane er d p).Fits := by
  unfold Tile.loadLane
  extract_lets e
  split
  · exact .nv _
  · exact laneOf_fits ..

theorem vLoad_eq (x : Tile) (er : Int) (d : Desc) (reg n : Nat) (at_ : Nat → Nat × Nat) (v : Vxe) :
    vLoad x er d reg n at_ v = forAll (List.range n) v fun v l => v.setReg reg l (x.loadLane er d (at_ l)) := rfl

/-- A load writes register `reg` of the lanes it reaches. -/
theorem Vxe.lane_vLoad (x : Tile) (er : Int) (d : Desc) (reg : Nat) {n : Nat} (hn : n ≤ 64) (at_ : Nat → Nat × Nat) (v : Vxe)
    {l : Nat} (hl : l < n) :
    (vLoad x er d reg n at_ v).lane l = Function.update (v.lane l) reg (x.loadLane er d (at_ l)) := by
  have hat (u : Vxe) : (u.setReg reg l (x.loadLane er d (at_ l))).lane l =
      Function.update (u.lane l) reg (x.loadLane er d (at_ l)) := by
    rw [Vxe.lane_setReg_same, x.loadLane_fits er d (at_ l)]
  rw [vLoad_eq]
  exact (Vxe.lane_forAll (f := fun u j => u.setReg reg j (x.loadLane er d (at_ j)))
    (g := fun ρ => Function.update ρ reg (x.loadLane er d (at_ l)))
    (fun u j hj hne => u.lane_setReg_of_ne reg _ hj (by omega) hne) hat v hn).trans (if_pos hl)

/-! ## A vector's chain, store and reduction (R157, R160, R164, R165) -/

/-- The lanes that the sources of a vector fill: X, Y and W in the registers 0, 1 and 2. -/
def Tile.vxeLoaded (x : Tile) (r : VxeRun) : Vxe :=
  let c := r.cmd.rcd
  let er := vEr c
  let i := r.pos / cdiv r.cols 64
  let j := r.pos % cdiv r.cols 64
  let n := min 64 (r.cols - 64 * j)
  let v := x.vxe
  let v := if vXen c then vLoad x er (vX c) 0 n (fun l => (i, 64 * j + l)) v else v
  let v := if vYen c then
      vLoad x er (vY c) 1 n (fun l => match vYb c with | 1 => (0, 64 * j + l) | 2 => (0, i) | _ => (i, 64 * j + l)) v
    else v
  if vWen c then vLoad x er (aW r.aux) 2 n (fun l => (i, 64 * j + l)) v else v

/-- What register `k` of lane `l` of the vector holds once the sources are loaded. -/
def Tile.vxeSource (x : Tile) (r : VxeRun) (k l : Nat) : LaneVal :=
  let c := r.cmd.rcd
  let er := vEr c
  let i := r.pos / cdiv r.cols 64
  let j := r.pos % cdiv r.cols 64
  if k = 0 ∧ vXen c then x.loadLane er (vX c) (i, 64 * j + l)
  else if k = 1 ∧ vYen c then
    x.loadLane er (vY c) (match vYb c with | 1 => (0, 64 * j + l) | 2 => (0, i) | _ => (i, 64 * j + l))
  else if k = 2 ∧ vWen c then x.loadLane er (aW r.aux) (i, 64 * j + l)
  else x.vxe.reg k l

/-- A source that the command uses or leaves out. -/
theorem Vxe.lane_ite_vLoad (b : Bool) (x : Tile) (er : Int) (d : Desc) (reg : Nat) {n : Nat} (hn : n ≤ 64)
    (at_ : Nat → Nat × Nat) (v : Vxe) {l : Nat} (hl : l < n) (k : Nat) :
    (if b then vLoad x er d reg n at_ v else v).lane l k = if k = reg ∧ b then x.loadLane er d (at_ l) else v.lane l k := by
  cases b with
  | false => simp only [Bool.false_eq_true, and_false, if_false]
  | true =>
    simp only [if_true, and_true]
    rw [Vxe.lane_vLoad x er d reg hn at_ v hl, Function.update_apply]

theorem Tile.lane_vxeLoaded (x : Tile) (r : VxeRun) {l : Nat}
    (hl : l < min 64 (r.cols - 64 * (r.pos % cdiv r.cols 64))) (k : Nat) :
    (x.vxeLoaded r).lane l k = x.vxeSource r k l := by
  have hn : min 64 (r.cols - 64 * (r.pos % cdiv r.cols 64)) ≤ 64 := Nat.min_le_left ..
  unfold Tile.vxeLoaded Tile.vxeSource
  extract_lets c er i j n v v1 v2
  rw [Vxe.lane_ite_vLoad _ _ _ _ 2 hn _ _ hl, Vxe.lane_ite_vLoad _ _ _ _ 1 hn _ _ hl,
    Vxe.lane_ite_vLoad _ _ _ _ 0 hn _ _ hl]
  by_cases h0 : k = 0
  · subst h0
    simp only [true_and, OfNat.zero_ne_ofNat, zero_ne_one, false_and, if_false]
    rfl
  · by_cases h1 : k = 1
    · subst h1
      simp only [one_ne_zero, OfNat.one_ne_ofNat, true_and, false_and, if_false]
      rfl
    · simp only [h0, h1, false_and, if_false]
      rfl

/-- The lane registers after the chain of a vector (R157). -/
def Tile.vxeChained (x : Tile) (r : VxeRun) : Vxe :=
  let j := r.pos % cdiv r.cols 64
  forAll (List.range (vNops r.cmd.rcd)) (x.vxeLoaded r) fun v o =>
    forAll (List.range (min 64 (r.cols - 64 * j))) v fun v l =>
      v.microOp (vEr r.cmd.rcd) r.aux (aOp r.aux o) (r.pos / cdiv r.cols 64) (64 * j + l) l

theorem Tile.vxeChained_of_none (x : Tile) {r : VxeRun} (h : vNops r.cmd.rcd = 0) : x.vxeChained r = x.vxeLoaded r := by
  unfold Tile.vxeChained
  rw [h]
  rfl

/-- What the micro-ops that only combine the values of one or two registers make of their operands, by OP: sum, difference,
product, maximum, minimum, magnitude, copy (Table 7.4). -/
def microFn (er : Int) : Nat → Option (LaneVal → LaneVal → LaneVal)
  | 0 => some fun a b => lane2 a b fun u v => u + v
  | 1 => some fun a b => lane2 a b fun u v => u - v
  | 2 => some fun a b => lane2 a b fun u v => roundNE (u * v) (-er)
  | 4 => some fun a b => lane2 a b max
  | 5 => some fun a b => lane2 a b min
  | 6 => some fun a _ => lane1 a fun u => u.natAbs
  | 9 => some fun a _ => a
  | _ => none

theorem Vxe.microOp_of_microFn {er : Int} {w : Nat} {F : LaneVal → LaneVal → LaneVal} (h : microFn er (bits w 15 12) = some F)
    (v : Vxe) (aux : Line) (i c l : Nat) :
    v.microOp er aux w i c l = v.setReg (bits w 11 8) l (F (v.reg (bits w 7 4) l) (v.reg (bits w 3 0) l)) := by
  unfold Vxe.microOp
  generalize bits w 15 12 = op at h ⊢
  unfold microFn at h
  split at h
  case h_8 => exact nomatch h
  all_goals
    obtain rfl := Option.some.inj h
    rfl

theorem microFn_fits {er : Int} {op : Nat} {F : LaneVal → LaneVal → LaneVal} (h : microFn er op = some F) {a b : LaneVal}
    (ha : a.Fits) : (F a b).Fits := by
  unfold microFn at h
  split at h
  case h_6 =>
    obtain rfl := Option.some.inj h
    exact lane1_fits ..
  case h_7 =>
    obtain rfl := Option.some.inj h
    exact ha
  case h_8 => exact nomatch h
  all_goals
    obtain rfl := Option.some.inj h
    exact lane2_fits ..

theorem Vxe.lane_microOp_of_ne (v : Vxe) (er : Int) (aux : Line) (w i c : Nat) {j l : Nat} (hj : j < 64) (hl : l < 64)
    (hne : j ≠ l) : (v.microOp er aux w i c j).lane l = v.lane l := v.lane_setReg_of_ne _ _ hj hl hne

theorem Vxe.lane_microOp_same {er : Int} {w : Nat} {F : LaneVal → LaneVal → LaneVal} (h : microFn er (bits w 15 12) = some F)
    (v : Vxe) (aux : Line) (i c l : Nat) : (v.microOp er aux w i c l).lane l =
      Function.update (v.lane l) (bits w 11 8) (F (v.lane l (bits w 7 4)) (v.lane l (bits w 3 0))) := by
  have hval : (F (v.reg (bits w 7 4) l) (v.reg (bits w 3 0) l)).Fits := microFn_fits h (Lane.val_fits _)
  rw [Vxe.microOp_of_microFn h, Vxe.lane_setReg_same, hval]
  rfl

/-- The destination of a chain of one micro-op. -/
theorem Tile.reg_vxeChained_of_one (x : Tile) {r : VxeRun} (hops : vNops r.cmd.rcd = 1) {F : LaneVal → LaneVal → LaneVal}
    (hF : microFn (vEr r.cmd.rcd) (bits (aOp r.aux 0) 15 12) = some F) {l : Nat}
    (hl : l < min 64 (r.cols - 64 * (r.pos % cdiv r.cols 64))) :
    let w := aOp r.aux 0
    (x.vxeChained r).reg (bits w 11 8) l = F (x.vxeSource r (bits w 7 4) l) (x.vxeSource r (bits w 3 0) l) := by
  intro w
  have hpass := Vxe.lane_forAll
    (f := fun v j => v.microOp (vEr r.cmd.rcd) r.aux w (r.pos / cdiv r.cols 64) (64 * (r.pos % cdiv r.cols 64) + j) j)
    (g := fun ρ => Function.update ρ (bits w 11 8) (F (ρ (bits w 7 4)) (ρ (bits w 3 0))))
    (fun u j hj hne => u.lane_microOp_of_ne _ _ _ _ _ hj (by omega) hne) (fun u => u.lane_microOp_same hF _ _ _ l)
    (x.vxeLoaded r) (Nat.min_le_left 64 (r.cols - 64 * (r.pos % cdiv r.cols 64)))
  have hreg := congrFun (hpass.trans (if_pos hl)) (bits w 11 8)
  rw [Function.update_self, x.lane_vxeLoaded r hl, x.lane_vxeLoaded r hl] at hreg
  unfold Tile.vxeChained
  rw [hops]
  exact hreg

/-- The store of the lanes of a vector (R165). -/
theorem vStore_wrote {x : Tile} {w : Tile × SumAcc × HistRun} {l : List (Nat × Nat × Nat)} (h : x.Wrote w.1 l) (c : Line)
    (i j : Nat) (ls : List LaneVal) :
    x.Wrote (vStore c i j ls w).1 (l ++ vecWrites c w.2.2.entries i j ls) := by
  unfold vStore vecWrites
  extract_lets d f cv er row vals per
  split
  · exact forAll_map (P := fun (w : Tile × SumAcc × HistRun) l => x.Wrote w.1 l) (fun k _ u vs hu => hu.writeW ..) h
  · refine (forAll_flatMap (P := fun (u : Tile × SumAcc × HistRun) l => x.Wrote u.1 l ∧ u.2.2.entries = w.2.2.entries)
      (fun b _ u vs hu => ?_) ⟨h, rfl⟩).1
    obtain ⟨hwrote, hhist⟩ := hu
    rw [← hhist]
    exact ⟨hwrote.writeW_two .., rfl⟩

/-- The reduction word after a vector (R164). -/
theorem vReduce_fst (mode : Nat) (first seen : Bool) (old : A44) (ls : List LaneVal) :
    (vReduce mode first seen old ls).1 = reduced mode (if first then {} else old) (!first && seen) ls := by
  unfold vReduce reduced
  extract_lets ords nv tag old' seen'
  split
  · rfl
  · cases ords <;> rfl

/-- What a vector leaves: the lane registers, Z and the reduction word (R157-R165). -/
theorem Tile.vxeStep_results (x : Tile) (r : VxeRun) : ∃ (y : Tile) (r' : VxeRun),
    x.vxeStep r = y.withVxe (fun u => { u with run := some r' }) ∧ y.vxe = x.vxeChained r ∧
    (let c := r.cmd.rcd
     let i := r.pos / cdiv r.cols 64
     let j := r.pos % cdiv r.cols 64
     let ls := (List.range (min 64 (r.cols - 64 * j))).map fun l => y.vxe.reg (vOreg c) l
     let red := reduced (vRed c) (if j = 0 then {} else A44.ofBits r.red) (j != 0 && r.redSeen) ls
     (∀ a, Sparse.get 0 y.wmem a = wrote x.wmem ((if vZen c then vecWrites c r.hist.entries i j ls else []) ++
        if vRed c = 0 then [] else [(vRbase c + 8 * i, 8, red.toBits.toNat)]) a) ∧
     (vRed c ≠ 0 → r'.red = red.toBits)) := by
  unfold Tile.vxeStep
  extract_lets c er vpr i j n lanes v0 v1 v2 v3 v ls acc y0 w red y acc'
  have hw : y0.Wrote w.1 (if vZen c then vecWrites c r.hist.entries i j ls else []) := by
    unfold w
    split
    · exact vStore_wrote (w := (y0, acc, r.hist)) (.refl y0) c i j ls
    · exact .refl y0
  have hred (h : vRed c ≠ 0) :
      red.1 = reduced (vRed c) (if j = 0 then {} else A44.ofBits r.red) (j != 0 && r.redSeen) ls := by
    have hword : red = vReduce (vRed c) (decide (j = 0)) r.redSeen (A44.ofBits r.red) ls := if_neg h
    rw [hword, vReduce_fst]
    simp only [decide_eq_true_eq]
    congr 1
  have hy : y0.Wrote y ((if vZen c then vecWrites c r.hist.entries i j ls else []) ++
      if vRed c = 0 then [] else [(vRbase c + 8 * i, 8, red.1.toBits.toNat)]) := by
    unfold y
    split
    · rw [List.append_nil]
      exact hw
    · exact hw.writeW ..
  refine ⟨y, _, rfl, hy.vxe, ?_⟩
  have hls : (lanes.map fun l => y.vxe.reg (vOreg c) l) = ls := by
    rw [hy.vxe]
  intro ls' red'
  have hred' (h : vRed c ≠ 0) : red.1 = red' := by rw [hred h, ← hls]
  refine ⟨fun a => ?_, fun h => congrArg A44.toBits (hred' h)⟩
  rw [hy.byte a, show ls' = ls from hls]
  by_cases h : vRed c = 0
  · rw [if_pos h, if_pos h]
  · rw [if_neg h, if_neg h, hred' h]

end Sys2Proof.Machine
end

section
/-! SUPPORT. The results of a unit: the partial words of UPART, the blocks of UBLK (R205-R207, R214). -/

namespace Sys2Proof.Machine

/-- Block `b` of what is stored where no lane keeps its value, and its active lanes (R207). -/
def unitBlock (d : TDesc) (ein : Int) (vals : List SrcVal) (draws : List Nat) (b : Nat) : Block × Nat :=
  let per := d.f.perBlock
  let vs := (vals.drop (b * per)).take per
  (convBlock d.f (blockE d.f.q ein vs) ein ((draws.drop (b * per)).take per)
    (vs ++ List.replicate (per - vs.length) ⟨some 0, false⟩), vs.length)

theorem storeUnit_eq (x0 : Tile) (d : TDesc) (u : Nat) (ein : Int) (vals : List SrcVal) (draws : List Nat) {kept : Nat → Bool}
    (hkept : ∀ j, kept j = false) (w : Tile × List (Block × Nat)) :
    storeUnit x0 d u ein vals draws kept w = forAll (List.range (cdiv vals.length d.f.perBlock)) w fun w b =>
      let k := unitBlock d ein vals draws b
      ((w.1.writeW (d.at u + b * d.f.blockBytes) d.f.blockBytes k.1.data).writeW (d.sbase + u * d.unitScales + b) 1
        (unsigned 8 k.1.e), w.2 ++ [k]) := by
  have hnone (l : List Nat) (f : Nat → Nat) : (l.filter fun j => kept (f j)) = [] :=
    List.filter_eq_nil_iff.2 fun j _ => Bool.eq_false_iff.1 (hkept (f j))
  simp only [storeUnit, hnone, List.isEmpty_nil, if_true, List.foldl_nil]
  rfl

/-- The store of a unit writes its blocks and scales (R94, R207). -/
theorem storeUnit_wrote {x y : Tile} {l : List (Nat × Nat × Nat)} (h : x.Wrote y l) (x0 : Tile) (d : TDesc) (u : Nat)
    (ein : Int) (vals : List SrcVal) (draws : List Nat) {kept : Nat → Bool} (hkept : ∀ j, kept j = false)
    (bs : List (Block × Nat)) :
    x.Wrote (storeUnit x0 d u ein vals draws kept (y, bs)).1 (l ++ unitWrites d u ein vals draws) := by
  rw [storeUnit_eq x0 d u ein vals draws hkept]
  exact forAll_flatMap (P := fun (w : Tile × List (Block × Nat)) l => x.Wrote w.1 l) (fun b _ w vs hw => hw.writeW_two ..) h

theorem storeUnit_blocks (x0 y : Tile) (d : TDesc) (u : Nat) (ein : Int) (vals : List SrcVal) (draws : List Nat)
    {kept : Nat → Bool} (hkept : ∀ j, kept j = false) :
    (storeUnit x0 d u ein vals draws kept (y, [])).2 =
      (List.range (cdiv vals.length d.f.perBlock)).map (unitBlock d ein vals draws) := by
  rw [storeUnit_eq x0 d u ein vals draws hkept]
  exact forAll_map (P := fun (w : Tile × List (Block × Nat)) bs => w.2 = bs)
    (fun b _ w vs hw => congrArg (· ++ [unitBlock d ein vals draws b]) hw) (ws := []) rfl

/-- The same where the command may leave the tensor out. -/
theorem storeUnit_ite_wrote {x y : Tile} {l : List (Nat × Nat × Nat)} (h : x.Wrote y l) (b : Bool) (x0 : Tile) (d : TDesc)
    (u : Nat) (ein : Int) (vals : List SrcVal) (draws : List Nat) {kept : Nat → Bool} (hkept : ∀ j, kept j = false) :
    x.Wrote (if b then storeUnit x0 d u ein vals draws kept (y, []) else (y, [])).1
      (l ++ if b then unitWrites d u ein vals draws else []) := by
  cases b with
  | true => exact storeUnit_wrote h x0 d u ein vals draws hkept []
  | false =>
    simp only [Bool.false_eq_true, if_false, List.append_nil]
    exact h

theorem cdiv_eq_zero {n d : Nat} (hd : 0 < d) : cdiv n d = 0 ↔ n = 0 := by
  rw [cdiv, Nat.div_eq_zero_iff]
  omega

/-- What the working copy is converted from: the stored values, at the exponent of the first block (R207). -/
theorem unitStored_eq (d : TDesc) (ein : Int) (vals : List SrcVal) (draws : List Nat) :
    let bs := (List.range (cdiv vals.length d.f.perBlock)).map (unitBlock d ein vals draws)
    unitStored d ein vals draws = (bs.flatMap fun y => (y.1.elems.take y.2).map fun z => ⟨z.1, z.2⟩,
      match bs with | y :: _ => y.1.e | [] => 0) := by
  intro bs
  have hper : 0 < d.f.perBlock := by
    cases d.f <;> decide
  refine Prod.ext ?_ ?_
  · simp only [bs, List.flatMap_map]
    rfl
  · have hzero : cdiv vals.length d.f.perBlock = 0 ↔ vals.length = 0 := cdiv_eq_zero hper
    simp only [bs, unitStored, List.isEmpty_iff, ← List.length_eq_zero_iff, ← hzero]
    cases cdiv vals.length d.f.perBlock with
    | zero => rfl
    | succ n =>
      rw [List.range_succ_eq_map]
      rfl

/-- Where a unit of a command without a row list lies. -/
theorem uPlace_of_not_rows (x : Tile) {c : Line} (a : Line) (pos : Nat) (h : rOpcode c ≠ 4) :
    uPlace x c a pos = (0, min 64 (uCount c - 64 * pos), 64 * pos) := if_neg h

/-- A UPART unit: the partial words, and with the last unit their place (R214). -/
theorem Tile.upeStep_upart (x : Tile) {r : UpeRun} (seed : Nat) (hop : rOpcode r.cmd.rcd = 2) :
    let m := min 64 (uCount r.cmd.rcd - 64 * r.pos)
    let regs := r.prog.foldl (uInstr r.gsr m) (x.preload r r.pos 0 m)
    let red := (List.range 4).map fun k =>
      (addPartial (A44.ofBits (r.red.getD k 0)) (regs.getD (4 + k) ⟨0, []⟩) (xEred r.aux)).toBits
    ∃ (y : Tile) (r' : UpeRun), x.upeStep r seed = y.withUpe (fun u => { u with run := some r' }) ∧ r'.red = red ∧
      x.Wrote y (if r.pos + 1 ≥ uUnits r.cmd.rcd (xPitch r.aux) then
        (List.range 4).map fun k => (xRed r.aux + 8 * k, 8, (red.getD k 0).toNat) else []) := by
  intro m regs red
  have hplace := uPlace_of_not_rows x r.aux r.pos (hop.trans_ne (by decide))
  simp only [Tile.upeStep, hop, hplace, if_true]
  refine ⟨_, _, rfl, rfl, ?_⟩
  by_cases hlast : r.pos + 1 ≥ uUnits r.cmd.rcd (xPitch r.aux)
  · rw [if_pos (decide_eq_true hlast), if_pos hlast]
    exact forAll_map (P := x.Wrote) (g := fun k => (xRed r.aux + 8 * k, 8, (red.getD k 0).toNat)) (ws := [])
      (fun k _ y l hy => hy.writeW ..) (.refl x)
  · rw [if_neg (by simpa using hlast), if_neg hlast]
    exact .refl x

theorem Tile.loadUnit_length (x : Tile) (d : TDesc) (u n : Nat) (lse : Int) : (x.loadUnit d u n lse).l.length = n := by
  unfold Tile.loadUnit
  split
  · exact List.length_replicate
  · split <;> simp only [normalise, List.length_map, List.length_range]

/-- Where every lane of the gradient is ordinary, no lane of the unit keeps its value (R205). -/
theorem Tile.loadUnit_ordinary {x : Tile} {d : TDesc} {u n : Nat} {lse : Int}
    (h : ∀ j < n, ((x.loadUnit d u n lse).l.getD j ⟨some 0, false⟩).v.isSome = true) (j : Nat) :
    ((x.loadUnit d u n lse).l.getD j ⟨some 0, false⟩).v.isNone = false := by
  by_cases hj : j < n
  · rw [← Option.not_isSome, h j hj]
    rfl
  · rw [List.getD_eq_default _ _ (by rw [x.loadUnit_length]; omega)]
    rfl

/-- A UBLK unit whose gradient is ordinary: W, the enabled states and the working copy (R205-R207). -/
theorem Tile.upeStep_ublk (x : Tile) {r : UpeRun} (seed : Nat) (hop : rOpcode r.cmd.rcd = 1) :
    let c := r.cmd.rcd
    let m := min 64 (uCount c - 64 * r.pos)
    let regs := r.prog.foldl (uInstr r.gsr m) (x.preload r r.pos 0 m)
    let u (k : Nat) := regs.getD k ⟨0, []⟩
    let draws := if bits (uConv c) 7 6 = 1 then (List.range m).map fun j =>
      draw seed ((xBase r.aux + 64 * r.pos + j) % 2 ^ 48) (xLayer r.aux) (gStep r.gsr) 0 (xStream r.aux) 1 / 256 else []
    let st := unitStored (uW c) (u 0).e (u 0).l draws
    (∀ j < m, ((x.loadUnit (uG c) r.pos m 0).l.getD j ⟨some 0, false⟩).v.isSome = true) →
    ∃ (y : Tile) (r' : UpeRun), x.upeStep r seed = y.withUpe (fun u => { u with run := some r' }) ∧
      x.Wrote y (unitWrites (uW c) r.pos (u 0).e (u 0).l draws ++
        (if (uS0 c).en then unitWrites (uS0 c) r.pos (u 2).e (u 2).l [] else []) ++
        (if (uS1 c).en then unitWrites (uS1 c) r.pos (u 3).e (u 3).l [] else []) ++
        if (xWc r.aux).en then unitWrites (xWc r.aux) r.pos st.2 st.1 [] else []) := by
  intro c m regs u draws st hord
  unfold Tile.upeStep
  extract_lets op units pl n regs' u' fin red z acc allKept g kept draws' w a b wcv ex d acc1 acc2 rowEnd y
  have hop1 : op = 1 := hop
  have hplace : pl = (0, m, 64 * r.pos) := uPlace_of_not_rows x r.aux r.pos (hop.trans_ne (by decide))
  clear_value pl
  subst hplace
  rw [if_neg (hop1.trans_ne (by decide))]
  have hkept (j : Nat) : kept j = false := by
    have hall : allKept = false := by
      simp only [allKept, hop1, OfNat.one_ne_ofNat, decide_false, Bool.false_and]
    simp only [kept, hall, Bool.false_or]
    exact Tile.loadUnit_ordinary hord j
  have hstored : (wcv, ex) = st := by
    have hblocks : w.2 = (List.range (cdiv (u 0).l.length (uW c).f.perBlock)).map
        (unitBlock (uW c) (u 0).e (u 0).l draws) := storeUnit_blocks x x _ _ _ _ _ hkept
    have hst := unitStored_eq (uW c) (u 0).e (u 0).l draws
    rw [← hblocks] at hst
    exact hst.symm
  have hy : y = d.1 := by
    have hend : rowEnd = false := by
      simp only [rowEnd, hop1, OfNat.one_ne_ofNat, decide_false, Bool.false_and]
    unfold y
    rw [hend]
    rfl
  refine ⟨y, _, rfl, ?_⟩
  have hw : x.Wrote w.1 (unitWrites (uW c) r.pos (u 0).e (u 0).l draws) :=
    storeUnit_wrote (l := []) (.refl x) x _ _ _ _ _ hkept []
  have ha := storeUnit_ite_wrote hw (uS0 c).en x (uS0 c) r.pos (u 2).e (u 2).l [] hkept
  have hb := storeUnit_ite_wrote ha (uS1 c).en x (uS1 c) r.pos (u 3).e (u 3).l [] hkept
  have hd := storeUnit_ite_wrote hb (xWc r.aux).en x (xWc r.aux) r.pos ex wcv [] (kept := fun _ => false) fun _ => rfl
  rw [hy, ← hstored]
  exact hd

end Sys2Proof.Machine
end

section
/-! SUPPORT. The results of a row block, of a MATMUL or of a pair: the accumulator words, spill places and outputs (R90, R118,
R125-R129, R141). -/

namespace Sys2Proof.Machine

section Due
variable {s : State} {t : TileId}

/-- MXE_ROW_BLOCK at a position at which G of a pair neither begins nor stands. -/
theorem mxeRowBlock_eq_mxeStep {r : MxeRun} (hon : OnTile s t) (heng : (s.tile t.toNat).engOn = true)
    (hsound : (s.tile t.toNat).flaws = []) (hrun : (s.tile t.toNat).mxe.run = some r) (hstart : r.started = true)
    (hfin : r.finished = false) (hwait : (s.tile t.toNat).mxe.waiting = false) (hstands : r.waitsD = false)
    (hbegins : (r.apart && decide (r.pos = r.dEnd)) = false) (hmay : r.masked r.block = true ∨ s.mayIssue t.toNat = true) :
    exec (.mxeRowBlock t .ok .ok) s = .next (s.setTile t.toNat (((s.tile t.toNat).mxeStep r).charge r.units)) := by
  have hexec : exec (.mxeRowBlock t .ok .ok) s = atIsland t s (mxeRowBlock t.toNat .ok .ok) := rfl
  have hissue : (!r.masked r.block && !s.mayIssue t.toNat) = false := by
    rcases hmay with h | h
    · rw [h, Bool.not_true, Bool.false_and]
    · rw [h, Bool.not_true, Bool.and_false]
  have hbegin : r.beginG (s.tile t.toNat) = r := by
    unfold MxeRun.beginG
    split
    · rw [hbegins]
      rfl
    · rfl
  rw [hexec, atIsland_of_on _ hon.1 hon.2]
  cases hpart : r.partner <;>
    simp only [mxeRowBlock, hrun, heng, hstart, hfin, hwait, hpart, hstands, hbegins, hissue, MxeRun.amFlaw,
      Tile.worse_flawIn_of_sound hsound, Tile.worse_flawWhere_of_sound hsound, engReads_ok, State.modTile_eq, hbegin,
      Bool.not_true, Bool.false_and, Bool.or_self, Bool.false_eq_true, if_false]

end Due

/-- The latch tile that the current block uses, D's view and G's (R114, R140). -/
def MxeRun.latched (r : MxeRun) (x : Tile) : List (List (Option Int) × Int) × List (List (Option Int) × Int) :=
  if r.block.latch then (if r.begins then r.readLatch x r.block else (r.next, r.nextG)) else (r.latch, r.latchG)

/-- The tile whose slot 5 holds its spill place again, where a visit begins (R127). -/
def Tile.entered (x : Tile) (b : RowBlk) : Tile := if b.enter then x.spillIn b.spill else x

theorem Tile.readA_writeWords (x : Tile) (slot : Nat) (f : Nat → BitVec 48) (k : Nat) :
    (x.writeWords slot f).readA k =
      if slot * 4096 ≤ k ∧ k < slot * 4096 + 4096 then f (k - slot * 4096) else x.readA k :=
  readA_rewritten x (slot * 4096) 4096 (fun i _ => f i) k

/-- What a write of accumulator memory leaves of what the engines read: working memory and the declared regions. -/
def Tile.sources (x : Tile) : Sparse Byte × Decl := (x.wmem, x.decl)

theorem Tile.wmem_of_sources {x y : Tile} (h : y.sources = x.sources) : y.wmem = x.wmem := congrArg Prod.fst h

theorem Tile.decl_of_sources {x y : Tile} (h : y.sources = x.sources) : y.decl = x.decl := congrArg Prod.snd h

theorem forAll_sources {α : Type} {f : Tile → α → Tile} (hf : ∀ y a, (f y a).sources = y.sources) (l : List α) (x : Tile) :
    (forAll l x f).sources = x.sources :=
  forAll_inv (fun y => y.sources = x.sources) f (fun y a hy => (hf y a).trans hy) l x rfl

theorem Tile.writeWords_sources (x : Tile) (slot : Nat) (f : Nat → BitVec 48) : (x.writeWords slot f).sources = x.sources := by
  unfold Tile.writeWords
  generalize List.range 4096 = l
  exact forAll_sources (f := fun y i => y.writeA (slot * 4096 + i) (f i)) (fun _ _ => rfl) l x

theorem Tile.addRowBlock_sources (x : Tile) (c : Line) (n k : Nat) (latch : List (List (Option Int) × Int)) (b : RowBlk) :
    (x.addRowBlock c n k latch b).sources = x.sources := by
  rw [x.addRowBlock_eq]
  refine forAll_sources (fun y j => ?_) _ x
  rfl

theorem Tile.readA_entered (x : Tile) (b : RowBlk) (k : Nat) : (x.entered b).readA k =
    if b.enter = true ∧ 20480 ≤ k ∧ k < 24576 then
      (A44.ofBits (BitVec.ofNat 48 (x.readW (x.decl.place b.spill + 8 * (k - 20480)) 8))).toBits
    else x.readA k := by
  unfold Tile.entered
  cases b.enter with
  | false => simp only [Bool.false_eq_true, false_and, if_false]
  | true =>
    simp only [if_true, true_and]
    exact x.readA_writeWords 5 _ k

theorem Tile.entered_sources (x : Tile) (b : RowBlk) : (x.entered b).sources = x.sources := by
  unfold Tile.entered
  split
  · exact x.writeWords_sources 5 _
  · rfl

/-- The products of a row block depend on working memory only. -/
theorem Tile.rowProduct_congr {x y : Tile} (h : y.sources = x.sources) : y.rowProduct = x.rowProduct := by
  have hread : y.readW = x.readW := by
    funext a n
    rw [Tile.readW, Tile.readW, Tile.wmem_of_sources h]
  have helem : y.elemAt = x.elemAt := by
    funext f a i
    rw [Tile.elemAt, Tile.elemAt, hread]
  have hscale : y.scaleAt = x.scaleAt := by
    funext a
    rw [Tile.scaleAt, Tile.scaleAt, hread]
  have hoperand : y.operand = x.operand := by
    unfold Tile.operand
    rw [hread, helem, hscale]
  unfold Tile.rowProduct
  rw [hoperand]

/-- The tile after the contributions of the current block of a MATMUL or of a pair (R90, R144). -/
def Tile.blockAdded (x : Tile) (r : MxeRun) : Tile :=
  let b := r.block
  let sd := r.side b.ofG
  let y := x.entered b
  if r.masked b then y else y.addRowBlock sd.1 sd.2.1 sd.2.2 (if b.ofG then (r.latched x).2 else (r.latched x).1) b

/-- Accumulator word `k` after the contributions of the current block. -/
def Tile.blockWord (x : Tile) (r : MxeRun) (k : Nat) : BitVec 48 :=
  let b := r.block
  let sd := r.side b.ofG
  let base := b.slot * 4096 + b.m % 64 * 64
  let old := if b.enter = true ∧ 20480 ≤ k ∧ k < 24576 then
      (A44.ofBits (BitVec.ofNat 48 (x.readW (x.decl.place b.spill + 8 * (k - 20480)) 8))).toBits
    else x.readA k
  if r.masked b = false ∧ base ≤ k ∧ k < base + min 64 (sd.2.1 - 64 * b.nt) then
    ((A44.ofBits old).add
      (x.rowProduct sd.1 sd.2.2 (if b.ofG then (r.latched x).2 else (r.latched x).1) b (k - base))).toBits
  else old

theorem Tile.readA_blockAdded (x : Tile) (r : MxeRun) (k : Nat) : (x.blockAdded r).readA k = x.blockWord r k := by
  unfold Tile.blockAdded Tile.blockWord
  extract_lets b sd y base old
  have hold : y.readA k = old := x.readA_entered b k
  cases r.masked b with
  | true =>
    simp only [if_true, Bool.true_eq_false, false_and, if_false]
    exact hold
  | false =>
    simp only [Bool.false_eq_true, if_false, true_and]
    rw [readA_addRowBlock, Tile.rowProduct_congr (x.entered_sources b), hold]

theorem Tile.blockAdded_sources (x : Tile) (r : MxeRun) : (x.blockAdded r).sources = x.sources := by
  unfold Tile.blockAdded
  extract_lets b sd y
  split
  · exact x.entered_sources b
  · exact (Tile.addRowBlock_sources ..).trans (x.entered_sources b)

/-- The tile that the current block leaves for the writeout: where a visit ends, slot 5 is back in its spill place (R127). -/
def Tile.blockLeft (x : Tile) (r : MxeRun) : Tile :=
  if r.block.leave then (x.blockAdded r).spillOut r.block.spill else x.blockAdded r

/-- What the writeout of the current block's product changes, of the tile `y`. -/
def MxeRun.wout (r : MxeRun) (y : Tile) : WOut :=
  if r.block.ofG then ⟨y, r.accG, r.histG⟩ else ⟨y, r.accD, r.histD⟩

/-- The memories that a row block leaves. -/
theorem Tile.mxeStep_eq_written (x : Tile) (r : MxeRun) : ∃ f : Mxe → Mxe, x.mxeStep r =
    (forAll r.block.out (r.wout (x.blockLeft r))
      (writeTile (r.side r.block.ofG).1 r.m (r.side r.block.ofG).2.1)).x.withMxe f := by
  obtain ⟨next, nextG, hload⟩ : ∃ next nextG, r.loaded x =
      { r with latch := (r.latched x).1, latchG := (r.latched x).2, next := next, nextG := nextG } := by
    unfold MxeRun.loaded MxeRun.latched
    split <;> exact ⟨_, _, rfl⟩
  have hloaded : (if r.block.latch = true then r.load x r.block else r) = r.loaded x := rfl
  simp only [Tile.mxeStep, hloaded, hload]
  exact ⟨_, rfl⟩

theorem MxeRun.wout_x (r : MxeRun) (y : Tile) : (r.wout y).x = y := by
  unfold MxeRun.wout
  split <;> rfl

theorem MxeRun.wout_hist (r : MxeRun) (y : Tile) : (r.wout y).hist = if r.block.ofG then r.histG else r.histD := by
  unfold MxeRun.wout
  split <;> rfl

/-- The end of a visit: the words of slot 5 go to the spill place, and the slot reads 0 (R127). -/
theorem Tile.spillOut_results (x : Tile) (p : Nat) :
    (∀ a, Sparse.get 0 (x.spillOut p).wmem a = wrote x.wmem ((List.range 4096).map fun i =>
      (x.decl.place p + 8 * i, 8, (A44.ofBits (x.readA (20480 + i))).toBits.toNat)) a) ∧
    ∀ k, (x.spillOut p).readA k = if 20480 ≤ k ∧ k < 24576 then 0 else x.readA k := by
  unfold Tile.spillOut Tile.zeroSlot
  simp only [Nat.reduceMul]
  generalize List.range 4096 = l
  have hstored : x.Wrote (forAll l x fun y i =>
      y.writeW (x.decl.place p + 8 * i) 8 (A44.ofBits (x.readA (20480 + i))).toBits.toNat)
      (l.map fun i => (x.decl.place p + 8 * i, 8, (A44.ofBits (x.readA (20480 + i))).toBits.toNat)) :=
    forAll_map (P := x.Wrote) (ws := []) (fun i _ y vs hy => hy.writeW ..) (.refl x)
  generalize (forAll l x fun y i =>
      y.writeW (x.decl.place p + 8 * i) 8 (A44.ofBits (x.readA (20480 + i))).toBits.toNat) = z at hstored ⊢
  have hread (k : Nat) : z.readA k = x.readA k := congrArg (Sparse.get 0 · k) hstored.amem
  refine ⟨fun a => ?_, fun k => ?_⟩
  · rw [Tile.wmem_of_sources (z.writeWords_sources 5 _)]
    exact hstored.byte a
  · rw [← hread]
    exact z.readA_writeWords 5 _ k

/-- A word of a tile that lies in a slot, after writes of working memory. -/
theorem Tile.Wrote.outWord {x y : Tile} {l : List (Nat × Nat × Nat)} (h : x.Wrote y l) {o : OutTile} (ho : o.spill = 0)
    (i j : Nat) : y.outWord o i j = A44.ofBits (x.readA (o.slot * 4096 + i * 64 + j)) := by
  rw [Tile.outWord, if_pos ho]
  exact congrArg (fun m => A44.ofBits (Sparse.get 0 m (o.slot * 4096 + i * 64 + j))) h.amem

/-- The rows of a tile that lies in a slot are written out, as words or converted (R119, R120, R94). -/
theorem writeRows_wrote (w : WOut) (c : Line) (m n : Nat) {o : OutTile} (ho : o.spill = 0) :
    w.x.Wrote (forAll (List.range (min 64 (m - 64 * o.mt))) w fun w i => writeRow c n o w (64 * o.mt + i)).x
      (tileWrites c m n w.hist.entries o fun k => A44.ofBits (w.x.readA k)) := by
  refine (forAll_flatMap (P := fun (u : WOut) l => w.x.Wrote u.x l ∧ u.hist.entries = w.hist.entries) (ws := [])
    (fun i hi u vs hu => ?_) ⟨.refl w.x, rfl⟩).1
  have hrow : (64 * o.mt + i) % 64 = i := by
    have := List.mem_range.1 hi
    omega
  unfold writeRow
  rw [hrow]
  extract_lets d cols i' f cv row word
  have hword {u : WOut} {vs : List (Nat × Nat × Nat)} (hu : w.x.Wrote u.x vs) (j : Nat) : u.x.outWord o i' j = word j :=
    hu.outWord ho i j
  split
  · refine forAll_map (P := fun (u : WOut) l => w.x.Wrote u.x l ∧ u.hist.entries = w.hist.entries)
      (fun j _ u vs hu => ?_) hu
    obtain ⟨hwrote, hhist⟩ := hu
    simp only [hword hwrote]
    exact ⟨hwrote.writeW .., hhist⟩
  · refine forAll_flatMap (P := fun (u : WOut) l => w.x.Wrote u.x l ∧ u.hist.entries = w.hist.entries)
      (fun b _ u vs hu => ?_) hu
    obtain ⟨hwrote, hhist⟩ := hu
    simp only [hword hwrote, hhist]
    exact ⟨hwrote.writeW_two .., hhist⟩

/-- Rows of words written to zero. -/
theorem readA_zeroRows (x : Tile) (slot : Nat) {cols : Nat} (hcols : cols ≤ 64) (k : Nat) : ∀ {rows : Nat}, rows ≤ 64 →
    (forAll (List.range rows) x fun x i => forAll (List.range cols) x fun x j => x.writeA (slot * 4096 + i * 64 + j) 0).readA k =
      if slot = k / 4096 ∧ k % 4096 / 64 < rows ∧ k % 64 < cols then 0 else x.readA k
  | 0, _ => (if_neg (by omega)).symm
  | rows + 1, h => by
    rw [forAll_range_succ, readA_rewritten _ _ _ fun _ _ => 0, readA_zeroRows x slot hcols k (by omega)]
    by_cases hk : slot * 4096 + rows * 64 ≤ k ∧ k < slot * 4096 + rows * 64 + cols
    · rw [if_pos hk, if_pos (by omega)]
    · rw [if_neg hk]
      exact if_congr (by omega) rfl rfl

theorem Tile.zeroRead_sources (x : Tile) (m n : Nat) (o : OutTile) : (x.zeroRead m n o).sources = x.sources := by
  refine forAll_sources (fun y i => forAll_sources (fun z j => ?_) _ y) _ x
  rfl

/-- A tile that lies in a slot is written out, and its words read 0 (R125). -/
theorem writeTile_results (w : WOut) (c : Line) (m n : Nat) {o : OutTile} (ho : o.spill = 0) :
    (∀ a, Sparse.get 0 (writeTile c m n w o).x.wmem a =
      wrote w.x.wmem (tileWrites c m n w.hist.entries o fun k => A44.ofBits (w.x.readA k)) a) ∧
    ∀ k, (writeTile c m n w o).x.readA k =
      if o.slot = k / 4096 ∧ k % 4096 / 64 < min 64 (m - 64 * o.mt) ∧ k % 64 < min 64 (n - 64 * o.nt) then 0
      else w.x.readA k := by
  have hrows := writeRows_wrote w c m n ho
  unfold writeTile
  extract_lets w1
  rw [if_pos ho]
  refine ⟨fun a => ?_, fun k => ?_⟩
  · rw [Tile.wmem_of_sources (w1.x.zeroRead_sources m n o)]
    exact hrows.byte a
  · have hread : w1.x.readA k = w.x.readA k := congrArg (Sparse.get 0 · k) hrows.amem
    rw [← hread]
    exact readA_zeroRows w1.x o.slot (Nat.min_le_left ..) k (Nat.min_le_left ..)

/-- A block at which no visit ends and no tile is complete. -/
theorem Tile.mxeStep_of_inner (x : Tile) {r : MxeRun} (hleave : r.block.leave = false) (hout : r.block.out = []) :
    ∃ (y : Tile) (f : Mxe → Mxe), x.mxeStep r = y.withMxe f ∧ y.wmem = x.wmem ∧ ∀ k, y.readA k = x.blockWord r k := by
  obtain ⟨f, hstep⟩ := x.mxeStep_eq_written r
  have hleft : x.blockLeft r = x.blockAdded r := if_neg (Bool.eq_false_iff.1 hleave)
  rw [hout, hleft] at hstep
  exact ⟨_, f, hstep.trans (congrArg (Tile.withMxe · f) (r.wout_x _)), Tile.wmem_of_sources (x.blockAdded_sources r),
    x.readA_blockAdded r⟩

/-- A block at which a visit ends (R127). -/
theorem Tile.mxeStep_of_leave (x : Tile) {r : MxeRun} (hleave : r.block.leave = true) (hout : r.block.out = []) :
    ∃ (y : Tile) (f : Mxe → Mxe), x.mxeStep r = y.withMxe f ∧
      (∀ a, Sparse.get 0 y.wmem a = wrote x.wmem ((List.range 4096).map fun i =>
        (x.decl.place r.block.spill + 8 * i, 8, (A44.ofBits (x.blockWord r (20480 + i))).toBits.toNat)) a) ∧
      ∀ k, y.readA k = if 20480 ≤ k ∧ k < 24576 then 0 else x.blockWord r k := by
  obtain ⟨f, hstep⟩ := x.mxeStep_eq_written r
  have hleft : x.blockLeft r = (x.blockAdded r).spillOut r.block.spill := if_pos hleave
  rw [hout, hleft] at hstep
  obtain ⟨hbytes, hwords⟩ := (x.blockAdded r).spillOut_results r.block.spill
  simp only [x.readA_blockAdded r, Tile.wmem_of_sources (x.blockAdded_sources r),
    Tile.decl_of_sources (x.blockAdded_sources r)] at hbytes hwords
  exact ⟨_, f, hstep.trans (congrArg (Tile.withMxe · f) (r.wout_x _)), hbytes, hwords⟩

/-- A block at which tile `o`, which lies in a slot, is complete (R125, R129). -/
theorem Tile.mxeStep_of_complete (x : Tile) {r : MxeRun} {o : OutTile} (hleave : r.block.leave = false)
    (hout : r.block.out = [o]) (hslot : o.spill = 0) :
    let sd := r.side r.block.ofG
    ∃ (y : Tile) (f : Mxe → Mxe), x.mxeStep r = y.withMxe f ∧
      (∀ a, Sparse.get 0 y.wmem a = wrote x.wmem (tileWrites sd.1 r.m sd.2.1
        (if r.block.ofG then r.histG else r.histD).entries o fun k => A44.ofBits (x.blockWord r k)) a) ∧
      ∀ k, y.readA k =
        if o.slot = k / 4096 ∧ k % 4096 / 64 < min 64 (r.m - 64 * o.mt) ∧ k % 64 < min 64 (sd.2.1 - 64 * o.nt) then 0
        else x.blockWord r k := by
  intro sd
  obtain ⟨f, hstep⟩ := x.mxeStep_eq_written r
  have hleft : x.blockLeft r = x.blockAdded r := if_neg (Bool.eq_false_iff.1 hleave)
  rw [hout, hleft] at hstep
  obtain ⟨hbytes, hwords⟩ := writeTile_results (r.wout (x.blockAdded r)) sd.1 r.m sd.2.1 hslot
  simp only [r.wout_x, r.wout_hist, x.readA_blockAdded r, Tile.wmem_of_sources (x.blockAdded_sources r)] at hbytes hwords
  exact ⟨_, f, hstep, hbytes, hwords⟩

end Sys2Proof.Machine

open Sys2Proof Sys2Proof.Machine

/-- Settles O21: each engine's row is one step of its work; the memories and the lanes that the step leaves are those of the
step's lemma, word by word and byte by byte. -/
theorem engineResults : Obligations.EngineResults := by
  unfold Obligations.EngineResults
  intro s t n x hon heng hsound
  refine ⟨fun r hrun hstart hfin hwait hstands hbegins hmay => ?mxe, fun r hrun hstart hfin hmay => ?vxe,
    fun r hrun hstart hfin hmay hseed => ?upe⟩
  case mxe =>
    intro b sd two l base old word
    have hexec {y : Tile} {f : Mxe → Mxe} (hstep : x.mxeStep r = y.withMxe f) :
        exec (.mxeRowBlock t .ok .ok) s = .next (s.setTile n ((y.withMxe f).charge r.units)) := by
      rw [← hstep]
      exact mxeRowBlock_eq_mxeStep hon heng hsound hrun hstart hfin hwait hstands hbegins hmay
    refine ⟨fun hleave hout => ?inner, fun hleave hout => ?leave, fun o hleave hout hslot => ?complete⟩
    case inner =>
      obtain ⟨y, f, hstep, hmem, hwords⟩ := x.mxeStep_of_inner hleave hout
      exact ⟨_, hexec hstep, hmem, hwords⟩
    case leave =>
      obtain ⟨y, f, hstep, hbytes, hwords⟩ := x.mxeStep_of_leave hleave hout
      exact ⟨_, hexec hstep, hbytes, hwords⟩
    case complete =>
      obtain ⟨y, f, hstep, hbytes, hwords⟩ := x.mxeStep_of_complete hleave hout hslot
      exact ⟨_, hexec hstep, hbytes, hwords⟩
  case vxe =>
    have hvpr : (r.cols + 63) / 64 = cdiv r.cols 64 := by rw [cdiv, Nat.add_sub_assoc (by decide)]
    rw [hvpr]
    intro c er i j m ld src
    obtain ⟨y, r', hstep, hregs, hbytes, hred⟩ := x.vxeStep_results r
    have hexec := vxeVector_of_due hon heng hsound hrun hstart hfin hmay
    rw [hstep] at hexec
    refine ⟨_, r', hexec, rfl, fun hops k _ l hl => ?loaded, fun hops l hl => ?chain, fun _ => hbytes,
      fun hmode => hred ?reduces⟩
    case reduces =>
      intro hnone
      rcases hmode with h | h <;> exact absurd (hnone.symm.trans h) (by decide)
    case loaded =>
      have hreg : y.vxe.reg k l = (x.vxeLoaded r).reg k l := by rw [hregs, x.vxeChained_of_none hops]
      exact hreg.trans (x.lane_vxeLoaded r hl k)
    case chain =>
      intro w d a b
      have hone {F : LaneVal → LaneVal → LaneVal} (hF : microFn er (bits w 15 12) = some F) : d = F a b := by
        have hreg : d = y.vxe.reg (bits w 11 8) l := rfl
        rw [hreg, hregs]
        exact x.reg_vxeChained_of_one hops hF hl
      refine ⟨?_, ?_, ?_, ?_, ?_, ?_, ?_⟩
      all_goals
        intro hop
        exact (hone (congrArg (microFn er) hop) :)
  case upe =>
    intro c m regs u
    have hexec {y : Tile} {f : Upe → Upe} (hstep : x.upeStep r (jobSeed s n).1 = y.withUpe f) :
        exec (.upeUnit t .ok) s = .next (s.setTile n ((y.withUpe f).charge r.units)) := by
      rw [← hstep]
      exact upeUnit_of_due hon heng hsound hrun hstart hfin hmay hseed
    refine ⟨fun hop => ?upart, fun hop hord => ?ublk⟩
    case upart =>
      obtain ⟨y, r', hstep, hred, hwrote⟩ := x.upeStep_upart (jobSeed s n).1 hop
      exact ⟨_, r', hexec hstep, rfl, hred, hwrote.byte⟩
    case ublk =>
      obtain ⟨y, r', hstep, hwrote⟩ := x.upeStep_ublk (jobSeed s n).1 hop hord
      exact ⟨_, hexec hstep, hwrote.byte⟩
end

section
/-! SUPPORT. Flits at a port (spec 14; R305, R306, R312, R328): what is sent where nothing waits, what a flit that arrives in
order, again or damaged leaves, and where credits go. -/

namespace Sys2Proof.Machine

/-! ## Sending -/

theorem emitFlit_eq (s : State) (f : FoldPort) (nak : Bool) (ftype : Nat) (x : SentFlit) : emitFlit s f nak ftype x =
    (s.setLink f { s.link f with toAck := 0 }).emit (flitOf f (s.link f).ackSeq nak ftype x) := rfl

theorem sendAck_eq (s : State) (f : FoldPort) (nak : Bool) :
    sendAck s f nak = (s.setLink f { s.link f with toAck := 0 }).emit (idleFlit f (s.link f) nak) := rfl

/-- A port on which nothing waits sends nothing. -/
theorem pumpAll_quiet {s : State} {f : FoldPort} (h : (s.link f).quiet) : pumpAll s f = s := by
  obtain ⟨hmsgs, hslots⟩ := h
  have hpump : pump f 1 s = s := by
    have hpick : (pickSlots 4 [] (s.link f).outSlots (s.link f).credits).1 = [] := by rw [hslots, pickSlots]
    rw [pump]
    simp only [hmsgs, hpick, List.isEmpty_nil, Bool.not_true, Bool.false_eq_true, if_false, if_true, ite_self]
  rw [pumpAll, hmsgs, hslots]
  exact hpump

/-! ## Receiving (R306) -/

/-- The port once the symbol errors of a flit are counted. -/
def LinkPort.counted (l : LinkPort) (x : Flit) : LinkPort := { l with fecSym := satAdd l.fecSym x.fecSym }

/-- The port once a flit is taken in order. -/
def LinkPort.inOrder (l : LinkPort) (x : Flit) : LinkPort :=
  { l with ackSeq := fFseq x, flitsRx := satAdd l.flitsRx 1, toAck := l.toAck + 1, discarding := false
           crcErr := satAdd l.crcErr (if fType x = 1 then ((fMsgs x).filter fun m => !ctlKnown m).length else 0) }

/-- What a whole flit counts and acknowledges, before it is looked at itself. -/
def flitAcks (s : State) (f : FoldPort) (x : Flit) : State :=
  let left := acked (fAckseq x) (s.link f).replayBuf
  let u := s.setLink f ((s.link f).counted x)
  let u := if fAckv x then
      u.modLink f fun l => { l with replayBuf := left, stuck := if left.length < l.replayBuf.length then 0 else l.stuck }
    else u
  if fNak x then replay u f else u

/-- A flit in order is taken: its slots are delivered, and the 64th is acknowledged. -/
def flitTaken (s : State) (f : FoldPort) (x : Flit) : State :=
  let s := s.modLink f fun l => l.inOrder x
  let s := if fType x = 0 then forAll (fSlots x) s fun s y => slotIn s f y.1 y.2 else s
  if (s.link f).toAck ≥ 64 then sendAck s f false else s

/-- A whole flit where `a` is the last that was received in order: an idle one, the next one, one seen before, or a gap. -/
def flitPlaced (s : State) (f : FoldPort) (x : Flit) (a : BitVec 12) : State :=
  if fType x ≥ 2 then s
  else if fFseq x = a + 1 then flitTaken s f x
  else if (a - fFseq x).toNat < 2048 then s
  else discardFlit s f

theorem exec_flitReceive (f : FoldPort) (x : Flit) (s : State) : exec (.flitReceive f x) s = execFlitReceive f x s := rfl

section Receive
variable {s : State} {f : FoldPort} {x : Flit} (hup : (s.link f).up = true)
include hup

theorem exec_flitReceive_whole (hgood : FlitGood x) :
    exec (.flitReceive f x) s = .next (pumpAll (flitPlaced (flitAcks s f x) f x (s.link f).ackSeq) f) := by
  obtain ⟨hfec, hcrc⟩ := hgood
  refine congrArg Host.Outcome.next ((if_neg (by simp [hup])).trans ((if_neg (by simp [hfec])).trans ?_))
  exact if_neg (not_not_intro hcrc)

/-- A whole flit that acknowledges nothing. -/
theorem exec_flitReceive_noAck (hgood : FlitGood x) (hack : fAckv x = false) (hnak : fNak x = false) :
    exec (.flitReceive f x) s =
      .next (pumpAll (flitPlaced (s.setLink f ((s.link f).counted x)) f x (s.link f).ackSeq) f) := by
  have hacks : flitAcks s f x = s.setLink f ((s.link f).counted x) := by
    simp only [flitAcks, hack, hnak, Bool.false_eq_true, if_false]
  rw [exec_flitReceive_whole hup hgood, hacks]

/-- The first flit with a bad CRC is discarded, and answered with a NAK. -/
theorem exec_flitReceive_badCrc (hfec : x.fecBad = false) (hcrc : x.crc ≠ flitCrc x.hdr x.payload)
    (hfirst : (s.link f).discarding = false) : exec (.flitReceive f x) s = .next ((s.setLink f { (s.link f).counted x with
      crcErr := satAdd (s.link f).crcErr 1, discarding := true, toAck := 0 }).emit (idleFlit f (s.link f) true)) := by
  have hbad : exec (.flitReceive f x) s = .next (discardFlit
      (s.setLink f { (s.link f).counted x with crcErr := satAdd (s.link f).crcErr 1 }) f) := by
    refine congrArg Host.Outcome.next ((if_neg (by simp [hup])).trans
      ((if_neg (by simp [hfec])).trans ((if_pos hcrc).trans ?_)))
    rw [State.modLink_eq, State.setLink_link, if_pos rfl, State.setLink_setLink]
    rfl
  have hport :
      ((s.setLink f { (s.link f).counted x with crcErr := satAdd (s.link f).crcErr 1 }).link f).discarding = false := by
    rw [State.setLink_link, if_pos rfl]
    exact hfirst
  rw [hbad, discardFlit, hport, if_neg Bool.false_ne_true, sendAck_eq]
  simp only [State.modLink_eq, State.setLink_link, if_true, State.setLink_setLink]
  rfl

end Receive

/-- The acknowledged flits are those up to the one that is named. -/
theorem acked_append {a : BitVec 12} {pre post : List SentFlit} {y : SentFlit} (hy : y.fseq = a)
    (hpre : ∀ z ∈ pre, z.fseq ≠ a) : acked a (pre ++ y :: post) = post := by
  have hdrop : (pre ++ y :: post).dropWhile (fun z => decide (z.fseq ≠ a)) = y :: post := by
    rw [List.dropWhile_append_of_pos fun z hz => decide_eq_true (hpre z hz), List.dropWhile_cons_of_neg (by simp [hy])]
  have hany : ((pre ++ y :: post).any fun z => decide (z.fseq = a)) = true := by simp [hy]
  rw [acked, hany, if_pos rfl, hdrop]
  rfl

/-- An idle flit that acknowledges releases what it acknowledges. -/
theorem flitAcks_ack {s : State} {f : FoldPort} {x : Flit} {pre post : List SentFlit} {y : SentFlit} (hack : fAckv x = true)
    (hnak : fNak x = false) (hbuf : (s.link f).replayBuf = pre ++ y :: post) (hy : y.fseq = fAckseq x)
    (hpre : ∀ z ∈ pre, z.fseq ≠ fAckseq x) :
    flitAcks s f x = s.setLink f { (s.link f).counted x with replayBuf := post, stuck := 0 } := by
  have hfewer : post.length < ((s.link f).counted x).replayBuf.length := by
    rw [LinkPort.counted, hbuf, List.length_append, List.length_cons]
    omega
  have hleft : acked (fAckseq x) (s.link f).replayBuf = post := by rw [hbuf, acked_append hy hpre]
  simp only [flitAcks, hack, hnak, hleft, if_pos hfewer, Bool.false_eq_true, if_false, if_true, State.modLink_eq,
    State.setLink_link, State.setLink_setLink]

/-! ## Taken in order -/

section Taken
variable {s : State} {f : FoldPort} {x : Flit}

/-- A control flit of known messages moves the counts on. -/
theorem flitTaken_control (htype : fType x = 1) (hknown : ∀ m ∈ fMsgs x, ctlKnown m = true)
    (hroom : (s.link f).toAck + 1 < 64) : flitTaken s f x = s.setLink f { s.link f with
      ackSeq := fFseq x, flitsRx := satAdd (s.link f).flitsRx 1, toAck := (s.link f).toAck + 1, discarding := false } := by
  have hnone : ((fMsgs x).filter fun m => !ctlKnown m) = [] := List.filter_eq_nil_iff.2 fun m hm => by simp [hknown m hm]
  have hport : LinkPort.inOrder (s.link f) x = { s.link f with
      ackSeq := fFseq x, flitsRx := satAdd (s.link f).flitsRx 1, toAck := (s.link f).toAck + 1, discarding := false } := by
    rw [LinkPort.inOrder, if_pos htype, hnone, List.length_nil, satAdd_zero]
  rw [flitTaken]
  simp only [hport, htype, Nat.one_ne_zero, if_false, State.modLink_eq, State.setLink_link, if_true,
    if_neg (Nat.not_le.2 hroom)]

/-- A token of an inbound cut joins the cut's queue (R192). -/
theorem slotIn_cut {n d i : Nat} {k : Token} {st : Stream} {c : CutQ} (hstream : (s.streamsIn f)[n]? = some st)
    (hdst : st.dst = s.rank) (hcut : s.cutOf st = some (d, i, c)) : slotIn s f n k = s.modDrover d fun y =>
      { y with cuts := y.cuts.set i { c with toks := c.toks ++ [gwToken k.data c.queue (bit k.tag.toNat 3)] } } := by
  unfold slotIn
  simp only [hstream, hdst, hcut, ne_eq, not_true, if_false]

/-- The acknowledgement of the 64th flit leaves ACKSEQ, what waits and the drovers. -/
theorem sendAck_kept (s : State) (f : FoldPort) (nak : Bool) : ((sendAck s f nak).link f).ackSeq = (s.link f).ackSeq ∧
    ((s.link f).quiet → ((sendAck s f nak).link f).quiet) ∧ ∀ d, (sendAck s f nak).drover d = s.drover d := by
  have hport : (sendAck s f nak).link f = { s.link f with toAck := 0 } := (State.setLink_link s f _ f).trans (if_pos rfl)
  rw [hport]
  exact ⟨rfl, id, fun _ => rfl⟩

/-- A data flit with one token, of an inbound cut. -/
theorem flitTaken_cut {n d i : Nat} {k : Token} {st : Stream} {c : CutQ} (htype : fType x = 0) (hslots : fSlots x = [(n, k)])
    (hstream : (s.streamsIn f)[n]? = some st) (hdst : st.dst = s.rank) (hcut : s.cutOf st = some (d, i, c)) :
    ((flitTaken s f x).link f).ackSeq = fFseq x ∧ ((s.link f).quiet → ((flitTaken s f x).link f).quiet) ∧
      ((flitTaken s f x).drover d).cuts = (s.drover d).cuts.set i
        { c with toks := c.toks ++ [gwToken k.data c.queue (bit k.tag.toNat 3)] } := by
  have hslot : slotIn (s.setLink f ((s.link f).inOrder x)) f n k = _ := slotIn_cut (f := f) hstream hdst hcut
  rw [flitTaken]
  simp only [htype, hslots, if_true, State.modLink_eq, forAll, List.foldl_cons, List.foldl_nil, hslot, State.modDrover_eq]
  generalize hu : (s.setLink f ((s.link f).inOrder x)).setDrover d _ = u
  have hport : u.link f = (s.link f).inOrder x := by
    rw [← hu, State.setDrover_link, State.setLink_link, if_pos rfl]
  have hcuts : (u.drover d).cuts = (s.drover d).cuts.set i
      { c with toks := c.toks ++ [gwToken k.data c.queue (bit k.tag.toNat 3)] } := by
    rw [← hu, State.setDrover_drover, if_pos rfl]
    rfl
  obtain ⟨hack, hquiet, hdrover⟩ := sendAck_kept u f false
  split
  · rw [hack, hdrover, hport]
    exact ⟨rfl, fun h => hquiet (hport ▸ h), hcuts⟩
  · rw [hport]
    exact ⟨rfl, id, hcuts⟩

end Taken

/-! ## Replay and retrain (R306, R307) -/

/-- A retrain that begins on a port. -/
theorem startRetrain_begins {s : State} {f : FoldPort} (htrain : (s.link f).training = false)
    (hhold : (s.link f).holdDown = false) : startRetrain s f =
      let u := (s.setLink f { s.link f with training := true, retrains := satAdd (s.link f).retrains 1, stuck := 0
                                            peerReady := (s.link f).up && (s.link f).peerReady }).emit (.retrain f)
      if (s.link f).up then u else u.emit (.linkCtrl f (helloMsg s f)) :=
  if_neg (by rw [htrain, hhold, Bool.or_self]; exact Bool.false_ne_true)

/-- Flits that are sent again from a port whose acknowledgement has just left. -/
theorem resend_eq {p : LinkPort} (hack : p.toAck = 0) (s : State) (f : FoldPort) (l : List SentFlit) : ∀ o : List Out,
    forAll l { s.setLink f p with out := o } (fun s y => emitFlit s f false (b2n y.ctrl) y) =
      { s.setLink f p with out := (l.map fun y => flitOf f p.ackSeq false (b2n y.ctrl) y).reverse ++ o } := by
  induction l with
  | nil => intro o; rfl
  | cons y l ih =>
    intro o
    have hport : ({ s.setLink f p with out := o } : State).link f = p := (State.setLink_link s f p f).trans (if_pos rfl)
    have hsame : { p with toAck := 0 } = p := by rw [← hack]
    have hfirst : emitFlit { s.setLink f p with out := o } f false (b2n y.ctrl) y =
        { s.setLink f p with out := flitOf f p.ackSeq false (b2n y.ctrl) y :: o } := by
      rw [emitFlit_eq, hport, hsame]
      exact congrArg (fun m => State.emit { m with out := o } (flitOf f p.ackSeq false (b2n y.ctrl) y))
        (State.setLink_setLink s f p p)
    have hrest := ih (flitOf f p.ackSeq false (b2n y.ctrl) y :: o)
    rw [← hfirst] at hrest
    refine hrest.trans ?_
    rw [List.map_cons, List.reverse_cons, List.append_assoc, List.singleton_append]

/-- The port once its flits have been sent again. -/
def LinkPort.replayed (l : LinkPort) : LinkPort := { l with replays := satAdd l.replays 1, stuck := l.stuck + 1, toAck := 0 }

/-- Every unacknowledged flit is sent again; the sixteenth replay in a row begins a retrain. -/
theorem replay_eq {s : State} {f : FoldPort} (hbuf : (s.link f).replayBuf ≠ []) : replay s f =
    let u := { s.setLink f (s.link f).replayed with
      out := ((s.link f).replayBuf.map fun y => flitOf f (s.link f).ackSeq false (b2n y.ctrl) y).reverse ++ s.out }
    if (s.link f).stuck + 1 ≥ 16 then startRetrain u f else u := by
  obtain ⟨y, l, hl⟩ := List.exists_cons_of_ne_nil hbuf
  have hfirst : emitFlit (s.setLink f { s.link f with replays := satAdd (s.link f).replays 1, stuck := (s.link f).stuck + 1 })
      f false (b2n y.ctrl) y =
      { s.setLink f (s.link f).replayed with out := flitOf f (s.link f).ackSeq false (b2n y.ctrl) y :: s.out } := by
    rw [emitFlit_eq, State.setLink_link, if_pos rfl, State.setLink_setLink]
    rfl
  have hsent : forAll (s.link f).replayBuf
      (s.setLink f { s.link f with replays := satAdd (s.link f).replays 1, stuck := (s.link f).stuck + 1 })
      (fun s y => emitFlit s f false (b2n y.ctrl) y) = { s.setLink f (s.link f).replayed with
        out := ((s.link f).replayBuf.map fun y => flitOf f (s.link f).ackSeq false (b2n y.ctrl) y).reverse ++ s.out } := by
    have hrest := resend_eq (p := (s.link f).replayed) rfl s f l (flitOf f (s.link f).ackSeq false (b2n y.ctrl) y :: s.out)
    rw [← hfirst] at hrest
    rw [hl, List.map_cons, List.reverse_cons, List.append_assoc, List.singleton_append]
    exact hrest
  unfold replay
  dsimp only
  rw [hsent]

theorem exec_replayTimeout_due {s : State} {f : FoldPort} (hup : (s.link f).up = true) (hbuf : (s.link f).replayBuf ≠ []) :
    exec (.replayTimeout f) s = .next (replay s f) := by
  have hexec : exec (.replayTimeout f) s = execReplayTimeout f s := rfl
  have hsome : (s.link f).replayBuf.isEmpty = false := List.isEmpty_eq_false_iff.2 hbuf
  rw [hexec, execReplayTimeout, hup, hsome]
  rfl

theorem exec_ackTimer_due {s : State} {f : FoldPort} (hup : (s.link f).up = true) (hack : (s.link f).toAck > 0) :
    exec (.ackTimer f) s = .next ((s.setLink f { s.link f with toAck := 0 }).emit (idleFlit f (s.link f) false)) := by
  have hexec : exec (.ackTimer f) s = execAckTimer f s := rfl
  have hdue : ((s.link f).up && decide ((s.link f).toAck > 0)) = true := by rw [hup, decide_eq_true hack]; rfl
  rw [hexec, execAckTimer, if_pos hdue]
  rfl

/-! ## Credits (R192, R328) -/

section Credit
variable {s : State} {f : FoldPort} {k : Byte} (n : BitVec 16) (hup : (s.link f).up = true)
include hup

theorem exec_credit_up : exec (.credit f k n) s = .next (match (s.streamsOut f)[k.toNat]? with
    | none => s
    | some st =>
      if st.src ≠ s.rank then creditStream s st n.toNat
      else pumpAll ((cutCredits (frameBack s st n.toNat) st n.toNat).modLink f fun l =>
        { l with credits := Sparse.mod 0 l.credits k.toNat (· + n.toNat) }) f) :=
  congrArg Host.Outcome.next (if_neg (by simp [hup]))

/-- The credits of a stream that this module sends. -/
theorem exec_credit_own {st : Stream} (hquiet : (s.link f).quiet) (hstream : (s.streamsOut f)[k.toNat]? = some st)
    (hown : st.src = s.rank) : exec (.credit f k n) s = .next ((cutCredits (frameBack s st n.toNat) st n.toNat).setLink f
      { s.link f with credits := Sparse.mod 0 (s.link f).credits k.toNat (· + n.toNat) }) := by
  have hlink : (cutCredits (frameBack s st n.toNat) st n.toNat).link f = s.link f := by
    unfold frameBack
    split <;> rfl
  rw [exec_credit_up n hup, hstream]
  dsimp only
  rw [if_neg (not_not_intro hown), State.modLink_eq, hlink]
  refine congrArg _ (pumpAll_quiet ?_)
  rw [State.setLink_link, if_pos rfl]
  exact hquiet

end Credit

theorem frameBack_out (s : State) (st : Stream) (n : Nat) : (frameBack s st n).out = s.out := by
  unfold frameBack
  split <;> rfl

end Sys2Proof.Machine

open Sys2Proof Sys2Proof.Machine

/-- Settles O41: a flit counts, acknowledges and takes its place by what the port has received; where nothing waits, nothing
more is sent. -/
theorem flits : Obligations.Flits := by
  unfold Obligations.Flits
  intro s f x l sym next hup hquiet
  have hcounted : ((s.setLink f (l.counted x)).link f) = l.counted x := by rw [State.setLink_link, if_pos rfl]
  refine ⟨fun hgood hack hnak => ⟨fun htype hknown hnext hroom => ?control,
      fun n k st d i c htype hslots hnext hstream hdst hcut => ?cut, fun htype hnext hseen => ?seen⟩,
    fun hfec hcrc hfirst => exec_flitReceive_badCrc hup hfec hcrc hfirst,
    fun pre y post hgood hack hnak hidle hbuf hy hpre => ?ack, fun hbuf hfew => ?replay,
    fun hbuf hmany htrain hhold => ?retrain, fun hack => exec_ackTimer_due hup hack,
    fun k n => ⟨fun hnone => ?noStream, fun st hstream => ⟨fun hsrc => ?passed, fun hown => ?own⟩⟩⟩
  case control =>
    have hplaced : flitPlaced (s.setLink f (l.counted x)) f x l.ackSeq = flitTaken (s.setLink f (l.counted x)) f x := by
      rw [flitPlaced, if_neg (by omega), if_pos hnext]
    rw [exec_flitReceive_noAck hup hgood hack hnak, hplaced,
      flitTaken_control htype hknown (by rw [hcounted]; exact hroom), hcounted, State.setLink_setLink,
      pumpAll_quiet (by rw [State.setLink_link, if_pos rfl]; exact hquiet)]
    rfl
  case seen =>
    have hplaced : flitPlaced (s.setLink f (l.counted x)) f x l.ackSeq = s.setLink f (l.counted x) := by
      rw [flitPlaced, if_neg (by omega), if_neg hnext, if_pos hseen]
    rw [exec_flitReceive_noAck hup hgood hack hnak, hplaced, pumpAll_quiet (by rw [hcounted]; exact hquiet)]
    rfl
  case cut =>
    have hplaced : flitPlaced (s.setLink f (l.counted x)) f x l.ackSeq = flitTaken (s.setLink f (l.counted x)) f x := by
      rw [flitPlaced, if_neg (by omega), if_pos hnext]
    obtain ⟨hseq, hstill, hcuts⟩ :=
      flitTaken_cut (s := s.setLink f (l.counted x)) (f := f) htype hslots hstream hdst hcut
    refine ⟨_, exec_flitReceive_noAck hup hgood hack hnak, ?_⟩
    rw [hplaced, pumpAll_quiet (hstill (by rw [hcounted]; exact hquiet))]
    exact ⟨hseq, hcuts⟩
  case ack =>
    have hplaced (u : State) : flitPlaced u f x l.ackSeq = u := if_pos (by omega)
    rw [exec_flitReceive_whole hup hgood, flitAcks_ack hack hnak hbuf hy hpre, hplaced,
      pumpAll_quiet (by rw [State.setLink_link, if_pos rfl]; exact hquiet)]
    rfl
  case replay =>
    rw [exec_replayTimeout_due hup hbuf, replay_eq hbuf]
    exact congrArg _ (if_neg (Nat.not_le.2 hfew))
  case retrain =>
    refine ⟨_, exec_replayTimeout_due hup hbuf, ?_⟩
    have hport : ({ s.setLink f l.replayed with
        out := (l.replayBuf.map fun y => flitOf f l.ackSeq false (b2n y.ctrl) y).reverse ++ s.out } : State).link f =
        l.replayed := (State.setLink_link s f _ f).trans (if_pos rfl)
    rw [replay_eq hbuf]
    dsimp only
    rw [if_pos hmany, startRetrain_begins (by rw [hport]; exact htrain) (by rw [hport]; exact hhold), hport]
    dsimp only
    rw [if_pos (show l.replayed.up = true from hup), State.emit_link, State.setLink_link, if_pos rfl]
    exact ⟨rfl, rfl, rfl⟩
  case noStream => rw [exec_credit_up n hup, hnone]
  case passed =>
    rw [exec_credit_up n hup, hstream]
    exact congrArg _ (if_pos hsrc)
  case own =>
    refine ⟨_, exec_credit_own n hup hquiet hstream hown, ?_, fun j hj => ?_, frameBack_out s st n.toNat, rfl⟩
    · rw [State.setLink_link, if_pos rfl, Sparse.mod, Sparse.get_set, if_pos rfl]
    · rw [State.setLink_link, if_pos rfl, Sparse.mod, Sparse.get_set, if_neg hj]
end

section
/-! SUPPORT. What traffic leaves (spec 13, 14; R295-R302, R308, R323-R326): completions and events touch the mailboxes, the
interrupt sources and the commands that wait, messages of the group the links, and neither the rest of the state. -/

namespace Sys2Proof.Machine

/-- A fold leaves what each of its steps leaves. -/
theorem forAll_same {α β γ : Type} (g : β → γ) (l : List α) (s : β) (f : β → α → β)
    (hf : ∀ u x, g (f u x) = g u) : g (forAll l s f) = g s :=
  forAll_inv (fun u => g u = g s) f (fun u x h => (hf u x).trans h) l s rfl

/-- A part of the state that both ends of a choice leave. -/
theorem ite_same {β γ : Type} {g : β → γ} {c : Prop} [Decidable c] {s u w : β} (hu : g u = g s) (hw : g w = g s) :
    g (if c then u else w) = g s := by
  split
  · exact hu
  · exact hw

/-! ## Mailbox traffic (R295, R298, R302) -/

/-- The state but for what completions and events touch. -/
def Melvor.besidesMail (m : Melvor) : Melvor := { m with accepted := [], heldSrcs := [], heldEvents := [] }
def State.besidesMail (s : State) : State := { s with out := [], mbox := [], irq := {}, melvor := s.melvor.besidesMail }

section OfBesidesMail
variable {s u : State} (h : u.besidesMail = s.besidesMail)
include h

theorem tiles_of_besidesMail : u.tiles = s.tiles := (congrArg State.tiles h :)
theorem hbm_of_besidesMail : u.hbm = s.hbm := (congrArg State.hbm h :)
theorem links_of_besidesMail : u.links = s.links := (congrArg State.links h :)
theorem grp_of_besidesMail : u.grp = s.grp := (congrArg State.grp h :)
theorem rel_of_besidesMail : u.rel = s.rel := (congrArg State.rel h :)
theorem melvor_of_besidesMail : u.melvor.besidesMail = s.melvor.besidesMail := (congrArg State.melvor h :)
theorem jobState_of_besidesMail : u.melvor.jobState = s.melvor.jobState :=
  (congrArg Melvor.jobState (melvor_of_besidesMail h) :)
theorem job_of_besidesMail : u.melvor.job = s.melvor.job := (congrArg Melvor.job (melvor_of_besidesMail h) :)
theorem starting_of_besidesMail : u.melvor.starting = s.melvor.starting :=
  (congrArg Melvor.starting (melvor_of_besidesMail h) :)
theorem step_of_besidesMail : u.melvor.step = s.melvor.step := (congrArg Melvor.step (melvor_of_besidesMail h) :)
theorem loss_of_besidesMail : u.melvor.loss = s.melvor.loss := (congrArg Melvor.loss (melvor_of_besidesMail h) :)
theorem lastFault_of_besidesMail : u.melvor.lastFault = s.melvor.lastFault :=
  (congrArg Melvor.lastFault (melvor_of_besidesMail h) :)

end OfBesidesMail

theorem fireIf_besidesMail (c : Bool) (s : State) (n : Nat) : (fireIf c s n).besidesMail = s.besidesMail := by cases c <;> rfl

theorem putEntry_besidesMail (s : State) (p : Port) (op status tag cmdSeq detail result : Nat) (noint : Bool) :
    (putEntry s p op status tag cmdSeq detail result noint).besidesMail = s.besidesMail :=
  ite_same rfl (ite_same rfl (fireIf_besidesMail _ _ _))

theorem flushEvents_besidesMail (p : Port) (n : Nat) : ∀ s : State, (flushEvents p n s).besidesMail = s.besidesMail := by
  induction n with
  | zero => intro s; rfl
  | succ n ih =>
    intro s
    rw [flushEvents]
    split
    · rfl
    · exact ite_same rfl ((ih _).trans (putEntry_besidesMail _ _ _ _ _ _ _ _ _))

theorem boxSettle_besidesMail (s : State) (p : Port) : (boxSettle s p).besidesMail = s.besidesMail :=
  (fireIf_besidesMail _ _ _).trans (flushEvents_besidesMail p _ s)

theorem portEvt_besidesMail (s : State) (p : Port) (code : BitVec 16) (n : Nat) :
    (portEvt s p code n).besidesMail = s.besidesMail :=
  ite_same rfl (ite_same rfl (boxSettle_besidesMail _ p))

theorem postEvent_besidesMail (s : State) (code : BitVec 16) : (postEvent s code).besidesMail = s.besidesMail := by
  have hsource : (if eventWrites code && s.resultsWait then
      s.withMelvor fun m => { m with heldSrcs := m.heldSrcs ++ [eventSource code] }
    else fire s (eventSource code)).besidesMail = s.besidesMail := ite_same rfl rfl
  refine ite_same rfl (Eq.trans (ite_same ?_ (ite_same rfl (portEvt_besidesMail _ _ _ _))) hsource)
  exact forAll_same _ _ _ _ fun u p => ite_same (portEvt_besidesMail u p code 0) rfl

theorem complete_besidesMail (s : State) (p : Port) (e : Line) (status detail result : Nat) :
    (complete s p e status detail result).besidesMail = s.besidesMail :=
  (boxSettle_besidesMail _ p).trans (ite_same rfl ((putEntry_besidesMail _ _ _ _ _ _ _ _ _).trans rfl))

theorem completeJob_besidesMail (s : State) (p : Port) (e : Line) : (completeJob s p e).besidesMail = s.besidesMail :=
  ite_same rfl (complete_besidesMail _ _ _ _ _ _)

theorem completeAll_besidesMail (s : State) (op status detail : Nat) :
    (completeAll s op status detail).besidesMail = s.besidesMail :=
  forAll_same _ _ _ _ fun _ _ => ite_same (completeJob_besidesMail _ _ _) (complete_besidesMail _ _ _ _ _ _)

/-! ## Messages and routes of the group (R308, R312, R323-R326) -/

/-- The state but for the ports and what has been sent. -/
def State.besidesLinks (s : State) : State := { s with out := [], links := [] }

section OfBesidesLinks
variable {s u : State} (h : u.besidesLinks = s.besidesLinks)
include h

theorem tiles_of_besidesLinks : u.tiles = s.tiles := (congrArg State.tiles h :)
theorem hbm_of_besidesLinks : u.hbm = s.hbm := (congrArg State.hbm h :)
theorem grp_of_besidesLinks : u.grp = s.grp := (congrArg State.grp h :)
theorem rel_of_besidesLinks : u.rel = s.rel := (congrArg State.rel h :)
theorem melvor_of_besidesLinks : u.melvor = s.melvor := (congrArg State.melvor h :)

end OfBesidesLinks

theorem queueMsg_besidesLinks (s : State) (x : BitVec 128) (m : Nat) : (queueMsg s x m).besidesLinks = s.besidesLinks := by
  unfold queueMsg
  split <;> rfl

theorem sendUp_besidesLinks (s : State) (x : BitVec 128) : (sendUp s x).besidesLinks = s.besidesLinks :=
  ite_same rfl (queueMsg_besidesLinks (s.emit (.ctrl x)) x _)

theorem sendDown_besidesLinks (s : State) (x : BitVec 128) : (sendDown s x).besidesLinks = s.besidesLinks :=
  ite_same rfl (forAll_same _ _ (s.emit (.ctrl x)) _ fun u k => queueMsg_besidesLinks u x k)

theorem broadcast_besidesLinks (s : State) (x : BitVec 128) : (broadcast s x).besidesLinks = s.besidesLinks :=
  forAll_same _ _ (s.emit (.ctrl x)) _ fun _ _ => rfl

theorem dropRoutes_besidesLinks (s : State) : (dropRoutes s).besidesLinks = s.besidesLinks :=
  forAll_same _ _ _ _ fun _ _ => rfl

theorem useRoutes_besidesLinks (s : State) : (useRoutes s).besidesLinks = s.besidesLinks :=
  forAll_same _ _ _ _ fun _ _ => ite_same rfl rfl

/-- A message that goes up is sent by a member of a group below the top. -/
theorem sendUp_out {s : State} (x : BitVec 128) (hgrp : (s.grp.grouped || s.grp.relays) = true) (htop : s.grp.top = false) :
    (sendUp s x).out = .ctrl x :: s.out := by
  have hqueued (u : State) (m : Nat) : (queueMsg u x m).out = u.out := by
    unfold queueMsg
    split <;> rfl
  unfold sendUp
  dsimp only
  rw [hgrp, htop, Bool.not_true, Bool.or_self, if_neg Bool.false_ne_true, hqueued]
  rfl

/-- A member that is no bellwether sends nothing down. -/
theorem sendDown_leaf {s : State} (x : BitVec 128) (h : s.grp.bellwether = false) : sendDown s x = s :=
  if_pos (by rw [h, Bool.not_false, Bool.or_true, Bool.true_or])

/-! ## The entry of a completion (R295, Table 13.4) -/

theorem cplEntry_status (op st tag cmdSeq d r seq : Nat) :
    Line.bytes (cplEntry op st tag cmdSeq d r seq) 2 2 = st % 2 ^ 16 := by
  unfold Line.bytes cplEntry
  dsimp only
  rw [BitVec.toNat_ofNat]
  generalize crc32c _ = c
  have hop : op % 65536 < 65536 := Nat.mod_lt _ (by decide)
  generalize op % 65536 = a at hop
  generalize tag % 2 ^ 32 = b, cmdSeq % 2 ^ 32 = x, d % 2 ^ 32 = y, r % 2 ^ 320 = z, seq % 2 ^ 32 = w
  omega

theorem cplEntry_detail (op st tag cmdSeq d r seq : Nat) :
    Line.bytes (cplEntry op st tag cmdSeq d r seq) 12 4 = d % 2 ^ 32 := by
  unfold Line.bytes cplEntry
  dsimp only
  rw [BitVec.toNat_ofNat]
  generalize crc32c _ = c
  have hop : op % 65536 < 65536 := Nat.mod_lt _ (by decide)
  have hst : st % 65536 < 65536 := Nat.mod_lt _ (by decide)
  have htag : tag % 2 ^ 32 < 2 ^ 32 := Nat.mod_lt _ (by decide)
  have hseq : cmdSeq % 2 ^ 32 < 2 ^ 32 := Nat.mod_lt _ (by decide)
  generalize op % 65536 = a, st % 65536 = e, tag % 2 ^ 32 = b, cmdSeq % 2 ^ 32 = x, r % 2 ^ 320 = z, seq % 2 ^ 32 = w at *
  omega

theorem lockstepErr_of_fwOn {s : State} (hon : s.fwOn = true) : s.melvor.lockstepErr = false := by
  simp only [State.fwOn, Bool.and_eq_true, Bool.not_eq_true'] at hon
  exact hon.2

/-- A live port's completion ring takes an entry. -/
theorem putEntry_live {s : State} {p : Port} (op status tag cmdSeq detail result : Nat) (noint : Bool)
    (hlock : s.melvor.lockstepErr = false) (hon : (s.box p).enabled = true) (hport : (s.port p).removed = false) :
    putEntry s p op status tag cmdSeq detail result noint = fireIf (!noint) ((s.setBox p { s.box p with
      cplProd := BitVec.ofNat 12 (((s.box p).cplProd.toNat + 1) % (s.box p).cplN), cplSeq := (s.box p).cplSeq + 1 }).emit
        (.cplEntry p (s.box p).cplOp ((s.box p).cplAddr (s.box p).cplProd.toNat)
          (cplEntry op status tag cmdSeq detail result (s.box p).cplSeq.toNat))) (16 * p) :=
  (if_neg (by simp [hlock])).trans (if_neg (by simp [hon, hport]))

/-- A mailbox without a pending event writes nothing as it settles. -/
theorem boxSettle_out {s : State} {p : Port} (hevents : (s.box p).events = []) : (boxSettle s p).out = s.out := by
  unfold boxSettle
  rw [hevents]
  exact fireIf_out _ _ _

/-- A command that has been accepted on a live port completes with its entry. -/
theorem complete_out {s : State} {p : Port} (e : Line) (status detail result : Nat)
    (hlive : ∀ a ∈ s.melvor.accepted, a.dead = false) (hlock : s.melvor.lockstepErr = false)
    (hon : (s.box p).enabled = true) (hport : (s.port p).removed = false) (hevents : (s.box p).events = []) :
    (complete s p e status detail result).out = .cplEntry p (s.box p).cplOp ((s.box p).cplAddr (s.box p).cplProd.toNat)
      (cplEntry (eOp e) status (eTag e) (eSeq e) detail result (s.box p).cplSeq.toNat) :: s.out := by
  have hdead : (s.melvor.accepted.any fun a => decide (a.port = p) && decide (a.entry = e) && a.dead) = false := by
    rw [List.any_eq_false]
    intro a ha
    simp [hlive a ha]
  unfold complete
  dsimp only
  rw [hdead, if_neg Bool.false_ne_true]
  generalize hu : s.withMelvor _ = u
  have hbox : u.box p = s.box p := by rw [← hu]; rfl
  rw [putEntry_live _ _ _ _ _ _ _ (by rw [← hu]; exact hlock) (by rw [hbox]; exact hon) (by rw [← hu]; exact hport),
    boxSettle_out, fireIf_out, hbox, ← hu]
  · rfl
  · rw [fireIf_box, State.emit_box, State.setBox_box, if_pos rfl, hbox]
    exact hevents

end Sys2Proof.Machine
end

section
/-! SUPPORT. Freezes and control messages (spec 14, 08; R193, R302, R325, R326): what a fold fault, the end and the resumption
of a job leave, and what each message comes to. -/

namespace Sys2Proof.Machine

/-- The freeze of a fold leaves the reliability block. -/
theorem freezeFold_rel (s : State) : (freezeFold s).rel = s.rel := by
  have hstopped : (stopDrovers (freezeTiles s)).rel = s.rel := forAll_same State.rel _ (freezeTiles s) _ fun _ _ => rfl
  unfold freezeFold
  split
  · rfl
  · rw [fire_rel, State.withMelvor_rel, hstopped]

/-! ## The job ends -/

/-- A job that has ended leaves the report of the last fault, and no journal unless the module has failed (R368). -/
theorem jobToNone_leaves (s : State) : (jobToNone s).melvor.lastFault = s.melvor.lastFault ∧
    (s.rel.fatal = false → (jobToNone s).rel.jstate = 0) := by
  have hheld : (holdShown s s.melvor.jobState s.melvor.shown).rel = s.rel ∧
      (holdShown s s.melvor.jobState s.melvor.shown).melvor.lastFault = s.melvor.lastFault := by
    unfold holdShown
    split <;> exact ⟨rfl, rfl⟩
  unfold jobToNone
  dsimp only
  generalize holdShown s s.melvor.jobState s.melvor.shown = h at hheld ⊢
  obtain ⟨hrel, hlast⟩ := hheld
  have hdone := (completeAll_besidesMail (completeAll (h.withMelvor fun m => { m with jobState := 0 }) 0x53 0 0)
    0x51 10 0).trans (completeAll_besidesMail _ 0x53 0 0)
  generalize completeAll (completeAll (h.withMelvor fun m => { m with jobState := 0 }) 0x53 0 0) 0x51 10 0 = u at hdone ⊢
  have hroutes := dropRoutes_besidesLinks u
  generalize dropRoutes u = w at hroutes ⊢
  have hwrel : w.rel = s.rel := ((rel_of_besidesLinks hroutes).trans (rel_of_besidesMail hdone)).trans hrel
  have hwlast : w.melvor.lastFault = s.melvor.lastFault :=
    (congrArg Melvor.lastFault (melvor_of_besidesLinks hroutes)).trans ((lastFault_of_besidesMail hdone).trans hlast)
  have hfatal : ((w.withMelvor fun m => { m with job := none, replace := [], stopDue := false }).withGrp
      fun g => { g with grouped := false, relays := g.grouped && g.bellwether && !g.top, boundary := none, resumes := 0
                        contribs := [], early := [], routes := 0, freezeUp := none }).rel.fatal = s.rel.fatal :=
    congrArg Reliability.fatal hwrel
  rw [hfatal]
  split
  · next hbad => exact ⟨hwlast, fun hsound => absurd (hsound.symm.trans hbad) Bool.false_ne_true⟩
  · exact ⟨hwlast, fun _ => rfl⟩

/-! ## The failed step is undone (R377) -/

theorem beforePages_jobPart (s : State) (r : Requester) (a n : Nat) : (beforePages s r a n).jobPart = s.jobPart :=
  forAll_same _ _ _ _ fun u _ => (beforeWrite_readOnly u r _).job

theorem readJournal_jobPart (s : State) (i : Nat) : (readJournal s i).1.jobPart = s.jobPart := by
  unfold readJournal
  dsimp only
  split
  · split
    · exact (hostFetch_readOnly s _ _ _ _).job
    · exact ((emit_readOnly s _).trans (setLost_readOnly _ 2)).job
  · split
    · exact ((setLost_readOnly s 2).trans (bytesRead_readOnly _ _ _)).job
    · exact (bytesRead_readOnly s _ _).job

theorem writePage_jobPart (s : State) (page v : Nat) : (writePage s page v).1.jobPart = s.jobPart := by
  have hflush (u : State) (p : Port) (c : Bool) (a : Nat) : (hostFlush u p c a).jobPart = u.jobPart := ite_same rfl rfl
  unfold writePage
  dsimp only
  split
  · split
    · exact (hflush _ _ _ _).trans ((hostStore_readOnly _ _ _ _ _ _).job.trans (beforePages_jobPart s _ _ _))
    · exact (emit_readOnly s _).job
  · exact bytesWrite_jobPart _ s _ _ _

theorem restorePages_jobPart (l : List (Nat × Nat)) : ∀ s : State, (restorePages l s).1.jobPart = s.jobPart := by
  induction l with
  | nil => intro s; rfl
  | cons x l ih =>
    intro s
    have hread := readJournal_jobPart s x.1
    have hwritten := (writePage_jobPart (readJournal s x.1).1 x.2 (readJournal s x.1).2.2).trans hread
    rw [restorePages]
    dsimp only
    split
    · exact hread
    · split
      · exact hwritten
      · exact (ih _).trans hwritten

theorem lastFault_of_jobPart {s u : State} (h : u.jobPart = s.jobPart) : u.melvor.lastFault = s.melvor.lastFault :=
  congrArg (fun x => x.melvor.lastFault) h

theorem undoStep_lastFault (s : State) (w : WriteBack) : (undoStep s w).1.melvor.lastFault = s.melvor.lastFault := by
  have hpages := restorePages_jobPart (List.zip (List.range s.rel.jindex.length) s.rel.jindex) s
  unfold undoStep
  split
  · exact lastFault_of_jobPart (setLost_readOnly s 2).job
  · rfl
  · dsimp only
    split
    · exact lastFault_of_jobPart hpages
    · rw [State.withRel_melvor, State.withMelvor_melvor]
      split
      · exact (lastFault_of_jobPart (bytesWrite_jobPart _ _ _ _ _)).trans (lastFault_of_jobPart hpages)
      · exact lastFault_of_jobPart hpages

theorem stopFailed_lastFault (s : State) : (stopFailed s).melvor.lastFault = s.melvor.lastFault :=
  ite_same (g := fun u : State => u.melvor.lastFault) (jobToNone_leaves _).1
    (ite_same (g := fun u : State => u.melvor.lastFault) rfl
      ((jobToNone_leaves _).1.trans (undoStep_lastFault s .ok)))

/-! ## A fold fault of another module (R193, R302, R325) -/

/-- The state in which the fold is frozen and the fault reported. -/
def faultNoted (s : State) (cause : Nat) : State :=
  (freezeFold s).withMelvor fun m =>
    { m with lastFault := some (faultReport (freezeFold s) cause), activatedSinceFault := false }

/-- The job that runs is faulted: its routes are given up, a pause of it ends, and the event is posted. -/
def faultJob (s : State) : State :=
  postEvent (completeAll (dropRoutes ((stepFailed s).withMelvor fun m => { m with jobState := 4 })) 0x51 0x12 0) 0x0102

theorem foldFault_eq (s : State) (cause : Nat) : foldFault s cause false =
    if (faultNoted s cause).melvor.jobState = 1 ∨ (faultNoted s cause).melvor.jobState = 2 then faultJob (faultNoted s cause)
    else if (faultNoted s cause).melvor.jobState = 5 then stopFailed (faultNoted s cause) else faultNoted s cause := rfl

theorem faultJob_leaves (s : State) : (faultJob s).melvor.jobState = 4 ∧
    (faultJob s).melvor.lastFault = s.melvor.lastFault ∧ (faultJob s).grp = s.grp ∧ (faultJob s).hbm = s.hbm := by
  unfold faultJob
  generalize hw : (stepFailed s).withMelvor (fun m => { m with jobState := 4 }) = w
  have hmail := (postEvent_besidesMail (completeAll (dropRoutes w) 0x51 0x12 0) 0x0102).trans (completeAll_besidesMail _ _ _ _)
  have hroutes := dropRoutes_besidesLinks w
  have hmelvor := melvor_of_besidesLinks hroutes
  rw [jobState_of_besidesMail hmail, lastFault_of_besidesMail hmail, grp_of_besidesMail hmail, hbm_of_besidesMail hmail,
    hmelvor, grp_of_besidesLinks hroutes, hbm_of_besidesLinks hroutes, ← hw]
  exact ⟨rfl, rfl, rfl, rfl⟩

/-- The report of the fault names its cause, whatever becomes of the job. -/
theorem foldFault_cause (s : State) (cause : Nat) :
    ((foldFault s cause false).melvor.lastFault.map FoldFault.cause) = some cause := by
  have hnoted : (faultNoted s cause).melvor.lastFault = some (faultReport (freezeFold s) cause) := rfl
  have hlast : (foldFault s cause false).melvor.lastFault = (faultNoted s cause).melvor.lastFault := by
    rw [foldFault_eq]
    split
    · exact (faultJob_leaves _).2.1
    · split
      · exact stopFailed_lastFault _
      · rfl
  rw [hlast, hnoted]
  rfl

/-- A running job is faulted; the group and the bytes of HBM stay. -/
theorem foldFault_running {s : State} (hrun : s.melvor.jobState = 1) (cause : Nat) :
    (foldFault s cause false).melvor.jobState = 4 ∧ (foldFault s cause false).grp = s.grp ∧
      (foldFault s cause false).hbm = s.hbm := by
  have hfrozen := freezeFold_readOnly s
  have hkept : (freezeFold s).melvor.jobState = s.melvor.jobState :=
    (congrArg (fun x => x.melvor.jobState) hfrozen.job :)
  have hstate : (faultNoted s cause).melvor.jobState = 1 := hkept.trans hrun
  obtain ⟨hfaulted, -, hgrp, hhbm⟩ := faultJob_leaves (faultNoted s cause)
  rw [foldFault_eq, if_pos (.inl hstate), hgrp, hhbm]
  have hsame : (freezeFold s).grp = s.grp := grp_of_jobPart hfrozen.job
  exact ⟨hfaulted, hsame, hfrozen.hbm⟩

/-- The fold is frozen with the cause of another module's freeze. -/
theorem foldFault_freezes {s u : State} (hmelvor : u.melvor = s.melvor) (htiles : u.tiles = s.tiles)
    (hfold : s.melvor.fold.isSome = true) (hrunning : s.melvor.foldFrozen = false) (cause : Nat) :
    (foldFault u cause false).melvor.foldFrozen = true ∧
      ((foldFault u cause false).melvor.lastFault.map FoldFault.cause) = some cause ∧
      ∀ k, (s.tile k).inFold = true → ((foldFault u cause false).tile k).router.frozen = true := by
  rw [← hmelvor] at hfold hrunning
  have hstands := foldFault_foldStopped (freezeFold_stops hfold hrunning) cause false
  refine ⟨hstands.frozen, foldFault_cause u cause, fun k hk => ?_⟩
  have htile : (foldFault u cause false).tile k = (u.tile k).freeze := by
    rw [State.tile, hstands.tiles]
    exact freezeTiles_tile u k
  rw [htile]
  refine (freeze_inFold ?_).1
  rw [State.tile, htiles]
  exact hk

/-! ## Resumption (R326) -/

/-- A paused job goes on with the step in progress. -/
theorem resumeJob_paused {s : State} {j : Job} (hjob : s.melvor.job = some j) (hpaused : s.melvor.jobState = 3) :
    (resumeJob s).melvor.jobState = 1 ∧ (resumeJob s).melvor.step = s.melvor.step ∧ (resumeJob s).grp.boundary = none := by
  have hrenewed : (renewRecords s j).melvor = s.melvor := forAll_same State.melvor _ _ _ fun _ _ => rfl
  have hsame : (if !decide (s.melvor.jobState = 4) && s.melvor.activatedSinceFault then renewRecords s j else s).melvor =
      s.melvor := ite_same (g := State.melvor) hrenewed rfl
  have hfailed : decide (s.melvor.jobState = 4) = false := by rw [hpaused]; rfl
  unfold resumeJob
  rw [hjob]
  dsimp only
  rw [hfailed] at hsame ⊢
  generalize (if !false && s.melvor.activatedSinceFault then renewRecords s j else s) = u at hsame ⊢
  rw [if_neg Bool.false_ne_true]
  have hroutes := useRoutes_besidesLinks ((u.withMelvor fun m =>
    { m with jobState := 1, shown := m.step, activatedSinceFault := false }).withGrp fun g =>
      { g with boundary := none, resumes := 0, frozenStep := none, freezeUp := none })
  rw [melvor_of_besidesLinks hroutes, grp_of_besidesLinks hroutes]
  exact ⟨rfl, (congrArg Melvor.step hsame :), rfl⟩

/-- A member below the top resumes its job, where nothing is to be placed and steps are left (R26, R239). -/
theorem groupResumes_paused {s : State} {j : Job} (htop : s.grp.top = false) (hjob : s.melvor.job = some j)
    (hpaused : s.melvor.jobState = 3) (hplaced : s.melvor.replace = []) (hmore : s.melvor.step ≠ 0xFFFFFFFF#32) :
    (groupResumes s).melvor.jobState = 1 ∧ (groupResumes s).melvor.step = s.melvor.step ∧
      (groupResumes s).grp.boundary = none := by
  have hresumes : groupResumes s = completeAll (resumeJob s) 0x52 0 0 := by
    unfold groupResumes
    simp only [htop, hplaced, hmore, Bool.and_false, Bool.false_eq_true, if_false]
  obtain ⟨hstate, hstep, hboundary⟩ := resumeJob_paused hjob hpaused
  have hmail := completeAll_besidesMail (resumeJob s) 0x52 0 0
  rw [hresumes]
  exact ⟨(jobState_of_besidesMail hmail).trans hstate, (step_of_besidesMail hmail).trans hstep,
    (congrArg Group.boundary (grp_of_besidesMail hmail)).trans hboundary⟩

/-! ## FREEZE (R193, R325) -/

/-- The message that a FREEZE is passed on as. -/
def freezeMsg (origin : BitVec 16) (t : Word) (cause : Byte) : BitVec 128 := ctlMsg 0x15 0 origin.toNat t.toNat cause.toNat

/-- A FREEZE of a step that is frozen already counts. -/
def freezeCounted (s : State) : State := { s with grp := { s.grp with freezeMerged := satAdd s.grp.freezeMerged 1 } }

section Freeze
variable {s : State} (down : Bool) (origin : BitVec 16) (t : Word) (cause : Byte) (hfw : s.fwOn = true)
include hfw

/-- A member of a group whose job has not ended. -/
theorem exec_freeze_member (hgrp : s.grp.grouped = true) (hjob : s.melvor.jobState ≠ 0) :
    exec (.freeze down origin t cause) s = .next (
      if s.grp.bellwether && !s.grp.top && !down then
        if s.grp.freezeUp = some t then freezeCounted s
        else (sendUp s (freezeMsg origin t cause)).withGrp fun g => { g with freezeUp := some t }
      else if s.grp.frozenStep = some t then freezeCounted s
      else
        let u := (sendDown s (freezeMsg origin t cause)).withGrp fun g => { g with frozenStep := some t }
        if u.melvor.foldFrozen then u else (foldFault u 3 false).withGrp fun g => { g with relays := false }) :=
  congrArg Host.Outcome.next ((if_neg (by simp [hfw])).trans
    ((if_neg (by simpa using fun _ => hjob)).trans (if_neg (by simpa [hgrp] using hjob))))

/-- A bellwether whose own job has ended passes the freeze on. -/
theorem exec_freeze_relay (hrelays : s.grp.relays = true) (hjob : s.melvor.jobState = 0) :
    exec (.freeze down origin t cause) s = .next (
      if down then (sendDown s (freezeMsg origin t cause)).withGrp fun g => { g with relays := false }
      else sendUp s (freezeMsg origin t cause)) :=
  congrArg Host.Outcome.next ((if_neg (by simp [hfw])).trans (if_pos (by simp [hrelays, hjob])))

/-- A module without a job in a group. -/
theorem exec_freeze_alone (hnone : s.grp.grouped = false ∨ s.melvor.jobState = 0)
    (hrelays : s.grp.relays = false ∨ s.melvor.jobState ≠ 0) : exec (.freeze down origin t cause) s = .next (
      if s.joinKind.1 = 1 && !s.melvor.foldFrozen then foldFault (broadcast s (freezeMsg origin t cause)) 3 false else s) := by
  have hno : ¬((s.grp.relays && decide (s.melvor.jobState = 0)) = true) := by
    rcases hrelays with h | h
    · simp [h]
    · simpa using fun _ => h
  have hout : (!s.grp.grouped || decide (s.melvor.jobState = 0)) = true := by
    rcases hnone with h | h <;> simp [h]
  exact congrArg Host.Outcome.next ((if_neg (by simp [hfw])).trans ((if_neg hno).trans (if_pos hout)))

end Freeze

/-- A bellwether below the top receives from its flock. -/
theorem relays_iff {b top down : Bool} : (b && !top && !down) = true ↔ b = true ∧ top = false ∧ down = false := by
  simp [and_assoc]

/-! ## CONTROL (R326, R350) -/

section Control
variable {s : State} (down : Bool) (act : Action) (origin : BitVec 16) (t : Word) (hfw : s.fwOn = true)
  (hgrp : s.grp.grouped = true) (hjob : s.melvor.jobState ≠ 0)
include hfw hgrp hjob

/-- A CONTROL ends Night; one of the flock goes up, any other acts on this module. -/
theorem exec_control_member : exec (.control down act origin t) s = .next (
    if s.grp.bellwether && !s.grp.top && !down then
      sendUp (nightExit s) (ctlMsg 0x16 (actionCode act) origin.toNat t.toNat)
    else groupAction act origin t (nightExit s)) :=
  congrArg Host.Outcome.next ((if_neg (by simp [hfw])).trans
    ((if_neg (by simpa using fun _ => hjob)).trans (if_neg (by simpa [hgrp] using hjob))))

theorem exec_control_acts (hrelays : ¬(s.grp.bellwether = true ∧ s.grp.top = false ∧ down = false)) :
    exec (.control down act origin t) s = .next (groupAction act origin t (nightExit s)) := by
  rw [exec_control_member down act origin t hfw hgrp hjob, if_neg (mt relays_iff.1 hrelays)]

end Control

/-- A pause that the top names: the step in progress is the boundary. -/
theorem groupAction_pause_top {s : State} (origin : BitVec 16) (t : Word) (htop : s.grp.top = true)
    (hrun : s.melvor.jobState = 1) : (groupAction .pause origin t s).melvor.jobState = 2 ∧
      (groupAction .pause origin t s).grp.boundary = some s.melvor.step := by
  have hpause : groupAction .pause origin t s = (sendDown (s.withMelvor fun m => { m with jobState := 2 })
      (ctlMsg 0x16 1 origin.toNat s.melvor.step.toNat)).withGrp fun g => { g with boundary := some s.melvor.step } := by
    have hat : (if s.grp.top = true then s.melvor.step else t) = s.melvor.step := if_pos htop
    unfold groupAction
    dsimp only
    rw [if_pos (.inl hrun), hat]
    rfl
  have hsent := melvor_of_besidesLinks (sendDown_besidesLinks (s.withMelvor fun m => { m with jobState := 2 })
    (ctlMsg 0x16 1 origin.toNat s.melvor.step.toNat))
  rw [hpause, State.withGrp_melvor, hsent]
  exact ⟨rfl, rfl⟩

section Leaf
variable {s : State} (origin : BitVec 16) (t : Word) (htop : s.grp.top = false) (hbell : s.grp.bellwether = false)
include htop hbell

omit htop in
theorem sendDown_withMelvor_leaf (f : Melvor → Melvor) (x : BitVec 128) : sendDown (s.withMelvor f) x = s.withMelvor f :=
  sendDown_leaf x hbell

/-- A member that is no bellwether pauses at the step named. -/
theorem groupAction_pause_leaf (hrun : s.melvor.jobState = 1 ∨ s.melvor.jobState = 2) : groupAction .pause origin t s =
    { s with melvor := { s.melvor with jobState := 2 }, grp := { s.grp with boundary := some t } } := by
  have hat : (if s.grp.top = true then s.melvor.step else t) = t := if_neg (by simp [htop])
  unfold groupAction
  dsimp only
  rw [if_pos hrun, hat, sendDown_withMelvor_leaf hbell]
  rfl

/-- A member that is no bellwether stops at the step named. -/
theorem groupAction_stop_leaf (hrun : s.melvor.jobState = 1 ∨ s.melvor.jobState = 2) : groupAction .stop origin t s =
    { s with melvor := { s.melvor with jobState := 5 }, grp := { s.grp with boundary := some t } } := by
  have hat : (if s.grp.top = true then s.melvor.step else t) = t := if_neg (by simp [htop])
  have hpaused : ¬s.melvor.jobState = 3 := by rcases hrun with h | h <;> rw [h] <;> decide
  have hfaulted : ¬s.melvor.jobState = 4 := by rcases hrun with h | h <;> rw [h] <;> decide
  unfold groupAction
  dsimp only
  rw [if_neg hpaused, if_neg hfaulted, hat, sendDown_withMelvor_leaf hbell]
  rfl

omit htop in
/-- A paused job ends at once. -/
theorem groupAction_stopNow_leaf (hpaused : s.melvor.jobState = 3) (hsound : s.rel.fatal = false) :
    (groupAction .stopNow origin t s).melvor.jobState = 0 ∧ (groupAction .stopNow origin t s).melvor.job = none ∧
      (groupAction .stopNow origin t s).rel.jstate = 0 := by
  have hfatal : (freezeFold s).rel.fatal = false := freezeFold_rel s ▸ hsound
  have hended : groupAction .stopNow origin t s = (jobToNone ((freezeFold s).withMelvor fun m =>
      { m with jobState := 5, activatedSinceFault := false })).withGrp fun g => { g with relays := false } := by
    unfold groupAction
    dsimp only
    rw [if_pos hpaused, sendDown_leaf _ hbell]
  rw [hended]
  generalize hu : (freezeFold s).withMelvor (fun m => { m with jobState := 5, activatedSinceFault := false }) = u
  have hsound' : u.rel.fatal = false := by rw [← hu]; exact hfatal
  obtain ⟨hstate, hnone, -⟩ := jobToNone_progress u
  exact ⟨hstate, hnone, (jobToNone_leaves u).2 hsound'⟩

/-- A paused job goes on with the step in progress. -/
theorem groupAction_resume_leaf (hpaused : s.melvor.jobState = 3) :
    groupAction .resume origin t s = groupResumes s := by
  unfold groupAction
  dsimp only
  rw [hpaused, htop, sendDown_leaf _ hbell]
  rfl

end Leaf

end Sys2Proof.Machine

open Sys2Proof Sys2Proof.Machine

/-- Settles O45: each message is counted, passed on or performed by the place of the module in the tree and the state of its
job; what the fold fault, the end and the resumption of the job leave gives the rest. -/
theorem freezeAndControl : Obligations.FreezeAndControl := by
  unfold Obligations.FreezeAndControl
  intro s down act origin t cause g st relays merged frozen hfw
  refine ⟨fun hgrp hjob => ?member, fun hrelays hjob => ?relay, fun hnone hrelays hrunning => ?alone,
    fun hgrp hjob => ?control⟩
  case member =>
    have hexec := exec_freeze_member down origin t cause hfw hgrp hjob
    refine ⟨fun hup hseen => ?_, fun hup hnew => ?_, fun hact hseen => ?_, fun hact hnew hrun hrunning hfold => ?_⟩
    · rw [hexec, if_pos (relays_iff.2 hup), if_pos hseen]
      rfl
    · have hsent := sendUp_besidesLinks s (freezeMsg origin t cause)
      have hmelvor := melvor_of_besidesLinks hsent
      have htiles := tiles_of_besidesLinks hsent
      rw [if_pos (relays_iff.2 hup), if_neg hnew] at hexec
      exact ⟨_, hexec, rfl, sendUp_out _ (by rw [hgrp, Bool.true_or]) hup.2.1, hmelvor, htiles⟩
    · rw [hexec, if_neg (mt relays_iff.1 hact), if_pos hseen]
      rfl
    · have hsent := sendDown_besidesLinks s (freezeMsg origin t cause)
      have hmelvor := melvor_of_besidesLinks hsent
      have htiles := tiles_of_besidesLinks hsent
      have hhbm := hbm_of_besidesLinks hsent
      rw [if_neg (mt relays_iff.1 hact), if_neg hnew] at hexec
      dsimp only at hexec
      generalize hu : (sendDown s (freezeMsg origin t cause)).withGrp (fun g => { g with frozenStep := some t }) = u at hexec
      replace hmelvor : u.melvor = s.melvor := by rw [← hu]; exact hmelvor
      replace htiles : u.tiles = s.tiles := by rw [← hu]; exact htiles
      replace hhbm : u.hbm = s.hbm := by rw [← hu]; exact hhbm
      have hstep : u.grp.frozenStep = some t := by rw [← hu]; rfl
      obtain ⟨hstate, hkept, hbytes⟩ := foldFault_running (s := u) (by rw [hmelvor]; exact hrun) 3
      have hfrozen := foldFault_freezes hmelvor htiles hfold hrunning 3
      rw [hmelvor, hrunning, if_neg Bool.false_ne_true] at hexec
      exact ⟨_, hexec, hfrozen, hstate, (congrArg Group.frozenStep hkept).trans hstep, hbytes.trans hhbm⟩
  case relay =>
    have hexec := exec_freeze_relay down origin t cause hfw hrelays hjob
    cases down with
    | true =>
      have hsent := sendDown_besidesLinks s (freezeMsg origin t cause)
      have hmelvor := melvor_of_besidesLinks hsent
      have htiles := tiles_of_besidesLinks hsent
      have hgrp := congrArg (fun g : Group => { g with relays := false }) (grp_of_besidesLinks hsent)
      exact ⟨_, hexec, hmelvor, htiles, hgrp, fun h => absurd h (by decide)⟩
    | false =>
      have hsent := sendUp_besidesLinks s (freezeMsg origin t cause)
      have hmelvor := melvor_of_besidesLinks hsent
      have htiles := tiles_of_besidesLinks hsent
      have hgrp : (sendUp s (freezeMsg origin t cause)).grp = { g with relays := true } := by
        rw [grp_of_besidesLinks hsent, ← hrelays]
      exact ⟨_, hexec, hmelvor, htiles, hgrp, fun _ htop => sendUp_out _ (by rw [hrelays, Bool.or_true]) htop⟩
  case alone =>
    have hexec := exec_freeze_alone down origin t cause hfw hnone hrelays
    refine ⟨fun x hfold hpart => ?_, fun hwhole => ?_⟩
    · have hkind : (decide (s.joinKind.1 = 1) && !s.melvor.foldFrozen) = true := by
        simp [State.joinKind, hfold, hpart, hrunning]
      have hsent := broadcast_besidesLinks s (freezeMsg origin t cause)
      rw [if_pos hkind] at hexec
      exact ⟨_, hexec, foldFault_freezes (melvor_of_besidesLinks hsent) (tiles_of_besidesLinks hsent)
        (by rw [hfold]; rfl) hrunning 3⟩
    · have hkind : (decide (s.joinKind.1 = 1) && !s.melvor.foldFrozen) = false := by
        cases hfold : s.melvor.fold with
        | none => simp [State.joinKind, hfold]
        | some x => simp [State.joinKind, hfold, hwhole x hfold]
      rw [hexec, hkind, if_neg Bool.false_ne_true]
  case control =>
    refine ⟨fun hup => ?_, fun htop hrun => ?_, fun htop hbell => ?_⟩
    · have hsent := sendUp_besidesLinks (nightExit s) (ctlMsg 0x16 (actionCode act) origin.toNat t.toNat)
      have hmelvor := melvor_of_besidesLinks hsent
      have hkept := grp_of_besidesLinks hsent
      have hexec := exec_control_member down act origin t hfw hgrp hjob
      rw [if_pos (relays_iff.2 hup)] at hexec
      refine ⟨_, hexec, hmelvor, hkept, ?_⟩
      have hout := sendUp_out (s := nightExit s) (ctlMsg 0x16 (actionCode act) origin.toNat t.toNat)
        (show (g.grouped || g.relays) = true by rw [hgrp, Bool.true_or]) hup.2.1
      cases act <;> exact hout
    · have hexec := exec_control_acts down .pause origin t hfw hgrp hjob fun h => absurd (htop.symm.trans h.2.1) (by decide)
      exact ⟨_, hexec, groupAction_pause_top origin t htop hrun⟩
    · have hexec (a : Action) :=
        exec_control_acts down a origin t hfw hgrp hjob fun h => absurd (hbell.symm.trans h.1) (by decide)
      refine ⟨fun hrun => ?_, fun hrun => ?_, fun hpaused hsound => ?_, fun hpaused hsome hplaced hmore => ?_⟩
      · rw [hexec, groupAction_pause_leaf (s := nightExit s) origin t htop hbell hrun]
        rfl
      · rw [hexec, groupAction_stop_leaf (s := nightExit s) origin t htop hbell hrun]
        rfl
      · exact ⟨_, hexec .stopNow, groupAction_stopNow_leaf (s := nightExit s) origin t hbell hpaused hsound⟩
      · obtain ⟨j, hj⟩ := Option.isSome_iff_exists.1 hsome
        have hresumes := groupAction_resume_leaf (s := nightExit s) origin t htop hbell hpaused
        refine ⟨_, (hexec .resume).trans (congrArg _ hresumes), ?_⟩
        exact groupResumes_paused (s := nightExit s) htop hj hpaused hplaced hmore
end

section
/-! SUPPORT. A link that trains (spec 14; R307-R309, R327, R329, R410): what the end of a retrain, HOLD_DOWN and the partner's
HELLO leave of the port. -/

namespace Sys2Proof.Machine

/-- The register of a fold port that begins a retrain and holds it down. -/
theorem regListed_foldPort : ∀ f : FoldPort, regListed (0x20 + f.val) 8 = true := by decide

/-! ## Retrains (R307) -/

theorem exec_fecLockLoss_up {s : State} {f : FoldPort} (lane : Fin 8) (hup : (s.link f).up = true) :
    exec (.fecLockLoss f lane) s = .next (startRetrain s f) := congrArg _ (if_pos hup)

section Writer
variable {s : State} {f : FoldPort} {w : Agent} (hw : MayWrite s w (0x20 + f.val) 8)
include hw

theorem exec_retrain_mayWrite : exec (.retrain w f) s = .next (startRetrain s f) :=
  congrArg _ (writeGate_of_mayWrite s w _ (regListed_foldPort f) hw)

theorem exec_holdDown_mayWrite (v : Bool) : exec (.holdDown w f v) s = .next (writeHoldDown s f v) :=
  congrArg _ (writeGate_of_mayWrite s w _ (regListed_foldPort f) hw)

end Writer

/-- What a port that goes down shows. -/
def LinkPort.down (l : LinkPort) : LinkPort := { l with
  up := false, training := false, half := false, version := 0, downCnt := satAdd l.downCnt 1, replayBuf := [], toAck := 0
  discarding := false, stuck := 0 }

theorem exchFault_link (s : State) (code port stream src k : Nat) : (exchFault s code port stream src).link k = s.link k := by
  unfold exchFault
  split <;> rfl

theorem portDown_link (s : State) (f : FoldPort) : (portDown s f).link f = (s.link f).down := by
  have hport : (fireIf (s.link f).up (s.setLink f (s.link f).down) (96 + f.val)).link f = (s.link f).down := by
    rw [fireIf_link, State.setLink_link, if_pos rfl]
  unfold portDown
  dsimp only
  split
  · rw [exchFault_link]
    exact hport
  · exact hport

/-- A port that carries a route of the group and goes down is exchange fault 1 (R327). -/
theorem portDown_routed {s : State} {f : FoldPort} (hrouted : (s.link f).routed = true) (hfault : s.grp.fault = none) :
    (portDown s f).grp.fault = some ⟨1, BitVec.ofNat 4 f.val, 0, 0⟩ := by
  unfold portDown
  dsimp only
  rw [if_pos hrouted, exchFault_first _ _ _ _ (by rw [fireIf_grp]; exact hfault)]
  rfl

section RetrainEnd
variable {s : State} {f : FoldPort} {bad : BitVec 8} {late : Bool}
  (htrain : (s.link f).training = true) (hup : (s.link f).up = true)
include htrain hup

theorem exec_retrainEnd_whole (hquiet : (s.link f).quiet) :
    exec (.retrainEnd f 0 false) s = .next (s.setLink f { s.link f with half := false, training := false }) := by
  refine congrArg Host.Outcome.next ((if_neg (by simp [htrain])).trans ((if_neg (by simp)).trans
    ((if_pos rfl).trans ((if_pos hup).trans ?_))))
  rw [State.modLink_eq, State.modLink_eq, State.setLink_link, if_pos rfl, State.setLink_setLink]
  refine pumpAll_quiet ?_
  rw [State.setLink_link, if_pos rfl]
  exact hquiet

/-- One half of the lanes is whole, on a link of version 3. -/
theorem exec_retrainEnd_half (hquiet : (s.link f).quiet) (hbad : bad ≠ 0) (hhalf : halfWhole bad = true)
    (hversion : (s.link f).version = 3) : exec (.retrainEnd f bad false) s =
      .next ((setHalf s f).setLink f { s.link f with half := true, training := false }) := by
  have hport : (setHalf s f).link f = { s.link f with half := true } := by
    rw [setHalf, fireIf_link, State.modLink_eq, State.setLink_link, if_pos rfl]
  refine congrArg Host.Outcome.next ((if_neg (by simp [htrain])).trans ((if_neg (by simp)).trans
    ((if_neg hbad).trans ((if_pos (by simp [hhalf, hversion])).trans ((if_pos hup).trans ?_)))))
  rw [State.modLink_eq, hport]
  refine pumpAll_quiet ?_
  rw [State.setLink_link, if_pos rfl]
  exact hquiet

/-- A retrain that takes too long, or leaves no half of the lanes whole, takes the port down. -/
theorem exec_retrainEnd_down (h : late = true ∨ halfWhole bad = false) :
    exec (.retrainEnd f bad late) s = .next (portDown s f) := by
  refine congrArg Host.Outcome.next ((if_neg (by simp [htrain])).trans ?_)
  cases late with
  | true => exact if_pos (by simp [hup])
  | false =>
    have hnone : halfWhole bad = false := h.resolve_left (by simp)
    have hbad : bad ≠ 0 := by
      rintro rfl
      exact absurd hnone (by decide)
    exact (if_neg (by simp)).trans ((if_neg hbad).trans (if_neg (by simp [hnone])))

end RetrainEnd

/-! ## HOLD_DOWN (R329) -/

theorem writeHoldDown_routed {s : State} {f : FoldPort} (hrouted : (s.link f).routed = true) : writeHoldDown s f true = s :=
  if_pos hrouted

theorem writeHoldDown_stops {s : State} {f : FoldPort} (hrouted : (s.link f).routed = false) :
    ((writeHoldDown s f true).link f).holdDown = true ∧ ((writeHoldDown s f true).link f).up = false ∧
      ((writeHoldDown s f true).link f).training = false := by
  have hheld : writeHoldDown s f true = (if (s.link f).up then portDown s f else s).modLink f fun l =>
      { l with holdDown := true, training := false } := if_neg (by simp [hrouted])
  have hdown : ((if (s.link f).up then portDown s f else s).link f).up = false := by
    split
    · rw [portDown_link]
      rfl
    · exact Bool.eq_false_iff.2 ‹_›
  rw [hheld, State.modLink_eq, State.setLink_link, if_pos rfl]
  exact ⟨rfl, hdown, rfl⟩

/-! ## HELLO (R308, R309, R410) -/

/-- The port once the partner's HELLO is taken. -/
def LinkPort.greeted (l : LinkPort) (v : BitVec 2) (rank : BitVec 12) (q : BitVec 4) (ready mis : Bool) : LinkPort := { l with
  peerSlot := BitVec.ofNat 3 rank.toNat, peerBoard := BitVec.ofNat 9 (rank.toNat / 8), peerPort := q, peerValid := true
  peerReady := ready, peerVersion := v, miswired := mis }

/-- The partner's straps are not those of a module that this port can lead to. -/
def State.miswiredTo (s : State) (f : FoldPort) (rank : BitVec 12) : Bool :=
  decide (rank.toNat = s.rank) ||
    (decide (rank.toNat / 8 = s.grp.board.toNat) && decide (f.val ≠ boardPort s.grp.slot.toNat (rank.toNat % 8)))

/-- The HELLO of the partner is taken on a port that trains. -/
def helloTaken (s : State) (f : FoldPort) (v : BitVec 2) (rank : BitVec 12) (q : BitVec 4) (ready : Bool) : State :=
  let mis := s.miswiredTo f rank
  let u := s.setLink f ((s.link f).greeted v rank q ready mis)
  linkComplete (fireIf (mis && !(s.link f).miswired) u (96 + f.val)) f (max 1 (min 3 v.toNat))

section Hello
variable {s : State} {f : FoldPort} {v : BitVec 2} {rank : BitVec 12} {q : BitVec 4} {ready : Bool}

theorem exec_linkHello_training (htrain : (s.link f).training = true) (hhold : (s.link f).holdDown = false) :
    exec (.linkHello f v rank q ready) s = .next (helloTaken s f v rank q ready) := by
  refine congrArg Host.Outcome.next ((if_neg (by simp [htrain, hhold])).trans ?_)
  rw [if_pos htrain]
  rfl

/-- A port that is down trains again, and answers with its HELLO. -/
def helloBack (s : State) (f : FoldPort) : State :=
  (s.setLink f { s.link f with training := true, half := false }).emit (.linkCtrl f (helloMsg s f))

theorem helloBack_link (s : State) (f : FoldPort) :
    (helloBack s f).link f = { s.link f with training := true, half := false } :=
  (State.setLink_link s f _ f).trans (if_pos rfl)

/-- The HELLO of a partner that trains brings a port that is down into training. -/
theorem exec_linkHello_down (htrain : (s.link f).training = false) (hup : (s.link f).up = false)
    (hhold : (s.link f).holdDown = false) (hstage : s.boot.stage ≥ 2) : exec (.linkHello f v rank q ready) s =
      .next (helloTaken (helloBack s f) f v rank q ready) := by
  refine congrArg Host.Outcome.next ((if_neg (by simpa [hup, hhold] using fun _ => hstage)).trans ?_)
  rw [if_neg (Bool.eq_false_iff.1 htrain)]
  rfl

/-- The port once its training is complete. -/
def LinkPort.trained (l : LinkPort) (n : Nat) : LinkPort := { l with
  up := true, training := false, version := BitVec.ofNat 2 n, nextFseq := 0, replayBuf := [], ackSeq := 0xFFF#12, toAck := 0
  discarding := false, stuck := 0 }

theorem linkComplete_ready {n : Nat} (htrain : (s.link f).training = true) (hup : (s.link f).up = false)
    (hhold : (s.link f).holdDown = false) (hhalf : (s.link f).half = false) (hpeer : (s.link f).peerReady = true)
    (hfw : s.melvor.fwReady = true) : linkComplete s f n = s.setLink f ((s.link f).trained n) :=
  (if_neg (by simp [htrain, hup, hhold, hpeer, hfw])).trans (if_neg (by simp [hhalf]))

theorem linkComplete_waits {n : Nat} (h : ¬((s.link f).peerReady = true ∧ s.melvor.fwReady = true)) :
    linkComplete s f n = s := by
  refine if_pos ?_
  rw [not_and_or] at h
  rcases h with h | h <;> simp [h]

/-- A port that is set shows what it was set to, whether or not a source fires. -/
theorem greeted_link (s : State) (f : FoldPort) (l : LinkPort) (c : Bool) (n : Nat) :
    (fireIf c (s.setLink f l) n).link f = l := by rw [fireIf_link, State.setLink_link, if_pos rfl]

theorem helloTaken_ready (htrain : (s.link f).training = true) (hup : (s.link f).up = false)
    (hhold : (s.link f).holdDown = false) (hhalf : (s.link f).half = false) (hready : ready = true)
    (hfw : s.melvor.fwReady = true) : helloTaken s f v rank q ready =
      (fireIf (s.miswiredTo f rank && !(s.link f).miswired)
        (s.setLink f ((s.link f).greeted v rank q ready (s.miswiredTo f rank))) (96 + f.val)).setLink f
        (((s.link f).greeted v rank q ready (s.miswiredTo f rank)).trained (max 1 (min 3 v.toNat))) := by
  have hport := greeted_link s f ((s.link f).greeted v rank q ready (s.miswiredTo f rank))
    (s.miswiredTo f rank && !(s.link f).miswired) (96 + f.val)
  refine (linkComplete_ready (by rw [hport]; exact htrain) (by rw [hport]; exact hup) (by rw [hport]; exact hhold)
    (by rw [hport]; exact hhalf) (by rw [hport]; exact hready) (by rw [fireIf_melvor]; exact hfw)).trans ?_
  rw [hport]

theorem helloTaken_waits (h : ¬(ready = true ∧ s.melvor.fwReady = true)) : helloTaken s f v rank q ready =
    fireIf (s.miswiredTo f rank && !(s.link f).miswired)
      (s.setLink f ((s.link f).greeted v rank q ready (s.miswiredTo f rank))) (96 + f.val) := by
  refine linkComplete_waits ?_
  rw [greeted_link, fireIf_melvor]
  exact h

/-- A partner of another board is never miswired. -/
theorem miswiredTo_otherBoard (f : FoldPort) (h : rank.toNat / 8 ≠ s.grp.board.toNat) : s.miswiredTo f rank = false := by
  have hself : rank.toNat ≠ s.rank := by
    have hslot := s.grp.slot.isLt
    unfold State.rank
    omega
  rw [State.miswiredTo, decide_eq_false hself, decide_eq_false h]
  rfl

end Hello

/-- The version that both sides take: the partner's, from 1 on. -/
theorem helloVersion (v : BitVec 2) : BitVec.ofNat 2 (max 1 (min 3 v.toNat)) = if v = 0 then 1 else v := by
  revert v
  decide

end Sys2Proof.Machine
end

section
/-! SUPPORT. The forming of a group (spec 14, 08; R191, R310-R312): how a JOIN goes on and what it joins, a start that is
refused, and the job that begins. -/

namespace Sys2Proof.Machine

/-! ## A start that is refused -/

/-- The starting job is given up; the job that runs, memory and the tiles stand. -/
def StartRefused (s u : State) : Prop := u.melvor.starting = none ∧ u.melvor.jobState = s.melvor.jobState ∧
  u.melvor.job = s.melvor.job ∧ u.hbm = s.hbm ∧ u.tiles = s.tiles

/-- The state once the starting job is dropped, before JOB_START is answered. -/
def startDropped (s : State) : State :=
  (s.withMelvor fun m => { m with starting := none }).withGrp fun g => { g with heard := [] }

theorem refuseStart_eq (s : State) : refuseStart s = completeAll (startDropped s) 0x50 9 0x80000030 := rfl

theorem refuseStart_besidesMail (s : State) : (refuseStart s).besidesMail = (startDropped s).besidesMail :=
  completeAll_besidesMail _ _ _ _

theorem refuseStart_links (s : State) : (refuseStart s).links = s.links :=
  links_of_besidesMail (s := startDropped s) (refuseStart_besidesMail s)

theorem refuseStart_refused (s : State) : StartRefused s (refuseStart s) := by
  have h := refuseStart_besidesMail s
  exact ⟨starting_of_besidesMail h, jobState_of_besidesMail (s := startDropped s) h,
    job_of_besidesMail (s := startDropped s) h, hbm_of_besidesMail (s := startDropped s) h,
    tiles_of_besidesMail (s := startDropped s) h⟩

/-! ## JOIN (R310) -/

/-- The link of this module on port `f`, where it can carry the group's traffic. -/
def State.ownLink (s : State) (f : Nat) : Option GLink :=
  let l := s.link f
  if l.up && !l.miswired && l.peerValid then
    some ⟨s.rank, f, l.peerBoard.toNat * 8 + l.peerSlot.toNat, l.peerPort.toNat, l.version.toNat⟩
  else none

theorem ownLink_port {s : State} {f : Nat} {l : GLink} (h : s.ownLink f = some l) : l.ap = f := by
  unfold State.ownLink at h
  dsimp only at h
  split at h
  · cases h
    rfl
  · cases h

/-- A message that goes out on some of the links waits on each of their ports. -/
theorem forAll_queueOn_outMsgs {s : State} {F : Nat → Option GLink} (hF : ∀ f l, F f = some l → l.ap = f) (P : GLink → Bool)
    (x : BitVec 128) (k n : Nat) :
    ((forAll (((List.range n).filterMap F).filter P) s fun s l => queueOn s l.ap x).link k).outMsgs =
      (s.link k).outMsgs ++ if k < n ∧ (F k).any P = true then [x] else [] := by
  induction n with
  | zero => simp [forAll]
  | succ n ih =>
    have hlast : ((List.range (n + 1)).filterMap F).filter P =
        ((List.range n).filterMap F).filter P ++ ((F n).toList).filter P := by
      rw [List.range_succ, List.filterMap_append, List.filter_append]
      cases hn : F n <;> simp [hn]
    rw [hlast, forAll, List.foldl_append]
    change ((forAll _ (forAll _ s _) _).link k).outMsgs = _
    generalize forAll _ s _ = u at ih ⊢
    by_cases hany : (F n).any P = true
    · obtain ⟨l, hn, hP⟩ := (Option.any_eq_true _ _).1 hany
      have hone : forAll ((F n).toList.filter P) u (fun s l => queueOn s l.ap x) = queueOn u n x := by
        simp [forAll, hn, hP, hF n l hn]
      rw [hone, queueOn, State.modLink_eq, State.setLink_link]
      by_cases hk : k = n
      · subst hk
        rw [if_pos rfl, ih, if_neg (by simp), if_pos ⟨Nat.lt_succ_self k, hany⟩, List.append_nil]
      · rw [if_neg hk, ih]
        exact congrArg _ (if_congr (and_congr_left fun _ => by omega) rfl rfl)
    · have hnone : (F n).toList.filter P = [] := by
        cases hn : F n <;> simp_all
      have hiff : (k < n + 1 ∧ (F k).any P = true) ↔ (k < n ∧ (F k).any P = true) :=
        and_congr_left fun hk =>
          ⟨fun h => (Nat.lt_succ_iff_lt_or_eq.1 h).resolve_right fun h => hany (h ▸ hk), Nat.lt_succ_of_lt⟩
      rw [hnone]
      exact ih.trans (congrArg _ (if_congr hiff.symm rfl rfl))

/-- A JOIN is heard: the module keeps it, and passes it on. -/
def joinPassed (s : State) (f : FoldPort) (x : Nat × Nat × Nat × BitVec 64 × Nat) (msg : BitVec 128) : State :=
  let s := s.withGrp fun g => { g with heard := g.heard ++ [x] }
  forAll (s.ownLinks.filter fun l => decide (l.ap ≠ f.val) && decide (l.b ≠ x.1) && decide (l.ver ≥ 2)) s fun s l =>
    queueOn s l.ap msg

theorem joinPassed_besidesLinks (s : State) (f : FoldPort) (x : Nat × Nat × Nat × BitVec 64 × Nat) (msg : BitVec 128) :
    (joinPassed s f x msg).besidesLinks = (s.withGrp fun g => { g with heard := g.heard ++ [x] }).besidesLinks :=
  forAll_same _ _ _ _ fun _ _ => rfl

/-- A JOIN goes on over the other links of version 2, but not to the module that it names. -/
theorem joinPassed_outMsgs (s : State) (f : FoldPort) (x : Nat × Nat × Nat × BitVec 64 × Nat) (msg : BitVec 128) (k : Nat)
    (hk : k < 12) : let l := s.link k
    ((joinPassed s f x msg).link k).outMsgs = l.outMsgs ++
      if k ≠ f.val ∧ l.up = true ∧ l.miswired = false ∧ l.peerValid = true ∧ l.version.toNat ≥ 2 ∧
        l.peerBoard.toNat * 8 + l.peerSlot.toNat ≠ x.1 then [msg] else [] := by
  intro l
  refine (forAll_queueOn_outMsgs (s := s.withGrp fun g => { g with heard := g.heard ++ [x] })
    (fun f l h => ownLink_port (s := s) h) _ msg k 12).trans (congrArg _ (if_congr ?_ rfl rfl))
  have hport : s.ownLink k = if l.up && !l.miswired && l.peerValid then
    some ⟨s.rank, k, l.peerBoard.toNat * 8 + l.peerSlot.toNat, l.peerPort.toNat, l.version.toNat⟩ else none := rfl
  rw [hport]
  by_cases hown : (l.up && !l.miswired && l.peerValid) = true
  · rw [if_pos hown]
    simp only [Bool.and_eq_true, Bool.not_eq_true'] at hown
    obtain ⟨⟨hup, hwired⟩, hvalid⟩ := hown
    simp [hk, hup, hwired, hvalid, and_assoc, and_comm]
  · rw [if_neg hown]
    simp only [Bool.and_eq_true, Bool.not_eq_true'] at hown
    simp only [Option.any_none, Bool.false_eq_true, and_false, false_iff]
    rintro ⟨-, hup, hwired, hvalid, -⟩
    exact hown ⟨⟨hup, hwired⟩, hvalid⟩

theorem joinPassed_melvor (s : State) (f : FoldPort) (x : Nat × Nat × Nat × BitVec 64 × Nat) (msg : BitVec 128) :
    (joinPassed s f x msg).melvor = s.melvor := (melvor_of_besidesLinks (joinPassed_besidesLinks s f x msg) :)

theorem joinPassed_grp (s : State) (f : FoldPort) (x : Nat × Nat × Nat × BitVec 64 × Nat) (msg : BitVec 128) :
    (joinPassed s f x msg).grp = { s.grp with heard := s.grp.heard ++ [x] } :=
  (grp_of_besidesLinks (joinPassed_besidesLinks s f x msg) :)

/-- A start that is refused after the JOIN has gone on is refused to the module. -/
theorem StartRefused.of_joinPassed {s u : State} {f : FoldPort} {x : Nat × Nat × Nat × BitVec 64 × Nat} {msg : BitVec 128}
    (h : StartRefused (joinPassed s f x msg) u) : StartRefused s u := by
  obtain ⟨hstart, hstate, hjob, hhbm, htiles⟩ := h
  have hpassed := joinPassed_besidesLinks s f x msg
  have hm : (joinPassed s f x msg).hbm = s.hbm := (hbm_of_besidesLinks hpassed :)
  have ht : (joinPassed s f x msg).tiles = s.tiles := (tiles_of_besidesLinks hpassed :)
  rw [joinPassed_melvor] at hstate hjob
  exact ⟨hstart, hstate, hjob, hhbm.trans hm, htiles.trans ht⟩

theorem joinKind_fst (s : State) :
    s.joinKind.1 = match s.melvor.fold with | some x => b2n x.partitioned | none => 0 := by
  unfold State.joinKind
  cases s.melvor.fold with
  | none => rfl
  | some x => cases hpart : x.partitioned <;> simp [hpart, b2n]

section Join
variable {s : State} {f : FoldPort} {rank : BitVec 12} {kind : Byte} {part : BitVec 16} {key : BitVec 64} {modules : BitVec 16}

/-- The message with which a JOIN goes on. -/
def joinMsg (kind : Byte) (part : BitVec 16) (key : BitVec 64) (modules : BitVec 16) : BitVec 128 :=
  ctlMsg 0x10 kind.toNat part.toNat (key.toNat % 2 ^ 32) (key.toNat / 2 ^ 32 + modules.toNat * 2 ^ 32)

theorem exec_join_ignored (h : (rank.toNat, kind.toNat, part.toNat, key, modules.toNat) ∈ s.grp.heard ∨
    (s.link f).up = false ∨ (s.link f).miswired = true) : exec (.join f rank kind part key modules) s = .next s := by
  refine congrArg Host.Outcome.next ?_
  by_cases hoff : (!s.fwOn || !(s.link f).up || (s.link f).miswired) = true
  · exact if_pos hoff
  · simp only [Bool.or_eq_true, Bool.not_eq_true', not_or, Bool.not_eq_false, Bool.not_eq_true] at hoff
    obtain ⟨⟨hon, hup⟩, hwired⟩ := hoff
    have hheard : (rank.toNat, kind.toNat, part.toNat, key, modules.toNat) ∈ s.grp.heard := by
      simpa [hup, hwired] using h
    exact (if_neg (by simp [hon, hup, hwired])).trans (if_pos (List.contains_iff_mem.2 hheard))

variable (hon : s.fwOn = true) (hnew : (rank.toNat, kind.toNat, part.toNat, key, modules.toNat) ∉ s.grp.heard)
  (hup : (s.link f).up = true) (hwired : (s.link f).miswired = false)
include hon hnew hup hwired

theorem exec_join_new : exec (.join f rank kind part key modules) s = .next (
    let x := (rank.toNat, kind.toNat, part.toNat, key, modules.toNat)
    let u := joinPassed s f x (joinMsg kind part key modules)
    match u.melvor.starting with
    | none => u
    | some j => joinOne u j u.joinKind.1 x) :=
  congrArg Host.Outcome.next ((if_neg (by simp [hon, hup, hwired])).trans (if_neg (by simpa using hnew)))

/-- A JOIN that comes before the module's own start is kept, and goes on. -/
theorem exec_join_kept (hstart : s.melvor.starting = none) : exec (.join f rank kind part key modules) s =
    .next (joinPassed s f (rank.toNat, kind.toNat, part.toNat, key, modules.toNat) (joinMsg kind part key modules)) := by
  rw [exec_join_new hon hnew hup hwired]
  dsimp only
  rw [joinPassed_melvor, hstart]

/-- A JOIN goes on, and joins the start that waits. -/
theorem exec_join_starting {j : Job} (hstart : s.melvor.starting = some j) : exec (.join f rank kind part key modules) s =
    .next (joinOne (joinPassed s f (rank.toNat, kind.toNat, part.toNat, key, modules.toNat) (joinMsg kind part key modules)) j
      s.joinKind.1 (rank.toNat, kind.toNat, part.toNat, key, modules.toNat)) := by
  rw [exec_join_new hon hnew hup hwired]
  dsimp only
  rw [joinPassed_melvor, hstart]
  dsimp only
  rw [joinKind_fst, joinPassed_melvor, ← joinKind_fst]

end Join

section JoinOne
variable {u : State} {j : Job} {mine rank k part modules : Nat} {key : BitVec 64}

theorem joinOne_links (x : Nat × Nat × Nat × BitVec 64 × Nat) : (joinOne u j mine x).links = u.links :=
  ite_same rfl (ite_same (ite_same (refuseStart_links u) rfl) (ite_same (refuseStart_links u) rfl))

theorem joinOne_link (x : Nat × Nat × Nat × BitVec 64 × Nat) (i : Nat) : (joinOne u j mine x).link i = u.link i := by
  rw [State.link, joinOne_links, State.link]

theorem joinOne_other (h : key ≠ u.grp.key ∨ modules ≠ j.modules ∨ k ≠ mine) :
    joinOne u j mine (rank, k, part, key, modules) = u := if_pos (by simpa [or_assoc] using .inr h)

variable (hstart : u.melvor.starting = some j) (hkey : key = u.grp.key) (hmodules : modules = j.modules) (hkind : k = mine)
include hstart hkey hmodules hkind

/-- A JOIN of this module's group, where its member has not joined yet. -/
theorem joinOne_fresh (hfresh : (rank, part) ∉ u.grp.joined) : joinOne u j mine (rank, k, part, key, modules) =
    if u.grp.joined.any fun x => decide (x.1 = rank) || (decide (mine = 1) && decide (x.2 = part)) then refuseStart u
    else u.withGrp fun g => { g with joined := g.joined ++ [(rank, part)] } :=
  (if_neg (by simp [hstart, hkey, hmodules, hkind])).trans (if_neg (by simpa using hfresh))

/-- A JOIN of a member that has joined. -/
theorem joinOne_again (hjoined : (rank, part) ∈ u.grp.joined) : joinOne u j mine (rank, k, part, key, modules) =
    if rank = u.rank then refuseStart u else u :=
  (if_neg (by simp [hstart, hkey, hmodules, hkind])).trans (if_pos (List.contains_iff_mem.2 hjoined))

end JoinOne

/-! ## JOIN_TIMEOUT -/

theorem exec_joinTimeout_idle {s : State} (hstart : s.melvor.starting = none) : exec .joinTimeout s = .next s :=
  congrArg Host.Outcome.next (if_neg (by simp [hstart]))

theorem exec_joinTimeout_starting {s : State} {j : Job} (hon : s.fwOn = true) (hstart : s.melvor.starting = some j) :
    exec .joinTimeout s = .next (refuseStart s) := congrArg Host.Outcome.next (if_pos (by simp [hon, hstart]))

/-- The JOB_START of a start that is refused completes with BAD_ARG and names MODULES. -/
theorem refuseStart_out {s : State} {a : Accepted} (hon : s.fwOn = true)
    (ha : (s.melvor.accepted.filter fun c => c.started && !c.done && decide (eOp c.entry = 0x50)) = [a])
    (hlive : ∀ c ∈ s.melvor.accepted, c.dead = false) (hevents : (s.box a.port).events = [])
    (hbox : (s.box a.port).enabled = true) (hport : (s.port a.port).removed = false) :
    ∃ op at_ e, (refuseStart s).out = .cplEntry a.port op at_ e :: s.out ∧ Line.bytes e 2 2 = 9 ∧
      Line.bytes e 12 4 = 0x80000030 := by
  have hlock := lockstepErr_of_fwOn hon
  have hone : refuseStart s =
      complete (startDropped s) a.port a.entry 9 0x80000030 (startDropped s).statusResult := by
    have hlist : ((startDropped s).melvor.accepted.filter fun c =>
        c.started && !c.done && decide (eOp c.entry = 0x50)) = [a] := ha
    rw [refuseStart_eq, completeAll, hlist]
    rfl
  have hout := complete_out (s := startDropped s) a.entry 9 0x80000030 (startDropped s).statusResult hlive hlock hbox
    hport hevents
  exact ⟨_, _, _, (congrArg State.out hone).trans hout, cplEntry_status _ _ _ _ _ _ _, cplEntry_detail _ _ _ _ _ _ _⟩

/-! ## The job begins (R301, R310-R312) -/

/-- What the start of a job leaves of the job, of the module's place in its group, and of memory. -/
structure GroupStart where
  jobState : BitVec 3
  job : Option Job
  starting : Option Job
  step : Word
  loss : LossState
  grouped : Bool
  member : BitVec 12
  modules : BitVec 13
  ranks : List Nat
  bellwether : Bool
  top : Bool
  hbm : Sparse Byte

def State.groupStart (s : State) : GroupStart :=
  { jobState := s.melvor.jobState, job := s.melvor.job, starting := s.melvor.starting, step := s.melvor.step
    loss := s.melvor.loss, grouped := s.grp.grouped, member := s.grp.member, modules := s.grp.modules, ranks := s.grp.ranks
    bellwether := s.grp.bellwether, top := s.grp.top, hbm := s.hbm }

theorem groupStart_of_besidesMail {s u : State} (h : u.besidesMail = s.besidesMail) : u.groupStart = s.groupStart := by
  unfold State.groupStart
  rw [jobState_of_besidesMail h, job_of_besidesMail h, starting_of_besidesMail h, step_of_besidesMail h, loss_of_besidesMail h,
    grp_of_besidesMail h, hbm_of_besidesMail h]

theorem groupStart_of_besidesLinks {s u : State} (h : u.besidesLinks = s.besidesLinks) : u.groupStart = s.groupStart := by
  unfold State.groupStart
  rw [melvor_of_besidesLinks h, grp_of_besidesLinks h, hbm_of_besidesLinks h]

theorem ReadOnly.groupStart {s u : State} (h : ReadOnly s u) : u.groupStart = s.groupStart := by
  have hgrp : u.grp = s.grp := congrArg JobPart.grp h.job
  have hmelvor : ({ u.melvor with foldFrozen := false } : Melvor) = { s.melvor with foldFrozen := false } :=
    congrArg JobPart.melvor h.job
  have hstate : u.melvor.jobState = s.melvor.jobState := (congrArg Melvor.jobState hmelvor :)
  have hjob : u.melvor.job = s.melvor.job := (congrArg Melvor.job hmelvor :)
  have hstart : u.melvor.starting = s.melvor.starting := (congrArg Melvor.starting hmelvor :)
  have hstep : u.melvor.step = s.melvor.step := (congrArg Melvor.step hmelvor :)
  have hloss : u.melvor.loss = s.melvor.loss := (congrArg Melvor.loss hmelvor :)
  unfold State.groupStart
  rw [hstate, hjob, hstart, hstep, hloss, hgrp, h.hbm]

theorem startRecords_groupStart (s : State) (j : Job) (start : Word) (lse : Nat) :
    (startRecords s j start lse).groupStart = s.groupStart := forAll_same _ _ _ _ fun _ _ => rfl

theorem resetRel_groupStart (s : State) (v : Word) : (resetRel s v).groupStart = s.groupStart :=
  forAll_same _ _ _ _ fun _ _ => rfl

theorem beginStep_groupStart (s : State) : (beginStep s).groupStart = s.groupStart := by
  have hfired := (fireIf_readOnly (s.journal.isNone && decide (s.rel.jstate ≠ 2)) s 146).groupStart
  unfold beginStep
  dsimp only
  generalize fireIf (s.journal.isNone && decide (s.rel.jstate ≠ 2)) s 146 = u at hfired ⊢
  rw [← hfired]
  split
  · exact (tableRead_readOnly u _ _).groupStart
  · rfl

theorem queueFault_groupStart (s : State) (d code q row lane tag : Nat) :
    (queueFault s d code q row lane tag).groupStart = s.groupStart := by
  unfold queueFault droverFault
  split <;> rfl

theorem checkHolds_groupStart (s : State) : (checkHolds s).groupStart = s.groupStart := by
  refine forAll_same _ _ _ _ fun u d => forAll_same _ _ _ _ fun w y => ?_
  unfold badHold
  split
  · exact ite_same (queueFault_groupStart _ _ _ _ _ _ _) rfl
  · rfl

theorem fixRoutes_groupStart (s : State) (links : List GLink) : (fixRoutes s links).groupStart = s.groupStart :=
  forAll_same State.groupStart _ _ _ fun _ _ => rfl

theorem fixRoutes_snap (s : State) (links : List GLink) : (fixRoutes s links).snap = s.snap :=
  forAll_same State.snap _ _ _ fun _ _ => rfl

theorem useRoutes_snap (s : State) : (useRoutes s).snap = s.snap := forAll_same _ _ _ _ fun _ _ => ite_same rfl rfl

/-- The module takes its place in the group. -/
def groupNamed (s : State) (j : Job) (ranks : List Nat) (i b : Nat) (cuts : List GCut) : State :=
  s.withGrp fun g => { g with
    member := BitVec.ofNat 12 i, modules := BitVec.ofNat 13 j.modules, bellwether := decide (i % 64 = 0), top := decide (i = 0)
    grouped := true, b := BitVec.ofNat 4 b, q := BitVec.ofNat 10 (j.modules / max 1 b), ranks := ranks, cuts := cuts
    boundary := none, resumes := 0, frozenStep := none, freezeUp := none, contribs := [], early := [], heard := []
    relays := false, nv0 := false, sat0 := false, nv1 := false, sat1 := false }

theorem groupNamed_groupStart (s : State) (j : Job) (ranks : List Nat) (i b : Nat) (cuts : List GCut) :
    (groupNamed s j ranks i b cuts).groupStart = { s.groupStart with
      grouped := true, member := BitVec.ofNat 12 i, modules := BitVec.ofNat 13 j.modules, ranks := ranks
      bellwether := decide (i % 64 = 0), top := decide (i = 0) } := rfl

/-- The group has formed, and its routes are fixed. -/
def groupTaken (s : State) (j : Job) (ranks : List Nat) (i b : Nat) (links : List GLink) (cuts : List GCut) : State :=
  useRoutes (fixRoutes (fire (groupNamed s j ranks i b cuts) 38) links)

theorem groupTaken_groupStart (s : State) (j : Job) (ranks : List Nat) (i b : Nat) (links : List GLink) (cuts : List GCut) :
    (groupTaken s j ranks i b links cuts).groupStart = (groupNamed s j ranks i b cuts).groupStart := by
  rw [groupTaken, groupStart_of_besidesLinks (useRoutes_besidesLinks _), fixRoutes_groupStart, (fire_readOnly _ 38).groupStart]

theorem groupTaken_snap (s : State) (j : Job) (ranks : List Nat) (i b : Nat) (links : List GLink) (cuts : List GCut) :
    (groupTaken s j ranks i b links cuts).snap = s.snap := (useRoutes_snap _).trans (fixRoutes_snap _ _)

/-- The job takes its state: its loss scale, its objects and its first step. -/
def jobTaken (s : State) (j : Job) : State :=
  let l := s.startLoss j
  let sh := j.shares.toNat
  let s := { s with arb :=
    if sh = 0 then { split := decide (j.modules > 4), read16 := 8, write16 := 4, remote16 := 4 }
    else { split := decide (j.modules > 4), read16 := BitVec.ofNat 4 sh, write16 := BitVec.ofNat 4 (sh / 16)
           remote16 := BitVec.ofNat 4 (sh / 256) } }
  let s := s.withSnap fun x => if l.2 then { x with held := none } else x
  s.withMelvor fun m => { m with
    jobState := 1, job := some j, starting := none, step := j.start, shown := j.start, unpub := none, loss := l.1, evtCount := 0
    objects := jobObjects s (leNat j.desc) j, activatedSinceFault := false, replace := [] }

theorem jobTaken_groupStart (s : State) (j : Job) : (jobTaken s j).groupStart = { s.groupStart with
    jobState := 1, job := some j, starting := none, step := j.start, loss := (s.startLoss j).1 } := rfl

/-- The open member streams are told the member. -/
def membersTold (s : State) : State :=
  forAll (List.range 16) s fun s d =>
    forAll ((s.drover d).opens.filter fun y => decide (oKind y.2.rcd = 3) && decide (oClass y.2.rcd = 4) && !y.2.member) s
      fun s y => s.modQueue d y.1 fun q =>
        { q with member := true, rx := q.rx ++ [gwToken (memberRecord s.grp) (oQueue q.rcd) true] }

/-- No stream is final yet. -/
def finalsCleared (s : State) : State :=
  forAll (List.range 16) s fun s d => forAll (s.drover d).opens s fun s y => s.modQueue d y.1 fun q => { q with final := 0 }

theorem membersTold_groupStart (s : State) : (membersTold s).groupStart = s.groupStart :=
  forAll_same State.groupStart _ _ _ fun _ _ => forAll_same State.groupStart _ _ _ fun _ _ => rfl

theorem finalsCleared_groupStart (s : State) : (finalsCleared s).groupStart = s.groupStart :=
  forAll_same State.groupStart _ _ _ fun _ _ => forAll_same State.groupStart _ _ _ fun _ _ => rfl

theorem beginJob_eq (s : State) (j : Job) (ranks : List Nat) (i b : Nat) (links : List GLink) (cuts : List GCut) :
    beginJob s j ranks i b links cuts =
      let u := groupTaken s j ranks i b links cuts
      checkHolds (completeAll (beginStep (finalsCleared (membersTold
        (startRecords (resetRel (jobTaken u j) (j.start - 1)) j j.start (u.startLoss j).1.lse)))) 0x50 0 0) := rfl

/-- The job that begins, and the module's place among the ranks. -/
theorem beginJob_groupStart {s : State} {j : Job} {ranks : List Nat} {i b : Nat} {links : List GLink} {cuts : List GCut}
    (hheld : s.snap.held = none) : (beginJob s j ranks i b links cuts).groupStart =
      { jobState := 1, job := some j, starting := none, step := j.start, loss := { lse := j.lseInit }, grouped := true
        member := BitVec.ofNat 12 i, modules := BitVec.ofNat 13 j.modules, ranks := ranks, bellwether := decide (i % 64 = 0)
        top := decide (i = 0), hbm := s.hbm } := by
  rw [beginJob_eq]
  dsimp only
  rw [checkHolds_groupStart, groupStart_of_besidesMail (completeAll_besidesMail _ _ _ _), beginStep_groupStart,
    finalsCleared_groupStart, membersTold_groupStart, startRecords_groupStart, resetRel_groupStart]
  have hloss : (groupTaken s j ranks i b links cuts).startLoss j = ({ lse := j.lseInit }, false) := by
    rw [State.startLoss, groupTaken_snap, hheld]
  rw [jobTaken_groupStart, hloss, groupTaken_groupStart, groupNamed_groupStart]
  rfl

/-! ## GROUP_FORMED -/

/-- The ranks that have joined, in the order of the members: by PART_INDEX in a partition's group. -/
def State.joinedRanks (s : State) : List Nat :=
  (sortBy (fun x y => decide (x ≤ y)) (s.grp.joined.map fun y => if s.joinKind.1 = 1 then y.2 * 4096 + y.1 else y.1)).map
    (· % 4096)

/-- Some member cannot be reached, or does not reach this one. -/
def State.unlinked (s : State) (links : List GLink) : Bool :=
  s.joinedRanks.any fun r => decide (r ≠ s.rank) &&
    ((nextHop (s.graphOf links) r s.rank).isNone || (nextHop (s.graphOf links) s.rank r).isNone)

theorem unlinked_iff (s : State) (links : List GLink) : s.unlinked links = false ↔ ∀ r ∈ s.joinedRanks, r ≠ s.rank →
    (nextHop (s.graphOf links) r s.rank).isSome = true ∧ (nextHop (s.graphOf links) s.rank r).isSome = true := by
  simp only [State.unlinked, List.any_eq_false, Bool.and_eq_true, decide_eq_true_eq, Bool.or_eq_true, not_and, not_or,
    Option.isNone_iff_eq_none, Option.isSome_iff_ne_none, ne_eq]

section Formed
variable {s : State} {j : Job} (links : List GLink) (cuts : List GCut)

theorem exec_groupFormed_idle (hstart : s.melvor.starting = none) : exec (.groupFormed links cuts) s = .next s :=
  congrArg Host.Outcome.next (by rw [hstart])

variable (hstart : s.melvor.starting = some j)
include hstart

theorem exec_groupFormed_blocked (hblocked : s.groupsBlocked j = true) : exec (.groupFormed links cuts) s = .next s := by
  have hexec : exec (.groupFormed links cuts) s = execGroupFormed links cuts s := rfl
  rw [hexec, execGroupFormed, hstart]
  exact congrArg Host.Outcome.next (if_pos (by simp [hblocked]))

/-- MODULES modules have joined: the job begins, unless a member is beyond reach, a link has too many streams or the boards
differ in size. -/
theorem exec_groupFormed_counted (hon : s.fwOn = true) (hcount : s.grp.joined.length = j.modules)
    (hblocked : s.groupsBlocked j = false) : exec (.groupFormed links cuts) s = .next (
      let ranks := s.joinedRanks
      let b := (boardCounts ranks).headD 1
      if s.unlinked links then s
      else if badRoutes (s.graphOf links) ranks cuts || (boardCounts ranks).any fun c => c ≠ b then refuseStart s
      else beginJob s j ranks (ranks.findIdx fun r => r = s.rank) b links cuts) := by
  have hexec : exec (.groupFormed links cuts) s = execGroupFormed links cuts s := rfl
  rw [hexec, execGroupFormed, hstart]
  exact congrArg Host.Outcome.next (if_neg (by simp [hon, hcount, hblocked]))

end Formed

end Sys2Proof.Machine
open Sys2Proof Sys2Proof.Machine

/-- Settles O42: a link by the state of its port, and a group by what its JOINs and its links show. -/
theorem linksAndGroups : Obligations.LinksAndGroups := by
  unfold Obligations.LinksAndGroups
  refine ⟨?links, ?group⟩
  case links =>
    intro s f w l began
    refine ⟨fun htrain hhold => ?begins,
      fun htrain hup hquiet => ⟨?whole, fun bad hbad hhalf hversion => ?half, fun bad late hbad => ?down⟩,
      fun hw => ⟨fun hrouted => ?kept, fun hrouted => ?held⟩,
      fun v rank q htrain hup hhold hhalf hfw hboard hwired => ?hello,
      fun v rank q ready htrain hup hhold hstage => ?partner⟩
    case begins =>
      have hbegins := startRetrain_begins htrain hhold
      refine ⟨fun hup lane => ?_, fun hw => ?_⟩
      · rw [exec_fecLockLoss_up lane hup, hbegins]
        exact congrArg _ (if_pos hup)
      · rw [exec_retrain_mayWrite hw, hbegins]
    case whole => exact exec_retrainEnd_whole htrain hup hquiet
    case half =>
      refine ⟨_, exec_retrainEnd_half htrain hup hquiet hbad hhalf hversion, ?_, fun hnow => ?_⟩
      · rw [State.setLink_link, if_pos rfl]
      · have hlink : (s.link f).half = true := hnow
        rw [State.setLink_irq, setHalf, hlink]
        rfl
    case down =>
      refine ⟨_, exec_retrainEnd_down htrain hup hbad, ?_, ?_, ?_, portDown_routed⟩ <;> rw [portDown_link] <;> rfl
    case kept => rw [exec_holdDown_mayWrite hw, writeHoldDown_routed hrouted]
    case held => exact ⟨_, exec_holdDown_mayWrite hw true, writeHoldDown_stops hrouted⟩
    case hello =>
      have hwire := miswiredTo_otherBoard f hboard
      rw [exec_linkHello_training htrain hhold, helloTaken_ready htrain hup hhold hhalf rfl hfw, hwire, Bool.false_and,
        LinkPort.trained, helloVersion]
      exact congrArg _ (State.setLink_setLink _ _ _ _)
    case partner =>
      refine ⟨_, exec_linkHello_down htrain hup hhold hstage, ?_⟩
      have hport : (helloBack s f).link f = { l with training := true, half := false } := helloBack_link s f
      by_cases h : ready = true ∧ s.melvor.fwReady = true
      · obtain ⟨hready, hfw⟩ := h
        rw [helloTaken_ready (s := helloBack s f) (by rw [hport]) (by rw [hport]; exact hup)
          (by rw [hport]; exact hhold) (by rw [hport]) hready hfw,
          hport, if_pos ⟨hready, hfw⟩, State.setLink_link, if_pos rfl, State.setLink_out, fireIf_out]
        exact ⟨rfl, rfl, rfl, rfl, rfl, rfl⟩
      · rw [helloTaken_waits (s := helloBack s f) h, hport, if_neg h, greeted_link, fireIf_out]
        exact ⟨rfl, rfl, rfl, rfl, hup, rfl⟩
  case group =>
    intro s f rank kind part key modules g mine x refused msg hon
    have hmine : s.joinKind.1 = mine := joinKind_fst s
    refine ⟨exec_join_ignored, fun hnew hup hwired => ?join,
      fun hstart => ⟨exec_joinTimeout_idle hstart, fun links cuts => exec_groupFormed_idle links cuts hstart⟩,
      fun j hstart => ⟨⟨_, exec_joinTimeout_starting hon hstart, refuseStart_refused s,
        fun a ha hlive hevents hbox hport => refuseStart_out hon ha hlive hevents hbox hport⟩,
        fun links cuts hblocked => exec_groupFormed_blocked links cuts hstart hblocked,
        fun links cuts hcount hblocked => ?formed⟩⟩
    case join =>
      have hout := joinPassed_outMsgs s f x msg
      have hmelvor := joinPassed_melvor s f x msg
      have hgrp := joinPassed_grp s f x msg
      have hrefused {w : State} (h : StartRefused (joinPassed s f x msg) w) : StartRefused s w := h.of_joinPassed
      cases hstart : s.melvor.starting with
      | none =>
        refine ⟨_, exec_join_kept hon hnew hup hwired hstart, hout, fun _ => ⟨hmelvor, hgrp⟩, fun j hj => ?_⟩
        exact absurd hj (by simp)
      | some j =>
        have hexec : exec (.join f rank kind part key modules) s = .next (joinOne (joinPassed s f x msg) j s.joinKind.1
            (rank.toNat, kind.toNat, part.toNat, key, modules.toNat)) := exec_join_starting hon hnew hup hwired hstart
        rw [hmine] at hexec
        generalize joinPassed s f x msg = v at hexec hout hmelvor hgrp hrefused
        have hpassed : v.melvor.starting = some j := by rw [hmelvor, hstart]
        have hgkey : v.grp.key = g.key := by rw [hgrp]
        have hjoin : v.grp.joined = g.joined := by rw [hgrp]
        refine ⟨_, hexec, fun k hk => ?_, fun hnone => absurd hnone (by simp), fun j' hj' => ?_⟩
        · rw [joinOne_link]
          exact hout k hk
        obtain rfl : j = j' := by simpa using hj'
        refine ⟨fun hother => ?_, fun hkey hmodules hkind => ⟨fun hfree => ?_, fun hfresh htaken => ?_, fun hjoined => ?_⟩⟩
        · rw [joinOne_other (by rw [hgkey]; exact hother)]
          exact ⟨hmelvor, hgrp⟩
        · have hfresh : (rank.toNat, part.toNat) ∉ v.grp.joined := by
            rw [hjoin]
            exact fun hmem => (hfree _ hmem).1 rfl
          have hnone : ¬(v.grp.joined.any fun x =>
              decide (x.1 = rank.toNat) || (decide (mine = 1) && decide (x.2 = part.toNat))) = true := by
            rw [hjoin]
            simpa using hfree
          rw [joinOne_fresh hpassed (hkey.trans hgkey.symm) hmodules hkind hfresh, if_neg hnone]
          exact ⟨hmelvor, by rw [State.withGrp_grp, hgrp]⟩
        · have hany : (v.grp.joined.any fun x =>
              decide (x.1 = rank.toNat) || (decide (mine = 1) && decide (x.2 = part.toNat))) = true := by
            rw [hjoin]
            simpa using htaken
          rw [joinOne_fresh hpassed (hkey.trans hgkey.symm) hmodules hkind (by rw [hjoin]; exact hfresh), if_pos hany]
          exact hrefused (refuseStart_refused _)
        · have hown : v.rank = s.rank := by
            rw [State.rank, hgrp]
            rfl
          rw [joinOne_again hpassed (hkey.trans hgkey.symm) hmodules hkind (by rw [hjoin]; exact hjoined), hown]
          refine ⟨fun hself => ?_, fun hother => ?_⟩
          · rw [if_pos hself]
            exact hrefused (refuseStart_refused _)
          · rw [if_neg hother]
            exact ⟨hmelvor, hgrp⟩
    case formed =>
      intro ranks graph i linked
      have hranks : s.joinedRanks = ranks := by rw [State.joinedRanks, hmine]
      have hexec := exec_groupFormed_counted links cuts hstart hon hcount hblocked
      have hlinked : s.unlinked links = false ↔ linked := by rw [unlinked_iff, hranks]
      rw [hranks] at hexec
      dsimp only at hexec
      refine ⟨fun hunlinked => ?_, fun h hbad => ⟨_, hexec, ?_⟩, fun h hbad hheld hcounts => ⟨_, hexec, ?_⟩⟩
      · rw [hexec, if_pos (Bool.of_not_eq_false fun h => hunlinked (hlinked.1 h))]
      · rw [if_neg (by simp [hlinked.2 h]), if_pos (by simp [graph, hbad])]
        exact refuseStart_refused s
      · have hsame : ((boardCounts ranks).any fun c => c ≠ (boardCounts ranks).headD 1) = false := by
          rw [List.any_eq_false]
          exact fun c hc => by simpa using hcounts c hc
        have hroutes : badRoutes (s.graphOf links) ranks cuts = false := hbad
        rw [if_neg (by simp [hlinked.2 h]), hroutes, hsame, Bool.or_self, if_neg Bool.false_ne_true]
        have hbegun := beginJob_groupStart (j := j) (ranks := ranks) (i := i) (b := (boardCounts ranks).headD 1)
          (links := links) (cuts := cuts) hheld
        revert hbegun
        generalize beginJob s j ranks _ _ links cuts = u
        intro hbegun
        exact ⟨(congrArg GroupStart.jobState hbegun :), (congrArg GroupStart.job hbegun :),
          (congrArg GroupStart.starting hbegun :), (congrArg GroupStart.step hbegun :), (congrArg GroupStart.loss hbegun :),
          (congrArg GroupStart.grouped hbegun :), (congrArg GroupStart.member hbegun :),
          (congrArg GroupStart.modules hbegun :), (congrArg GroupStart.ranks hbegun :),
          (congrArg GroupStart.bellwether hbegun :), (congrArg GroupStart.top hbegun :), (congrArg GroupStart.hbm hbegun :)⟩
end

section
/-! SUPPORT. The loader (spec 08, 13; R185-R187, R191, R301, R303): what the reads of an image leave, the end of a loader
command, and the tiles of a fold that starts. -/

namespace Sys2Proof.Machine

/-! ## Reading an image (R185, R228, R229) -/

/-- The state but for what the reads of an image count, note and report. -/
def Reliability.besidesReads (r : Reliability) : Reliability := { r with jstate := 0, lostCause := 0 }
def State.besidesReads (s : State) : State :=
  { s with hbmCtl := [], bad := [], free := 0, irq := {}, rel := s.rel.besidesReads }

theorem fresh_besidesReads (s : State) : s.fresh.2.besidesReads = s.besidesReads := rfl

theorem decodeLine_besidesReads (s : State) (a err : Nat) : (decodeLine s a err).1.besidesReads = s.besidesReads := by
  unfold decodeLine
  dsimp only
  split
  · rfl
  · split
    · rfl
    · split
      · rfl
      · split <;> rfl

theorem setLost_besidesReads (s : State) (cause : Nat) : (setLost s cause).besidesReads = s.besidesReads :=
  ite_same rfl rfl

/-- Poison in an image slot is no fatal error: a slot lies beyond the memory of the firmware. -/
theorem foundPoison_besidesReads (s : State) {a : Nat} (ha : fwTop ≤ a) : (foundPoison s a).besidesReads = s.besidesReads :=
  (congrArg State.besidesReads (if_neg fun h => absurd h.2 (Nat.not_lt.2 ha))).trans
    (ite_same (setLost_besidesReads s 4) rfl)

theorem countUe_besidesReads (s : State) {a : Nat} (poison : Bool) (ha : fwTop ≤ a) :
    (countUe s a poison).besidesReads = s.besidesReads := by
  unfold countUe
  refine (foundPoison_besidesReads _ ha).trans ?_
  split <;> rfl

theorem readLine_besidesReads (s : State) {a : Nat} (err : Nat) (ha : fwTop ≤ a) :
    (readLine s a err).1.besidesReads = s.besidesReads := by
  have hdecoded : (decodeLine (countRead s a) a err).1.besidesReads = s.besidesReads := decodeLine_besidesReads _ a err
  unfold readLine
  dsimp only
  split
  · exact hdecoded
  · exact hdecoded
  · exact (countUe_besidesReads _ _ ha).trans hdecoded

/-- A result whose state is `s` but for what reads of an image change. -/
def ReadFrom {α : Type} (s : State) (x : State × α) : Prop := x.1.besidesReads = s.besidesReads

theorem ReadFrom.ite {α : Type} {c : Prop} [Decidable c] {s : State} {x y : State × α} (hx : ReadFrom s x) (hy : ReadFrom s y) :
    ReadFrom s (if c then x else y) := by
  split
  · exact hx
  · exact hy

theorem ReadFrom.trans {α β : Type} {s : State} {x : State × α} {y : State × β} (hx : ReadFrom s x) (hy : ReadFrom x.1 y) :
    ReadFrom s y := Eq.trans hy hx

theorem ReadFrom.mk {α : Type} {s u : State} {a : α} (h : u.besidesReads = s.besidesReads) : ReadFrom s (u, a) := h

theorem bytesRead_readFrom (s : State) {a : Nat} (n : Nat) (ha : fwTop ≤ a) :
    ReadFrom s (bytesRead s a n) := by
  have hline (i : Nat) : fwTop ≤ a / 64 * 64 + 64 * i := by
    unfold fwTop at ha ⊢
    omega
  exact forAll_same (fun x : State × Bool × Nat => x.1.besidesReads) _ _ _ fun x i => readLine_besidesReads x.1 0 (hline i)

theorem scanSecs_readFrom {base : Nat} (hbase : fwTop ≤ base) (img : Nat) (all : List Sec) (l : List Sec) :
    ∀ s : State, ReadFrom s (scanSecs base img all l s) := by
  induction l with
  | nil => intro s; exact .mk rfl
  | cons x l ih =>
    intro s
    have hread : ReadFrom s (bytesRead s (base + x.off) x.n) := bytesRead_readFrom s _ (Nat.le_add_right_of_le hbase)
    exact .ite (.mk rfl) (.ite (.ite (.mk hread) (.ite (.mk hread) (hread.trans (ih _)))) (ih s))

theorem slotBase_fwTop (k : Nat) : fwTop ≤ slotBase k := by
  unfold fwTop slotBase
  omega

/-- Reading and checking an image changes nothing but counts of HBM and what they report. Its values are cleared as they
come: the kernel would compute with an image's bytes. -/
theorem loadImage_readFrom (s : State) (slot : Nat) (w : Bool) : ReadFrom s (loadImage s slot w) := by
  have hbase := slotBase_fwTop slot
  unfold loadImage
  extract_lets +onlyGivenNames base h
  have hhead : ReadFrom s h := bytesRead_readFrom s 256 hbase
  clear_value h
  refine ReadFrom.ite (.mk ((fresh_besidesReads _).trans ((fresh_besidesReads _).trans hhead))) (ReadFrom.ite (.mk hhead) ?_)
  extract_lets +onlyGivenNames t head
  have htable : ReadFrom s t := hhead.trans (bytesRead_readFrom h.1 _ (Nat.le_add_right_of_le hbase))
  clear_value t head
  refine ReadFrom.ite (.mk htable) ?_
  extract_lets +onlyGivenNames all common
  have hcommon : ReadFrom s common := htable.trans (scanSecs_readFrom hbase head all _ t.1)
  clear_value common all
  split
  · exact .mk hcommon
  refine ReadFrom.ite (.mk hcommon) ?_
  extract_lets +onlyGivenNames own
  have hown : ReadFrom s own := hcommon.trans (scanSecs_readFrom hbase head all _ common.1)
  clear_value own
  split
  · exact .mk hown
  extract_lets whole
  have hwhole : ReadFrom s whole := hown.trans (bytesRead_readFrom own.1 _ hbase)
  clear_value whole
  exact ReadFrom.ite (.mk hwhole) (.mk hwhole)

section OfBesidesReads
variable {s u : State} (h : u.besidesReads = s.besidesReads)
include h

theorem tiles_of_besidesReads : u.tiles = s.tiles := (congrArg State.tiles h :)
theorem drovers_of_besidesReads : u.drovers = s.drovers := (congrArg State.drovers h :)
theorem melvor_of_besidesReads : u.melvor = s.melvor := (congrArg State.melvor h :)
theorem flash_of_besidesReads : u.flash = s.flash := (congrArg State.flash h :)
theorem mbox_of_besidesReads : u.mbox = s.mbox := (congrArg State.mbox h :)
theorem ports_of_besidesReads : u.ports = s.ports := (congrArg State.ports h :)
theorem out_of_besidesReads : u.out = s.out := (congrArg State.out h :)
theorem retirePend_of_besidesReads : u.rel.retirePend = s.rel.retirePend :=
  (congrArg (fun x : State => x.rel.retirePend) h :)
theorem overflow_of_besidesReads : u.rel.overflow = s.rel.overflow :=
  (congrArg (fun x : State => x.rel.overflow) h :)

theorem drained_of_besidesReads : u.drained = s.drained := by
  unfold State.drained State.tile State.drover
  rw [melvor_of_besidesReads h, tiles_of_besidesReads h, drovers_of_besidesReads h]

theorem tileOk_of_besidesReads (t : Nat) : u.tileOk t = s.tileOk t := by
  unfold State.tileOk State.cols
  rw [flash_of_besidesReads h]

end OfBesidesReads

/-! ## The end of a loader command (R303) -/

section OfBesidesMail
variable {s u : State} (h : u.besidesMail = s.besidesMail)
include h

theorem fold_of_besidesMail : u.melvor.fold = s.melvor.fold := (congrArg Melvor.fold (melvor_of_besidesMail h) :)
theorem foldFrozen_of_besidesMail : u.melvor.foldFrozen = s.melvor.foldFrozen :=
  (congrArg Melvor.foldFrozen (melvor_of_besidesMail h) :)
theorem loaderBusy_of_besidesMail : u.melvor.loaderBusy = s.melvor.loaderBusy :=
  (congrArg Melvor.loaderBusy (melvor_of_besidesMail h) :)
theorem activations_of_besidesMail : u.melvor.activations = s.melvor.activations :=
  (congrArg Melvor.activations (melvor_of_besidesMail h) :)
theorem pendingAct_of_besidesMail : u.melvor.pendingAct = s.melvor.pendingAct :=
  (congrArg Melvor.pendingAct (melvor_of_besidesMail h) :)

end OfBesidesMail

/-- The loader is idle again, and a free value has been drawn for its RESULT. -/
def loaderFreed (s : State) : State :=
  (fire (s.withMelvor fun m => { m with loaderBusy := false, pendingAct := none }) 37).fresh.2

def Bad.status : Option Bad → Nat
  | none => 0
  | some _ => 12
def Bad.detail : Option Bad → Nat
  | none => 0
  | some b => b.code

theorem loaderEnd_completes (s : State) (p : Port) (e : Line) (bad : Option Bad) (img dropped : Nat) : ∃ result,
    loaderEnd s p e bad img dropped = complete (loaderFreed s) p e (Bad.status bad) (Bad.detail bad) result := by
  cases bad <;> exact ⟨_, rfl⟩

/-- What a loader command leaves as it ends. -/
theorem loaderEnd_kept (s : State) (p : Port) (e : Line) (bad : Option Bad) (img dropped : Nat) :
    let u := loaderEnd s p e bad img dropped
    u.tiles = s.tiles ∧ u.melvor.fold = s.melvor.fold ∧ u.melvor.foldFrozen = s.melvor.foldFrozen ∧
      u.melvor.activations = s.melvor.activations ∧ u.melvor.loaderBusy = false ∧ u.melvor.pendingAct = none := by
  obtain ⟨result, hend⟩ := loaderEnd_completes s p e bad img dropped
  dsimp only
  rw [hend]
  have h := complete_besidesMail (loaderFreed s) p e (Bad.status bad) (Bad.detail bad) result
  exact ⟨(tiles_of_besidesMail h).trans rfl, (fold_of_besidesMail h).trans rfl, (foldFrozen_of_besidesMail h).trans rfl,
    (activations_of_besidesMail h).trans rfl, (loaderBusy_of_besidesMail h).trans rfl, (pendingAct_of_besidesMail h).trans rfl⟩

/-- The answer of a loader command: LOADER_ERROR with the number of the check that failed, or OK. -/
theorem loaderEnd_out {s : State} {p : Port} (e : Line) (bad : Option Bad) (img dropped : Nat)
    (hlive : ∀ a ∈ s.melvor.accepted, a.dead = false) (hlock : s.melvor.lockstepErr = false)
    (hon : (s.box p).enabled = true) (hport : (s.port p).removed = false) (hevents : (s.box p).events = []) :
    ∃ x, (loaderEnd s p e bad img dropped).out =
        .cplEntry p (s.box p).cplOp ((s.box p).cplAddr (s.box p).cplProd.toNat) x :: s.out ∧
      Line.bytes x 2 2 = (if bad.isSome then 12 else 0) ∧ ∀ b, bad = some b → Line.bytes x 12 4 = b.code % 2 ^ 32 := by
  obtain ⟨result, hend⟩ := loaderEnd_completes s p e bad img dropped
  rw [hend]
  refine ⟨_, complete_out (s := loaderFreed s) e _ _ result hlive hlock hon hport hevents, ?_, fun b hb => ?_⟩
  · rw [cplEntry_status]
    cases bad <;> rfl
  · rw [cplEntry_detail, hb]
    rfl

/-! ## IMAGE_STAGE (R190) -/

theorem cmdRow_next {s : State} {p : Port} {op : Nat} {e : Line} (h : NextIs s p op e) (f : State → Line → State) :
    cmdRow p op s f = .next (f s e) := by
  obtain ⟨hnext, hon, hop⟩ := h
  rw [cmdRow, hnext]
  exact congrArg Host.Outcome.next (if_pos (by simp [hon, hop]))

section Stage
variable {s : State} {p : Port} {e : Line} (h : NextIs s p 0x40 e)
include h

theorem exec_imageStage_next : exec (.imageStage p) s = .next (
    let slot := Line.bytes e 8 1
    if s.melvor.loaderBusy then complete s p e 11 0 0
    else if s.slotBlocked slot then s
    else
      let r := loadImage s slot (s.port p).secure
      loaderEnd r.1 p e r.2.1 r.2.2 0) := by
  have hexec : exec (.imageStage p) s = execImageStage p s := rfl
  rw [hexec, execImageStage, cmdRow_next h]

theorem exec_imageStage_busy (hbusy : s.melvor.loaderBusy = true) :
    exec (.imageStage p) s = .next (complete s p e 11 0 0) :=
  (exec_imageStage_next h).trans (congrArg Host.Outcome.next (if_pos hbusy))

theorem exec_imageStage_checks (hidle : s.melvor.loaderBusy = false) (hblocked : s.slotBlocked (Line.bytes e 8 1) = false)
    {r : State × Option Bad × Nat} (hr : loadImage s (Line.bytes e 8 1) (s.port p).secure = r) :
    exec (.imageStage p) s = .next (loaderEnd r.1 p e r.2.1 r.2.2 0) := by
  rw [exec_imageStage_next h, ← hr]
  exact congrArg Host.Outcome.next ((if_neg (by simp [hidle])).trans (if_neg (by simp [hblocked])))

end Stage

/-! ## The fold that starts (R187, R226) -/

/-- Each element of a fold is left with its property, which the steps for others keep. -/
theorem forAll_each {α β : Type} {Q : α → β → Prop} {f : β → α → β} (hat : ∀ u x, Q x (f u x))
    (hkeep : ∀ u x y, Q y u → Q y (f u x)) (l : List α) : ∀ s, ∀ y ∈ l, Q y (forAll l s f) := by
  induction l with
  | nil => simp
  | cons x l ih =>
    intro s y hy
    rcases List.mem_cons.1 hy with rfl | hy
    · exact forAll_inv (Q y) f (fun u x => hkeep u x y) l _ (hat s y)
    · exact ih (f s x) y hy

/-- A tile of a fold that has been loaded: it is to run from word 0, with its slot counter at 0. -/
def TileLoaded (x : Tile) : Prop := x.inFold = true ∧ x.core.pc = 0 ∧ x.core.regs = [] ∧ x.router.slotCnt = 0 ∧
  x.router.entry = 0 ∧ x.router.fault = none ∧ x.amem = [] ∧ x.flaws = []

theorem loadTile_loaded (img : Nat) (x : TileSecs) (wd : Word) (world : Bool) (y : Tile) :
    TileLoaded (loadTile img x wd world y) := ⟨rfl, rfl, rfl, rfl, rfl, rfl, rfl, rfl⟩

/-- A step on one tile that keeps loaded tiles loaded. -/
theorem modTile_loaded {s : State} {v : Nat} {f : Tile → Tile} (hf : ∀ x, TileLoaded x → TileLoaded (f x)) {t : Nat}
    (h : TileLoaded (s.tile t)) : TileLoaded ((s.modTile v f).tile t) := by
  rw [State.modTile_eq, State.setTile_tile]
  split
  · next htv => exact hf _ (htv ▸ h)
  · exact h

/-- The image's tiles are loaded. -/
theorem forAll_loadTile (img : Nat) (wd : Word) (l : List TileSecs) (s : State) : ∀ x ∈ l,
    TileLoaded ((forAll l s fun s x =>
      s.modTile x.tile (loadTile img x wd (Sparse.get false s.sec.tileMap x.tile))).tile x.tile) := by
  refine forAll_each (Q := fun x u => TileLoaded (u.tile x.tile)) (fun u x => ?_) (fun u x y h => ?_) l s
  · rw [State.modTile_eq, State.setTile_tile, if_pos rfl]
    exact loadTile_loaded _ _ _ _ _
  · exact modTile_loaded (fun z _ => loadTile_loaded _ _ _ _ z) h

/-- A loaded tile runs. -/
theorem forAll_running (l : List Nat) (s : State) : ∀ t ∈ l,
    ((forAll l s fun s t => s.modTile t fun x => x.withCore fun c => { c with state := 1 }).tile t).core.state = 1 := by
  refine forAll_each (Q := fun t u => (u.tile t).core.state = 1) (fun u t => ?_) (fun u v t h => ?_) l s
  · rw [State.modTile_eq, State.setTile_tile, if_pos rfl]
    rfl
  · rw [State.modTile_eq, State.setTile_tile]
    split
    · rfl
    · exact h

/-- The sections of an image have been written, over the tiles that no fold holds. -/
def imageWritten (s : State) (img slot : Nat) : State :=
  forAll (foldTiles (sections img)) (applyTileMap (unloadFold s)) fun s x =>
    s.modTile x.tile (loadTile img x (foldOf img slot).wdLimit (Sparse.get false s.sec.tileMap x.tile))

/-- The fold's tiles have their credits, and the drovers have started. -/
def foldJoined (s : State) (img slot : Nat) : State :=
  forAll (List.range 16) (forAll (foldOf img slot).tiles (imageWritten s img slot) startCredits)
    (startDrover (cutsOf img (sections img)))

/-- The fold's tiles run. -/
def foldRunning (s : State) (img slot : Nat) : State :=
  forAll (foldOf img slot).tiles (foldJoined s img slot) fun s t =>
    s.modTile t fun x => x.withCore fun c => { c with state := 1 }

/-- The firmware as a fold starts. -/
def Melvor.withFold (m : Melvor) (f : Fold) (dropped : Nat) : Melvor := { m with
  fold := some f, foldFrozen := false, rowFaults := [], firstFault := none, activations := m.activations + 1
  dropped := BitVec.ofNat 32 dropped, activatedSinceFault := true, pendingAct := none }

theorem startFold_eq (s : State) (img slot dropped : Nat) : startFold s img slot dropped =
    (((extendMeas ((foldRunning s img slot).withGrp fun g => { g with fault := none }) 5 (foldOf img slot).digest).withSec
      fun x => { x with meas := Sparse.set 0 x.meas 4 (foldOf img slot).digest }).withMelvor fun m =>
        m.withFold (foldOf img slot) dropped) := rfl

theorem imageWritten_loaded (s : State) (img slot : Nat) : ∀ t ∈ (foldOf img slot).tiles,
    TileLoaded ((imageWritten s img slot).tile t) := by
  intro t ht
  obtain ⟨x, hx, rfl⟩ := List.mem_map.1 (show t ∈ (foldTiles (sections img)).map TileSecs.tile from ht)
  exact forAll_loadTile img _ _ _ x hx

theorem startCredits_loaded {s : State} (v : Nat) {t : Nat} (h : TileLoaded (s.tile t)) :
    TileLoaded ((startCredits s v).tile t) := by
  unfold startCredits
  refine modTile_loaded (fun x hx => ?_) h
  exact hx

theorem startDrover_loaded (cuts : List Cut) {s : State} (d : Nat) {t : Nat} (h : TileLoaded (s.tile t)) :
    TileLoaded ((startDrover cuts s d).tile t) := h

theorem foldJoined_loaded (s : State) (img slot : Nat) {t : Nat} (h : TileLoaded ((imageWritten s img slot).tile t)) :
    TileLoaded ((foldJoined s img slot).tile t) := by
  rw [foldJoined]
  generalize imageWritten s img slot = w at h ⊢
  have hcredits : TileLoaded ((forAll (foldOf img slot).tiles w startCredits).tile t) :=
    forAll_inv (fun u : State => TileLoaded (u.tile t)) startCredits (fun _ v => startCredits_loaded v) _ w h
  exact forAll_inv (fun u : State => TileLoaded (u.tile t)) (startDrover (cutsOf img (sections img)))
    (fun _ d => startDrover_loaded _ d) _ _ hcredits

theorem foldRunning_loaded (s : State) (img slot : Nat) : ∀ t ∈ (foldOf img slot).tiles,
    TileLoaded ((foldRunning s img slot).tile t) ∧ ((foldRunning s img slot).tile t).core.state = 1 := by
  intro t ht
  have hjoined := foldJoined_loaded s img slot (imageWritten_loaded s img slot t ht)
  rw [foldRunning]
  generalize foldJoined s img slot = w at hjoined ⊢
  refine ⟨forAll_inv (fun u : State => TileLoaded (u.tile t)) _ (fun u v h => ?_) _ w hjoined, forAll_running _ _ t ht⟩
  exact modTile_loaded (f := fun x => x.withCore fun c => { c with state := 1 }) (fun _ hx => hx) h

theorem applyTileMap_melvor (s : State) : (applyTileMap s).melvor = s.melvor :=
  ite_same (g := State.melvor) rfl (forAll_same State.melvor _ _ _ fun _ _ => rfl)

theorem imageWritten_melvor (s : State) (img slot : Nat) : (imageWritten s img slot).melvor = (unloadFold s).melvor := by
  rw [imageWritten, forAll_same State.melvor, applyTileMap_melvor]
  exact fun u x => State.setTile_melvor u x.tile _

theorem startCredits_melvor (s : State) (t : Nat) : (startCredits s t).melvor = s.melvor := rfl
theorem startDrover_melvor (cuts : List Cut) (s : State) (d : Nat) : (startDrover cuts s d).melvor = s.melvor := rfl

theorem foldJoined_melvor (s : State) (img slot : Nat) : (foldJoined s img slot).melvor = (imageWritten s img slot).melvor := by
  rw [foldJoined, forAll_same State.melvor _ _ _ fun u d => startDrover_melvor _ u d,
    forAll_same State.melvor _ _ _ fun u t => startCredits_melvor u t]

theorem foldRunning_melvor (s : State) (img slot : Nat) : (foldRunning s img slot).melvor = (foldJoined s img slot).melvor := by
  rw [foldRunning, forAll_same State.melvor]
  exact fun u t => State.setTile_melvor u t _

theorem startFold_melvor (s : State) (img slot dropped : Nat) :
    (startFold s img slot dropped).melvor = (unloadFold s).melvor.withFold (foldOf img slot) dropped := by
  rw [startFold_eq, ← imageWritten_melvor s img slot, ← foldJoined_melvor, ← foldRunning_melvor]
  generalize foldRunning s img slot = u
  generalize foldOf img slot = f
  rfl

theorem startFold_tiles (s : State) (img slot dropped : Nat) :
    (startFold s img slot dropped).tiles = (foldRunning s img slot).tiles := by
  rw [startFold_eq]
  generalize foldRunning s img slot = u
  generalize foldOf img slot = f
  rfl

/-- The fold of an image runs: every tile of it from word 0 with its slot counter at 0; `n` activations have come before. -/
structure FoldRuns (n : Word) (u : State) (img slot : Nat) : Prop where
  fold : u.melvor.fold = some (foldOf img slot)
  frozen : u.melvor.foldFrozen = false
  activations : u.melvor.activations = n + 1
  tiles : ∀ t ∈ (foldOf img slot).tiles, TileLoaded (u.tile t) ∧ (u.tile t).core.state = 1

theorem startFold_runs (s : State) (img slot dropped : Nat) :
    FoldRuns s.melvor.activations (startFold s img slot dropped) img slot := by
  have hmelvor := startFold_melvor s img slot dropped
  refine ⟨by rw [hmelvor]; rfl, by rw [hmelvor]; rfl, by rw [hmelvor]; rfl, ?_⟩
  unfold State.tile
  rw [startFold_tiles]
  exact foldRunning_loaded s img slot

theorem FoldRuns.loaderEnd {n : Word} {u : State} {img slot : Nat} (h : FoldRuns n u img slot) (p : Port) (e : Line)
    (bad : Option Bad) (i dropped : Nat) : FoldRuns n (loaderEnd u p e bad i dropped) img slot := by
  obtain ⟨htiles, hfold, hfrozen, hcount, -, -⟩ := loaderEnd_kept u p e bad i dropped
  refine ⟨hfold.trans h.fold, hfrozen.trans h.frozen, hcount.trans h.activations, ?_⟩
  unfold State.tile
  rw [htiles]
  exact h.tiles

/-! ## The end of an activation (R187, R191, R301) -/

/-- An activation whose tiles are all in place starts the fold. -/
theorem finishActivation_starts {s : State} {img slot : Nat} (p : Port) (e : Line) (dropped : Nat)
    (hmaps : s.melvor.rowMapStale = false) (hretire : s.rel.retirePend = false) (hmarks : s.rel.overflow = [])
    (htiles : ∀ t ∈ (foldOf img slot).tiles, s.tileOk t = true) : finishActivation s p e img slot dropped =
      loaderEnd (startFold s img slot dropped) p e none img dropped := by
  have hall : ((foldTiles (sections img)).find? fun x => !s.tileOk x.tile) = none := by
    rw [List.find?_eq_none]
    intro x hx
    simp [htiles x.tile (List.mem_map_of_mem hx)]
  unfold finishActivation
  dsimp only
  rw [hmaps, hretire, hmarks, List.isEmpty_nil, Bool.not_true, Bool.or_self, Bool.or_self, if_neg Bool.false_ne_true, hall]

theorem finishActivation_runs {s : State} {img slot : Nat} (p : Port) (e : Line) (dropped : Nat)
    (hmaps : s.melvor.rowMapStale = false) (hretire : s.rel.retirePend = false) (hmarks : s.rel.overflow = [])
    (htiles : ∀ t ∈ (foldOf img slot).tiles, s.tileOk t = true) :
    let u := finishActivation s p e img slot dropped
    FoldRuns s.melvor.activations u img slot ∧ u.melvor.loaderBusy = false ∧ u.melvor.pendingAct = none := by
  dsimp only
  rw [finishActivation_starts p e dropped hmaps hretire hmarks htiles]
  obtain ⟨-, -, -, -, hidle, hpending⟩ := loaderEnd_kept (startFold s img slot dropped) p e none img dropped
  exact ⟨(startFold_runs s img slot dropped).loaderEnd p e none img dropped, hidle, hpending⟩

/-! ## IMAGE_ACTIVATE and PARTITION_START (R186, R191, R301) -/

/-- A module that is awake, with no NIGHT_REQ, stays as it is. -/
theorem nightExit_same {s : State} (hawake : s.power.point ≠ .night) (hreq : s.power.nightReq = false) : nightExit s = s := by
  rw [nightExit_awake hawake, ← hreq]

section Activate
variable {s : State} {p : Port} {e : Line} (h : NextIs s p 0x41 e)
include h

theorem exec_imageActivate_badState (h0 : s.melvor.jobState ≠ 0) (h3 : s.melvor.jobState ≠ 3) (h4 : s.melvor.jobState ≠ 4) :
    exec (.imageActivate p) s = .next (complete (nightExit s) p e 10 s.jobShown.toNat s.statusResult) := by
  have hexec : exec (.imageActivate p) s = execImageActivate p s := rfl
  rw [hexec, execImageActivate, cmdRow_next h]
  exact congrArg Host.Outcome.next (if_pos ⟨h0, h3, h4⟩)

/-- An image that passes its checks, for no partition, on a drained fold. -/
theorem exec_imageActivate_starts (hstate : s.melvor.jobState = 0 ∨ s.melvor.jobState = 3 ∨ s.melvor.jobState = 4)
    (hidle : s.melvor.loaderBusy = false) (hblocked : s.slotBlocked (Line.bytes e 8 1) = false) (hawake : nightExit s = s)
    (hdrained : s.drained = true) {r : State × Option Bad × Nat}
    (hr : loadImage s (Line.bytes e 8 1) (s.port p).secure = r) (hread : ReadFrom s r) (hgood : r.2.1 = none)
    (hwhole : bit (gField r.2.2 6 2) 1 = false) :
    exec (.imageActivate p) s = .next (finishActivation r.1 p e r.2.2 (Line.bytes e 8 1) 0) := by
  have hexec : exec (.imageActivate p) s = execImageActivate p s := rfl
  have hjob : ¬(s.melvor.jobState ≠ 0 ∧ s.melvor.jobState ≠ 3 ∧ s.melvor.jobState ≠ 4) := by
    rintro ⟨h0, h3, h4⟩
    exact hstate.elim h0 fun h => h.elim h3 h4
  rw [hexec, execImageActivate, cmdRow_next h, hawake]
  have hdrained' : r.1.drained = true := (drained_of_besidesReads hread).trans hdrained
  extract_lets +onlyGivenNames v slot discard st
  rw [if_neg hjob, if_neg (Bool.eq_false_iff.1 hidle), if_neg (Bool.eq_false_iff.1 hblocked),
    if_neg (by rw [hdrained]; exact Bool.false_ne_true)]
  extract_lets +onlyGivenNames image
  have himage : image = r := hr
  clear_value image
  subst himage
  rw [hgood]
  dsimp only
  rw [hdrained', Bool.not_true, Bool.and_false, if_neg Bool.false_ne_true, if_neg Bool.false_ne_true, hwhole,
    if_neg Bool.false_ne_true]

end Activate

section Partition
variable {s : State} {a : PendingAct} (ha : s.melvor.pendingAct = some a) (hon : s.fwOn = true)
include ha hon

theorem exec_partitionStart_whole : exec (.partitionStart true true) s =
    .next (finishActivation s a.port a.entry a.image a.fold.slot a.dropped.toNat) := by
  have hexec : exec (.partitionStart true true) s = execPartitionStart true true s := rfl
  rw [hexec, execPartitionStart, ha]
  exact congrArg Host.Outcome.next ((if_neg (by simp [hon])).trans (if_pos rfl))

theorem exec_partitionStart_lacking {b c : Bool} (hset : (b && c) = false) : exec (.partitionStart b c) s =
    .next (loaderEnd (s.withMelvor fun m => { m with dropped := a.dropped }) a.port a.entry (some ⟨0x0D, 0xFFFF, none⟩)
      a.image a.dropped.toNat) := by
  have hexec : exec (.partitionStart b c) s = execPartitionStart b c s := rfl
  rw [hexec, execPartitionStart, ha]
  exact congrArg Host.Outcome.next ((if_neg (by simp [hon])).trans (if_neg (by simp [hset])))

end Partition

end Sys2Proof.Machine

open Sys2Proof Sys2Proof.Machine

/-- Settles O39: the reads of an image leave the fold as it is, and an activation whose tiles are all in place starts it. -/
theorem loader : Obligations.Loader := by
  unfold Obligations.Loader
  intro s p e slot st r fold ready
  have hread : ReadFrom s r := loadImage_readFrom _ _ _
  have hr : loadImage s (Line.bytes e 8 1) (s.port p).secure = r := rfl
  clear_value r
  have hruns {u : State} {img k : Nat} (h : FoldRuns s.melvor.activations u img k) (hidle : u.melvor.loaderBusy = false) :
      fold u img k := by
    refine ⟨h.fold, h.frozen, hidle, h.activations, fun t ht => ?_⟩
    obtain ⟨⟨hin, hpc, hregs, hslot, hentry, hfault, hamem, hflaws⟩, hrun⟩ := h.tiles t ht
    exact ⟨hin, hrun, hpc, hregs, hslot, hentry, hfault, hamem, hflaws⟩
  refine ⟨exec_imageStage_busy, fun h hidle hblocked hevents hon hport hlive => ?stage,
    fun h h0 h3 h4 => ⟨nightExit s, rfl, rfl, exec_imageActivate_badState h h0 h3 h4⟩,
    fun h hstate hidle hblocked hawake hreq hdrained hgood hwhole hready => ?activate,
    fun a b c ha hfw => ⟨fun hset hnone => ?lacking, fun hmaps hretire hmarks htiles => ?whole⟩⟩
  case stage =>
    have hexec := exec_imageStage_checks h hidle hblocked hr
    have hmelvor := melvor_of_besidesReads hread
    have hbox : r.1.box p = s.box p := by rw [State.box, mbox_of_besidesReads hread, State.box]
    have hports : r.1.port p = s.port p := by rw [State.port, ports_of_besidesReads hread, State.port]
    obtain ⟨htiles, hfold, -⟩ := loaderEnd_kept r.1 p e r.2.1 r.2.2 0
    obtain ⟨x, hout, hstatus, hdetail⟩ := loaderEnd_out (s := r.1) (p := p) e r.2.1 r.2.2 0 (by rw [hmelvor]; exact hlive)
      (by rw [hmelvor]; exact lockstepErr_of_fwOn h.2.1) (by rw [hbox]; exact hon) (by rw [hports]; exact hport)
      (by rw [hbox]; exact hevents)
    rw [hbox, out_of_besidesReads hread] at hout
    exact ⟨_, x, hexec, htiles.trans (tiles_of_besidesReads hread),
      hfold.trans (congrArg Melvor.fold hmelvor), hout, hstatus, hdetail⟩
  case activate =>
    obtain ⟨hmaps, hretire, hmarks, htiles⟩ := hready
    have hmelvor := melvor_of_besidesReads hread
    obtain ⟨hfold, hfree, -⟩ := finishActivation_runs (s := r.1) (img := r.2.2) (slot := slot) p e 0
      (by rw [hmelvor]; exact hmaps) (by rw [retirePend_of_besidesReads hread]; exact hretire)
      (by rw [overflow_of_besidesReads hread]; exact hmarks)
      (fun t ht => (tileOk_of_besidesReads hread t).trans (htiles t ht))
    rw [hmelvor] at hfold
    exact ⟨_, exec_imageActivate_starts h hstate hidle hblocked (nightExit_same hawake hreq) hdrained hr hread hgood hwhole,
      hruns hfold hfree⟩
  case lacking =>
    obtain ⟨htiles, hfold, -, -, hfree, hpending⟩ := loaderEnd_kept (s.withMelvor fun m => { m with dropped := a.dropped })
      a.port a.entry (some ⟨0x0D, 0xFFFF, none⟩) a.image a.dropped.toNat
    exact ⟨_, exec_partitionStart_lacking ha hfw hset, hfold.trans hnone, hfree, hpending, htiles⟩
  case whole =>
    obtain ⟨hfold, hfree, hpending⟩ := finishActivation_runs a.port a.entry a.dropped.toNat hmaps hretire hmarks htiles
    exact ⟨_, exec_partitionStart_whole ha hfw, hruns hfold hfree, hpending⟩
end
